-- ==== Sys2Proof/Word.lean ====
section
/-! DEFINITION. The word types of the OBG-720 model and the shape of its sparse tables (spec/00_scope.md R4, 03_numbers.md R51). -/

namespace Sys2Proof

/-- A byte of memory. -/
abbrev Byte := BitVec 8
/-- One lane's register contents (R51). -/
abbrev Word := BitVec 64
/-- A set of lanes of a warp: bit l is lane l. -/
abbrev Mask := BitVec 32
/-- A 128-byte line, byte j in bits [8j+7:8j] (R224, R329). -/
abbrev Line := BitVec 1024
/-- A 96-bit instruction word (R12). -/
abbrev IWord := BitVec 96

/-- A sparse table: key and value pairs, keys strictly rising, no entry equal to the default. -/
abbrev FMap (α : Type) := List (Nat × α)

end Sys2Proof
end

