-- ==== Sys2Proof/Machine/Codebook.lean ====
section
/-! DEFINITION. The default codebook table of 03_numbers.md R62: magnitude patterns of the E8 lattice sorted by norm and, at
equal norm, by entry value (computed from that rule). -/

namespace Sys2Proof.Machine

def cbRow0 : List Nat := [0x000000, 0x000012, 0x000082, 0x000090, 0x000402, 0x000410, 0x000480, 0x002002, 0x002010, 0x002080, 0x002400, 0x010002, 0x010010, 0x010080, 0x010400, 0x012000]
def cbRow1 : List Nat := [0x080002, 0x080010, 0x080080, 0x080400, 0x082000, 0x090000, 0x249249, 0x400002, 0x400010, 0x400080, 0x400400, 0x402000, 0x410000, 0x480000, 0x000004, 0x000020]
def cbRow2 : List Nat := [0x000100, 0x000492, 0x000800, 0x002092, 0x002412, 0x002482, 0x002490, 0x004000, 0x010092, 0x010412, 0x010482, 0x010490, 0x012012, 0x012082, 0x012090, 0x012402]
def cbRow3 : List Nat := [0x012410, 0x012480, 0x020000, 0x080092, 0x080412, 0x080482, 0x080490, 0x082012, 0x082082, 0x082090, 0x082402, 0x082410, 0x082480, 0x090012, 0x090082, 0x090090]
def cbRow4 : List Nat := [0x090402, 0x090410, 0x090480, 0x092002, 0x092010, 0x092080, 0x092400, 0x100000, 0x24924B, 0x249259, 0x2492C9, 0x249649, 0x24B249, 0x259249, 0x2C9249, 0x400092]
def cbRow5 : List Nat := [0x400412, 0x400482, 0x400490, 0x402012, 0x402082, 0x402090, 0x402402, 0x402410, 0x402480, 0x410012, 0x410082, 0x410090, 0x410402, 0x410410, 0x410480, 0x412002]
def cbRow6 : List Nat := [0x412010, 0x412080, 0x412400, 0x480012, 0x480082, 0x480090, 0x480402, 0x480410, 0x480480, 0x482002, 0x482010, 0x482080, 0x482400, 0x490002, 0x490010, 0x490080]
def cbRow7 : List Nat := [0x490400, 0x492000, 0x649249, 0x800000, 0x000094, 0x0000A2, 0x000112, 0x000414, 0x000422, 0x000484, 0x0004A0, 0x000502, 0x000510, 0x000812, 0x000882, 0x000890]
def cbRow8 : List Nat := [0x002014, 0x002022, 0x002084, 0x0020A0, 0x002102, 0x002110, 0x002404, 0x002420, 0x002500, 0x002802, 0x002810, 0x002880, 0x004012, 0x004082, 0x004090, 0x004402]
def cbRow9 : List Nat := [0x004410, 0x004480, 0x010014, 0x010022, 0x010084, 0x0100A0, 0x010102, 0x010110, 0x010404, 0x010420, 0x010500, 0x010802, 0x010810, 0x010880, 0x012004, 0x012020]
def cbRow10 : List Nat := [0x012100, 0x012492, 0x012800, 0x014002, 0x014010, 0x014080, 0x014400, 0x020012, 0x020082, 0x020090, 0x020402, 0x020410, 0x020480, 0x022002, 0x022010, 0x022080]
def cbRow11 : List Nat := [0x022400, 0x080014, 0x080022, 0x080084, 0x0800A0, 0x080102, 0x080110, 0x080404, 0x080420, 0x080500, 0x080802, 0x080810, 0x080880, 0x082004, 0x082020, 0x082100]
def cbRow12 : List Nat := [0x082492, 0x082800, 0x084002, 0x084010, 0x084080, 0x084400, 0x090004, 0x090020, 0x090100, 0x090492, 0x090800, 0x092092, 0x092412, 0x092482, 0x092490, 0x094000]
def cbRow13 : List Nat := [0x0A0002, 0x0A0010, 0x0A0080, 0x0A0400, 0x0A2000, 0x100012, 0x100082, 0x100090, 0x100402, 0x100410, 0x100480, 0x102002, 0x102010, 0x102080, 0x102400, 0x110002]
def cbRow14 : List Nat := [0x110010, 0x110080, 0x110400, 0x112000, 0x24925B, 0x2492CB, 0x2492D9, 0x24964B, 0x249659, 0x2496C9, 0x24B24B, 0x24B259, 0x24B2C9, 0x24B649, 0x25924B, 0x259259]
def cbRow15 : List Nat := [0x2592C9, 0x259649, 0x25B249, 0x2C924B, 0x2C9259, 0x2C92C9, 0x2C9649, 0x2CB249, 0x2D9249, 0x400014, 0x400022, 0x400084, 0x4000A0, 0x400102, 0x400110, 0x400404]

/-- The 256 entries of the default table (R62). -/
def cbDefault : List Nat :=
  cbRow0 ++ cbRow1 ++ cbRow2 ++ cbRow3 ++ cbRow4 ++ cbRow5 ++ cbRow6 ++ cbRow7 ++ cbRow8 ++ cbRow9 ++ cbRow10 ++ cbRow11 ++ cbRow12 ++ cbRow13 ++ cbRow14 ++ cbRow15

end Sys2Proof.Machine
end

