-- ==== Sys2Proof/Syntax.lean ====
section
/-! DEFINITION. The syntax: one constructor per row of spec/opcode_table.json. A row with an opcode carries
the fields of its instruction word (02_encoding.md R22, R34) as they stand, because every illegal field is a trap of
the machine (R41) and not a word without meaning; a row that is a step of the part without an encoding carries what
names the thing that steps, and what the outside world supplies to it. -/

namespace Sys2Proof

/-- The fields of an instruction word outside OPC and the operand area (R22). -/
structure Hdr where
  wait : BitVec 12
  setf : BitVec 4
  dist : BitVec 4
  sw   : BitVec 1
  hint : BitVec 2
  ga   : BitVec 4
  gb   : BitVec 4
  f    : BitVec 8
  deriving DecidableEq, Repr

/-- R format (R34). -/
structure OpR where
  o1 : Byte
  o2 : Byte
  o3 : Byte
  o4 : Byte
  o5 : Byte
  x  : Byte
  deriving DecidableEq, Repr

/-- I format (R34). -/
structure OpI where
  o1  : Byte
  o2  : Byte
  imm : BitVec 32
  deriving DecidableEq, Repr

/-- M format (R34): a record handle and a signed byte displacement. -/
structure OpM where
  o1   : Byte
  o2   : Byte
  hnd  : BitVec 12
  disp : BitVec 20
  deriving DecidableEq, Repr

/-- B format (R34): a signed slot count. -/
structure OpB where
  o1  : Byte
  o2  : Byte
  imm : BitVec 32
  deriving DecidableEq, Repr

/-- T format (R34). -/
structure OpT where
  o1   : Byte
  o2   : Byte
  hnda : BitVec 12
  hndb : BitVec 12
  x    : Byte
  deriving DecidableEq, Repr

/-- S format (R34). -/
structure OpS where
  o1  : Byte
  o2  : Byte
  csr : BitVec 12
  imm : BitVec 20
  deriving DecidableEq, Repr

/-- What the checkers of one engine step find (R280, R300, R301), an accumulator element that is uncorrectable among it: an input,
since an error is no event of the program. -/
inductive MatrixCheck where
  | clean | residue | shifter | fold | ecc (element : Nat)
  deriving DecidableEq, Repr

/-- What the outside answers at a boot stage (R466): the network, the signature, the links. -/
inductive BootOutcome where
  | ok | warmImage | noLink | noAddress | httpError | badSignature | trainingFailed | badTable
  deriving DecidableEq, Repr

/-- An operation that arrives from a peer (R448, R450, R459): a reply names the PSN of its request, a piece of a chunk or of a result the plan's
parameters and its offset. -/
inductive PacketBody where
  | write (offset : Nat) (words : List (BitVec 64 × Bool))
  | readRequest (offset len : Nat)
  | readReply (psn offset : Nat) (words : List (BitVec 64 × Bool))
  | chunk (planId op fmt nch chb epoch index offset : Nat) (words : List (BitVec 64 × Bool))
  | result (planId op fmt nch chb epoch index offset : Nat) (words : List (BitVec 64 × Bool))
  deriving DecidableEq, Repr

/-- A packet of a connection: the peer, the receiving context, the sender's job, its sequence number (R442, R445). -/
structure Packet where
  conn : Nat
  ctx  : Nat
  job  : Nat
  psn  : Nat
  body : PacketBody
  deriving DecidableEq, Repr

/-- A selective acknowledgement (R442, R450): the packets it names, the packets it rejects, the gaps it exposes, and whether
the peer has gathered the markers of a limit (R454). -/
structure Ack where
  conn     : Nat
  path     : Nat
  psns     : List Nat
  rejected : List Nat
  gaps     : List Nat
  gathered : Option Nat
  deriving DecidableEq, Repr

/-- What a flush marker carries (R453, R454): the limit PSN, and the paths that were live when it was formed, as a mask. -/
structure MarkerLimit where
  psn   : Nat
  paths : Nat
  deriving DecidableEq, Repr

/-- The instructions and steps, one per row of the opcode table, in its order but that FABRIC_ABANDON and
REDUCTION_CHUNK_COMBINE stand earlier (compiled code cannot build a constructor past the 244th). -/
inductive Instr where
  /-- FETCH_LINE (R15). A core brings a 64-byte fetch line into its fetch buffer and checks its parity, format version and reserved bits before any slot issues. -/
  | fetchLine (unit slot : Nat)
  /-- NOP (R50). Does nothing except apply its WAIT, SETF, DIST and SW fields. -/
  | nop (h : Hdr) (o : OpR)
  /-- MOV (R106). Copies a register, with both halves and both poison bits, in each participating lane. -/
  | mov (h : Hdr) (o : OpR)
  /-- MOVI (R107). Writes a 32-bit immediate into a register, replicated or extended by type. -/
  | movi (h : Hdr) (o : OpI)
  /-- MOVHI (R108). Writes a 32-bit immediate into the upper half of a register. -/
  | movhi (h : Hdr) (o : OpI)
  /-- SEL (R109). Selects one of two registers by a predicate. -/
  | sel (h : Hdr) (o : OpR)
  /-- IADD (R110). Adds integers by sub-element, wrapping or saturating. -/
  | iadd (h : Hdr) (o : OpR)
  /-- ISUB (R110). Subtracts integers by sub-element, wrapping or saturating. -/
  | isub (h : Hdr) (o : OpR)
  /-- IADDS (R111). Adds 64-bit values and writes carry or signed overflow to a predicate. -/
  | iadds (h : Hdr) (o : OpR)
  /-- ISUBS (R111). Subtracts 64-bit values and writes borrow or signed overflow to a predicate. -/
  | isubs (h : Hdr) (o : OpR)
  /-- IADC (R112). Adds two 64-bit values and a carry-in predicate, writing a carry-out or overflow predicate. -/
  | iadc (h : Hdr) (o : OpR)
  /-- IMUL (R113). Multiplies integers by sub-element, keeping the low bits. -/
  | imul (h : Hdr) (o : OpR)
  /-- IMULH (R113). Returns the upper half of each sub-element product. -/
  | imulh (h : Hdr) (o : OpR)
  /-- IMAD (R113). Multiplies and adds integers by sub-element with one fit. -/
  | imad (h : Hdr) (o : OpR)
  /-- IMADW (R114). Multiplies with widening into double-width sub-elements and adds. -/
  | imadw (h : Hdr) (o : OpR)
  /-- IDP4 (R115). Forms 8-bit dot products into 32-bit accumulators. -/
  | idp4 (h : Hdr) (o : OpR)
  /-- IABS (R116). Takes the integer absolute value by sub-element. -/
  | iabs (h : Hdr) (o : OpR)
  /-- IMIN (R116). Takes the smaller integer by sub-element. -/
  | imin (h : Hdr) (o : OpR)
  /-- IMAX (R116). Takes the larger integer by sub-element. -/
  | imax (h : Hdr) (o : OpR)
  /-- ISAD (R116). Adds the absolute difference of two integers to a third. -/
  | isad (h : Hdr) (o : OpR)
  /-- IMAX3 (R117). In emulate state on OBG-720, it traps with EMUL at decode so that a handler gives the maximum of three integers. -/
  | imax3 (h : Hdr) (o : OpR)
  /-- AND (R118). Bitwise AND of all 64 bits of each lane. -/
  | and (h : Hdr) (o : OpR)
  /-- OR (R118). Bitwise OR of all 64 bits of each lane. -/
  | or (h : Hdr) (o : OpR)
  /-- XOR (R118). Bitwise XOR of all 64 bits of each lane. -/
  | xor (h : Hdr) (o : OpR)
  /-- ANDN (R118). Bitwise AND with the complement of the second source. -/
  | andn (h : Hdr) (o : OpR)
  /-- LOP3 (R118). Computes any bitwise function of three sources through an 8-bit table. -/
  | lop3 (h : Hdr) (o : OpR)
  /-- SHL (R119). Shifts each sub-element left. -/
  | shl (h : Hdr) (o : OpR)
  /-- SHR (R119). Shifts each sub-element right with zero fill. -/
  | shr (h : Hdr) (o : OpR)
  /-- SAR (R119). Shifts each sub-element right with sign fill. -/
  | sar (h : Hdr) (o : OpR)
  /-- ROTL (R119). Rotates each sub-element left. -/
  | rotl (h : Hdr) (o : OpR)
  /-- FSHF (R120). Funnel-shifts through two concatenated sub-elements. -/
  | fshf (h : Hdr) (o : OpR)
  /-- BFX (R121). Extracts a bit field, sign- or zero-extended. -/
  | bfx (h : Hdr) (o : OpR)
  /-- BFI (R121). Inserts a bit field into a base value. -/
  | bfi (h : Hdr) (o : OpR)
  /-- POPC (R122). Counts 1 bits by sub-element. -/
  | popc (h : Hdr) (o : OpR)
  /-- CLZ (R122). Counts leading zeros by sub-element. -/
  | clz (h : Hdr) (o : OpR)
  /-- CTZ (R122). Counts trailing zeros by sub-element. -/
  | ctz (h : Hdr) (o : OpR)
  /-- BREV (R122). Reverses the bits of each sub-element. -/
  | brev (h : Hdr) (o : OpR)
  /-- ICMP (R123). Compares integers and writes one predicate per lane. -/
  | icmp (h : Hdr) (o : OpR)
  /-- ICMPM (R123). Compares integers and writes an all-ones or zero mask per sub-element. -/
  | icmpm (h : Hdr) (o : OpR)
  /-- FCMP (R123). Compares floating-point values and writes one predicate per lane. -/
  | fcmp (h : Hdr) (o : OpR)
  /-- LEA (R124). Forms a 64-bit address from a base and a scaled index. -/
  | lea (h : Hdr) (o : OpR)
  /-- FADD (R126). Adds floating-point sub-elements with one rounding. -/
  | fadd (h : Hdr) (o : OpR)
  /-- FSUB (R126). Subtracts floating-point sub-elements with one rounding. -/
  | fsub (h : Hdr) (o : OpR)
  /-- FMUL (R126). Multiplies floating-point sub-elements with one rounding. -/
  | fmul (h : Hdr) (o : OpR)
  /-- FFMA (R126). Fused multiply-add of floating-point sub-elements with one rounding. -/
  | ffma (h : Hdr) (o : OpR)
  /-- FMIN (R127). Returns minimumNumber of two floating-point values. -/
  | fmin (h : Hdr) (o : OpR)
  /-- FMAX (R127). Returns maximumNumber of two floating-point values. -/
  | fmax (h : Hdr) (o : OpR)
  /-- FCLASS (R128). Classifies each floating-point sub-element into one bit of ten. -/
  | fclass (h : Hdr) (o : OpR)
  /-- FRND (R129). Rounds each sub-element to an integral value in its own format. -/
  | frnd (h : Hdr) (o : OpR)
  /-- FSCALE (R130). Multiplies each sub-element by a power of two. -/
  | fscale (h : Hdr) (o : OpR)
  /-- FGETEXP (R130). Returns floor(log2|a|) of each sub-element. -/
  | fgetexp (h : Hdr) (o : OpR)
  /-- FDOT2 (R131). Forms two-term F16 or BF16 dot products into FP32 accumulators. -/
  | fdot2 (h : Hdr) (o : OpR)
  /-- FDOT4 (R131). Forms four-term E4M3 or E5M2 dot products into FP32 accumulators. -/
  | fdot4 (h : Hdr) (o : OpR)
  /-- FHADD (R132). Adds adjacent pairs of sub-elements of two sources. -/
  | fhadd (h : Hdr) (o : OpR)
  /-- FRCP (R133). Computes a correctly rounded reciprocal. -/
  | frcp (h : Hdr) (o : OpR)
  /-- FRSQ (R133). Computes a correctly rounded reciprocal square root. -/
  | frsq (h : Hdr) (o : OpR)
  /-- DADD (R134). Adds FP64 values and blocks the A pipe for a cycle. -/
  | dadd (h : Hdr) (o : OpR)
  /-- DMUL (R134). Multiplies FP64 values and blocks the A pipe for a cycle. -/
  | dmul (h : Hdr) (o : OpR)
  /-- DFMA (R134). Fused multiply-add of FP64 values with one rounding. -/
  | dfma (h : Hdr) (o : OpR)
  /-- FABS (R135). Clears the sign bit of each sub-element. -/
  | fabs (h : Hdr) (o : OpR)
  /-- FNEG (R135). Inverts the sign bit of each sub-element. -/
  | fneg (h : Hdr) (o : OpR)
  /-- CVT (R138). Converts between floating-point formats into one part of the destination. -/
  | cvt (h : Hdr) (o : OpR)
  /-- CVTSR (R138). Converts with stochastic rounding, one generator draw per converted sub-element. -/
  | cvtsr (h : Hdr) (o : OpR)
  /-- CVTI (R138). Converts between integer and other element types. -/
  | cvti (h : Hdr) (o : OpR)
  /-- PACK (R139). Narrows two registers into one. -/
  | pack (h : Hdr) (o : OpR)
  /-- UNPK (R139). Widens one half of a register. -/
  | unpk (h : Hdr) (o : OpR)
  /-- BSCALE (R140). Computes the E8M0 block scale from a block maximum. -/
  | bscale (h : Hdr) (o : OpR)
  /-- QNT (R141). Quantises four FP32 values against a scale into narrow elements. -/
  | qnt (h : Hdr) (o : OpR)
  /-- DQNT (R142). Dequantises two narrow elements to FP32 under a scale. -/
  | dqnt (h : Hdr) (o : OpR)
  /-- CBLD (R144). Loads the core's 256-entry codebook table from memory. -/
  | cbld (h : Hdr) (o : OpM)
  /-- CBDEC (R145). Decodes one codebook code into eight narrow elements. -/
  | cbdec (h : Hdr) (o : OpR)
  /-- FEXP2 (R146). Evaluates 2^x per sub-element. -/
  | fexp2 (h : Hdr) (o : OpR)
  /-- FLOG2 (R146). Evaluates log2 x per sub-element. -/
  | flog2 (h : Hdr) (o : OpR)
  /-- FSIN (R146). Evaluates sin x per sub-element. -/
  | fsin (h : Hdr) (o : OpR)
  /-- FCOS (R146). Evaluates cos x per sub-element. -/
  | fcos (h : Hdr) (o : OpR)
  /-- FTANH (R146). Evaluates tanh x per sub-element. -/
  | ftanh (h : Hdr) (o : OpR)
  /-- FSIG (R146). Evaluates the logistic sigmoid per sub-element. -/
  | fsig (h : Hdr) (o : OpR)
  /-- ACT (R148). Evaluates the current bank of an activation table. -/
  | act (h : Hdr) (o : OpR)
  /-- ACTLD (R149). Loads the shadow bank of an activation table from memory. -/
  | actld (h : Hdr) (o : OpM)
  /-- ACTSW (R150). Waits for earlier ACTLDs of the table and swaps its current and shadow banks. -/
  | actsw (h : Hdr) (o : OpR)
  /-- RNGSEED (R151). Replaces the thread's generator state. -/
  | rngseed (h : Hdr) (o : OpR)
  /-- RNG (R151). Takes two generator draws and writes them as integers or FP32 values. -/
  | rng (h : Hdr) (o : OpR)
  /-- SHFL (R152). Moves elements across the warp's element sequence in one of five modes. -/
  | shfl (h : Hdr) (o : OpR)
  /-- BCST (R153). Copies a register from one lane to every participating lane. -/
  | bcst (h : Hdr) (o : OpR)
  /-- PERM (R154). Rearranges bytes within one lane by selectors. -/
  | perm (h : Hdr) (o : OpR)
  /-- ZIP (R155). Interleaves N registers from structure-of-arrays to array-of-structures. -/
  | zip (h : Hdr) (o : OpR)
  /-- UNZIP (R155). De-interleaves N registers from array-of-structures to structure-of-arrays. -/
  | unzip (h : Hdr) (o : OpR)
  /-- VOTE (R156). Gathers a predicate from every participating lane and returns a summary. -/
  | vote (h : Hdr) (o : OpR)
  /-- MATCH (R157). Finds participating lanes holding a bit-identical key. -/
  | matchLanes (h : Hdr) (o : OpR)
  /-- REDL (R158). Reduces each sub-element position across lanes. -/
  | redl (h : Hdr) (o : OpR)
  /-- SCANL (R158). Forms inclusive or exclusive prefixes across lanes. -/
  | scanl (h : Hdr) (o : OpR)
  /-- PLOP (R159). Computes any function of three predicates through a table. -/
  | plop (h : Hdr) (o : OpR)
  /-- PMOV_V (R160). Moves p0 to p7 into a register. -/
  | pmovV (h : Hdr) (o : OpR)
  /-- PMOV_P (R160). Moves register bits into the predicates selected by a mask. -/
  | pmovP (h : Hdr) (o : OpR)
  /-- ACTM (R161). Writes the masks of the active set and the participating lanes. -/
  | actm (h : Hdr) (o : OpR)
  /-- ELECT (R161). Sets a predicate true in the lowest participating lane only. -/
  | elect (h : Hdr) (o : OpR)
  /-- BRA (R164). Branches by a slot offset, checking the target's TGT bit. -/
  | bra (h : Hdr) (o : OpB)
  /-- CALL (R164). Branches by a slot offset and writes the return PC as a link. -/
  | call (h : Hdr) (o : OpB)
  /-- BRX (R166). Branches to a per-lane 64-bit PC held in a register. -/
  | brx (h : Hdr) (o : OpR)
  /-- CALLX (R166). Branches to a register PC and writes a link. -/
  | callx (h : Hdr) (o : OpR)
  /-- RET (R166). Returns to a register PC, acting as BRX. -/
  | ret (h : Hdr) (o : OpR)
  /-- EXIT (R168). Ends the participating threads and removes them from every group. -/
  | exit (h : Hdr) (o : OpR)
  /-- YIELD (R170). Makes the warp ineligible for 32 cycles. -/
  | yield (h : Hdr) (o : OpR)
  /-- TRAP (R171). Raises a TRAPI trap with a code. -/
  | trap (h : Hdr) (o : OpI)
  /-- BRKPT (R171). Raises a BRKPT trap when breakpoints are enabled. -/
  | brkpt (h : Hdr) (o : OpI)
  /-- TRET (R184). Writes back dirty slots and predicates from the frame and leaves trap mode. -/
  | tret (h : Hdr) (o : OpR)
  /-- CSRR (R172). Reads a CSR into a register. -/
  | csrr (h : Hdr) (o : OpS)
  /-- CSRW (R174). Writes a CSR from a register or immediate, once per participating lane. -/
  | csrw (h : Hdr) (o : OpS)
  /-- CSRS (R174). Sets bits of a CSR from a register or immediate. -/
  | csrs (h : Hdr) (o : OpS)
  /-- CSRC (R174). Clears bits of a CSR from a register or immediate. -/
  | csrc (h : Hdr) (o : OpS)
  /-- CLOCK (R176). Reads the cycle count or the package nanosecond time base. -/
  | clock (h : Hdr) (o : OpR)
  /-- JOIN (R202). Makes each participating thread a member of a group. -/
  | join (h : Hdr) (o : OpR)
  /-- LEAVE (R202). Removes each participating thread from a group. -/
  | leave (h : Hdr) (o : OpR)
  /-- GBAR (R203). Arrives at or observes a group's phase and waits for it to end. -/
  | gbar (h : Hdr) (o : OpR)
  /-- GCOUNT (R205). Reads a snapshot of a group's membership and arrivals. -/
  | gcount (h : Hdr) (o : OpR)
  /-- ROLE (R207). Switches every warp contained in a group to a role. -/
  | role (h : Hdr) (o : OpR)
  /-- REGCLAIM (R210). Queues a claim to enlarge the warp's register allotment. -/
  | regclaim (h : Hdr) (o : OpI)
  /-- REGGIVE (R211). Shrinks the warp's register allotment. -/
  | reggive (h : Hdr) (o : OpI)
  /-- SLEEP (R215). Stops the warp until a wake, a timer or a pre-emption request. -/
  | sleep (h : Hdr) (o : OpI)
  /-- WAKE (R216). Wakes a warp of the crew or sets its wake-pending bit. -/
  | wake (h : Hdr) (o : OpR)
  /-- PRIO (R217). Sets the issuing warp's priority class. -/
  | prio (h : Hdr) (o : OpI)
  /-- LD (R240). Loads from a record into a register. -/
  | ld (h : Hdr) (o : OpM)
  /-- ST (R257). Stores a register through a record, into L1 with registration or at the home slice. -/
  | st (h : Hdr) (o : OpM)
  /-- LDA (R240). Loads from a raw 64-bit VA. -/
  | lda (h : Hdr) (o : OpM)
  /-- STA (R240). Stores to a raw 64-bit VA. -/
  | sta (h : Hdr) (o : OpM)
  /-- LDS (R240). Loads from scratchpad, the crew's own or through a class-5 record. -/
  | lds (h : Hdr) (o : OpM)
  /-- STS (R240). Stores to scratchpad, the crew's own or through a class-5 record. -/
  | sts (h : Hdr) (o : OpM)
  /-- LDT (R356). Loads a tile from memory into scratchpad as one indivisible access. -/
  | ldt (h : Hdr) (o : OpT)
  /-- STT (R356). Stores a tile from scratchpad into memory as one indivisible commit. -/
  | stt (h : Hdr) (o : OpT)
  /-- PREF (R244). Prefetches a line into L1 or the home slice, never trapping after decode. -/
  | pref (h : Hdr) (o : OpM)
  /-- RECSET (R239). Writes a tensor record at its home slice and removes it from every record cache. -/
  | recset (h : Hdr) (o : OpM)
  /-- RECGET (R239). Reads a tensor record into four registers. -/
  | recget (h : Hdr) (o : OpM)
  /-- RECINV (R239). Removes a record from every record cache of the package. -/
  | recinv (h : Hdr) (o : OpM)
  /-- RECGEN (R239). Increments a record's GEN and removes cached and operand-cache copies. -/
  | recgen (h : Hdr) (o : OpM)
  /-- SPALLOC (R232). Extends the crew's dynamic scratchpad region. -/
  | spalloc (h : Hdr) (o : OpI)
  /-- SPFREE (R232). Shrinks the crew's dynamic scratchpad region. -/
  | spfree (h : Hdr) (o : OpI)
  /-- SPFENCE (R233). Waits for scratchpad writes and invalidates overlapping operand-cache entries. -/
  | spfence (h : Hdr) (o : OpR)
  /-- ATOM (R247). Applies an atomic operation per lane at the word's home and returns the old value. -/
  | atom (h : Hdr) (o : OpM)
  /-- CAS (R247). Compares and swaps per lane at the word's home. -/
  | cas (h : Hdr) (o : OpM)
  /-- RED (R248). Combines lanes per address and applies reductions at the home. -/
  | red (h : Hdr) (o : OpM)
  /-- ATOMS (R247). Applies an atomic operation on scratchpad and returns the old value. -/
  | atoms (h : Hdr) (o : OpM)
  /-- CASS (R247). Compares and swaps on scratchpad. -/
  | cass (h : Hdr) (o : OpM)
  /-- REDS (R248). Applies reductions on scratchpad. -/
  | reds (h : Hdr) (o : OpM)
  /-- AWINIT (R250). Initialises an arrival word with a target. -/
  | awinit (h : Hdr) (o : OpI)
  /-- ARRIVE (R250). Counts arrivals into an arrival word, flipping its generation at the target. -/
  | arrive (h : Hdr) (o : OpI)
  /-- ARRDROP (R250). Lowers an arrival word's target and counts a zero arrival. -/
  | arrdrop (h : Hdr) (o : OpI)
  /-- AWAIT (R250). Waits until an arrival word's generation differs from a given value. -/
  | await (h : Hdr) (o : OpI)
  /-- AWTEST (R250). Reads an arrival word. -/
  | awtest (h : Hdr) (o : OpI)
  /-- QINIT (R255). Sets a queue-table entry and initialises its QCW. -/
  | qinit (h : Hdr) (o : OpI)
  /-- PUSH (R255). Enqueues one element per participating lane, waiting for room. -/
  | push (h : Hdr) (o : OpR)
  /-- POP (R255). Dequeues one element per participating lane, waiting for elements. -/
  | pop (h : Hdr) (o : OpR)
  /-- TRYPUSH (R255). Pushes only when it can be served at once and reports success. -/
  | trypush (h : Hdr) (o : OpR)
  /-- TRYPOP (R255). Pops only when it can be served at once and reports success. -/
  | trypop (h : Hdr) (o : OpR)
  /-- QSTAT (R255). Reads QCW word 0 of a queue. -/
  | qstat (h : Hdr) (o : OpR)
  /-- ACQ (R266). Self-invalidates every Copy word of the core's L1. -/
  | acq (h : Hdr) (o : OpR)
  /-- REL (R267). Performs once the warp's earlier accesses, and with ENG its copies, have completed. -/
  | rel (h : Hdr) (o : OpR)
  /-- ACQR (R268). Makes a target core register its stores and self-invalidate, then self-invalidates. -/
  | acqr (h : Hdr) (o : OpR)
  /-- FENCE (R269). Waits for the warp's scratchpad and L1 accesses to complete. -/
  | fence (h : Hdr) (o : OpR)
  /-- SEAL (R343). Makes a record's range read-only through the seal table and recalls its owned words. -/
  | seal (h : Hdr) (o : OpM)
  /-- UNSEAL (R344). Closes and removes a seal and invalidates Sealed words. -/
  | unseal (h : Hdr) (o : OpM)
  /-- FRFIT (R401). Queues a refit job for a fitted region. -/
  | frfit (h : Hdr) (o : OpM)
  /-- FRSTAT (R401). Reads a fitted region's status word. -/
  | frstat (h : Hdr) (o : OpM)
  /-- FRINIT (R400). Queues a job that fits a region from source values. -/
  | frinit (h : Hdr) (o : OpM)
  /-- SNAP (R347). Starts a checkpoint snapshot of a record's range. -/
  | snap (h : Hdr) (o : OpM)
  /-- SNAPWAIT (R351). Waits for or tests a snapshot and returns its status. -/
  | snapwait (h : Hdr) (o : OpI)
  /-- LLCSTAT (R339). Reads and sums the slice counters of a slice, a die or the package. -/
  | llcstat (h : Hdr) (o : OpR)
  /-- MMA (R289). Accepts a command that multiplies A by B into an accumulator slot. -/
  | mma (h : Hdr) (o : OpT)
  /-- MMAS (R289). Accepts a scaled matrix multiply command. -/
  | mmas (h : Hdr) (o : OpT)
  /-- MZERO (R292). Accepts a command that zeroes accumulator slots. -/
  | mzero (h : Hdr) (o : OpR)
  /-- MDRAIN (R293). Accepts a command that converts accumulator rows into scratchpad and counts them. -/
  | mdrain (h : Hdr) (o : OpT)
  /-- WLOAD (R287). Accepts a command that fills the weight buffer or the codebook decoder. -/
  | wload (h : Hdr) (o : OpT)
  /-- WINV (R288). Accepts a command that removes weight-buffer directory entries. -/
  | winv (h : Hdr) (o : OpM)
  /-- MSTAT (R294). Reads the sequencer's status. -/
  | mstat (h : Hdr) (o : OpR)
  /-- MWAIT (R295). Waits until earlier commands naming given slots have finished. -/
  | mwait (h : Hdr) (o : OpR)
  /-- MCFG (R286). Sets the multiplier format for later commands. -/
  | mcfg (h : Hdr) (o : OpI)
  /-- MSTEP_RD (R296). Reads MSEQ. -/
  | mstepRd (h : Hdr) (o : OpR)
  /-- MSTEP_HALT (R296). Halts the sequencer at the next K-block boundary. -/
  | mstepHalt (h : Hdr) (o : OpR)
  /-- MSTEP_GO (R296). Resumes a halted sequencer. -/
  | mstepGo (h : Hdr) (o : OpR)
  /-- CPY (R310). Accepts a copy-engine command moving a run of bytes with optional conversion. -/
  | cpy (h : Hdr) (o : OpT)
  /-- CPYT (R311). Accepts a copy-engine command moving a rectangle of elements. -/
  | cpyt (h : Hdr) (o : OpT)
  /-- CVTTAB (R321). Accepts a command loading a conversion table. -/
  | cvttab (h : Hdr) (o : OpM)
  /-- CPYSTAT (R322). Reads, and optionally waits for and clears, the issuer's copy status. -/
  | cpystat (h : Hdr) (o : OpR)
  /-- LAUNCH (R428). Appends a launch record to the context's device ring. -/
  | launch (h : Hdr) (o : OpM)
  /-- TLBINV (R416). Removes translations package-wide and waits for their users to finish. -/
  | tlbinv (h : Hdr) (o : OpR)
  /-- CTXSAVE (R432). Stops a crew or Acorn program at safe points and writes its image. -/
  | ctxsave (h : Hdr) (o : OpM)
  /-- CTXLOAD (R438). Restores a crew or Acorn program from an image. -/
  | ctxload (h : Hdr) (o : OpM)
  /-- FRAMERET (R419). Retires a frame: invalidates its PTE, translations and lines, and refuses it. -/
  | frameret (h : Hdr) (o : OpR)
  /-- FSTORE (R450). Sends local bytes to a peer package through the fabric window. -/
  | fstore (h : Hdr) (o : OpT)
  /-- FLOAD (R450). Reads a peer's bytes into local memory and counts them. -/
  | fload (h : Hdr) (o : OpT)
  /-- FRED (R459). Contributes a local chunk to an in-fabric reduction plan. -/
  | fred (h : Hdr) (o : OpT)
  /-- FREL (R453). Sends flush markers on every path and performs when peers have gathered them. -/
  | frel (h : Hdr) (o : OpR)
  /-- COLL_OPEN (R458). Opens a reduction plan slot from a plan block. -/
  | collOpen (h : Hdr) (o : OpM)
  /-- COLL_NEXT (R458). Waits for a plan's epoch to complete and starts the next. -/
  | collNext (h : Hdr) (o : OpM)
  /-- COLL_CLOSE (R458). Waits for a plan's epoch to complete and frees the slot. -/
  | collClose (h : Hdr) (o : OpM)
  /-- FSTAT (R462). Reads the warp's fabric state or a plan slot's status. -/
  | fstat (h : Hdr) (o : OpR)
  /-- VENDOR_DEBUG (R45). Runs a Caerile diagnostic operation in debug mode, otherwise traps ILLOP. -/
  | vendorDebug (h : Hdr) (op : BitVec 4) (area : BitVec 48)
  /-- AGE_OVERRIDE (R86). A warp eligible for 256 cycles without being chosen is chosen next. -/
  | ageOverride (unit slot : Nat)
  /-- YIELD_EXPIRY (R170). The 32 cycles of ineligibility after a YIELD end. -/
  | yieldExpiry (unit slot : Nat)
  /-- COMPLETION (R24). A variable-latency instruction completes and its counter is decremented. -/
  | completion (unit slot op : Nat)
  /-- TRAP_ENTRY (R179). A warp with a pending trap enters trap mode once its quad and counters allow, writing the frame. -/
  | trapEntry (unit slot : Nat)
  /-- CREW_END (R185). The core ends a crew and reports its cause and TPC through the fault ring. -/
  | crewEnd (crew : Nat)
  /-- WARP_END (R169). A warp with no live thread ends once its counters are zero and its log empty. -/
  | warpEnd (unit slot : Nat)
  /-- CLAIM_GRANT (R209). The pool grants the head claim when enough rows are free. -/
  | claimGrant (core : Nat)
  /-- REGGIVE_RETURN (R211). Given rows return to the pool once earlier writes to them have completed. -/
  | reggiveReturn (unit slot op : Nat)
  /-- SLEEP_TIMER (R215). A SLEEP timer expires and wakes the warp. -/
  | sleepTimer (unit slot half : Nat)
  /-- CLOCK_GATE (R218). A core whose warps all wait gates its clock. -/
  | clockGate (core : Nat)
  /-- CORE_WAKE (R219). A wake event ungates a core's clock and records WAKER. -/
  | coreWake (core : Nat) (reason : BitVec 8)
  /-- DEADLOCK_REPORT (R222). After 4,096 blocked cycles the core records, cancels the waits and traps the crew. -/
  | deadlockReport (core crew : Nat)
  /-- REGISTRATION (R258). The home slice applies a store's registration, recalling another owner first. -/
  | registration (req : Nat)
  /-- HOME_READ (R259). The home slice serves a read, forwarding registered words from their owner. -/
  | homeRead (req : Nat)
  /-- WRITE_BACK (R259). A replaced L1 line's Owned words are written back and deregistered. -/
  | writeBack (req : Nat)
  /-- SLICE_WRITE (R333). A slice applies one write to a line, recompressing and making room. -/
  | sliceWrite (req : Nat)
  /-- LINE_FILL (R328). A line absent from its home slice is filled from CXL memory. -/
  | lineFill (line : Nat)
  /-- DRAIN_LINE_SEND (R350). The die's drain engine sends one line of a snapshot to its destination and counts it. -/
  | drainLineSend (snap index : Nat)
  /-- SNAPSHOT_FINISH (R350). Every line has been written at its destination and the id is freed. -/
  | snapshotFinish (snap : Nat)
  /-- SNAPSHOT_ABANDON (R352). A snapshot is abandoned on a fault, a sealed destination or a peer failure. -/
  | snapshotAbandon (snap reason : Nat)
  /-- TILE_LOCK_GRANT (R368). A slice grants a waiting tile lock request. -/
  | tileLockGrant (tile : Nat)
  /-- TILE_COMMIT (R363). With every lock granted, the tile's data moves and the locks are released. -/
  | tileCommit (tile : Nat)
  /-- SEQUENCER_COMMAND_START (R284). An accepted matrix command starts once its ordering conditions hold. -/
  | sequencerCommandStart (cluster cmd : Nat)
  /-- ENGINE_STEP (R291). The array completes one engine step of an MMA, folding one K-block for a row group. -/
  | engineStep (cluster : Nat) (check : MatrixCheck)
  /-- DRAIN_PIECE_COUNT (R293). The drain path counts written bytes into the arrival word. -/
  | drainPieceCount (cluster bytes : Nat)
  /-- COPY_COMMAND_START (R319). An accepted copy command starts when a place is free and its ordering holds. -/
  | copyCommandStart (cluster cmd : Nat)
  /-- COPY_PIECE_COUNT (R317). After a piece of up to 4,096 bytes is written, the engine invalidates and counts it. -/
  | copyPieceCount (cluster cmd bytes : Nat)
  /-- COPY_ABANDON (R323). A copy command is abandoned, recorded in CPYERR and reported by an ENGFAULT trap. -/
  | copyAbandon (cluster cmd reason : Nat)
  /-- SPROUT_JOB (R395). Sprout runs a refit or fit job and installs a new generation in one step. -/
  | sproutJob (die : Nat) (params : List (BitVec 16))
  /-- FAULT_RECORD_WRITE (R412). A unit writes a fault record into its fault ring when room exists and raises the interrupt. -/
  | faultRecordWrite (index : Nat)
  /-- FRESP_RETRY (R414). A resolution without ABORT makes the waiting access translate again and replay. -/
  | frespRetry (tag : Nat)
  /-- FRESP_ABORT (R414). A resolution with ABORT abandons the waiting access. -/
  | frespAbort (tag : Nat)
  /-- DISPATCH (R423). A dispatcher takes the next record of an enabled launch ring, or rejects it and stops the ring. -/
  | dispatch (ring : Nat)
  /-- RREJ_CLEAR (R423). Writing 0 to RREJ clears STOP and lets the ring take records again. -/
  | rrejClear (ring : Nat)
  /-- CREW_PLACEMENT (R426). A waiting crew is placed on a core and starts at ENTRY. -/
  | crewPlacement (launch core : Nat)
  /-- ACORN_PLACEMENT (R275). A waiting Acorn launch is placed on a cluster and starts its program. -/
  | acornPlacement (launch cluster : Nat)
  /-- LAUNCH_COMPLETION (R427). When a launch's crews, copies and fabric stores are done, the completion word is written. -/
  | launchCompletion (launch : Nat)
  /-- CTXSAVE_WITHDRAW (R432). A save not stopped within 1,048,576 cycles is withdrawn. -/
  | ctxsaveWithdraw (crew : Nat)
  /-- FABRIC_ABANDON (R452). A rejected or failed fabric command is abandoned and reported by ENGFAULT. -/
  | fabricAbandon (cmd reason : Nat)
  /-- REDUCTION_CHUNK_COMBINE (R459). A node combines a chunk with its children's in fixed order and forwards or writes it. -/
  | reductionChunkCombine (slot chunk : Nat)
  /-- WARM_START (R467). A PKGRST write of the warm value resets the package reusing stored measurements. -/
  | warmStart
  /-- COLD_START (R467). A PKGRST write of the cold value requests a full package reset. -/
  | coldStart
  /-- PACKAGE_RESET (R466). Package reset clears on-chip state and the Chestnut cores run the boot stages. -/
  | packageReset (stage : BootOutcome)
  /-- IMAGE_FETCH_ATTEMPT (R466). A boot image fetch attempt, retried up to 8 times 2 s apart. -/
  | imageFetchAttempt (outcome : BootOutcome)
  /-- FREEZE (R469). Assertion of the FREEZE pin stops issue and every clock within 8 cycles. -/
  | freeze
  /-- SCAN_READOUT (R470). A frozen package's segment is read through the IEEE 1149.1 port. -/
  | scanReadout (segment : Nat)
  /-- DEBUG_UNLOCK (R45). Debug mode is entered through the IEEE 1687 network after a signed unlock. -/
  | debugUnlock (signatureValid : Bool)
  /-- PATH_MONITOR_READ (R471). Every 100 ms firmware reads margins and adjusts each die's supply. -/
  | pathMonitorRead (die margin worst vdd : Nat) (limit : Bool)
  /-- POWER_LIMIT (R476). A 10 ms average above 4,800 W lowers issue rates. -/
  | powerLimit (above : Bool)
  /-- THERMAL_TRIP (R476). At 115 °C the package stops as FREEZE and asserts THERMTRIP. -/
  | thermalTrip
  /-- HOST_BAR2_ACCESS (R477). A host read or write through BAR2 applies at home slices as an engine access. -/
  | hostBar2Access (pa : Nat) (write : Option (List Byte)) (count : Nat)
  /-- PACKET_RECEIVE (R448). A port engine applies an arriving fabric operation in its receiving context. -/
  | packetReceive (packet : Packet)
  /-- MARKER_GATHER (R454). A destination gathers a FREL's markers and acknowledges. -/
  | markerGather (conn path : Nat) (limit : MarkerLimit)
  /-- RETRANSMISSION_TIMEOUT (R444). A retransmission timeout on a path resends packets; eight in a row fail the path. -/
  | retransmissionTimeout (conn path : Nat)
  /-- CONNECTION_FAILURE (R444). A connection with no acknowledgement for 100 ms is declared failed. -/
  | connectionFailure (conn : Nat)
  /-- PLAN_ABORT (R460). A mismatch, failed connection or context end aborts a reduction slot. -/
  | planAbort (slot : Nat)
  /-- REGISTER_WRITE (R405). A write to a control-window register that has no behaviour of its own. -/
  | registerWrite (offset : Nat) (value : Word)
  /-- ACKNOWLEDGEMENT_ARRIVAL (R450). A selective acknowledgement from a peer arrives at the sending package, acknowledging packets, exposing gaps that are resent, and letting FSTORE, FREL and snapshot-to-peer work complete. -/
  | acknowledgementArrival (ack : Ack)
  /-- PORT_LINK_CHANGE (R463). An Ethernet port's link comes up or goes down, changing FABST.UP bit n. -/
  | portLinkChange (port : Nat) (up : Bool)
  deriving DecidableEq, Repr

end Sys2Proof
end

