-- ==== Sys2Proof/Decode.lean ====
section
/-! DEFINITION. Decoding an instruction word (02_encoding.md R22, R34, R43) and the encoder written from the same tables.
Decoding is total: a word whose opcode is reserved, or whose function field selects none of its opcode's functions, is
rejected by name; the machine turns each rejection into the ILLOP trap of R41 checks 3 and 6. -/

namespace Sys2Proof

/-- Why a word is no instruction. -/
inductive DecodeError where
  /-- fewer than twelve bytes were given -/
  | tooShort
  /-- the opcode is in the reserved state (R42, R43) -/
  | reservedOpcode (opc : BitVec 9)
  /-- CSRW F[1:0] = 11 (R174), MSTEP X[1:0] = 11 (R285) or COLL F[1:0] = 11 (R458) -/
  | reservedFunction (opc : BitVec 9)
  deriving DecidableEq, Repr

/-- Twelve little-endian bytes as a word, or none where fewer are given (R12). -/
def wordOfBytes : List Byte → Option IWord
  | b0 :: b1 :: b2 :: b3 :: b4 :: b5 :: b6 :: b7 :: b8 :: b9 :: b10 :: b11 :: _ =>
    some (b11 ++ b10 ++ b9 ++ b8 ++ b7 ++ b6 ++ b5 ++ b4 ++ b3 ++ b2 ++ b1 ++ b0)
  | _ => none

/-- OPC, bits [64:56] (R22). -/
def opcOf (w : IWord) : BitVec 9 := w.extractLsb' 56 9
/-- The operand area, bits [47:0] (R22). -/
def areaOf (w : IWord) : BitVec 48 := w.extractLsb' 0 48

/-- The other fields of R22. -/
def hdrOf (w : IWord) : Hdr where
  wait := w.extractLsb' 84 12
  setf := w.extractLsb' 80 4
  dist := w.extractLsb' 76 4
  sw   := w.extractLsb' 75 1
  hint := w.extractLsb' 73 2
  ga   := w.extractLsb' 69 4
  gb   := w.extractLsb' 65 4
  f    := w.extractLsb' 48 8

/-- The six formats of R34 read from the operand area. -/
def opROf (a : BitVec 48) : OpR :=
  ⟨a.extractLsb' 40 8, a.extractLsb' 32 8, a.extractLsb' 24 8, a.extractLsb' 16 8, a.extractLsb' 8 8, a.extractLsb' 0 8⟩
def opIOf (a : BitVec 48) : OpI := ⟨a.extractLsb' 40 8, a.extractLsb' 32 8, a.extractLsb' 0 32⟩
def opMOf (a : BitVec 48) : OpM := ⟨a.extractLsb' 40 8, a.extractLsb' 32 8, a.extractLsb' 20 12, a.extractLsb' 0 20⟩
def opBOf (a : BitVec 48) : OpB := ⟨a.extractLsb' 40 8, a.extractLsb' 32 8, a.extractLsb' 0 32⟩
def opTOf (a : BitVec 48) : OpT :=
  ⟨a.extractLsb' 40 8, a.extractLsb' 32 8, a.extractLsb' 20 12, a.extractLsb' 8 12, a.extractLsb' 0 8⟩
def opSOf (a : BitVec 48) : OpS := ⟨a.extractLsb' 40 8, a.extractLsb' 32 8, a.extractLsb' 20 12, a.extractLsb' 0 20⟩

/-- Opcodes 0x000 to 0x03F of R43. -/
def decodeBlock0 (opc : BitVec 9) (h : Hdr) (a : BitVec 48) : Except DecodeError Instr :=
  match opc.toNat with
  | 0x000 => .ok (.nop h (opROf a))
  | 0x001 => .ok (.mov h (opROf a))
  | 0x002 => .ok (.movi h (opIOf a))
  | 0x003 => .ok (.movhi h (opIOf a))
  | 0x004 => .ok (.sel h (opROf a))
  | 0x005 => .ok (.iadd h (opROf a))
  | 0x006 => .ok (.isub h (opROf a))
  | 0x007 => .ok (.iadds h (opROf a))
  | 0x008 => .ok (.isubs h (opROf a))
  | 0x009 => .ok (.iadc h (opROf a))
  | 0x00A => .ok (.imul h (opROf a))
  | 0x00B => .ok (.imulh h (opROf a))
  | 0x00C => .ok (.imad h (opROf a))
  | 0x00D => .ok (.imadw h (opROf a))
  | 0x00E => .ok (.iabs h (opROf a))
  | 0x00F => .ok (.imin h (opROf a))
  | 0x010 => .ok (.imax h (opROf a))
  | 0x011 => .ok (.isad h (opROf a))
  | 0x012 => .ok (.idp4 h (opROf a))
  | 0x013 => .ok (.and h (opROf a))
  | 0x014 => .ok (.or h (opROf a))
  | 0x015 => .ok (.xor h (opROf a))
  | 0x016 => .ok (.andn h (opROf a))
  | 0x017 => .ok (.lop3 h (opROf a))
  | 0x018 => .ok (.shl h (opROf a))
  | 0x019 => .ok (.shr h (opROf a))
  | 0x01A => .ok (.sar h (opROf a))
  | 0x01B => .ok (.rotl h (opROf a))
  | 0x01C => .ok (.fshf h (opROf a))
  | 0x01D => .ok (.bfx h (opROf a))
  | 0x01E => .ok (.bfi h (opROf a))
  | 0x01F => .ok (.popc h (opROf a))
  | 0x020 => .ok (.clz h (opROf a))
  | 0x021 => .ok (.ctz h (opROf a))
  | 0x022 => .ok (.brev h (opROf a))
  | 0x023 => .ok (.icmp h (opROf a))
  | 0x024 => .ok (.icmpm h (opROf a))
  | 0x025 => .ok (.lea h (opROf a))
  | 0x03E => .ok (.imax3 h (opROf a))
  | _ => .error (.reservedOpcode opc)

/-- Opcodes 0x040 to 0x07F of R43. -/
def decodeBlock1 (opc : BitVec 9) (h : Hdr) (a : BitVec 48) : Except DecodeError Instr :=
  match opc.toNat with
  | 0x040 => .ok (.fadd h (opROf a))
  | 0x041 => .ok (.fsub h (opROf a))
  | 0x042 => .ok (.fmul h (opROf a))
  | 0x043 => .ok (.ffma h (opROf a))
  | 0x044 => .ok (.fmin h (opROf a))
  | 0x045 => .ok (.fmax h (opROf a))
  | 0x046 => .ok (.fcmp h (opROf a))
  | 0x047 => .ok (.fclass h (opROf a))
  | 0x048 => .ok (.frnd h (opROf a))
  | 0x049 => .ok (.fscale h (opROf a))
  | 0x04A => .ok (.fgetexp h (opROf a))
  | 0x04B => .ok (.fdot2 h (opROf a))
  | 0x04C => .ok (.fdot4 h (opROf a))
  | 0x04D => .ok (.fhadd h (opROf a))
  | 0x04E => .ok (.frcp h (opROf a))
  | 0x04F => .ok (.frsq h (opROf a))
  | 0x050 => .ok (.dadd h (opROf a))
  | 0x051 => .ok (.dmul h (opROf a))
  | 0x052 => .ok (.dfma h (opROf a))
  | 0x053 => .ok (.fabs h (opROf a))
  | 0x054 => .ok (.fneg h (opROf a))
  | _ => .error (.reservedOpcode opc)

/-- Opcodes 0x080 to 0x0BF of R43. -/
def decodeBlock2 (opc : BitVec 9) (h : Hdr) (a : BitVec 48) : Except DecodeError Instr :=
  match opc.toNat with
  | 0x080 => .ok (.cvt h (opROf a))
  | 0x081 => .ok (.cvtsr h (opROf a))
  | 0x082 => .ok (.cvti h (opROf a))
  | 0x083 => .ok (.pack h (opROf a))
  | 0x084 => .ok (.unpk h (opROf a))
  | 0x085 => .ok (.bscale h (opROf a))
  | 0x086 => .ok (.qnt h (opROf a))
  | 0x087 => .ok (.dqnt h (opROf a))
  | 0x088 => .ok (.cbdec h (opROf a))
  | 0x089 => .ok (.cbld h (opMOf a))
  | 0x08A => .ok (.fexp2 h (opROf a))
  | 0x08B => .ok (.flog2 h (opROf a))
  | 0x08C => .ok (.fsin h (opROf a))
  | 0x08D => .ok (.fcos h (opROf a))
  | 0x08E => .ok (.ftanh h (opROf a))
  | 0x08F => .ok (.fsig h (opROf a))
  | 0x090 => .ok (.act h (opROf a))
  | 0x091 => .ok (.actld h (opMOf a))
  | 0x092 => .ok (.actsw h (opROf a))
  | 0x093 => .ok (.rngseed h (opROf a))
  | 0x094 => .ok (.rng h (opROf a))
  | 0x0A0 => .ok (.shfl h (opROf a))
  | 0x0A1 => .ok (.bcst h (opROf a))
  | 0x0A2 => .ok (.perm h (opROf a))
  | 0x0A3 => .ok (.zip h (opROf a))
  | 0x0A4 => .ok (.unzip h (opROf a))
  | 0x0A5 => .ok (.vote h (opROf a))
  | 0x0A6 => .ok (.matchLanes h (opROf a))
  | 0x0A7 => .ok (.redl h (opROf a))
  | 0x0A8 => .ok (.scanl h (opROf a))
  | 0x0A9 => .ok (.plop h (opROf a))
  | 0x0AA => if (opROf a).x.getLsbD 0 then .ok (.pmovP h (opROf a)) else .ok (.pmovV h (opROf a))
  | 0x0AB => .ok (.actm h (opROf a))
  | 0x0AC => .ok (.elect h (opROf a))
  | _ => .error (.reservedOpcode opc)

/-- Opcodes 0x0C0 to 0x0FF of R43. -/
def decodeBlock3 (opc : BitVec 9) (h : Hdr) (a : BitVec 48) : Except DecodeError Instr :=
  match opc.toNat with
  | 0x0C0 => .ok (.bra h (opBOf a))
  | 0x0C1 => .ok (.brx h (opROf a))
  | 0x0C2 => .ok (.call h (opBOf a))
  | 0x0C3 => .ok (.callx h (opROf a))
  | 0x0C4 => .ok (.ret h (opROf a))
  | 0x0C5 => .ok (.exit h (opROf a))
  | 0x0C6 => .ok (.yield h (opROf a))
  | 0x0C7 => .ok (.trap h (opIOf a))
  | 0x0C8 => .ok (.tret h (opROf a))
  | 0x0C9 => .ok (.csrr h (opSOf a))
  | 0x0CA =>
    match (h.f.extractLsb' 0 2).toNat with
    | 0 => .ok (.csrw h (opSOf a))
    | 1 => .ok (.csrs h (opSOf a))
    | 2 => .ok (.csrc h (opSOf a))
    | _ => .error (.reservedFunction opc)
  | 0x0CB => .ok (.brkpt h (opIOf a))
  | 0x0CC => .ok (.clock h (opROf a))
  | 0x0E0 => .ok (.join h (opROf a))
  | 0x0E1 => .ok (.leave h (opROf a))
  | 0x0E2 => .ok (.gbar h (opROf a))
  | 0x0E3 => .ok (.gcount h (opROf a))
  | 0x0E4 => .ok (.role h (opROf a))
  | 0x0E5 => .ok (.regclaim h (opIOf a))
  | 0x0E6 => .ok (.reggive h (opIOf a))
  | 0x0E7 => .ok (.sleep h (opIOf a))
  | 0x0E8 => .ok (.wake h (opROf a))
  | 0x0E9 => .ok (.prio h (opIOf a))
  | _ => .error (.reservedOpcode opc)

/-- Opcodes 0x100 to 0x13F of R43. -/
def decodeBlock4 (opc : BitVec 9) (h : Hdr) (a : BitVec 48) : Except DecodeError Instr :=
  match opc.toNat with
  | 0x100 => .ok (.ld h (opMOf a))
  | 0x101 => .ok (.st h (opMOf a))
  | 0x102 => .ok (.lda h (opMOf a))
  | 0x103 => .ok (.sta h (opMOf a))
  | 0x104 => .ok (.lds h (opMOf a))
  | 0x105 => .ok (.sts h (opMOf a))
  | 0x106 => .ok (.ldt h (opTOf a))
  | 0x107 => .ok (.stt h (opTOf a))
  | 0x108 => .ok (.pref h (opMOf a))
  | 0x109 => .ok (.recset h (opMOf a))
  | 0x10A => .ok (.recget h (opMOf a))
  | 0x10B => .ok (.recinv h (opMOf a))
  | 0x10C => .ok (.recgen h (opMOf a))
  | 0x10D => .ok (.spalloc h (opIOf a))
  | 0x10E => .ok (.spfree h (opIOf a))
  | 0x10F => .ok (.spfence h (opROf a))
  | _ => .error (.reservedOpcode opc)

/-- Opcodes 0x140 to 0x17F of R43. -/
def decodeBlock5 (opc : BitVec 9) (h : Hdr) (a : BitVec 48) : Except DecodeError Instr :=
  match opc.toNat with
  | 0x140 => .ok (.atom h (opMOf a))
  | 0x141 => .ok (.cas h (opMOf a))
  | 0x142 => .ok (.red h (opMOf a))
  | 0x143 => .ok (.atoms h (opMOf a))
  | 0x144 => .ok (.cass h (opMOf a))
  | 0x145 => .ok (.reds h (opMOf a))
  | 0x146 => .ok (.awinit h (opIOf a))
  | 0x147 => .ok (.arrive h (opIOf a))
  | 0x148 => .ok (.arrdrop h (opIOf a))
  | 0x149 => .ok (.await h (opIOf a))
  | 0x14A => .ok (.awtest h (opIOf a))
  | 0x14B => .ok (.qinit h (opIOf a))
  | 0x14C => .ok (.push h (opROf a))
  | 0x14D => .ok (.pop h (opROf a))
  | 0x14E => .ok (.trypush h (opROf a))
  | 0x14F => .ok (.trypop h (opROf a))
  | 0x150 => .ok (.qstat h (opROf a))
  | 0x160 => .ok (.acq h (opROf a))
  | 0x161 => .ok (.rel h (opROf a))
  | 0x162 => .ok (.acqr h (opROf a))
  | 0x163 => .ok (.fence h (opROf a))
  | 0x164 => .ok (.seal h (opMOf a))
  | 0x165 => .ok (.unseal h (opMOf a))
  | 0x170 => .ok (.frfit h (opMOf a))
  | 0x171 => .ok (.frstat h (opMOf a))
  | 0x172 => .ok (.frinit h (opMOf a))
  | 0x173 => .ok (.snap h (opMOf a))
  | 0x174 => .ok (.snapwait h (opIOf a))
  | 0x175 => .ok (.llcstat h (opROf a))
  | _ => .error (.reservedOpcode opc)

/-- Opcodes 0x180 to 0x1BF of R43. -/
def decodeBlock6 (opc : BitVec 9) (h : Hdr) (a : BitVec 48) : Except DecodeError Instr :=
  match opc.toNat with
  | 0x180 => .ok (.mma h (opTOf a))
  | 0x181 => .ok (.mmas h (opTOf a))
  | 0x182 => .ok (.mzero h (opROf a))
  | 0x183 => .ok (.mdrain h (opTOf a))
  | 0x184 => .ok (.wload h (opTOf a))
  | 0x185 => .ok (.winv h (opMOf a))
  | 0x186 => .ok (.mstat h (opROf a))
  | 0x187 => .ok (.mwait h (opROf a))
  | 0x188 => .ok (.mcfg h (opIOf a))
  | 0x189 =>
    match ((opROf a).x.extractLsb' 0 2).toNat with
    | 0 => .ok (.mstepRd h (opROf a))
    | 1 => .ok (.mstepHalt h (opROf a))
    | 2 => .ok (.mstepGo h (opROf a))
    | _ => .error (.reservedFunction opc)
  | 0x1A0 => .ok (.cpy h (opTOf a))
  | 0x1A1 => .ok (.cpyt h (opTOf a))
  | 0x1A2 => .ok (.cvttab h (opMOf a))
  | 0x1A3 => .ok (.cpystat h (opROf a))
  | 0x1B0 => .ok (.launch h (opMOf a))
  | 0x1B1 => .ok (.tlbinv h (opROf a))
  | 0x1B2 => .ok (.ctxsave h (opMOf a))
  | 0x1B3 => .ok (.ctxload h (opMOf a))
  | 0x1B4 => .ok (.frameret h (opROf a))
  | _ => .error (.reservedOpcode opc)

/-- Opcodes 0x1C0 to 0x1FF of R43. -/
def decodeBlock7 (opc : BitVec 9) (h : Hdr) (a : BitVec 48) : Except DecodeError Instr :=
  match opc.toNat with
  | 0x1C0 => .ok (.fstore h (opTOf a))
  | 0x1C1 => .ok (.fload h (opTOf a))
  | 0x1C2 => .ok (.fred h (opTOf a))
  | 0x1C3 => .ok (.frel h (opROf a))
  | 0x1C4 =>
    match (h.f.extractLsb' 0 2).toNat with
    | 0 => .ok (.collOpen h (opMOf a))
    | 1 => .ok (.collNext h (opMOf a))
    | 2 => .ok (.collClose h (opMOf a))
    | _ => .error (.reservedFunction opc)
  | 0x1C5 => .ok (.fstat h (opROf a))
  | n => if 0x1F0 ≤ n then .ok (.vendorDebug h (opc.extractLsb' 0 4) a) else .error (.reservedOpcode opc)

/-- Decoding a word: OPC[8:6] selects the block, OPC the row (R42, R43). -/
def decode (w : IWord) : Except DecodeError Instr :=
  match ((opcOf w).extractLsb' 6 3).toNat with
  | 0 => decodeBlock0 (opcOf w) (hdrOf w) (areaOf w)
  | 1 => decodeBlock1 (opcOf w) (hdrOf w) (areaOf w)
  | 2 => decodeBlock2 (opcOf w) (hdrOf w) (areaOf w)
  | 3 => decodeBlock3 (opcOf w) (hdrOf w) (areaOf w)
  | 4 => decodeBlock4 (opcOf w) (hdrOf w) (areaOf w)
  | 5 => decodeBlock5 (opcOf w) (hdrOf w) (areaOf w)
  | 6 => decodeBlock6 (opcOf w) (hdrOf w) (areaOf w)
  | _ => decodeBlock7 (opcOf w) (hdrOf w) (areaOf w)

/-- Decoding the bytes of a slot (R12). -/
def decodeBytes (bs : List Byte) : Except DecodeError Instr :=
  match wordOfBytes bs with
  | some w => decode w
  | none => .error .tooShort

/-- Little-endian bytes of a number. -/
def bytesOfNat : Nat → Nat → List Byte
  | 0, _ => []
  | n + 1, v => BitVec.ofNat 8 v :: bytesOfNat n (v / 256)

/-- The instruction read from a word numbered as the opcode table numbers bits: bits above `nbits` are zero, bytes are laid
out as a slot stores them (R12) and given to the decoder. -/
def decodeTableWord (nbits w : Nat) : Option Instr :=
  match decodeBytes (bytesOfNat 12 (w % 2 ^ nbits)) with
  | .ok i => some i
  | .error _ => none

/-! ## The encoder -/

def OpR.area (o : OpR) : BitVec 48 := o.o1 ++ o.o2 ++ o.o3 ++ o.o4 ++ o.o5 ++ o.x
def OpI.area (o : OpI) : BitVec 48 := o.o1 ++ o.o2 ++ o.imm
def OpM.area (o : OpM) : BitVec 48 := o.o1 ++ o.o2 ++ o.hnd ++ o.disp
def OpB.area (o : OpB) : BitVec 48 := o.o1 ++ o.o2 ++ o.imm
def OpT.area (o : OpT) : BitVec 48 := o.o1 ++ o.o2 ++ o.hnda ++ o.hndb ++ o.x
def OpS.area (o : OpS) : BitVec 48 := o.o1 ++ o.o2 ++ o.csr ++ o.imm

/-- The word with the given OPC, fields and operand area (R22). -/
def wordOf (opc : BitVec 9) (h : Hdr) (a : BitVec 48) : IWord :=
  h.wait ++ h.setf ++ h.dist ++ h.sw ++ h.hint ++ h.ga ++ h.gb ++ opc ++ h.f ++ a

/-- The word of an instruction; a step without an encoding has none. -/
def encode : Instr → Option IWord
  | .nop h o => some (wordOf 0x000 h o.area)
  | .mov h o => some (wordOf 0x001 h o.area)
  | .movi h o => some (wordOf 0x002 h o.area)
  | .movhi h o => some (wordOf 0x003 h o.area)
  | .sel h o => some (wordOf 0x004 h o.area)
  | .iadd h o => some (wordOf 0x005 h o.area)
  | .isub h o => some (wordOf 0x006 h o.area)
  | .iadds h o => some (wordOf 0x007 h o.area)
  | .isubs h o => some (wordOf 0x008 h o.area)
  | .iadc h o => some (wordOf 0x009 h o.area)
  | .imul h o => some (wordOf 0x00A h o.area)
  | .imulh h o => some (wordOf 0x00B h o.area)
  | .imad h o => some (wordOf 0x00C h o.area)
  | .imadw h o => some (wordOf 0x00D h o.area)
  | .idp4 h o => some (wordOf 0x012 h o.area)
  | .iabs h o => some (wordOf 0x00E h o.area)
  | .imin h o => some (wordOf 0x00F h o.area)
  | .imax h o => some (wordOf 0x010 h o.area)
  | .isad h o => some (wordOf 0x011 h o.area)
  | .imax3 h o => some (wordOf 0x03E h o.area)
  | .and h o => some (wordOf 0x013 h o.area)
  | .or h o => some (wordOf 0x014 h o.area)
  | .xor h o => some (wordOf 0x015 h o.area)
  | .andn h o => some (wordOf 0x016 h o.area)
  | .lop3 h o => some (wordOf 0x017 h o.area)
  | .shl h o => some (wordOf 0x018 h o.area)
  | .shr h o => some (wordOf 0x019 h o.area)
  | .sar h o => some (wordOf 0x01A h o.area)
  | .rotl h o => some (wordOf 0x01B h o.area)
  | .fshf h o => some (wordOf 0x01C h o.area)
  | .bfx h o => some (wordOf 0x01D h o.area)
  | .bfi h o => some (wordOf 0x01E h o.area)
  | .popc h o => some (wordOf 0x01F h o.area)
  | .clz h o => some (wordOf 0x020 h o.area)
  | .ctz h o => some (wordOf 0x021 h o.area)
  | .brev h o => some (wordOf 0x022 h o.area)
  | .icmp h o => some (wordOf 0x023 h o.area)
  | .icmpm h o => some (wordOf 0x024 h o.area)
  | .fcmp h o => some (wordOf 0x046 h o.area)
  | .lea h o => some (wordOf 0x025 h o.area)
  | .fadd h o => some (wordOf 0x040 h o.area)
  | .fsub h o => some (wordOf 0x041 h o.area)
  | .fmul h o => some (wordOf 0x042 h o.area)
  | .ffma h o => some (wordOf 0x043 h o.area)
  | .fmin h o => some (wordOf 0x044 h o.area)
  | .fmax h o => some (wordOf 0x045 h o.area)
  | .fclass h o => some (wordOf 0x047 h o.area)
  | .frnd h o => some (wordOf 0x048 h o.area)
  | .fscale h o => some (wordOf 0x049 h o.area)
  | .fgetexp h o => some (wordOf 0x04A h o.area)
  | .fdot2 h o => some (wordOf 0x04B h o.area)
  | .fdot4 h o => some (wordOf 0x04C h o.area)
  | .fhadd h o => some (wordOf 0x04D h o.area)
  | .frcp h o => some (wordOf 0x04E h o.area)
  | .frsq h o => some (wordOf 0x04F h o.area)
  | .dadd h o => some (wordOf 0x050 h o.area)
  | .dmul h o => some (wordOf 0x051 h o.area)
  | .dfma h o => some (wordOf 0x052 h o.area)
  | .fabs h o => some (wordOf 0x053 h o.area)
  | .fneg h o => some (wordOf 0x054 h o.area)
  | .cvt h o => some (wordOf 0x080 h o.area)
  | .cvtsr h o => some (wordOf 0x081 h o.area)
  | .cvti h o => some (wordOf 0x082 h o.area)
  | .pack h o => some (wordOf 0x083 h o.area)
  | .unpk h o => some (wordOf 0x084 h o.area)
  | .bscale h o => some (wordOf 0x085 h o.area)
  | .qnt h o => some (wordOf 0x086 h o.area)
  | .dqnt h o => some (wordOf 0x087 h o.area)
  | .cbld h o => some (wordOf 0x089 h o.area)
  | .cbdec h o => some (wordOf 0x088 h o.area)
  | .fexp2 h o => some (wordOf 0x08A h o.area)
  | .flog2 h o => some (wordOf 0x08B h o.area)
  | .fsin h o => some (wordOf 0x08C h o.area)
  | .fcos h o => some (wordOf 0x08D h o.area)
  | .ftanh h o => some (wordOf 0x08E h o.area)
  | .fsig h o => some (wordOf 0x08F h o.area)
  | .act h o => some (wordOf 0x090 h o.area)
  | .actld h o => some (wordOf 0x091 h o.area)
  | .actsw h o => some (wordOf 0x092 h o.area)
  | .rngseed h o => some (wordOf 0x093 h o.area)
  | .rng h o => some (wordOf 0x094 h o.area)
  | .shfl h o => some (wordOf 0x0A0 h o.area)
  | .bcst h o => some (wordOf 0x0A1 h o.area)
  | .perm h o => some (wordOf 0x0A2 h o.area)
  | .zip h o => some (wordOf 0x0A3 h o.area)
  | .unzip h o => some (wordOf 0x0A4 h o.area)
  | .vote h o => some (wordOf 0x0A5 h o.area)
  | .matchLanes h o => some (wordOf 0x0A6 h o.area)
  | .redl h o => some (wordOf 0x0A7 h o.area)
  | .scanl h o => some (wordOf 0x0A8 h o.area)
  | .plop h o => some (wordOf 0x0A9 h o.area)
  | .pmovV h o => some (wordOf 0x0AA h o.area)
  | .pmovP h o => some (wordOf 0x0AA h o.area)
  | .actm h o => some (wordOf 0x0AB h o.area)
  | .elect h o => some (wordOf 0x0AC h o.area)
  | .bra h o => some (wordOf 0x0C0 h o.area)
  | .call h o => some (wordOf 0x0C2 h o.area)
  | .brx h o => some (wordOf 0x0C1 h o.area)
  | .callx h o => some (wordOf 0x0C3 h o.area)
  | .ret h o => some (wordOf 0x0C4 h o.area)
  | .exit h o => some (wordOf 0x0C5 h o.area)
  | .yield h o => some (wordOf 0x0C6 h o.area)
  | .trap h o => some (wordOf 0x0C7 h o.area)
  | .brkpt h o => some (wordOf 0x0CB h o.area)
  | .tret h o => some (wordOf 0x0C8 h o.area)
  | .csrr h o => some (wordOf 0x0C9 h o.area)
  | .csrw h o => some (wordOf 0x0CA h o.area)
  | .csrs h o => some (wordOf 0x0CA h o.area)
  | .csrc h o => some (wordOf 0x0CA h o.area)
  | .clock h o => some (wordOf 0x0CC h o.area)
  | .join h o => some (wordOf 0x0E0 h o.area)
  | .leave h o => some (wordOf 0x0E1 h o.area)
  | .gbar h o => some (wordOf 0x0E2 h o.area)
  | .gcount h o => some (wordOf 0x0E3 h o.area)
  | .role h o => some (wordOf 0x0E4 h o.area)
  | .regclaim h o => some (wordOf 0x0E5 h o.area)
  | .reggive h o => some (wordOf 0x0E6 h o.area)
  | .sleep h o => some (wordOf 0x0E7 h o.area)
  | .wake h o => some (wordOf 0x0E8 h o.area)
  | .prio h o => some (wordOf 0x0E9 h o.area)
  | .ld h o => some (wordOf 0x100 h o.area)
  | .st h o => some (wordOf 0x101 h o.area)
  | .lda h o => some (wordOf 0x102 h o.area)
  | .sta h o => some (wordOf 0x103 h o.area)
  | .lds h o => some (wordOf 0x104 h o.area)
  | .sts h o => some (wordOf 0x105 h o.area)
  | .ldt h o => some (wordOf 0x106 h o.area)
  | .stt h o => some (wordOf 0x107 h o.area)
  | .pref h o => some (wordOf 0x108 h o.area)
  | .recset h o => some (wordOf 0x109 h o.area)
  | .recget h o => some (wordOf 0x10A h o.area)
  | .recinv h o => some (wordOf 0x10B h o.area)
  | .recgen h o => some (wordOf 0x10C h o.area)
  | .spalloc h o => some (wordOf 0x10D h o.area)
  | .spfree h o => some (wordOf 0x10E h o.area)
  | .spfence h o => some (wordOf 0x10F h o.area)
  | .atom h o => some (wordOf 0x140 h o.area)
  | .cas h o => some (wordOf 0x141 h o.area)
  | .red h o => some (wordOf 0x142 h o.area)
  | .atoms h o => some (wordOf 0x143 h o.area)
  | .cass h o => some (wordOf 0x144 h o.area)
  | .reds h o => some (wordOf 0x145 h o.area)
  | .awinit h o => some (wordOf 0x146 h o.area)
  | .arrive h o => some (wordOf 0x147 h o.area)
  | .arrdrop h o => some (wordOf 0x148 h o.area)
  | .await h o => some (wordOf 0x149 h o.area)
  | .awtest h o => some (wordOf 0x14A h o.area)
  | .qinit h o => some (wordOf 0x14B h o.area)
  | .push h o => some (wordOf 0x14C h o.area)
  | .pop h o => some (wordOf 0x14D h o.area)
  | .trypush h o => some (wordOf 0x14E h o.area)
  | .trypop h o => some (wordOf 0x14F h o.area)
  | .qstat h o => some (wordOf 0x150 h o.area)
  | .acq h o => some (wordOf 0x160 h o.area)
  | .rel h o => some (wordOf 0x161 h o.area)
  | .acqr h o => some (wordOf 0x162 h o.area)
  | .fence h o => some (wordOf 0x163 h o.area)
  | .seal h o => some (wordOf 0x164 h o.area)
  | .unseal h o => some (wordOf 0x165 h o.area)
  | .frfit h o => some (wordOf 0x170 h o.area)
  | .frstat h o => some (wordOf 0x171 h o.area)
  | .frinit h o => some (wordOf 0x172 h o.area)
  | .snap h o => some (wordOf 0x173 h o.area)
  | .snapwait h o => some (wordOf 0x174 h o.area)
  | .llcstat h o => some (wordOf 0x175 h o.area)
  | .mma h o => some (wordOf 0x180 h o.area)
  | .mmas h o => some (wordOf 0x181 h o.area)
  | .mzero h o => some (wordOf 0x182 h o.area)
  | .mdrain h o => some (wordOf 0x183 h o.area)
  | .wload h o => some (wordOf 0x184 h o.area)
  | .winv h o => some (wordOf 0x185 h o.area)
  | .mstat h o => some (wordOf 0x186 h o.area)
  | .mwait h o => some (wordOf 0x187 h o.area)
  | .mcfg h o => some (wordOf 0x188 h o.area)
  | .mstepRd h o => some (wordOf 0x189 h o.area)
  | .mstepHalt h o => some (wordOf 0x189 h o.area)
  | .mstepGo h o => some (wordOf 0x189 h o.area)
  | .cpy h o => some (wordOf 0x1A0 h o.area)
  | .cpyt h o => some (wordOf 0x1A1 h o.area)
  | .cvttab h o => some (wordOf 0x1A2 h o.area)
  | .cpystat h o => some (wordOf 0x1A3 h o.area)
  | .launch h o => some (wordOf 0x1B0 h o.area)
  | .tlbinv h o => some (wordOf 0x1B1 h o.area)
  | .ctxsave h o => some (wordOf 0x1B2 h o.area)
  | .ctxload h o => some (wordOf 0x1B3 h o.area)
  | .frameret h o => some (wordOf 0x1B4 h o.area)
  | .fstore h o => some (wordOf 0x1C0 h o.area)
  | .fload h o => some (wordOf 0x1C1 h o.area)
  | .fred h o => some (wordOf 0x1C2 h o.area)
  | .frel h o => some (wordOf 0x1C3 h o.area)
  | .collOpen h o => some (wordOf 0x1C4 h o.area)
  | .collNext h o => some (wordOf 0x1C4 h o.area)
  | .collClose h o => some (wordOf 0x1C4 h o.area)
  | .fstat h o => some (wordOf 0x1C5 h o.area)
  | .vendorDebug h op a => some (wordOf (0x1F#5 ++ op) h a)
  | .fetchLine _ _ => none
  | .ageOverride _ _ => none
  | .yieldExpiry _ _ => none
  | .completion _ _ _ => none
  | .trapEntry _ _ => none
  | .crewEnd _ => none
  | .warpEnd _ _ => none
  | .claimGrant _ => none
  | .reggiveReturn _ _ _ => none
  | .sleepTimer _ _ _ => none
  | .clockGate _ => none
  | .coreWake _ _ => none
  | .deadlockReport _ _ => none
  | .registration _ => none
  | .homeRead _ => none
  | .writeBack _ => none
  | .sliceWrite _ => none
  | .lineFill _ => none
  | .drainLineSend _ _ => none
  | .snapshotFinish _ => none
  | .snapshotAbandon _ _ => none
  | .tileLockGrant _ => none
  | .tileCommit _ => none
  | .sequencerCommandStart _ _ => none
  | .engineStep _ _ => none
  | .drainPieceCount _ _ => none
  | .copyCommandStart _ _ => none
  | .copyPieceCount _ _ _ => none
  | .copyAbandon _ _ _ => none
  | .sproutJob _ _ => none
  | .faultRecordWrite _ => none
  | .frespRetry _ => none
  | .frespAbort _ => none
  | .dispatch _ => none
  | .rrejClear _ => none
  | .crewPlacement _ _ => none
  | .acornPlacement _ _ => none
  | .launchCompletion _ => none
  | .ctxsaveWithdraw _ => none
  | .warmStart => none
  | .coldStart => none
  | .packageReset _ => none
  | .imageFetchAttempt _ => none
  | .freeze => none
  | .scanReadout _ => none
  | .debugUnlock _ => none
  | .pathMonitorRead _ _ _ _ _ => none
  | .powerLimit _ => none
  | .thermalTrip => none
  | .hostBar2Access _ _ _ => none
  | .packetReceive _ => none
  | .markerGather _ _ _ => none
  | .retransmissionTimeout _ _ => none
  | .connectionFailure _ => none
  | .fabricAbandon _ _ => none
  | .reductionChunkCombine _ _ => none
  | .planAbort _ => none
  | .registerWrite _ _ => none
  | .acknowledgementArrival _ => none
  | .portLinkChange _ _ => none

end Sys2Proof
end

