-- ==== Sys2Proof/Config.lean ====
section
/-! DEFINITION. The free values of the spec (opaque, no body) and the constants an OBG-720 fixes. -/

namespace Sys2Proof

/-- The n-th undefined value of a run (R7): nothing constrains it. Assumption log 3. -/
opaque Config.freeWord : Nat → BitVec 64
/-- The poison bits of the n-th undefined value, where the producing rule leaves them open too (R93). Log 3. -/
opaque Config.freePoison : Nat → BitVec 2
/-- The n-th undefined predicate row (R25). Log 3. -/
opaque Config.freeMask : Nat → BitVec 32
/-- The FP16 parameters that Sprout's firmware chooses for the n-th fit (R395 step 2 is not architectural). Log 4. -/
opaque Config.fitParam : Nat → Nat → BitVec 16

/-- The multiplier of the filter hash and the seed constant (R67, R384). -/
def Config.golden : Nat := 0x9E3779B97F4A7C15
/-- Bytes of a crew's trap area (R181). -/
def Config.trapArea : Nat := 6272
/-- Highest legal scratchpad top (R195, R232). -/
def Config.spLimit : Nat := 720896
/-- Rows of a core's register pool (R209). -/
def Config.poolRows : Nat := 2048
/-- Cores, clusters and slices of a package (R1, R2). -/
def Config.cores : Nat := 1216
def Config.clusters : Nat := 152
def Config.slices : Nat := 384
/-- Cycles of a deadlock window (R221), a save's limit (R432), trap entry (R179), TRET (R184) and a wake (R218). -/
def Config.deadlockCycles : Nat := 4096
def Config.saveCycles : Nat := 1048576
/-- 100 ms at 1.05 GHz: a connection on which nothing is acknowledged for so long has failed (R444). -/
def Config.silenceCycles : Nat := 105000000
def Config.trapCycles : Nat := 40
def Config.tretCycles : Nat := 24
def Config.wakeCycles : Nat := 24
/-- PA of the control window (R404). -/
def Config.memTop : Nat := 0x040000000000

end Sys2Proof
end

