-- ==== Sys2Proof/Machine/Num.lean ====
section
/-! DEFINITION. Number formats, exact values, rounding and flags (03_numbers.md R51-R68, R75-R78). -/

namespace Sys2Proof.Machine

/-- The element types of R38. -/
inductive Ety where
  | i64 | i32 | i16 | i8 | n64 | n32 | n16 | n8 | f64 | f32 | f16 | bf16 | e4m3 | e5m2 | e2m1
  deriving DecidableEq, Repr

/-- The type of a TYPE code; 0xF has none (R38). -/
def etyOf (code : Nat) : Option Ety :=
  match code with
  | 0 => some .i64 | 1 => some .i32 | 2 => some .i16 | 3 => some .i8
  | 4 => some .n64 | 5 => some .n32 | 6 => some .n16 | 7 => some .n8
  | 8 => some .f64 | 9 => some .f32 | 10 => some .f16 | 11 => some .bf16
  | 12 => some .e4m3 | 13 => some .e5m2 | 14 => some .e2m1
  | _ => none

/-- Width w of a sub-element (R51). -/
def etyWidth (t : Ety) : Nat :=
  match t with
  | .i64 | .n64 | .f64 => 64
  | .i32 | .n32 | .f32 => 32
  | .i16 | .n16 | .f16 | .bf16 => 16
  | .i8 | .n8 | .e4m3 | .e5m2 => 8
  | .e2m1 => 4

/-- Number k of sub-elements of a register (R51). -/
def etyCount (t : Ety) : Nat := 64 / etyWidth t

/-- The i and n types (R53). -/
def etyIsInt (t : Ety) : Bool :=
  match t with
  | .i64 | .i32 | .i16 | .i8 | .n64 | .n32 | .n16 | .n8 => true
  | _ => false

/-- The i types are two's complement (R53). -/
def etySigned (t : Ety) : Bool :=
  match t with
  | .i64 | .i32 | .i16 | .i8 => true
  | _ => false

/-- The formats on which FTZ acts (R66). -/
def etyFlushes (t : Ety) : Bool :=
  match t with
  | .f64 | .f32 | .f16 | .bf16 => true
  | _ => false

/-- Fraction bits of a floating-point format (R54, R56). -/
def etyFrac (t : Ety) : Nat :=
  match t with
  | .f64 => 52 | .f32 => 23 | .f16 => 10 | .bf16 => 7 | .e4m3 => 3 | .e5m2 => 2 | .e2m1 => 1
  | _ => 0

/-- Exponent bits of a floating-point format (R54, R56). -/
def etyExp (t : Ety) : Nat := etyWidth t - 1 - etyFrac t

/-- Exponent bias of a floating-point format (R54, R56). -/
def etyBias (t : Ety) : Nat :=
  match t with
  | .f64 => 1023 | .f32 => 127 | .f16 => 15 | .bf16 => 127 | .e4m3 => 7 | .e5m2 => 15 | .e2m1 => 1
  | _ => 0

/-- The encoding of the largest finite magnitude (R54, R56). -/
def etyMax (t : Ety) : Nat :=
  match t with
  | .f64 => 0x7FEFFFFFFFFFFFFF | .f32 => 0x7F7FFFFF | .f16 => 0x7BFF | .bf16 => 0x7F7F
  | .e4m3 => 0x7E | .e5m2 => 0x7B | .e2m1 => 7
  | _ => 0

/-- The canonical NaN, and +0 for E2M1, which has none (R55, R65). -/
def etyNan (t : Ety) : Nat :=
  match t with
  | .f64 => 0x7FF8000000000000 | .f32 => 0x7FC00000 | .f16 => 0x7E00 | .bf16 => 0x7FC0
  | .e4m3 => 0x7F | .e5m2 => 0x7E
  | _ => 0

/-- The encoding of infinity where the format has one (R54, R56). -/
def etyInf (t : Ety) : Nat := etyMax t + 1

/-- The sign bit of a format. -/
def etySign (t : Ety) (neg : Bool) : Nat := if neg then 2 ^ (etyWidth t - 1) else 0

/-- An exact value: a NaN (signalling or not), an infinity, or (-1)^neg * m * 2^e. -/
inductive FVal where
  | nan (signalling : Bool)
  | inf (neg : Bool)
  | fin (neg : Bool) (m : Nat) (e : Int)
  deriving DecidableEq, Repr

/-- The value that a bit pattern of a format holds (R54, R56-R59). -/
def fDecode (t : Ety) (x : Nat) : FVal :=
  let mb := etyFrac t
  let neg := x.testBit (etyWidth t - 1)
  let mag := x % 2 ^ (etyWidth t - 1)
  let ex := mag >>> mb
  let frac := mag % 2 ^ mb
  let bias : Int := etyBias t
  let number :=
    if ex = 0 then FVal.fin neg frac (1 - bias - mb) else FVal.fin neg (2 ^ mb + frac) (ex - bias - mb)
  match t with
  | .e2m1 => number
  | .e4m3 => if mag = 0x7F then .nan false else number
  | _ => if ex = 2 ^ etyExp t - 1 then (if frac = 0 then .inf neg else .nan (!frac.testBit (mb - 1))) else number

/-- Whether a bit pattern is a subnormal of its format. -/
def fSubnormal (t : Ety) (x : Nat) : Bool :=
  let mag := x % 2 ^ (etyWidth t - 1)
  mag != 0 && mag < 2 ^ etyFrac t

/-- The value read under FTZ: a subnormal reads as a zero of its sign (R66). -/
def fInput (ftz : Bool) (t : Ety) (x : Nat) : FVal :=
  if ftz && etyFlushes t && fSubnormal t x then .fin (x.testBit (etyWidth t - 1)) 0 0 else fDecode t x

def FVal.isNan : FVal → Bool
  | .nan _ => true
  | _ => false
def FVal.isSignalling : FVal → Bool
  | .nan s => s
  | _ => false
def FVal.isInf : FVal → Bool
  | .inf _ => true
  | _ => false
def FVal.isZero : FVal → Bool
  | .fin _ m _ => m == 0
  | _ => false
def FVal.neg? : FVal → Bool
  | .nan _ => false
  | .inf n => n
  | .fin n _ _ => n
/-- The value with its sign inverted. -/
def FVal.flip : FVal → FVal
  | .nan s => .nan s
  | .inf n => .inf (!n)
  | .fin n m e => .fin (!n) m e

/-- Rounding modes (R69). -/
inductive RMode where
  | rne | rtz | rdn | rup
  deriving DecidableEq, Repr

/-- The mode of a two-bit code (R69). -/
def rmodeOf (c : Nat) : RMode :=
  match c with
  | 0 => .rne | 1 => .rtz | 2 => .rdn | _ => .rup

/-- How a result is rounded: mode, SAT and FTZ (R37). -/
structure RCtl where
  mode : RMode
  sat  : Bool
  ftz  : Bool
  deriving DecidableEq, Repr

/-- Round to nearest, no SAT, no FTZ. -/
def rcNear : RCtl := ⟨.rne, false, false⟩

/-- FPSTAT flags in their places (R70). -/
abbrev Flags := BitVec 7
def flNV : Flags := 1
def flDZ : Flags := 2
def flOF : Flags := 4
def flUF : Flags := 8
def flNX : Flags := 16
def flSATC : Flags := 32
def flE4NAN : Flags := 64
def flagIf (b : Bool) (f : Flags) : Flags := if b then f else 0

/-- A result's bits and the flags it raises. -/
structure FRes where
  bits  : Nat
  flags : Flags
  deriving DecidableEq, Repr

/-- An overflowing result (R64). -/
def fOverflow (t : Ety) (c : RCtl) (neg : Bool) : FRes :=
  let sgn := etySign t neg
  if c.sat then ⟨sgn + etyMax t, flSATC ||| flNX⟩
  else match t with
    | .e4m3 => ⟨0x7F, flOF ||| flNX ||| flE4NAN⟩
    | .e2m1 => ⟨sgn + 7, flOF ||| flNX⟩
    | _ =>
      let toInf := match c.mode with
        | .rne => true | .rtz => false | .rdn => neg | .rup => !neg
      ⟨sgn + (if toInf then etyInf t else etyMax t), flOF ||| flNX⟩

/-- An infinite result (R65). -/
def fInfinite (t : Ety) (c : RCtl) (neg : Bool) : FRes :=
  let sgn := etySign t neg
  if c.sat then ⟨sgn + etyMax t, flSATC⟩
  else match t with
    | .e4m3 => ⟨0x7F, flE4NAN⟩
    | .e2m1 => ⟨sgn + 7, flOF⟩
    | _ => ⟨sgn + etyInf t, 0⟩

/-- The NaN result of a format (R55, R65). -/
def fNan (t : Ety) (nv : Bool) : FRes := ⟨etyNan t, flagIf (nv || t = .e2m1) flNV⟩

/-- Divides m by 2^d and rounds to an integer by the mode; also says whether it was inexact. A d beyond the bits of m by
more than two places decides as two places do. -/
def shiftRound (mode : RMode) (neg : Bool) (m d : Nat) : Nat × Bool :=
  let d := min d (Nat.log2 m + 3)
  let n := m >>> d
  let r := m % 2 ^ d
  let up := match mode with
    | .rne => 2 * r > 2 ^ d || (2 * r = 2 ^ d && n % 2 = 1)
    | .rtz => false
    | .rdn => neg && r != 0
    | .rup => !neg && r != 0
  (if d = 0 then m else if up then n + 1 else n, d != 0 && r != 0)

/-- `round` of R63 for the finite value (-1)^neg * m * 2^e. -/
def fRound (t : Ety) (c : RCtl) (neg : Bool) (m : Nat) (e : Int) : FRes :=
  let sgn := etySign t neg
  if m = 0 then ⟨sgn, 0⟩ else
  let mb := etyFrac t
  let bias : Int := etyBias t
  let q : Int := max (e + Nat.log2 m) (1 - bias) - mb
  let nx := if q ≤ e then (m <<< (e - q).toNat, false) else shiftRound c.mode neg m (q - e).toNat
  let y := ((q + mb + bias - 1).toNat <<< mb) + nx.1
  if y > etyMax t then fOverflow t c neg
  else if c.ftz && etyFlushes t && y != 0 && y < 2 ^ mb then ⟨sgn, flUF ||| flNX⟩
  else ⟨sgn + y, flagIf nx.2 flNX ||| flagIf (nx.2 && y < 2 ^ mb) flUF⟩

/-- `round` of R63 for any exact value; a signalling NaN sets NV (R55). -/
def fRoundVal (t : Ety) (c : RCtl) (v : FVal) : FRes :=
  match v with
  | .nan s => fNan t s
  | .inf n => fInfinite t c n
  | .fin n m e => fRound t c n m e

/-- The signed integer of m under a sign. -/
def signedNat (neg : Bool) (m : Nat) : Int := if neg then -(m : Int) else m

/-- The least exponent of the nonzero terms. -/
def leastExp : List (Bool × Nat × Int) → Int
  | [] => 0
  | [(_, _, e)] => e
  | (_, m, e) :: t => if m = 0 then leastExp t else min e (leastExp t)

/-- The exact sum of terms as an integer at the exponent given. -/
def sumAt (e0 : Int) (ts : List (Bool × Nat × Int)) : Int :=
  ts.foldl (fun acc x => if x.2.1 = 0 then acc else acc + signedNat x.1 (x.2.1 <<< (x.2.2 - e0).toNat)) 0

/-- The exact sum of finite terms: an exact zero sum is +0, or -0 under RDN; a sum of terms that are all -0 is -0 in every mode (R63,
R126; DEDUCED, log 58). -/
def fExactSum (mode : RMode) (ts : List (Bool × Nat × Int)) : FVal :=
  let nz := ts.filter (fun x => x.2.1 != 0)
  if nz.isEmpty && !ts.isEmpty && ts.all (fun x => x.1) then .fin true 0 0
  else
    let e0 := leastExp nz
    let s := sumAt e0 nz
    if s = 0 then .fin (mode = .rdn) 0 0 else .fin (s < 0) s.natAbs e0

/-- The finite terms of a list of values. -/
def finTerms : List FVal → List (Bool × Nat × Int)
  | [] => []
  | .fin n m e :: t => (n, m, e) :: finTerms t
  | _ :: t => finTerms t

/-- The exact sum of values with NaN and infinities (R75, R125); the flag says that an operation had no numeric result: infinities of
both signs set it whether or not a quiet NaN stands beside them. -/
def fSum (mode : RMode) (vs : List FVal) : FVal × Bool :=
  let infs := vs.filter FVal.isInf
  let both := infs.any FVal.neg? && infs.any (fun v => !v.neg?)
  if vs.any FVal.isNan || both then (.nan false, both || vs.any FVal.isSignalling)
  else
    if infs.isEmpty then (fExactSum mode (finTerms vs), false)
    else (.inf (infs.any FVal.neg?), false)

/-- The exact product; infinity times zero is a signalling NaN here, so that it raises NV once rounded (R75, R125). -/
def fMul (a b : FVal) : FVal :=
  match a, b with
  | .nan s, .nan s' => .nan (s || s')
  | .nan s, _ => .nan s
  | _, .nan s => .nan s
  | .inf n, .inf n' => .inf (n != n')
  | .inf n, .fin n' m _ => if m = 0 then .nan true else .inf (n != n')
  | .fin n m _, .inf n' => if m = 0 then .nan true else .inf (n != n')
  | .fin n m e, .fin n' m' e' => .fin (n != n') (m * m') (e + e')

/-- The rounded exact sum of values (R75, R126). -/
def fSumRound (t : Ety) (c : RCtl) (vs : List FVal) : FRes :=
  match fSum c.mode vs with
  | (.nan _, nv) => fNan t nv
  | (.inf n, _) => fInfinite t c n
  | (.fin n m e, _) => fRound t c n m e

/-- Whether a < b for values that are not NaN. -/
def fLess (a b : FVal) : Bool :=
  match a, b with
  | .nan _, _ => false
  | _, .nan _ => false
  | .inf n, .inf n' => n && !n'
  | .inf n, .fin _ _ _ => n
  | .fin _ _ _, .inf n' => !n'
  | .fin n m e, .fin n' m' e' =>
    match fExactSum .rne [(n, m, e), (!n', m', e')] with
    | .fin s k _ => s && k != 0
    | _ => false

/-- Whether a = b for values that are not NaN; -0 equals +0 (R123). -/
def fEqual (a b : FVal) : Bool := !a.isNan && !b.isNan && !fLess a b && !fLess b a

/-- The greatest r with r * r <= n, found bit by bit from the given bit. -/
def isqrtFrom (n : Nat) : Nat → Nat → Nat
  | 0, r => r
  | k + 1, r => let r' := r + 2 ^ k; isqrtFrom n k (if r' * r' ≤ n then r' else r)

/-- Integer square root. -/
def isqrt (n : Nat) : Nat := isqrtFrom n (Nat.log2 n / 2 + 1) 0

/-- A magnitude of which only the digits above 2^e are known exactly: an odd last digit stands for the rest. -/
def withSticky (m : Nat) (e : Int) (sticky : Bool) : Nat × Int := (2 * m + (if sticky then 1 else 0), e - 1)

/-- 1/a rounded once (R133). -/
def fRecip (t : Ety) (c : RCtl) (a : FVal) : FRes :=
  match a with
  | .nan s => fNan t s
  | .inf n => ⟨etySign t n, 0⟩
  | .fin n 0 _ => let r := fInfinite t c n; ⟨r.bits, r.flags ||| flDZ⟩
  | .fin n m e =>
    let k := Nat.log2 m + etyFrac t + 4
    let q := withSticky (2 ^ k / m) (-(k : Int) - e) (2 ^ k % m != 0)
    fRound t c n q.1 q.2

/-- 1/sqrt(a) rounded once (R133). -/
def fRecipSqrt (t : Ety) (c : RCtl) (a : FVal) : FRes :=
  match a with
  | .nan s => fNan t s
  | .inf true => fNan t true
  | .inf false => ⟨0, 0⟩
  | .fin n 0 _ => let r := fInfinite t c n; ⟨r.bits, r.flags ||| flDZ⟩
  | .fin true _ _ => fNan t true
  | .fin false m e =>
    let m' := if e % 2 = 0 then m else 2 * m
    let e' := if e % 2 = 0 then e else e - 1
    let k := Nat.log2 m' + etyFrac t + 5
    let r := isqrt (2 ^ (2 * k) / m')
    let q := withSticky r (-(k : Int) - e' / 2) (r * r * m' != 2 ^ (2 * k))
    fRound t c false q.1 q.2

/-- The integral value chosen from a by the mode (R129). -/
def fIntegral (t : Ety) (mode : RMode) (x : Nat) (a : FVal) : FRes :=
  match a with
  | .nan s => fNan t s
  | .inf _ => ⟨x, 0⟩
  | .fin n m e =>
    if e ≥ 0 || m = 0 then ⟨(fRound t rcNear n m e).bits, 0⟩
    else ⟨(fRound t rcNear n (shiftRound mode n m (-e).toNat).1 0).bits, 0⟩

/-- floor(log2 |a|) as a value of the format (R130). -/
def fGetExp (t : Ety) (a : FVal) : FRes :=
  match a with
  | .nan s => fNan t s
  | .inf _ => ⟨etyInf t, 0⟩
  | .fin _ 0 _ => ⟨etySign t true + etyInf t, flDZ⟩
  | .fin _ m e =>
    let k : Int := e + Nat.log2 m
    ⟨(fRound t rcNear (k < 0) k.natAbs 0).bits, 0⟩

/-- a * 2^n rounded (R130); an infinity and a zero pass, SAT clamps the infinity (R125). -/
def fScale (t : Ety) (c : RCtl) (x : Nat) (a : FVal) (n : Int) : FRes :=
  match a with
  | .nan false => ⟨x, 0⟩
  | .nan true => fNan t true
  | .inf g => fInfinite t c g
  | .fin g m e => fRound t c g m (e + n)

/-- The class bit of R128. -/
def fClassBit (t : Ety) (x : Nat) : Nat :=
  match fDecode t x with
  | .nan true => 8
  | .nan false => 9
  | .inf true => 0
  | .inf false => 7
  | .fin n m _ =>
    if m = 0 then (if n then 3 else 4)
    else if fSubnormal t x then (if n then 2 else 5) else (if n then 1 else 6)

/-- minimumNumber and maximumNumber (R55, R127): returns the operand's bits. -/
def fMinMax (isMax : Bool) (ftz : Bool) (t : Ety) (x y : Nat) : FRes :=
  let zero := fun (z : Nat) => if ftz && fSubnormal t z then etySign t (z.testBit (etyWidth t - 1)) else z
  let x := zero x
  let y := zero y
  let a := fDecode t x
  let b := fDecode t y
  let nv := flagIf (a.isSignalling || b.isSignalling) flNV
  let aFirst := fLess a b || (fEqual a b && a.neg? && !b.neg?)
  let bits :=
    if a.isNan && b.isNan then etyNan t
    else if a.isNan then y
    else if b.isNan then x
    else if isMax then (if aFirst then y else x)
    else (if aFirst then x else if fEqual a b && !(b.neg? && !a.neg?) then x else y)
  ⟨bits, nv⟩

/-- Floating-point condition codes (R39); NV only for a signalling NaN (R123). -/
def fCond (cc : Nat) (a b : FVal) : Bool :=
  let un := a.isNan || b.isNan
  let eq := fEqual a b
  let lt := fLess a b
  let gt := fLess b a
  match cc with
  | 0 => eq | 1 => !un && !eq | 2 => lt | 3 => lt || eq | 4 => gt | 5 => gt || eq
  | 6 => !un | 7 => un
  | 8 => un || eq | 9 => un || !eq | 10 => un || lt | 11 => un || lt || eq | 12 => un || gt | 13 => un || gt || eq
  | _ => false

/-- Integer condition codes (R39). -/
def iCond (cc : Nat) (a b : Int) : Bool :=
  match cc with
  | 0 => a == b | 1 => a != b | 2 => a < b | 3 => a ≤ b | 4 => a > b | 5 => a ≥ b
  | _ => false

/-- Sub-element s of width w of a register value (R51). -/
def elemAt (w s : Nat) (x : Word) : Nat := (x.toNat >>> (w * s)) % 2 ^ w

/-- The value of a w-bit pattern at a signedness (R53). -/
def intOf (signed : Bool) (w x : Nat) : Int := if signed && x.testBit (w - 1) then (x : Int) - 2 ^ w else x

/-- The low w bits of an integer (R53). -/
def wrapTo (w : Nat) (x : Int) : Nat := (x % 2 ^ w).toNat

/-- The least and greatest value of an integer type (R53). -/
def intMin (signed : Bool) (w : Nat) : Int := if signed then -(2 ^ (w - 1)) else 0
def intMax (signed : Bool) (w : Nat) : Int := if signed then 2 ^ (w - 1) - 1 else 2 ^ w - 1

/-- `fit` of R104: wrap, or clamp with SATC. -/
def fitInt (sat signed : Bool) (w : Nat) (x : Int) : FRes :=
  if sat then
    let y := max (intMin signed w) (min (intMax signed w) x)
    ⟨wrapTo w y, flagIf (y != x) flSATC⟩
  else ⟨wrapTo w x, 0⟩

/-- Packs the sub-elements f 0 to f (n - 1) of width w, the lowest in the low bits (R51). -/
def packElems (w : Nat) (f : Nat → Nat) : Nat → Nat
  | 0 => 0
  | n + 1 => packElems w f n + ((f n) % 2 ^ w) <<< (w * n)

/-- A float to an integer type: rounds by the mode and always clamps (R65). -/
def fToInt (mode : RMode) (signed : Bool) (w : Nat) (a : FVal) : FRes :=
  match a with
  | .nan _ => ⟨0, flNV⟩
  | .inf n => ⟨wrapTo w (if n then intMin signed w else intMax signed w), flNV⟩
  | .fin n m e =>
    let big : Bool := e + Nat.log2 m > 70
    let r := if e ≥ 0 then (m <<< (min e.toNat 80), false) else shiftRound mode n m (-e).toNat
    let x : Int := signedNat n r.1
    if m = 0 then ⟨0, 0⟩
    else if big || x < intMin signed w || x > intMax signed w then
      ⟨wrapTo w (if n then intMin signed w else intMax signed w), flNV⟩
    else ⟨wrapTo w x, flagIf r.2 flNX⟩

/-- Stochastic rounding (R68) of a finite nonzero value with the draw u. -/
def fStochastic (t : Ety) (c : RCtl) (neg : Bool) (m : Nat) (e : Int) (u : Nat) : FRes :=
  let mb := etyFrac t
  let bias : Int := etyBias t
  let q : Int := max (e + Nat.log2 m) (1 - bias) - mb
  let sgn := etySign t neg
  let up : Bool × Bool × Nat :=
    if q ≤ e then (false, false, m <<< (e - q).toNat)
    else
      let d := (q - e).toNat
      let lo := if d > Nat.log2 m then 0 else m >>> d
      let rest := if d > Nat.log2 m then m else m % 2 ^ d
      let frac := if d > Nat.log2 m + 40 then 0 else (rest <<< 32) >>> d
      (frac + u ≥ 2 ^ 32, rest != 0, lo)
  let n := if up.1 then up.2.2 + 1 else up.2.2
  let y := ((q + mb + bias - 1).toNat <<< mb) + n
  if y > etyMax t then fOverflow t c neg
  else if c.ftz && etyFlushes t && y != 0 && y < 2 ^ mb then ⟨sgn, flUF ||| flNX⟩
  else ⟨sgn + y, flagIf up.2.1 flNX ||| flagIf (up.2.1 && y < 2 ^ mb) flUF⟩

/-- One draw of a generator (R67): the new state and the 32 bits u. -/
def genDraw (g : Word) : Word × Nat :=
  let g := g ^^^ (g >>> 12)
  let g := g ^^^ (g <<< 25)
  let g := g ^^^ (g >>> 27)
  (g, ((g * 0x2545F4914F6CDD1D#64) >>> 32).toNat)

/-- The generator of a thread at crew start (R67). -/
def genStart (vtid : Nat) : Word := BitVec.ofNat 64 ((vtid + 1) * Config.golden)

end Sys2Proof.Machine
end

