-- ==== Sys2Proof/Machine/FMap.lean ====
section
/-! DEFINITION. Sparse tables (FMap) and byte memory: lists of key and value pairs with the keys strictly rising. -/

namespace Sys2Proof.Machine

/-- The entry at a key, if there is one. -/
def fmFind {α : Type} (m : FMap α) (k : Nat) : Option α :=
  match m with
  | [] => none
  | (k', v) :: t => if k' = k then some v else fmFind t k

/-- The value at a key, or the default. -/
def fmGet {α : Type} (d : α) (m : FMap α) (k : Nat) : α := (fmFind m k).getD d

/-- Puts a value at a key, keeping the keys rising. -/
def fmPut {α : Type} (m : FMap α) (k : Nat) (v : α) : FMap α :=
  match m with
  | [] => [(k, v)]
  | (k', v') :: t => if k' < k then (k', v') :: fmPut t k v else if k' = k then (k, v) :: t else (k, v) :: (k', v') :: t

/-- Takes a key out of a table. -/
def fmErase {α : Type} (m : FMap α) (k : Nat) : FMap α := m.filter (fun e => e.1 != k)

/-- Puts a value at a key, or takes the key out where the value is the default: the canonical form is kept. -/
def fmSet {α : Type} [DecidableEq α] (d : α) (m : FMap α) (k : Nat) (v : α) : FMap α :=
  if v = d then fmErase m k else fmPut m k v

/-- Applies a function to the value at a key. -/
def fmMod {α : Type} (d : α) (m : FMap α) (k : Nat) (f : α → α) : FMap α := fmPut m k (f (fmGet d m k))

/-- The keys of a table rise strictly. -/
def fmSorted {α : Type} : FMap α → Bool
  | [] => true
  | [_] => true
  | a :: b :: t => a.1 < b.1 && fmSorted (b :: t)

/-- Byte memory: what an unlisted address reads as is zero (assumption log 1). -/
abbrev Memory := FMap Byte

/-- What an unlisted address reads as. -/
def memDefault : Byte := 0

/-- The canonical form: addresses strictly rising and no entry equal to what an unlisted address reads as. -/
def Memory.wf (m : Memory) : Bool := fmSorted m && m.all (fun e => e.2 != memDefault)

/-- The byte at an address. -/
def memGet (m : Memory) (a : Nat) : Byte := fmGet memDefault m a
/-- Memory with one byte replaced. -/
def memSet (m : Memory) (a : Nat) (b : Byte) : Memory := fmSet memDefault m a b

/-- Reads n little-endian bytes as a number (R4). -/
def memRead (m : Memory) (a : Nat) : Nat → Nat
  | 0 => 0
  | n + 1 => (memGet m a).toNat + 256 * memRead m (a + 1) n

/-- Writes the low n bytes of a number, little-endian (R4). -/
def memWrite (m : Memory) (a : Nat) (v : Nat) : Nat → Memory
  | 0 => m
  | n + 1 => memSet (memWrite m (a + 1) (v / 256) n) a (BitVec.ofNat 8 v)

end Sys2Proof.Machine
end

