-- ==== Sys2Proof/Machine/State.lean ====
section
/-! DEFINITION. The state of an OBG-720 package as plain data, and the state after reset (04_threads.md R82-R84,
08_core_groups.md R193, 13_die_cache.md R326, 16_package.md R405; INVENTORY.md lists every piece with its rule). -/

namespace Sys2Proof.Machine

/-- A lane's register contents: 64 bits and one poison bit per half (R51, R72). -/
structure Lane where
  val : Word
  poi : BitVec 2
  deriving DecidableEq, Repr

/-- Zero, clean. -/
def Lane.zero : Lane := ⟨0, 0⟩

/-- One register of a warp: 32 lanes, lane 0 first. -/
abbrev Row := List Lane

/-- One predicate of a warp: its value and poison in each lane (R82). -/
structure PRow where
  val : Mask
  poi : Mask
  deriving DecidableEq, Repr

/-- The PC table of a warp (R84): PC, live bit and skip count of each lane. -/
structure PcTable where
  pcs   : List Word
  live  : Mask
  skips : List Nat
  deriving DecidableEq, Repr

/-- The stage of a trap (R188). -/
inductive Stage where
  | decode | execution | late
  deriving DecidableEq, Repr

/-- A trap that a warp holds (R177): what trap entry will write. `slots` holds the operand values where they were fixed at
issue or by the log (R183); otherwise they are read at entry. -/
structure TrapRec where
  cause : Nat
  stage : Stage
  late  : Bool
  info  : Word
  pc    : Word
  act   : Mask
  exec  : Mask
  word  : IWord
  slots : Option (List Row)
  cycle : Nat
  deriving DecidableEq, Repr

/-- One memory element that an instruction reads or writes: its number (the lane), its address, its size in bytes, its bytes
as far as they are known, and whether memory reported any of them uncorrectable. -/
structure Elem where
  idx   : Nat
  addr  : Nat
  n     : Nat
  val   : Nat
  known : Nat
  bad   : Bool
  deriving DecidableEq, Repr

/-- Where the elements of a load go. -/
inductive Sink where
  /-- lanes of a register, with sign extension for an i type (R241) -/
  | reg (signed : Bool) (pair : Bool)
  /-- the core's codebook table (R144) -/
  | codebook
  /-- the shadow bank of an activation table (R149) -/
  | actTable (table : Nat)
  deriving DecidableEq, Repr

/-- A register that an incomplete instruction writes: where (256 + k names the trap bank), in which lanes, the values when
they are known, and the lanes that another write has made undefined (R25). -/
structure RegWr where
  reg  : Nat
  mask : Mask
  row  : Row
  clob : Mask
  deriving DecidableEq, Repr

/-- A predicate that an incomplete instruction writes (R25). -/
structure PredWr where
  pred : Nat
  mask : Mask
  val  : Mask
  poi  : Mask
  clob : Mask
  deriving DecidableEq, Repr

/-- A request to the group unit (R201). -/
inductive GrpReq where
  | join | leave | gbar | gcount | role (index : Nat) | exit
  deriving DecidableEq, Repr

/-- The kind of an operation at a word's home (R246, R247). -/
inductive AtomKind where
  | op (code : Nat) | cas
  deriving DecidableEq, Repr

/-- One lane's operation at a word's home: the address, the operand, the expected value of a CAS. -/
structure AtomEl where
  idx    : Nat
  addr   : Nat
  b      : Nat
  expect : Nat
  deriving DecidableEq, Repr

/-- What a memory instruction does with its elements. -/
inductive MemKind where
  | load (sink : Sink) | store | atom (kind : AtomKind) | red (op : Nat) | prefetch
  /-- RECSET and RECGEN on the record in memory (R239) -/
  | recSet | recGen
  deriving DecidableEq, Repr

/-- One lane's access: its lane, its virtual or crew address, its translated address, its operand and expected value. -/
structure MemEl where
  idx    : Nat
  va     : Nat
  pa     : Nat
  data   : Nat
  expect : Nat
  deriving DecidableEq, Repr

/-- Where an access goes: memory through L1, memory at the home slice, or the scratchpad of a crew. -/
inductive Space where
  | cached | home | scratch (crew : Nat)
  deriving DecidableEq, Repr

/-- A memory instruction after its checks, as the operand log records it (R189) and as it is performed. -/
structure MemOp where
  kind  : MemKind
  ety   : Nat
  size  : Nat
  space : Space
  /-- installs in L1 on a miss (R226) -/
  fills : Bool
  /-- HINT 10 (R226) -/
  keep  : Bool
  /-- fills words as Sealed (R256) -/
  seals : Bool
  /-- the value goes to both lanes of a pair (R95) -/
  pair  : Bool
  /-- the record's copy, where the access goes through one (R236) -/
  tensor : Option (BitVec 256)
  els   : List MemEl
  /-- VA of the lowest lane whose translation failed when it was last tried (R188) -/
  fail  : Option Nat
  deriving DecidableEq, Repr

/-- A context's descriptor as a crew holds it, CSRs 0x400 to 0x407 (R407). -/
structure CtxRegs where
  heapb  : Word
  heapl  : Word
  heapo  : Word
  ptbr   : Word
  asid   : Word
  trtb   : Word
  trtn   : Word
  ctxpri : Word
  /-- the device ring (R406) and the fabric word of the descriptor (R445) -/
  dring  : Nat
  fabric : Word
  deriving DecidableEq, Repr

/-- A command of the sequencer (R284) with what it captured at issue: record copies, handles, the target crews. -/
inductive MxKind where
  /-- MMA, MMAS: scaled, slot, first K-block of B, K-blocks, A record and crew, A and B handles, A's scale record and crew, format -/
  | mma (scaled : Bool) (slot kb0 kn : Nat) (ra : BitVec 256) (crew ha hb : Nat) (rs : BitVec 256) (screw fmt : Nat)
  | mzero (mask : Nat)
  /-- slot, X, first row, arrival word, destination record, its crew, scale record and crew -/
  | mdrain (slot x row0 arr : Nat) (rd : BitVec 256) (crew : Nat) (rs : BitVec 256) (screw : Nat)
  /-- handle, record, buffer offset, scale record -/
  | wload (h : Nat) (r : BitVec 256) (off : Nat) (rs : Option (BitVec 256))
  /-- handle and VA of a codebook table -/
  | wcb (h va : Nat)
  | winv (h : Option Nat)
  deriving DecidableEq, Repr

/-- A command of a copy engine (R307) as accepted: the issuer and its instruction, the records with the crews of class-5 ones, the
geometry, the conversion, and how far it has come. -/
structure CpyCmd where
  id      : Nat
  key     : Nat
  op      : Nat
  crew    : Nat
  word    : BitVec 96
  pc      : BitVec 64
  act     : BitVec 32
  exec    : BitVec 32
  /-- the handler issued it (R185) -/
  tm      : Bool
  cregs   : CtxRegs
  ctx     : Nat
  /-- CVTTAB: the table and the VA of its source -/
  table   : Option (Nat × Nat)
  rect    : Bool
  hd      : Nat
  hs      : Nat
  rd      : BitVec 256
  rs      : BitVec 256
  dcrew   : Option Nat
  screw   : Option Nat
  /-- F and X of the mode (R312) -/
  f       : BitVec 8
  x       : BitVec 8
  /-- elements per row and rows; a CPY is one row -/
  cols    : Nat
  rows    : Nat
  /-- byte offsets, or origins (row, column), of source and destination -/
  so      : Nat × Nat
  dst     : Nat × Nat
  arr     : Option (Nat × Nat)
  started : Bool
  /-- elements read -/
  moved   : Nat
  /-- source words read that elements still to come need too, by address / 8 (R315), and destination bytes of words that are not complete
  (R316) -/
  seen    : FMap (Nat × Bool)
  held    : List (Nat × BitVec 8 × Bool)
  /-- bytes written and not counted (R317) -/
  due     : Nat
  flags   : BitVec 7
  deriving DecidableEq, Repr

/-- A snapshot (R347, R350): its issuer and instruction, the records, the physical lines of the source once the slices have entered
it, the destination (an offset of the fabric window where it goes to a peer), the arrival word, the lines sent and those that a
peer has not acknowledged. -/
structure Snap where
  active    : Bool
  abandoned : Bool
  key       : Nat
  op        : Nat
  crew      : Nat
  ctx       : Nat
  cregs     : CtxRegs
  handle    : Nat
  dstHandle : Nat
  word      : BitVec 96
  pc        : BitVec 64
  act       : BitVec 32
  exec      : BitVec 32
  tm        : Bool
  base      : Nat
  len       : Nat
  src       : List Nat
  dst       : Nat
  fabric    : Bool
  arr       : Option Nat
  sent      : List Nat
  unacked   : List Nat
  deriving DecidableEq, Repr

/-- One element of a tile in range: its VA, its address in memory and its crew address (R354). -/
structure TileEl where
  va : Nat
  pa : Nat
  sp : Nat
  deriving DecidableEq, Repr

/-- A tile instruction past its checks (R356). -/
structure Tile where
  id     : Nat
  unit   : Nat
  key    : Nat
  op     : Nat
  store  : Bool
  /-- HINT 01 (R361) -/
  low    : Bool
  /-- reads L1 and takes no lock (R375), and keeps what it fills (R361) -/
  sealed : Bool
  keep   : Bool
  /-- is an LDT of HINT 00 or 10 (R361); through a record of COH 2 -/
  seals  : Bool
  coh2   : Bool
  asid   : Nat
  /-- VA of element (0, 0) and lane L -/
  va0    : Nat
  lane   : Nat
  crew   : Nat
  es     : Nat
  els    : List TileEl
  /-- crew addresses that receive zero (R356) -/
  zeros  : List Nat
  /-- what an STT has read from the banks, with marks, in the order of els -/
  data   : List (Nat × Bool)
  /-- slices that have not granted their lock, ascending -/
  todo   : List Nat
  deriving DecidableEq, Repr

/-- What a fabric command does (R449, R459). -/
inductive FabKind where
  | store | load
  /-- a contribution to a chunk of a plan slot in an epoch -/
  | reduce (slot chunk epoch : Nat)
  deriving DecidableEq, Repr

/-- A fabric command as accepted (R450): the issuer and its instruction, the connection (none for a contribution), the handle hR, the
local record with its crew, offsets and length, the arrival word, the bytes read or written so far. -/
structure FabCmd where
  id     : Nat
  key    : Nat
  op     : Nat
  crew   : Nat
  word   : BitVec 96
  pc     : BitVec 64
  act    : BitVec 32
  exec   : BitVec 32
  tm     : Bool
  cregs  : CtxRegs
  ctx    : Nat
  kind   : FabKind
  conn   : Option Nat
  hr     : Nat
  rl     : BitVec 256
  lcrew  : Option Nat
  /-- offset at the peer and offset in the local record -/
  ro     : Nat
  lo     : Nat
  len    : Nat
  arr    : Option Nat
  moved  : Nat
  /-- FLOAD: the PSN of its read request, once that is sent; bytes written and not counted -/
  req    : Option Nat
  due    : Nat
  refused : Bool
  data   : List (BitVec 64 × Bool)
  deriving DecidableEq, Repr

/-- A request of a unit's bank operation on an arrival word (R250). -/
inductive ArrKind where
  | init (target : Nat) | arrive (c : Nat) | drop (c : Nat) | await (g : Nat) | test
  deriving DecidableEq, Repr

/-- A queue operation (R255). -/
inductive QueueKind where
  | push | pop
  deriving DecidableEq, Repr

/-- An entry of the queue table (R252). -/
structure QueueEnt where
  qcw  : Nat
  base : Nat
  d    : Nat
  size : Nat
  deriving DecidableEq, Repr

/-- What an incomplete instruction still has to do (R24). -/
inductive Late where
  /-- nothing: it completes at its cycle -/
  | done
  /-- reads a CSR that a unit holds (R172) -/
  | csrRead (csr : Nat)
  /-- writes a CSR that a unit holds: operation and sources (R174) -/
  | csrWrite (csr op : Nat) (srcs : List Word)
  /-- a TRET that waits for the counters (R184) -/
  | tret
  /-- an EXIT of a handler that waits for the counters before it ends the crew (R185) -/
  | handlerExit
  /-- a request that the group unit has not applied (R201) -/
  | group (g : Nat) (r : GrpReq)
  /-- a GBAR whose lanes wait, some of them for the next phase (R203) -/
  | groupWait (g : Nat) (waiting held : Mask)
  /-- a ROLE: the crew's warps that have not switched (R207) -/
  | role (index : Nat) (warps : List Nat)
  /-- a claim of rows in the core's queue (R210) -/
  | claim (rows : Nat)
  /-- rows from a register on that have not returned (R211) -/
  | give (reg rows : Nat)
  /-- asleep (R215) -/
  | sleep
  /-- a load with elements that are not all known -/
  | load (els : List Elem) (sink : Sink)
  /-- waits for so many replies from home slices -/
  | replies (n : Nat)
  /-- an access on its way to the banks (R230) -/
  | banks (m : MemOp)
  /-- parked in the operand log (R189) -/
  | parked (m : MemOp) (slots : List Row)
  /-- an access past its translations that waits for its turn at L1 (R102, R271, log 66) -/
  | held (m : MemOp)
  /-- an arrival operation that waits for the warp's earlier scratchpad accesses (R251) -/
  | arrival (crew : Nat) (k : ArrKind) (els : List MemEl)
  /-- lanes of an AWAIT that have not been released (R250) -/
  | await (crew g : Nat) (els : List MemEl)
  /-- a queue operation that has not reached its queue (R255) -/
  | queueReq (crew q : Nat) (k : QueueKind) (data : List (List Lane))
  /-- a queue operation that waits in its queue (R255) -/
  | queueWait (crew q : Nat) (k : QueueKind) (data : List (List Lane))
  /-- TRYPUSH, TRYPOP and QSTAT on their way (R255) -/
  | queueTry (crew q : Nat) (k : QueueKind) (data : List (List Lane))
  | queueStat (crew q : Nat)
  /-- an Acorn's push that has reserved its element in ALLOW (R253, R278), a QINIT on its way (R255) -/
  | queuePut (crew q : Nat) (data : List (List Lane))
  | queueInit (crew q : Nat) (e : QueueEnt)
  /-- ACQR at a target core (R268) -/
  | acqr (core : Nat)
  | rel (eng : Bool)
  | fence
  | spfence (base len : Nat)
  /-- SPALLOC of bytes, and SPFREE that has lowered the top and waits for earlier accesses (R232) -/
  | spalloc (n : Nat)
  | spfree
  /-- a region load or store (R387, R389): record copy, handle, type code, lanes with their coordinates and data; the 64 KiB
  pages that it holds while it is in the operand log -/
  | region (h : Nat) (r : BitVec 256) (store : Bool) (els : List MemEl) (held : List Nat) (slots : List Row)
  /-- FRFIT or FRINIT that waits for room in Sprout's queue: handle, PBLK of its record copy, source, whether it waits for the job; one
  that waits for its job, and one whose job has ended with an outcome (R400, R401) -/
  | fitQueue (h pblk : Nat) (init : Option Nat) (wait : Bool)
  | fitWait (h : Nat)
  | fitDone (h out : Nat)
  /-- SEAL of a range (R343): base, length, handle, whether it installs an entry, and once that is done the number of the next operation
  then; UNSEAL of a range (R344) -/
  | sealing (base len h : Nat) (entry : Bool) (mark : Option Nat)
  | unsealing (base len : Nat)
  /-- LLCSTAT: the slices to be read, and the words summed so far (R339) -/
  | llcstat (todo : List Nat) (acc : List Nat)
  /-- SNAP, with the id that it has taken (R347), and SNAPWAIT (R351) -/
  | snapStart (x : Snap) (id : Option Nat)
  | snapWait (id : Nat) (op : Option Nat)
  /-- LDT or STT in the operand log (R370), one that waits for its turn at L1 (R102), and one that has not released its locks; true while
  it still has to read or write the scratchpad (R356, R357) -/
  | tilePark (t : Tile) (slots : List Row)
  | tileHeld (t : Tile)
  | tile (id : Nat) (banks : Bool)
  /-- ACTSW at a table (R150) -/
  | actSwap (table : Nat)
  /-- a matrix command that waits for room in the sequencer's queue (R284), MWAIT for the commands it names (R295), MSTAT and MSTEP.rd
  on their way, MSTEP.halt (R296) -/
  | mxQueue (k : MxKind)
  | mxWait (cmds : List Nat)
  | mxStat
  | mxRead
  | mxHalt
  /-- a copy command that waits for room in the engine's queue (R307), CPYSTAT with its .w and .clr (R322) -/
  | cpyQueue (c : CpyCmd)
  | cpyStat (cmds : List Nat) (clr : Bool)
  /-- LAUNCH of the record at a VA with the end of its EXTENT (R428): it waits as REL with ENG, then reads, then for room; the record
  once read; the 64 KiB pages that it holds while it is in the operand log -/
  | launch (va limit : Nat) (nb : Bool) (slots : List Row) (rec? : Option (List Nat)) (held : List Nat)
  /-- TLBINV in progress: ASID and range (R416) -/
  | tlbinv (scope : Option (Nat × Nat × Nat))
  /-- FRAMERET: PA of the PTE, frame, ASID, VA; past its first step, the translations are being removed (R419) -/
  | frameret (pte frame asid va : Nat) (since : Option Nat)
  /-- CTXSAVE: base and extent of the image record, the target; once found, the crew that is being stopped (R432, R435) -/
  | ctxsave (base ext target : Nat) (crew : Option Nat)
  /-- CTXLOAD: base and extent of the image record (R438) -/
  | ctxload (base ext : Nat)
  /-- a fabric command that waits for room (R450), an FSTORE or FRED whose words are being read -/
  | fabQueue (c : FabCmd)
  | fabRead (id : Nat)
  /-- FREL: the connections that it releases, each with its limit once the markers are sent (R453) -/
  | frel (all : Bool) (slot : Nat) (sent : Option (List (Nat × Nat)))
  /-- COLL.next and COLL.close of a slot (R458), FSTAT of a slot (R462) -/
  | collNext (slot : Nat)
  | collClose (slot : Nat)
  | fabStat (slot : Option Nat)
  deriving DecidableEq, Repr

/-- An instruction that has issued and has not completed (R24, R87). -/
structure Pend where
  op    : Nat
  word  : IWord
  pc    : Word
  act   : Mask
  exec  : Mask
  ctrs  : List Nat
  mpipe : Bool
  /-- the handler issued it (R185) -/
  tm    : Bool
  /-- earliest cycle of its next step -/
  ready : Nat
  late  : Late
  regs  : List RegWr
  preds : List PredWr
  /-- the operand slots as they read at its issue (R183) -/
  slots : List Row
  /-- the context CSRs at its issue: a later CSRW changes no access that has issued (R407) -/
  cregs : CtxRegs
  deriving DecidableEq, Repr

/-- Sleep state of a warp or half (R215, R216). -/
structure Sleep where
  asleep : Bool
  until? : Option Nat
  wakePending : Bool
  deriving DecidableEq, Repr

/-- One resident warp (R82, R84); an Acorn is a warp whose only lane is lane 0 (R274). -/
structure Warp where
  crew      : Nat
  widx      : Nat
  c16       : Bool
  prot      : Bool
  pt        : PcTable
  regs      : FMap Row
  preds     : List PRow
  gens      : List Word
  genPoi    : Mask
  /-- completion counters 0 to 11, then those of the upper half in C16 mode (R98) -/
  ctrs      : List Nat
  /-- for each counter, the cycle from which WAIT finds it zero once it is zero (R23) -/
  zeroFrom  : List Nat
  allot     : Nat
  fpmode    : Word
  fpstat    : Word
  /-- flags that instructions in flight set when they complete: the cycle, and the flags (R70) -/
  flagsDue  : List (Nat × BitVec 7)
  prio      : Nat
  /-- cycle from which the DIST-free floor of the last issue has passed, and that issue's cycle (R27) -/
  lastIssue : Option Nat
  lastFloor : Nat
  stopLo    : Bool
  stopHi    : Bool
  /-- cycle at which every fixed-latency instruction has passed its floor (R28) -/
  drainAt   : Nat
  /-- cycle before which the warp does not issue: YIELD, trap entry, TRET, a wake (R170, R179, R184, R218) -/
  holdUntil : Nat
  age       : Nat
  /-- the cycle in which it last was eligible at a choice of its quad that took another warp (R86) -/
  seen      : Option Nat
  tm        : Bool
  bken      : Bool
  tvec      : Word
  tcause    : Word
  tpc       : Word
  tmask     : Word
  tframe    : Word
  tinst     : IWord
  /-- the threads' PC table while the handler runs (R180) -/
  saved     : PcTable
  traps     : List TrapRec
  sleepLo   : Sleep
  sleepHi   : Sleep
  role      : Nat
  pend      : List Pend
  /-- fetch buffer: the line's address and its 64 bytes (R15) -/
  fetch     : Option (Nat × BitVec 512)
  /-- the ASID under which the line in the fetch buffer was translated (R416) -/
  fetchAsid : Nat
  /-- the second slot of a pair may still issue in this cycle (R19): its PC and active set -/
  pairNext  : Option (Word × Mask)
  /-- the cycle in which its candidate was last tried at issue: it is tried once a cycle -/
  tried     : Option Nat
  /-- no M-pipe instruction issues before this operation has completed: ACQ, ACQR, FENCE (R266) -/
  blockM    : List Nat
  /-- entries of a restored log that have not been started again, in issue order (R433) -/
  restoring : List Nat
  /-- rows granted to the warp under ROLE that it has not taken: it switches after its TRET (R208) -/
  granted : Nat
  /-- switching under ROLE (R207) -/
  switching : Option Nat
  /-- copy flags and FLT (R322) -/
  cpyFlags  : BitVec 7
  cpyFlt    : Bool
  /-- FLUSHW.FAIL and the sent set (R453, R464) -/
  fabFail   : Bool
  fabPeers  : List Nat
  deriving DecidableEq, Repr

/-- One quad: its trap bank (R180), the cycle in which it last issued and the cycle to which its A pipe is held (R46). -/
structure Quad where
  bank   : FMap Row
  issued : Option Nat
  aHold  : Nat
  deriving DecidableEq, Repr

/-- One group of a crew (R203): members and arrived threads of each warp of the crew. -/
structure Group where
  members : List Mask
  arrived : List Mask
  deriving DecidableEq, Repr

/-- A role entry (R206). -/
structure RoleEnt where
  entry : Word
  regs  : Nat
  cls   : Nat
  deriving DecidableEq, Repr

/-- An entry of a kernel's side table (R429): the PC of the slot, the live registers and predicates. -/
structure SafePoint where
  pc    : Nat
  live  : BitVec 240
  plive : BitVec 7
  deriving DecidableEq, Repr

/-- What the core reports of a crew that it ends (R185, R413): cause, TPC, INFO, the warp's slot. -/
structure Ending where
  cause : Nat
  tpc   : Word
  info  : Word
  slot  : Nat
  deriving DecidableEq, Repr

/-- One resident crew (R193). -/
structure Crew where
  unit    : Nat
  launch  : Nat
  /-- ring and LAUNCHID of the launch (R422) -/
  ring    : Nat
  lid     : Nat
  /-- the launch that an Acorn launch names through AFTER (R235, R422) -/
  after   : Option (Nat × Nat)
  vcrew   : Nat
  sys     : Bool
  ctx     : Nat
  cregs   : CtxRegs
  dlx     : Bool
  regs0   : Nat
  ngroups : Nat
  spBytes : Nat
  nqueues : Nat
  nroles  : Nat
  /-- quad * 8 + slot of each warp of the crew -/
  slots   : List Nat
  groups  : List Group
  roles   : List RoleEnt
  queues  : List (Option QueueEnt)
  /-- an Acorn program's queue table: handles of class-6 records (R275) -/
  qhandles : List Nat
  sp      : Memory
  spBad   : FMap Bool
  top     : Nat
  /-- bytes of scratchpad that are pinned: more than the top while an SPFREE waits (R232) -/
  pins    : Nat
  place   : Nat
  /-- first cycle since which the deadlock conditions hold (R221) -/
  blocked : Option Nat
  /-- safe points of its kernel (R429), and the cycle of a pre-emption request (R432) -/
  safe    : List SafePoint
  preempt : Option Nat
  /-- the core is ending the crew (R185) -/
  ending  : Option Ending
  deriving DecidableEq, Repr

/-- A line of L1 (R226, R256): line number, data, the word masks of the states, the bytes that hold a value, the words
marked uncorrectable, and the Copy words that an operation of the core at their home has overtaken (R99, log 65). -/
structure L1Line where
  data   : Line
  copy   : BitVec 32
  owned  : BitVec 32
  sealed : BitVec 32
  stale  : BitVec 32
  known  : BitVec 128
  bad    : BitVec 16
  stamp  : Nat
  keep   : Bool
  /-- its stores send no registration: an object-table entry covers it (R373) -/
  obj    : Bool
  deriving DecidableEq, Repr

/-- A claim in the core's queue (R209). -/
structure Claim where
  key  : Nat
  op   : Nat
  rows : Nat
  deriving DecidableEq, Repr

/-- An entry of a record cache (R236). -/
structure RecEnt where
  handle : Nat
  data   : BitVec 256
  deriving DecidableEq, Repr

/-- One activation table: the two banks, values in the order lo, iw, a0, b0, a1, ... with poison (R147). -/
structure ActTable where
  cur    : FMap (BitVec 32 × Bool)
  shadow : FMap (BitVec 32 × Bool)
  /-- cycle before which the shadow bank may not be written (R149) -/
  busy   : Nat
  /-- last cycle in which an ACT read the current bank -/
  read   : Nat
  /-- the cycle at whose end the banks were last exchanged (R150) -/
  swapped : Option Nat
  deriving DecidableEq, Repr

/-- One core (R193). -/
structure Core where
  l1       : FMap L1Line
  l1Clock  : Nat
  poolFree : Nat
  claims   : List Claim
  /-- earliest cycle in which the pool grants its head claim (R209) -/
  poolAt   : Nat
  waker    : Word
  deadlk   : Word
  gated    : Bool
  /-- cycle before which no warp of the core issues after a wake (R218) -/
  wakeAt   : Nat
  /-- the codebook table; none is the default table (R143) -/
  codebook : Option (FMap (BitVec 24 × Bool))
  act      : List ActTable
  recs     : List RecEnt
  deriving DecidableEq, Repr

/-- A directory entry of the weight buffer (R281). -/
structure WeightEnt where
  handle : Nat
  gen    : Nat
  off    : Nat
  len    : Nat
  fmt    : Nat
  k      : Nat
  n      : Nat
  scales : Bool
  deriving DecidableEq, Repr

/-- An A slab of the operand cache (R282): its tag, the place of its bytes in the crew, and its rows with the poison of each element. -/
structure Slab where
  core   : Nat
  crew   : Nat
  handle : Nat
  gen    : Nat
  g      : Nat
  b      : Nat
  base   : Nat
  stride : Nat
  bytes  : Nat
  rows   : List (Nat × BitVec 32)
  deriving DecidableEq, Repr

/-- An accepted command that has not finished (R284): its instruction's word and PC, started, the K-block and row group to run next, the bytes
that an MDRAIN has written and not counted, and whether a trap handler issued it (R185). -/
structure MxCmd where
  id      : Nat
  kind    : MxKind
  word    : IWord
  pc      : Word
  cregs   : CtxRegs
  ctx     : Nat
  started : Bool
  kb      : Nat
  rg      : Nat
  left    : Nat
  tm      : Bool
  deriving DecidableEq, Repr

/-- One cluster: the context it holds (R194), its record cache (R236), the sequencer and its stores (R273, R280-R282, R297, R302), the
copy engine (R307, R320, R324). -/
structure Cluster where
  ctx      : Option Nat
  recs     : List RecEnt
  /-- multiplier format (R286) -/
  fmt      : Nat
  cmds     : List MxCmd
  halted   : Bool
  steps    : Nat
  mxerr    : Word
  acc      : List (FMap (BitVec 32 × Bool))
  wdir     : List WeightEnt
  wbuf     : Memory
  wbad     : FMap Bool
  decoder  : Option (FMap (BitVec 24 × Bool))
  slabs    : List Slab
  copies   : List CpyCmd
  nextCmd  : Nat
  tables   : List (FMap (BitVec 16 × Bool))
  cpyerr   : Word
  deriving DecidableEq, Repr

/-- A job in a Sprout's queue (R394): context, handle, the source of an FRINIT, and the incomplete instructions that wait for it. -/
structure SproutJob where
  ctx     : Nat
  cregs   : CtxRegs
  handle  : Nat
  source  : Option Nat
  pblk    : Nat
  waiters : List (Nat × Nat)
  /-- the blocks of the requests that merged with it, where they name another than its own (R394) -/
  more    : List Nat
  /-- RSTATE: 0 until it starts, then 2 fitting, 3 verifying, 4 installing (R399) -/
  stage   : Nat
  /-- the crew that asked for it first (R413) -/
  crew    : Nat
  deriving DecidableEq, Repr

/-- One die: its Sprout (R394, R402) and its ageing register (18_device.md R472). -/
structure Die where
  queue : List SproutJob
  jobs  : Nat
  drops : Nat
  age   : Word
  deriving DecidableEq, Repr

/-- The warp slot whose instruction issues, and the instruction as fetched (R41). -/
structure Cursor where
  key  : Nat
  pc   : Word
  word : IWord
  act  : Mask
  deriving DecidableEq, Repr

/-- The decode table in force (R47, R49): its version, the opcodes in emulate state, and the floors raised above those of R43. -/
structure DecTable where
  version : Nat
  emul    : List Nat
  floors  : List (Nat × Nat)
  deriving DecidableEq, Repr

/-- An error that a unit's check finds in what it holds (log 44): a half of a resident line of a slice, or its tag (R329, R332), a word
of a core's SRAM as scratchpad or L1 (R225), an accumulator element (R280), a word of a weight buffer (R281), a word of memory (R439);
and those of R474: a register or a predicate in a lane, an entry of a directory or object table, a cached copy of a record, a
translation, a slab, a fetched line, a half of a drain buffer's entry, an entry of a crew's tables. -/
inductive Upset where
  | sliceHalf (line half : Nat)
  | sliceTag (line code : Nat)
  | scratch (crew addr : Nat)
  | l1 (core line word : Nat)
  | acc (cluster slot elem : Nat)
  | weight (cluster addr : Nat)
  | memory (pa : Nat)
  | register (key reg lane : Nat)
  | predicate (key pred lane : Nat)
  | directory (line : Nat)
  | granule (line : Nat)
  | recordCopy (cluster : Bool) (unit handle : Nat)
  | translation (unit page : Nat)
  | slab (cluster index : Nat)
  | fetched (key : Nat)
  | drain (slice index half : Nat)
  | crewTable (crew : Nat)
  deriving DecidableEq, Repr

/-- What happens next where the spec leaves the choice open, and what comes from outside: a cycle passes, a warp of a quad or an
Acorn issues, one of the part's own steps occurs, firmware loads a decode table (R48), a check finds an error, system software ends a
context (log 73), a register of the control window is read (R405). -/
inductive Turn where
  | tick
  | issue (key : Nat)
  | event (e : Instr)
  | table (t : DecTable)
  | upset (u : Upset)
  | endContext (ctx : Nat)
  | windowRead (offset : Nat)
  | badFrame (frame : Nat)
  deriving DecidableEq, Repr

/-- What a store registers of its line (R257): the words; those whose bytes the core does not all hold; those that were Owned before,
with their bytes and marks then: until the registration is applied, the home sees these (R260, R261, log 66). -/
structure StoreReg where
  mask  : BitVec 32
  part  : BitVec 32
  was   : BitVec 32
  old   : Line
  known : BitVec 128
  bad   : BitVec 16
  deriving DecidableEq, Repr

/-- A request on its way to its home slice on the ordered path of its unit (R102). -/
inductive ReqKind where
  /-- a store's registration (R257) -/
  | register (r : StoreReg)
  /-- registration of a grid tile's lines in a granule (R373): the lines, the generation, and the words of the stored line -/
  | registerObj (lines : BitVec 128) (gen : Nat) (r : StoreReg)
  /-- Owned words of a replaced line with their values and marks (R259) -/
  | writeBack (mask : BitVec 32) (known : BitVec 128) (data : Line) (bad : BitVec 16)
  /-- a read of a line; whether it installs in L1, under .kp, as Sealed, and whether it is of a cached load (R261) -/
  | read (install keep seals cached : Bool)
  /-- a write of bytes at the home: byte mask and data (R226) -/
  | write (bytes : BitVec 128) (data : Line)
  /-- operations on elements at the home (R247) -/
  | atoms (k : AtomKind) (ety : Nat) (els : List AtomEl) (pair : Bool)
  /-- RECSET and RECGEN of a context's record at an offset of the line (R239) -/
  | recSet (off : Nat) (data : BitVec 256) (ctx h : Nat)
  | recGen (off ctx h : Nat)
  deriving DecidableEq, Repr

structure Req where
  id    : Nat
  unit  : Nat
  key   : Nat
  op    : Nat
  line  : Nat
  kind  : ReqKind
  /-- its place in the order of arrival at the slice, once it has waited there for a lock (R368) -/
  place : Option Nat
  deriving DecidableEq, Repr

/-- A line of a slice's data array (R326, R329, R332): its data, its poison mask, the indices of its sectors in the set's pool, whether it
is dirty, its place in the order of use, and whether it is a first candidate for eviction (R350, R361). The code of its tag and the bytes
of its sectors are functions of data and mask. -/
structure SLine where
  data    : Line
  bad     : BitVec 16
  sectors : List Nat
  dirty   : Bool
  stamp   : Nat
  low     : Bool
  deriving DecidableEq, Repr

/-- An entry of the ownership directory (R258, R335). -/
structure DirEnt where
  owner : Nat
  mask  : BitVec 32
  stamp : Nat
  deriving DecidableEq, Repr

/-- An entry of the object table (R336): the granule, the covered lines of it, owner, tile generation. -/
structure ObjEnt where
  granule : Nat
  mask    : BitVec 128
  owner   : Nat
  gen     : Nat
  stamp   : Nat
  deriving DecidableEq, Repr

/-- A copy in a slice's drain buffer (R349). -/
structure DrainEnt where
  snap : Nat
  line : Nat
  data : Line
  bad  : BitVec 16
  deriving DecidableEq, Repr

/-- A tile lock requested or held at a slice (R368): tile number, lines, STT or LDT, granted, place in the order of arrival. -/
structure TileLock where
  tile    : Nat
  lines   : List Nat
  store   : Bool
  granted : Bool
  place   : Nat
  deriving DecidableEq, Repr

/-- What waits for the answer to a fault record (R412, R414), or for a locked line (R368). -/
inductive Waiter where
  /-- nothing: types 2 to 7 -/
  | nobody
  /-- a parked access (R189) -/
  | access (key op : Nat)
  /-- the runs at a PC (R412), and the reads of their line and of the instruction there as it issues (R368) -/
  | fetch (key : Nat) (pc : Word)
  /-- a command of a copy engine (R323) -/
  | copy (cluster cmd : Nat)
  /-- a command of a sequencer (R303) -/
  | matrix (cluster : Nat)
  /-- a snapshot (R352) -/
  | snap (id : Nat)
  /-- a Sprout job (R394) -/
  | sprout (die : Nat)
  /-- a fabric command (R452), a packet of a peer (R448), the result of a plan (R459) -/
  | fabric (cmd : Nat)
  | receive (conn psn : Nat)
  | plan (slot : Nat)
  /-- the completion word of a launch (R427) -/
  | done (launch : Nat)
  /-- the posted writes of the host (R477), the records of a fault ring (R412) -/
  | host
  | record (ring : Nat)
  /-- the record that the dispatcher of a ring takes next (R423) -/
  | dispatch (ring : Nat)
  deriving DecidableEq, Repr

/-- An engine access that waits at a slice for a locked line: whose it is, the line, whether it writes, its place in the order of arrival
(R368). -/
structure EngineWait where
  who   : Waiter
  line  : Nat
  write : Bool
  place : Nat
  deriving DecidableEq, Repr

/-- One slice of the cache (R326). -/
structure Slice where
  lines   : FMap SLine
  dir     : FMap DirEnt
  obj     : List ObjEnt
  drain   : List DrainEnt
  locks   : List TileLock
  waits   : List EngineWait
  /-- the last cycle in which a request was applied, and the lines and units of the requests that were applied in it (R333) -/
  servedAt : Nat
  served  : List (Nat × Nat)
  clock   : Nat
  copied  : Nat
  expev   : Nat
  recomp  : Nat
  lockw   : Nat
  recalls : Nat
  deriving DecidableEq, Repr

/-- An entry of the seal table (R342). -/
structure SealEnt where
  asid    : Nat
  base    : Nat
  len     : Nat
  handle  : Nat
  closing : Bool
  deriving DecidableEq, Repr

/-- A translation that a unit holds (R411). -/
structure TlbEnt where
  unit : Nat
  asid : Nat
  page : Nat
  pte  : Nat
  deriving DecidableEq, Repr

/-- A fault record (R413), sent or waiting for room in its ring (R412), with what waits for its answer. -/
structure FaultRec where
  ftype    : Nat
  reason   : Nat
  access   : Nat
  asid     : Nat
  ctxid    : Nat
  va       : Nat
  tag      : Nat
  unit     : Nat
  wslot    : Nat
  ring     : Nat
  launchid : Nat
  vcrew    : Nat
  pc       : Word
  info     : Word
  waiter   : Waiter
  written  : Bool
  counted  : Bool
  deriving DecidableEq, Repr

/-- Why the machine stops. -/
inductive Fault where
  /-- raised by every issued instruction when the cursor names a slot that holds no warp: no step of the machine gets there,
  since a step sets the cursor from a resident warp; stopping is safe -/
  | noWarp
  deriving DecidableEq, Repr

/-- Why a step has no meaning. -/
inductive Refusal where
  /-- raised by an arm of exec whose instruction is not modelled yet: stopping is safe -/
  | notModelled (mnemonic : String)
  deriving DecidableEq, Repr

/-- A launch ring (R405, R421): its registers, and the context tags of records that LAUNCH appended, by first slot (R428). -/
structure Ring where
  base : Nat
  cfg  : Nat
  head : Nat
  tail : Nat
  rej  : Nat
  tags : List (Nat × Nat)
  deriving DecidableEq, Repr

/-- A fault ring (R405). -/
structure FRing where
  base : Nat
  cfg  : Nat
  head : Nat
  tail : Nat
  stat : Nat
  deriving DecidableEq, Repr

/-- A kernel header with its role table and side table (R195, R206, R429). -/
structure Kernel where
  c16     : Bool
  prot    : Bool
  regs    : Nat
  groups  : Nat
  spBytes : Nat
  nqueues : Nat
  records : Nat
  entry   : BitVec 64
  dlx     : Bool
  /-- VA of the header and offset of the role table, which a crew copies at its start (R206) -/
  headVa  : Nat
  roleTab : Nat
  roles   : List RoleEnt
  safe    : List SafePoint
  deriving DecidableEq, Repr

/-- A launch that a dispatcher has taken and that has not completed (R422-R427). -/
structure Launch where
  id      : Nat
  ring    : Nat
  lid     : Nat
  acorn   : Bool
  sys     : Bool
  notify  : Bool
  gang    : Bool
  after   : Option (Nat × Nat)
  ctx     : Nat
  kernel  : Kernel
  tvec    : BitVec 64
  done    : Nat
  crews   : Nat
  warps   : Nat
  cls     : Nat
  place   : Nat
  queues  : List Nat
  args    : List Word
  places  : List Nat
  /-- vcrews that have not been placed -/
  waiting : List Nat
  /-- crews that it has placed, and where: crew, unit -/
  placed  : List (Nat × Nat)
  ended   : Nat
  faulted : Nat
  /-- for each crew that has ended, its unit and the number of the next operation then: its stores have lower numbers -/
  gone    : List (Nat × Nat)
  deriving DecidableEq, Repr

/-- An image that CTXSAVE wrote (R436): what its bytes stand for. -/
structure Image where
  num      : Nat
  size     : Nat
  crew     : Crew
  warps    : List Warp
  /-- what ended warps of the crew left in queues (R169, R255) -/
  ghosts   : List Warp
  codebook : Option (FMap (BitVec 24 × Bool))
  act      : List ActTable
  cluster  : Cluster
  deriving DecidableEq, Repr

/-- Boot (R466-R468). -/
structure Boot where
  stage  : Nat
  fail   : Nat
  warm   : Bool
  tries  : Nat
  deriving DecidableEq, Repr

/-- A packet sent on a connection and not acknowledged (R442, R444): the peer package, the peer context and the job that it names (R445), the
command that it belongs to, its path, its content. -/
structure FPacket where
  psn  : Nat
  path : Nat
  fid  : Nat
  pctx : Nat
  job  : Nat
  cmd  : Option Nat
  /-- a line of a snapshot: its id and index -/
  snap : Option (Nat × Nat)
  body : PacketBody
  deriving DecidableEq, Repr

/-- A flush marker (R453, R454): the path that it stands for, its limit, the paths that were live when it was formed as a mask; and the path that
carries it, another one once that has failed (R444). -/
structure Marker where
  path  : Nat
  limit : Nat
  paths : Nat
  via   : Nat
  deriving DecidableEq, Repr

/-- A connection to a peer (R444, R445), numbered 4,096 × CTXID + peer slot. -/
structure Conn where
  next     : Nat
  unacked  : List FPacket
  /-- markers sent and not acknowledged as gathered (R453, R454) -/
  flying   : List Marker
  /-- the cycle of the last acknowledgement, or of the first packet or marker that none has answered (R444) -/
  heard    : Nat
  /-- PSNs received, and those rejected -/
  seen     : List Nat
  nacked   : List Nat
  /-- markers received; limits gathered and acknowledged; limits that the peer has acknowledged -/
  markers  : List Marker
  gathered : List Nat
  released : List Nat
  /-- timeouts in a row on each path, and failed paths -/
  timeouts : List (Nat × Nat)
  dead     : List Nat
  failed   : Bool
  deriving DecidableEq, Repr

/-- The FRED that contributed a chunk: its warp and the warp's crew, its operation number, word, PC and masks, and whether it was an instruction of
a handler. -/
structure ChunkSource where
  key  : Nat
  crew : Nat
  op   : Nat
  word : IWord
  pc   : Word
  act  : Mask
  exec : Mask
  tm   : Bool
  deriving DecidableEq, Repr

/-- The words of a chunk at a node of a plan, or of a piece of one from an offset on (R459, R442): epoch, chunk, the child that sent it, or the
instruction that contributed it. -/
structure Chunk where
  epoch : Nat
  index : Nat
  off   : Nat
  child : Nat
  src   : Option ChunkSource
  words : List (BitVec 64 × Bool)
  deriving DecidableEq, Repr

/-- A reduction plan slot (R457-R460). -/
structure Plan where
  ctx      : Nat
  cregs    : CtxRegs
  crew     : Nat
  key      : Nat
  op       : Nat
  fmt      : Nat
  planId   : Nat
  nch      : Nat
  chb      : Nat
  parent   : Option Nat
  kids     : List Nat
  resh     : BitVec 256
  rescrew  : Option Nat
  arrcrew  : Option Nat
  arr      : Nat
  epoch    : Nat
  /-- contributions read, and those of children -/
  mine     : List Chunk
  theirs   : List Chunk
  /-- chunks combined in the epoch, and those whose result or acknowledgement is awaited -/
  combined : List Nat
  awaiting : List Nat
  /-- pieces of results that are still to be written -/
  results  : List Chunk
  /-- bytes of each chunk that are to be counted, and those counted (R317, R459); chunks counted in the epoch, and those contributed -/
  due      : FMap Nat
  tally    : FMap Nat
  counted  : List Nat
  given    : List Nat
  aborted  : Bool
  deriving DecidableEq, Repr

/-- An access of the host that has not been applied (R477, R478): bytes written or read through BAR2, or RTAIL of a ring through BAR0. -/
inductive Posted where
  | bytes (pa : Nat) (data : List Byte)
  | tail (ring value : Nat)
  | read (pa count : Nat)
  deriving DecidableEq, Repr

/-- What the package holds once. -/
structure Pkg where
  /-- debug mode (R45) -/
  debug    : Bool
  ctxtab   : Nat
  ctxn     : Nat
  rings    : FMap Ring
  frings   : FMap FRing
  launches : List Launch
  nextLaunch : Nat
  /-- launches that have completed (R425) -/
  finished : List (Nat × Nat)
  images   : List Image
  /-- interrupts raised, oldest first: to the host (true) or to a Chestnut core, and the vector or core -/
  irqs     : List (Bool × Nat)
  boot     : Boot
  /-- the decode table in force (R47, R48) -/
  table    : DecTable
  /-- bad-frame list in signed flash (R420) -/
  flash    : List Nat
  frozen   : Bool
  /-- the cycle of the edge at which the clocks began to stop, and the cycles from it to the stop of each clock, as the scan network
  records them: compute dies, base dies, I/O dies' logic, their Chestnut cores (R469) -/
  edge     : Option Nat
  stops    : List Nat
  tripped  : Bool
  slow     : Bool
  fid      : Nat
  ports    : BitVec 12
  conns    : FMap Conn
  fabric   : List FabCmd
  plans    : FMap Plan
  /-- what the last read of the control window (R405) or through BAR2 (R477) returned, each byte with the mark of its word (R332) -/
  hostRead : List (Byte × Bool)
  /-- the host's posted writes that wait, oldest first (R478) -/
  posted   : List Posted
  /-- launch ring, LAUNCHID and vcrew of every crew that has been placed, by its number, for the records of engines that outlive it (R413) -/
  crewNames : FMap (Nat × Nat × Nat)
  /-- packets that have arrived and wait for a line, for room or for the answer to a fault (R448) -/
  inbox    : List Packet
  deriving DecidableEq, Repr

/-- The whole package. -/
structure State where
  cycle  : Nat
  draw   : Nat
  nextOp : Nat
  /-- the cycle in which an engine last reached banks, and its unit (R230) -/
  lastEngine : Nat × Nat
  agenda : List Turn
  cur    : Cursor
  mem    : Memory
  memBad : FMap Bool
  warps  : FMap Warp
  quads  : FMap Quad
  crews  : FMap Crew
  cores  : FMap Core
  clusters : FMap Cluster
  dies   : FMap Die
  /-- outcome of the last job of a region: context, handle, OUT (R399) -/
  outs   : List (Nat × Nat × Nat)
  /-- lines, numbered PA / 128, that something other than a region's own instructions has written since the last FRINIT there (R397) -/
  foreign : List Nat
  net    : List Req
  slices : FMap Slice
  snaps  : List Snap
  seals  : List SealEnt
  tlb    : List TlbEnt
  /-- invalidations in progress: ASID and VA range, or everything (R417) -/
  tlbinv : List (Option (Nat × Nat × Nat))
  /-- frames, numbered PA / 65,536, that the refusal list names (R419) -/
  retired : List Nat
  faults : List FaultRec
  nextTag : Nat
  seq    : Nat
  tiles  : List Tile
  pkg    : Pkg
  deriving DecidableEq, Repr

/-- Boot before its first stage (R466, R468). -/
def Boot.start : Boot := { stage := 0, fail := 0, warm := false, tries := 0 }

/-- The table that ships with the part (R47, R49): IMAX3 alone is in emulate state, no floor is raised. -/
def DecTable.shipped : DecTable := { version := 0, emul := [0x03E], floors := [] }

/-- What the package holds once, after reset (R405, R466): no context, no ring enabled, no link, no job. -/
def Pkg.start : Pkg :=
  { debug := false, ctxtab := 0, ctxn := 0, rings := [], frings := [], launches := [], nextLaunch := 0, finished := [], images := [],
    irqs := [], boot := Boot.start, table := DecTable.shipped, flash := [], frozen := false, edge := none, stops := [], tripped := false, slow := false, fid := 0, ports := 0, conns := [],
    fabric := [], plans := [], hostRead := [], posted := [], crewNames := [], inbox := [] }

/-- The package right after reset (R466): every on-chip array and counter is clear, no crew is resident, second-tier memory lists
nothing, and boot has not begun its first stage. Registers that an entry of a table does not list read as their start values. -/
def State.reset : State :=
  { cycle := 0, draw := 0, nextOp := 0, lastEngine := (0, 0), agenda := [], cur := { key := 0, pc := 0, word := 0, act := 0 }, mem := [], memBad := [],
    warps := [], quads := [], crews := [], cores := [], clusters := [], dies := [], outs := [], foreign := [], net := [], slices := [], snaps := [],
    seals := [], tlb := [], tlbinv := [], retired := [], faults := [], nextTag := 0, seq := 0, tiles := [], pkg := Pkg.start }

end Sys2Proof.Machine
end

