-- ==== Sys2Proof/Machine/Flags.lean ====
section
/-! DEFINITION. FPMODE, FPSTAT and the poison that flags give (03_numbers.md R69-R74). -/

namespace Sys2Proof.Machine

/-- The rounding mode of F[5:4] under FPMODE (R37, R69). -/
def modeOf (fpmode : Word) (f : Byte) : RMode :=
  let rm := (f.toNat >>> 4) % 4
  if rm = 0 then rmodeOf (fpmode.toNat % 4) else rmodeOf rm

/-- Mode, SAT and FTZ of a typed operation (R37). -/
def ctlOf (fpmode : Word) (f : Byte) : RCtl := ⟨modeOf fpmode f, f.getLsbD 6, f.getLsbD 7⟩

/-- Round to nearest with the SAT and FTZ of F. -/
def ctlNear (f : Byte) : RCtl := ⟨.rne, f.getLsbD 6, f.getLsbD 7⟩

/-- A raised flag poisons the result under PI, PZ and PO (R72). -/
def flagsPoison (fpmode : Word) (fl : Flags) : Bool :=
  (fpmode.getLsbD 5 && fl.getLsbD 0) || (fpmode.getLsbD 6 && fl.getLsbD 1) || (fpmode.getLsbD 7 && fl.getLsbD 2)

/-- FPSTAT with flags set: they are sticky (R70). -/
def statSet (fpstat : Word) (fl : Flags) : Word := fpstat ||| fl.setWidth 64

/-- FPMODE keeps the bits that are not reserved (R69, R6). -/
def fpmodeMask : Word := 0xE3

/-- The poison bits of a source that one half depends on (R73). -/
def anyPoison (x : Lane) : Bool := x.poi != 0

/-- Both poison bits from one condition. -/
def bothPoison (b : Bool) : BitVec 2 := if b then 3 else 0

/-- Two poison bits from the conditions of half 0 and half 1. -/
def halfPoison (b0 b1 : Bool) : BitVec 2 := (if b0 then 1#2 else 0#2) ||| (if b1 then 2#2 else 0#2)

/-- The element-wise dependence of R73: half by half up to 32 bits, whole at 64 bits. -/
def elemPoison (w : Nat) (srcs : List Lane) : BitVec 2 :=
  if w = 64 then bothPoison (srcs.any anyPoison)
  else srcs.foldl (fun p x => p ||| x.poi) 0

/-- The half that holds sub-element s of width w. -/
def halfOf (w s : Nat) : Nat := w * s / 32

/-- A lane's result: contents and flags. -/
structure LaneRes where
  lane  : Lane
  flags : Flags
  deriving DecidableEq, Repr

/-- Packs the results of the sub-elements of a lane; each raised flag poisons the half that holds its sub-element, and both
halves at 64 bits (R72, R73). -/
def packRes (fpmode : Word) (w k : Nat) (dep : BitVec 2) (f : Nat → FRes) : LaneRes :=
  let bits := packElems w (fun s => (f s).bits) k
  let all := (List.range k).foldl (fun fl s => fl ||| (f s).flags) 0
  let bad := fun h => (List.range k).any (fun s => (w = 64 || halfOf w s = h) && flagsPoison fpmode (f s).flags)
  ⟨⟨BitVec.ofNat 64 bits, dep ||| halfPoison (bad 0) (bad 1)⟩, all⟩

/-- A result that raises no flag. -/
def cleanRes (v : Word) (p : BitVec 2) : LaneRes := ⟨⟨v, p⟩, 0⟩

end Sys2Proof.Machine
end

