-- ==== Sys2Proof/Machine/Operands.lean ====
section
/-! DEFINITION. The operand forms: which operand bytes an instruction reads and writes, and the checks of its fields
(02_encoding.md R30-R43 and the encoding table of each chapter). -/

namespace Sys2Proof.Machine

/-- How an operand position is used (R32): not at all (its byte must be zero), for a value the instruction itself reads
(an immediate), to read or write n consecutive registers, to read and then write them, or for a predicate. `srcOpt2` is vz
or two registers. -/
inductive Use where
  | no | any | src (n : Nat) | dst (n : Nat) | upd (n : Nat) | srcOpt2 | psrc | pdst
  deriving DecidableEq, Repr

/-- An operand byte and its use. -/
structure Opd where
  use  : Use
  byte : Byte
  deriving DecidableEq, Repr

/-- The operands of an instruction, whether its fields pass decode checks 4 and 6, and the record handles it names
(check 9). -/
structure Shape where
  opds    : List Opd
  ok      : Bool
  handles : List (BitVec 12)
  deriving DecidableEq, Repr

/-- Pipes (R92). -/
inductive Pipe where
  | none | a | x | m | c
  deriving DecidableEq, Repr

/-- What R43 and R276 say of an opcode. -/
structure Info where
  pipe    : Pipe
  floor   : Nat
  priv    : Bool
  onCore  : Bool
  onAcorn : Bool
  deriving DecidableEq, Repr

/-- The bytes that a use admits (R31, R32); several registers must all be v0 to v239. -/
def opdOk (d : Opd) : Bool :=
  match d.use with
  | .no => d.byte = 0
  | .any => true
  | .src n => if n ≤ 1 then d.byte.toNat ≤ 245 else d.byte.toNat + n ≤ 240
  | .dst n => if n ≤ 1 then d.byte.toNat ≤ 240 else d.byte.toNat + n ≤ 240
  | .upd n => if n ≤ 1 then d.byte.toNat ≤ 240 else d.byte.toNat + n ≤ 240
  | .srcOpt2 => d.byte = 240 || d.byte.toNat + 2 ≤ 240
  | .psrc => 248 ≤ d.byte.toNat
  | .pdst => 248 ≤ d.byte.toNat

/-- SETF 13 to 15 is illegal (R22). -/
def setfOk (h : Hdr) : Bool := h.setf.toNat ≤ 12

/-- A shape from its operands and the other field checks. -/
def mkShape (h : Hdr) (ds : List Opd) (more : Bool) (hs : List (BitVec 12)) : Shape :=
  { opds := ds, ok := setfOk h && ds.all opdOk && more, handles := hs }

/-- The five positions of the R format. -/
def rOpds (o : OpR) (u1 u2 u3 u4 u5 : Use) : List Opd := [⟨u1, o.o1⟩, ⟨u2, o.o2⟩, ⟨u3, o.o3⟩, ⟨u4, o.o4⟩, ⟨u5, o.o5⟩]

def rShape (h : Hdr) (o : OpR) (u1 u2 u3 u4 u5 : Use) (more : Bool) : Shape :=
  mkShape h (rOpds o u1 u2 u3 u4 u5) (h.hint = 0 && more) []
def iShape (h : Hdr) (o : OpI) (u1 u2 : Use) (more : Bool) : Shape :=
  mkShape h [⟨u1, o.o1⟩, ⟨u2, o.o2⟩] (h.hint = 0 && more) []
def bShape (h : Hdr) (o : OpB) (u1 u2 : Use) (more : Bool) : Shape :=
  mkShape h [⟨u1, o.o1⟩, ⟨u2, o.o2⟩] (h.hint = 0 && more) []
def sShape (h : Hdr) (o : OpS) (u1 u2 : Use) (more : Bool) : Shape :=
  mkShape h [⟨u1, o.o1⟩, ⟨u2, o.o2⟩] (h.hint = 0 && more) []
def mShape (h : Hdr) (o : OpM) (u1 u2 : Use) (more : Bool) (hs : List (BitVec 12)) : Shape :=
  mkShape h [⟨u1, o.o1⟩, ⟨u2, o.o2⟩] more hs
def tShape (h : Hdr) (o : OpT) (u1 u2 : Use) (more : Bool) (hs : List (BitVec 12)) : Shape :=
  mkShape h [⟨u1, o.o1⟩, ⟨u2, o.o2⟩] more hs

/-- A step of the part without an encoding has no operands. -/
def noShape : Shape := { opds := [], ok := true, handles := [] }

/-- The use of O3 where an immediate is admitted (R35). -/
def rImmUse (o : OpR) : Use := if o.x.getLsbD 7 then .any else .src 1
/-- X[7:6] of R35, on an instruction that admits an immediate with integer types only. -/
def rImmOk (o : OpR) (intType : Bool) : Bool := (o.x.toNat >>> 6) != 1 && (!o.x.getLsbD 7 || intType)
/-- TYPE is an i or n type. -/
def etyIntCode (f : Byte) : Bool := f.toNat % 16 < 8

/-- TYPE, RM, SAT and FTZ of F (R37, R40). -/
def fOk (types : List Nat) (sat ftz rm : Bool) (f : Byte) : Bool :=
  types.contains (f.toNat % 16) && (sat || !f.getLsbD 6) && (ftz || !f.getLsbD 7) && (rm || (f &&& 0x30) = 0)

/-- Condition code and type of a compare (R39). -/
def ccOk (float : Bool) (f : Byte) : Bool :=
  if float then [8, 9, 10, 11].contains (f.toNat % 16) && f.toNat >>> 4 < 14 else etyIntCode f && f.toNat >>> 4 < 6

/-- Width of a TYPE code. -/
def codeWidth (c : Nat) : Nat := match etyOf c with
  | some t => etyWidth t
  | none => 0

/-- A narrowing conversion takes vc in O3 (R138). -/
def cvtNarrows (f x : Byte) : Bool := codeWidth (f.toNat % 16) < codeWidth (x.toNat % 16)

/-- The limits of R138: kind 0 CVT, 1 CVTSR, 2 CVTI. -/
def cvtOk (kind : Nat) (f x : Byte) : Bool :=
  let d := f.toNat % 16
  let s := x.toNat % 16
  let wd := codeWidth d
  let ws := codeWidth s
  let r := max (wd / ws) (ws / wd)
  let kindOk :=
    if kind = 0 then d ≥ 8 && s ≥ 8
    else if kind = 1 then [10, 11, 12, 13, 14].contains d && [9, 10, 11].contains s && wd ≤ ws && (f &&& 0x30) = 0
    else d < 8 || s < 8
  d < 15 && s < 15 && d != s && r ≤ 4 && (x.toNat >>> 4) % 4 < r && x.toNat < 64 && kindOk

/-- Part fields of QNT (k/4 parts) and DQNT (k/2 parts) (R141, R142). -/
def partOk (per : Nat) (f x : Byte) : Bool := x.toNat < 64 / codeWidth (f.toNat % 16) / per

/-- Operation, type and modifiers of REDL and SCANL (R158). -/
def redlOk (f x : Byte) (scan : Bool) : Bool :=
  let op := x.toNat % 8
  let t := f.toNat % 16
  op < 6 && x.toNat < 16 && (scan || x.toNat < 8) && (t < 8 || (t < 12 && op < 3))
    && (f &&& 0xB0) = 0 && (!f.getLsbD 6 || (op = 0 && t < 8))

/-- F of a load or store: a type of 8 bits or more, F[7:4] zero (R240). -/
def memF (f : Byte) : Bool := f.toNat < 14

/-- Type and operation of an atomic or reduction (R246). -/
def atomF (exch : Bool) (f : Byte) : Bool :=
  let t := f.toNat % 16
  let op := f.toNat >>> 4
  (op < 7 && (op < 6 || exch)) && ([0, 1, 4, 5].contains t || ((t = 8 || t = 9) && (op < 3 || op = 6)))
/-- Type of a CAS (R246). -/
def casF (f : Byte) : Bool := [0, 1, 4, 5, 8, 9].contains f.toNat

/-- HND 0 of a scratchpad form names the crew's own space and no record (R240, R36). -/
def spHandle (o : OpM) : List (BitVec 12) := if o.hnd = 0 then [] else [o.hnd]

/-- F and X of CPY and CPYT (R312). -/
def cpyOk (f x : Byte) : Bool :=
  let d := f.toNat % 16
  let s := x.toNat >>> 4
  match x.toNat % 4 with
  | 0 => f = 0 && x = 0
  | 1 => f = 0 && x.toNat < 16
  | 2 => (f &&& 0x30) = 0 && (x.toNat >>> 2) % 4 = 0 && 8 ≤ d && d ≤ 13 && 8 ≤ s && s ≤ 13 && d != s
  | _ => false

/-- The CSR addresses that the manual defines (R36). -/
def csrDefined (a : Nat) : Bool :=
  a ≤ 0x005 || a = 0x010 || a = 0x011 || (0x020 ≤ a && a ≤ 0x028) || a = 0x030 || a = 0x100 || a = 0x101
    || (0x103 ≤ a && a ≤ 0x105) || (0x200 ≤ a && a ≤ 0x202) || (0x300 ≤ a && a ≤ 0x307) || a = 0x310
    || (0x400 ≤ a && a ≤ 0x407) || a = 0x500 || a = 0x501 || (0x600 ≤ a && a ≤ 0x603) || a = 0x610 || a = 0x611

/-- The operands and the field checks of each instruction (decode checks 4 and 6 of R41), from the encoding tables of the
instructions' own chapters. -/
def instrShape (i : Instr) : Shape :=
  match i with
  | .fetchLine _ _ => noShape
  | .nop h o => rShape h o .no .no .no .no .no (h.f = 0 && o.x = 0)
  | .mov h o => rShape h o (.dst 1) (.src 1) .no .no .no (h.f = 0 && o.x = 0)
  | .movi h o => iShape h o (.dst 1) .no (h.f.toNat < 15)
  | .movhi h o => iShape h o (.dst 1) .no (h.f = 0)
  | .sel h o => rShape h o (.dst 1) (.src 1) (.src 1) .psrc .no (h.f = 0 && o.x = 0)
  | .iadd h o => rShape h o (.dst 1) (.src 1) (rImmUse o) .no .no (fOk [0,1,2,3,4,5,6,7] true false false h.f && rImmOk o (etyIntCode h.f) && (o.x &&& 0x3F) = 0)
  | .isub h o => rShape h o (.dst 1) (.src 1) (rImmUse o) .no .no (fOk [0,1,2,3,4,5,6,7] true false false h.f && rImmOk o (etyIntCode h.f) && (o.x &&& 0x3F) = 0)
  | .iadds h o => rShape h o (.dst 1) (.src 1) (rImmUse o) .pdst .no (fOk [0,4] false false false h.f && rImmOk o (etyIntCode h.f) && (o.x &&& 0x3F) = 0)
  | .isubs h o => rShape h o (.dst 1) (.src 1) (rImmUse o) .pdst .no (fOk [0,4] false false false h.f && rImmOk o (etyIntCode h.f) && (o.x &&& 0x3F) = 0)
  | .iadc h o => rShape h o (.dst 1) (.src 1) (.src 1) .psrc .pdst (fOk [0,4] false false false h.f && o.x = 0)
  | .imul h o => rShape h o (.dst 1) (.src 1) (rImmUse o) .no .no (fOk [0,1,2,3,4,5,6,7] true false false h.f && rImmOk o (etyIntCode h.f) && (o.x &&& 0x3F) = 0)
  | .imulh h o => rShape h o (.dst 1) (.src 1) (rImmUse o) .no .no (fOk [0,1,2,3,4,5,6,7] false false false h.f && rImmOk o (etyIntCode h.f) && (o.x &&& 0x3F) = 0)
  | .imad h o => rShape h o (.dst 1) (.src 1) (rImmUse o) (.src 1) .no (fOk [0,1,2,3,4,5,6,7] true false false h.f && rImmOk o (etyIntCode h.f) && (o.x &&& 0x3F) = 0)
  | .imadw h o => rShape h o (.dst 1) (.src 1) (.src 1) (.src 1) .no (fOk [1,2,3,5,6,7] true false false h.f && o.x.toNat ≤ 1)
  | .idp4 h o => rShape h o (.dst 1) (.src 1) (.src 1) (.src 1) .no (fOk [3,7] true false false h.f && o.x = 0)
  | .iabs h o => rShape h o (.dst 1) (.src 1) .no .no .no (fOk [0,1,2,3] true false false h.f && o.x = 0)
  | .imin h o => rShape h o (.dst 1) (.src 1) (rImmUse o) .no .no (fOk [0,1,2,3,4,5,6,7] false false false h.f && rImmOk o (etyIntCode h.f) && (o.x &&& 0x3F) = 0)
  | .imax h o => rShape h o (.dst 1) (.src 1) (rImmUse o) .no .no (fOk [0,1,2,3,4,5,6,7] false false false h.f && rImmOk o (etyIntCode h.f) && (o.x &&& 0x3F) = 0)
  | .isad h o => rShape h o (.dst 1) (.src 1) (rImmUse o) (.src 1) .no (fOk [0,1,2,3,4,5,6,7] true false false h.f && rImmOk o (etyIntCode h.f) && (o.x &&& 0x3F) = 0)
  | .imax3 h o => rShape h o (.dst 1) (.src 1) (.src 1) (.src 1) .no (fOk [0,1,2,3,4,5,6,7] false false false h.f && o.x = 0)
  | .and h o => rShape h o (.dst 1) (.src 1) (rImmUse o) .no .no (fOk [0,1,2,3,4,5,6,7] false false false h.f && rImmOk o (etyIntCode h.f) && (o.x &&& 0x3F) = 0)
  | .or h o => rShape h o (.dst 1) (.src 1) (rImmUse o) .no .no (fOk [0,1,2,3,4,5,6,7] false false false h.f && rImmOk o (etyIntCode h.f) && (o.x &&& 0x3F) = 0)
  | .xor h o => rShape h o (.dst 1) (.src 1) (rImmUse o) .no .no (fOk [0,1,2,3,4,5,6,7] false false false h.f && rImmOk o (etyIntCode h.f) && (o.x &&& 0x3F) = 0)
  | .andn h o => rShape h o (.dst 1) (.src 1) (rImmUse o) .no .no (fOk [0,1,2,3,4,5,6,7] false false false h.f && rImmOk o (etyIntCode h.f) && (o.x &&& 0x3F) = 0)
  | .lop3 h o => rShape h o (.dst 1) (.src 1) (.src 1) (.src 1) .no (fOk [0,1,2,3,4,5,6,7] false false false h.f && true)
  | .shl h o => rShape h o (.dst 1) (.src 1) (rImmUse o) .no .no (fOk [0,1,2,3,4,5,6,7] false false false h.f && rImmOk o (etyIntCode h.f) && (o.x &&& 0x3F) = 0)
  | .shr h o => rShape h o (.dst 1) (.src 1) (rImmUse o) .no .no (fOk [0,1,2,3,4,5,6,7] false false false h.f && rImmOk o (etyIntCode h.f) && (o.x &&& 0x3F) = 0)
  | .sar h o => rShape h o (.dst 1) (.src 1) (rImmUse o) .no .no (fOk [0,1,2,3,4,5,6,7] false false false h.f && rImmOk o (etyIntCode h.f) && (o.x &&& 0x3F) = 0)
  | .rotl h o => rShape h o (.dst 1) (.src 1) (rImmUse o) .no .no (fOk [0,1,2,3,4,5,6,7] false false false h.f && rImmOk o (etyIntCode h.f) && (o.x &&& 0x3F) = 0)
  | .fshf h o => rShape h o (.dst 1) (.src 1) (.src 1) (.src 1) .no (fOk [4,5] false false false h.f && o.x.toNat ≤ 1)
  | .bfx h o => rShape h o (.dst 1) (.src 1) (rImmUse o) (.src 1) .no (fOk [0,1,2,3,4,5,6,7] false false false h.f && rImmOk o (etyIntCode h.f) && (o.x &&& 0x3F) = 0)
  | .bfi h o => rShape h o (.dst 1) (.src 1) (.src 1) (.src 1) (.src 1) (fOk [0,1,2,3,4,5,6,7] false false false h.f && o.x = 0)
  | .popc h o => rShape h o (.dst 1) (.src 1) .no .no .no (fOk [0,1,2,3,4,5,6,7] false false false h.f && o.x = 0)
  | .clz h o => rShape h o (.dst 1) (.src 1) .no .no .no (fOk [0,1,2,3,4,5,6,7] false false false h.f && o.x = 0)
  | .ctz h o => rShape h o (.dst 1) (.src 1) .no .no .no (fOk [0,1,2,3,4,5,6,7] false false false h.f && o.x = 0)
  | .brev h o => rShape h o (.dst 1) (.src 1) .no .no .no (fOk [0,1,2,3,4,5,6,7] false false false h.f && o.x = 0)
  | .icmp h o => rShape h o .pdst (.src 1) (rImmUse o) .no .no (ccOk false h.f && rImmOk o (etyIntCode h.f) && (o.x &&& 0x3F).toNat < 3)
  | .icmpm h o => rShape h o (.dst 1) (.src 1) (rImmUse o) .no .no (ccOk false h.f && rImmOk o (etyIntCode h.f) && (o.x &&& 0x3F) = 0)
  | .fcmp h o => rShape h o .pdst (.src 1) (.src 1) .no .no (ccOk true h.f && o.x.toNat < 3)
  | .lea h o => rShape h o (.dst 1) (.src 1) (.src 1) .no .no (fOk [0,1,4,5] false false false h.f && o.x.toNat < 8)
  | .fadd h o => rShape h o (.dst 1) (.src 1) (.src 1) .no .no (fOk [9,10,11] true true true h.f && o.x = 0)
  | .fsub h o => rShape h o (.dst 1) (.src 1) (.src 1) .no .no (fOk [9,10,11] true true true h.f && o.x = 0)
  | .fmul h o => rShape h o (.dst 1) (.src 1) (.src 1) .no .no (fOk [9,10,11] true true true h.f && o.x = 0)
  | .ffma h o => rShape h o (.dst 1) (.src 1) (.src 1) (.src 1) .no (fOk [9,10,11] true true true h.f && o.x = 0)
  | .fmin h o => rShape h o (.dst 1) (.src 1) (.src 1) .no .no (fOk [8,9,10,11] false true false h.f && o.x = 0)
  | .fmax h o => rShape h o (.dst 1) (.src 1) (.src 1) .no .no (fOk [8,9,10,11] false true false h.f && o.x = 0)
  | .fclass h o => rShape h o (.dst 1) (.src 1) .no .no .no (fOk [8,9,10,11] false false false h.f && o.x = 0)
  | .frnd h o => rShape h o (.dst 1) (.src 1) .no .no .no (fOk [8,9,10,11] false true true h.f && o.x = 0)
  | .fscale h o => rShape h o (.dst 1) (.src 1) (.src 1) .no .no (fOk [8,9,10,11] true true true h.f && o.x = 0)
  | .fgetexp h o => rShape h o (.dst 1) (.src 1) .no .no .no (fOk [8,9,10,11] false true false h.f && o.x = 0)
  | .fdot2 h o => rShape h o (.dst 1) (.src 1) (.src 1) (.src 1) .no (fOk [10,11] true true true h.f && o.x = 0)
  | .fdot4 h o => rShape h o (.dst 1) (.src 1) (.src 1) (.src 1) .no (fOk [12,13] true true true h.f && o.x = 0)
  | .fhadd h o => rShape h o (.dst 1) (.src 1) (.src 1) .no .no (fOk [9,10,11] true true true h.f && o.x = 0)
  | .frcp h o => rShape h o (.dst 1) (.src 1) .no .no .no (fOk [9,10,11] true true true h.f && o.x = 0)
  | .frsq h o => rShape h o (.dst 1) (.src 1) .no .no .no (fOk [9,10,11] true true true h.f && o.x = 0)
  | .dadd h o => rShape h o (.dst 1) (.src 1) (.src 1) .no .no (fOk [8] true true true h.f && o.x = 0)
  | .dmul h o => rShape h o (.dst 1) (.src 1) (.src 1) .no .no (fOk [8] true true true h.f && o.x = 0)
  | .dfma h o => rShape h o (.dst 1) (.src 1) (.src 1) (.src 1) .no (fOk [8] true true true h.f && o.x = 0)
  | .fabs h o => rShape h o (.dst 1) (.src 1) .no .no .no (fOk [8,9,10,11,12,13,14] false false false h.f && o.x = 0)
  | .fneg h o => rShape h o (.dst 1) (.src 1) .no .no .no (fOk [8,9,10,11,12,13,14] false false false h.f && o.x = 0)
  | .cvt h o => rShape h o (.dst 1) (.src 1) (if cvtNarrows h.f o.x then .src 1 else .no) .no .no (cvtOk 0 h.f o.x)
  | .cvtsr h o => rShape h o (.dst 1) (.src 1) (if cvtNarrows h.f o.x then .src 1 else .no) .no .no (cvtOk 1 h.f o.x)
  | .cvti h o => rShape h o (.dst 1) (.src 1) (if cvtNarrows h.f o.x then .src 1 else .no) .no .no (cvtOk 2 h.f o.x)
  | .pack h o => rShape h o (.dst 1) (.src 1) (.src 1) .no .no (fOk [1,2,3,5,6,7] true false false h.f && o.x = 0)
  | .unpk h o => rShape h o (.dst 1) (.src 1) .no .no .no (fOk [1,2,3,5,6,7] false false false h.f && o.x.toNat ≤ 1)
  | .bscale h o => rShape h o (.dst 1) (.src 1) .no .no .no (fOk [12,13,14] false false false h.f && o.x = 0)
  | .qnt h o => rShape h o (.dst 1) (.src 1) (.src 1) (.src 1) (.src 1) (fOk [12,13,14] true false true h.f && partOk 4 h.f o.x)
  | .dqnt h o => rShape h o (.dst 1) (.src 1) (.src 1) .no .no (fOk [12,13,14] true true true h.f && partOk 2 h.f o.x)
  | .cbld h o => mShape h o .no (.src 1) (h.hint = 0 && h.f = 0) [o.hnd]
  | .cbdec h o => rShape h o (.dst 1) (.src 1) .no .no .no (fOk [12,13] false false false h.f && o.x.toNat < 4)
  | .fexp2 h o => rShape h o (.dst 1) (.src 1) .no .no .no (fOk [9,10,11] true true false h.f && o.x = 0)
  | .flog2 h o => rShape h o (.dst 1) (.src 1) .no .no .no (fOk [9,10,11] true true false h.f && o.x = 0)
  | .fsin h o => rShape h o (.dst 1) (.src 1) .no .no .no (fOk [9,10,11] true true false h.f && o.x = 0)
  | .fcos h o => rShape h o (.dst 1) (.src 1) .no .no .no (fOk [9,10,11] true true false h.f && o.x = 0)
  | .ftanh h o => rShape h o (.dst 1) (.src 1) .no .no .no (fOk [9,10,11] true true false h.f && o.x = 0)
  | .fsig h o => rShape h o (.dst 1) (.src 1) .no .no .no (fOk [9,10,11] true true false h.f && o.x = 0)
  | .act h o => rShape h o (.dst 1) (.src 1) .no .no .no (fOk [9,10,11] true true false h.f && o.x.toNat < 4)
  | .actld h o => mShape h o .no (.src 1) (h.hint = 0 && h.f.toNat < 4) [o.hnd]
  | .actsw h o => rShape h o .no .no .no .no .no (h.f.toNat < 4 && o.x = 0)
  | .rngseed h o => rShape h o .no (.src 1) .no .no .no (h.f = 0 && o.x = 0)
  | .rng h o => rShape h o (.dst 1) .no .no .no .no ((h.f = 4 || h.f = 9) && o.x = 0)
  | .shfl h o => rShape h o (.dst 1) (.src 1) (rImmUse o) .no .no (fOk [0,1,2,3,4,5,6,7,8,9,10,11,12,13,14] false false false h.f && rImmOk o (etyIntCode h.f) && (o.x &&& 0x3F).toNat < 5)
  | .bcst h o => rShape h o (.dst 1) (.src 1) (rImmUse o) .no .no (h.f = 0 && (o.x = 0 || o.x = 0x80))
  | .perm h o => rShape h o (.dst 1) (.src 1) (.src 1) (.src 1) .no (h.f = 0 && o.x = 0)
  | .zip h o => rShape h o (.dst o.x.toNat) (.src o.x.toNat) .no .no .no (fOk [0,1,2,3,4,5,6,7,8,9,10,11,12,13,14] false false false h.f && (o.x = 2 || o.x = 3 || o.x = 4))
  | .unzip h o => rShape h o (.dst o.x.toNat) (.src o.x.toNat) .no .no .no (fOk [0,1,2,3,4,5,6,7,8,9,10,11,12,13,14] false false false h.f && (o.x = 2 || o.x = 3 || o.x = 4))
  | .vote h o => rShape h o (if o.x = 3 then .dst 1 else .pdst) .psrc .no .no .no (h.f = 0 && o.x.toNat < 4)
  | .matchLanes h o => rShape h o (.dst 1) (.src 1) .pdst .no .no (fOk [0,1,2,3,4,5,6,7,8,9,10,11,12,13] false false false h.f && o.x = 0)
  | .redl h o => rShape h o (.dst 1) (.src 1) .no .no .no (redlOk h.f o.x false && true)
  | .scanl h o => rShape h o (.dst 1) (.src 1) .no .no .no (redlOk h.f o.x true && true)
  | .plop h o => rShape h o .pdst .psrc .psrc .psrc .no (h.f = 0 && true)
  | .pmovV h o => rShape h o (.dst 1) .no .no .no .no (h.f = 0 && o.x = 0)
  | .pmovP h o => rShape h o .no (.src 1) .no .no .no (h.f = 0 && o.x.getLsbD 0)
  | .actm h o => rShape h o (.dst 1) .no .no .no .no (h.f = 0 && o.x = 0)
  | .elect h o => rShape h o .pdst (.dst 1) .no .no .no (h.f = 0 && o.x = 0)
  | .bra h o => bShape h o .no .no (h.f = 0)
  | .call h o => bShape h o (.dst 1) .no (h.f = 0)
  | .brx h o => rShape h o .no (.src 1) .no .no .no (h.f = 0 && o.x = 0)
  | .callx h o => rShape h o (.dst 1) (.src 1) .no .no .no (h.f = 0 && o.x = 0)
  | .ret h o => rShape h o .no (.src 1) .no .no .no (h.f = 0 && o.x = 0)
  | .exit h o => rShape h o .no .no .no .no .no (h.f = 0 && o.x = 0)
  | .yield h o => rShape h o .no .no .no .no .no (h.f = 0 && o.x = 0)
  | .trap h o => iShape h o .no .no (h.f = 0)
  | .brkpt h o => iShape h o .no .no (h.f = 0)
  | .tret h o => rShape h o .no .no .no .no .no (h.f = 0 && o.x = 0)
  | .csrr h o => sShape h o (.dst 1) .no (h.f = 0 && o.imm = 0 && csrDefined o.csr.toNat)
  | .csrw h o => sShape h o .no (if h.f.getLsbD 2 then .no else .src 1) ((h.f &&& 0xFB) = 0 && (h.f.getLsbD 2 || o.imm = 0) && csrDefined o.csr.toNat)
  | .csrs h o => sShape h o .no (if h.f.getLsbD 2 then .no else .src 1) ((h.f &&& 0xFB) = 1 && (h.f.getLsbD 2 || o.imm = 0) && csrDefined o.csr.toNat)
  | .csrc h o => sShape h o .no (if h.f.getLsbD 2 then .no else .src 1) ((h.f &&& 0xFB) = 2 && (h.f.getLsbD 2 || o.imm = 0) && csrDefined o.csr.toNat)
  | .clock h o => rShape h o (.dst 1) .no .no .no .no (h.f = 0 && o.x.toNat ≤ 1)
  | .join h o => rShape h o .no .no .no .no .no (h.f = 0 && o.x.toNat < 16)
  | .leave h o => rShape h o .no .no .no .no .no (h.f = 0 && o.x.toNat < 16)
  | .gbar h o => rShape h o .no .no .no .no .no (h.f = 0 && o.x.toNat < 16)
  | .gcount h o => rShape h o (.dst 1) .no .no .no .no (h.f = 0 && o.x.toNat < 16)
  | .role h o => rShape h o .no .no .no .no .no (h.f = 0 && o.x.toNat < 64)
  | .regclaim h o => iShape h o .no .no (h.f = 0 && o.imm.toNat % 8 = 0 && 8 ≤ o.imm.toNat && o.imm.toNat ≤ 232)
  | .reggive h o => iShape h o .no .no (h.f = 0 && o.imm.toNat % 8 = 0 && 8 ≤ o.imm.toNat && o.imm.toNat ≤ 232)
  | .sleep h o => iShape h o .no .no (h.f = 0)
  | .wake h o => rShape h o .no (if o.x = 1 then .no else .src 1) .no .no .no (h.f = 0 && o.x.toNat ≤ 1)
  | .prio h o => iShape h o .no .no (h.f = 0 && o.imm.toNat < 4)
  | .ld h o => mShape h o (.dst 1) (.src 1) (memF h.f) [o.hnd]
  | .st h o => mShape h o (.src 1) (.src 1) (memF h.f) [o.hnd]
  | .lda h o => mShape h o (.dst 1) (.src 1) (memF h.f && o.hnd = 0) []
  | .sta h o => mShape h o (.src 1) (.src 1) (memF h.f && o.hnd = 0) []
  | .lds h o => mShape h o (.dst 1) (.src 1) (h.hint = 0 && memF h.f) (spHandle o)
  | .sts h o => mShape h o (.src 1) (.src 1) (h.hint = 0 && memF h.f) (spHandle o)
  | .ldt h o => tShape h o (.src 1) (.src 1) (h.f = 0 && o.x = 0) [o.hnda, o.hndb]
  | .stt h o => tShape h o (.src 1) (.src 1) (h.f = 0 && o.x = 0) [o.hnda, o.hndb]
  | .pref h o => mShape h o .no (.src 1) (memF h.f) [o.hnd]
  | .recset h o => mShape h o .no (.src 4) (h.hint = 0 && h.f = 0 && o.disp = 0) [o.hnd]
  | .recget h o => mShape h o (.dst 4) .no (h.hint = 0 && h.f = 0 && o.disp = 0) [o.hnd]
  | .recinv h o => mShape h o .no .no (h.hint = 0 && h.f = 0 && o.disp = 0) [o.hnd]
  | .recgen h o => mShape h o (.dst 1) .no (h.hint = 0 && h.f = 0 && o.disp = 0) [o.hnd]
  | .spalloc h o => iShape h o (.dst 1) .no (h.f = 0 && o.imm.toNat % 128 = 0 && 128 ≤ o.imm.toNat && o.imm.toNat ≤ 720896)
  | .spfree h o => iShape h o .no .no (h.f = 0 && o.imm.toNat % 128 = 0 && 128 ≤ o.imm.toNat && o.imm.toNat ≤ 720896)
  | .spfence h o => rShape h o .no (.src 1) (.src 1) .no .no (h.f = 0 && o.x = 0)
  | .atom h o => mShape h o (.upd 1) (.src 1) (h.hint = 0 && atomF true h.f) [o.hnd]
  | .cas h o => mShape h o (.upd 2) (.src 1) (h.hint = 0 && casF h.f && !o.disp.getLsbD 19) [o.hnd]
  | .red h o => mShape h o (.src 1) (.src 1) (h.hint = 0 && atomF false h.f) [o.hnd]
  | .atoms h o => mShape h o (.upd 1) (.src 1) (h.hint = 0 && atomF true h.f) (spHandle o)
  | .cass h o => mShape h o (.upd 2) (.src 1) (h.hint = 0 && casF h.f && !o.disp.getLsbD 19) (spHandle o)
  | .reds h o => mShape h o (.src 1) (.src 1) (h.hint = 0 && atomF false h.f) (spHandle o)
  | .awinit h o => iShape h o .no (.src 1) (h.f = 0 && 1 ≤ o.imm.toNat && o.imm.toNat ≤ 0xFFFFFF)
  | .arrive h o => iShape h o (.dst 1) (.src 1) (h.f = 0 && 1 ≤ o.imm.toNat && o.imm.toNat ≤ 0xFFFFFF)
  | .arrdrop h o => iShape h o (.dst 1) (.src 1) (h.f = 0 && 1 ≤ o.imm.toNat && o.imm.toNat ≤ 0xFFFFFF)
  | .await h o => iShape h o (.dst 1) (.src 1) (h.f = 0 && o.imm.toNat < 65536)
  | .awtest h o => iShape h o (.dst 1) (.src 1) (h.f = 0 && o.imm = 0)
  | .qinit h o => iShape h o .no (.src 1) (h.f = 0 && (o.imm >>> 24).toNat % 8 < 4 && (o.imm >>> 20).toNat % 16 ≤ 10)
  | .push h o => rShape h o .no (.src 1) .no .no .no (h.f = 4 && o.x.toNat < 32)
  | .pop h o => rShape h o (.dst 1) .no .no .no .no (h.f = 4 && o.x.toNat < 32)
  | .trypush h o => rShape h o .no (.src 1) .pdst .no .no (h.f = 4 && o.x.toNat < 32)
  | .trypop h o => rShape h o (.dst 1) .no .pdst .no .no (h.f = 4 && o.x.toNat < 32)
  | .qstat h o => rShape h o (.dst 1) .no .no .no .no (h.f = 0 && o.x.toNat < 32)
  | .acq h o => rShape h o .no .no .no .no .no (h.f = 0 && o.x = 0)
  | .rel h o => rShape h o .no .no .no .no .no (h.f = 0 && o.x.toNat ≤ 1)
  | .acqr h o => rShape h o .no (.src 1) .no .no .no (h.f = 0 && o.x = 0)
  | .fence h o => rShape h o .no .no .no .no .no (h.f = 0 && o.x = 0)
  | .seal h o => mShape h o (.dst 1) .no (h.hint = 0 && h.f = 0 && o.disp = 0) [o.hnd]
  | .unseal h o => mShape h o .no .no (h.hint = 0 && h.f = 0 && o.disp = 0) [o.hnd]
  | .frfit h o => mShape h o (.dst 1) .no (h.hint = 0 && h.f.toNat ≤ 1 && o.disp = 0) [o.hnd]
  | .frstat h o => mShape h o (.dst 1) .no (h.hint = 0 && h.f = 0 && o.disp = 0) [o.hnd]
  | .frinit h o => mShape h o (.dst 1) (.src 1) (h.hint = 0 && h.f = 0 && o.disp = 0) [o.hnd]
  | .snap h o => mShape h o (.dst 1) (.src 1) (h.hint = 0 && h.f = 0 && o.disp = 0) [o.hnd]
  | .snapwait h o => iShape h o (.dst 1) (.src 1) (h.f = 0 && o.imm.toNat ≤ 1)
  | .llcstat h o => rShape h o (.dst 8) (if o.x = 2 then .no else .src 1) .no .no .no (h.f = 0 && o.x.toNat < 3)
  | .mma h o => tShape h o .no (.src 1) (h.hint = 0 && h.f = 0 && !o.x.getLsbD 7) [o.hnda, o.hndb]
  | .mmas h o => tShape h o .no (.src 1) (h.hint = 0 && h.f = 0 && !o.x.getLsbD 7) [o.hnda, o.hndb]
  | .mzero h o => rShape h o .no .no .no .no .no (h.f = 0 && (o.x != 0 && o.x.toNat < 16))
  | .mdrain h o => tShape h o .no (.src 1) (h.hint = 0 && h.f = 0 && o.x.toNat < 32) (if o.x.getLsbD 2 then [o.hnda, o.hndb] else [o.hnda])
  | .wload h o => tShape h o .no (.src 1) (h.hint = 0 && h.f = 0 && o.x.toNat < 3 && o.hndb = 0) [o.hnda]
  | .winv h o => mShape h o .no .no (h.hint = 0 && h.f.toNat ≤ 1 && o.disp = 0 && (h.f = 0 || o.hnd = 0)) (if h.f = 0 then [o.hnd] else [])
  | .mstat h o => rShape h o (.dst 1) .no .no .no .no (h.f = 0 && o.x = 0)
  | .mwait h o => rShape h o .no .no .no .no .no (h.f = 0 && (o.x != 0 && o.x.toNat < 32))
  | .mcfg h o => iShape h o .no .no (h.f = 0 && [3, 10, 11, 12, 13, 14].contains o.imm.toNat)
  | .mstepRd h o => rShape h o (.dst 1) .no .no .no .no (h.f = 0 && o.x = 0)
  | .mstepHalt h o => rShape h o (.dst 1) .no .no .no .no (h.f = 0 && o.x = 1)
  | .mstepGo h o => rShape h o .no .no .no .no .no (h.f = 0 && o.x = 2)
  | .cpy h o => tShape h o .srcOpt2 (.src 1) (h.hint = 0 && cpyOk h.f o.x) [o.hnda, o.hndb]
  | .cpyt h o => tShape h o .srcOpt2 (.src 1) (h.hint = 0 && cpyOk h.f o.x) [o.hnda, o.hndb]
  | .cvttab h o => mShape h o .no (.src 1) (h.hint = 0 && h.f.toNat < 4) [o.hnd]
  | .cpystat h o => rShape h o (.dst 1) .no .no .no .no (h.f = 0 && o.x.toNat < 4)
  | .launch h o => mShape h o (.dst 1) (.src 1) (h.hint = 0 && h.f.toNat ≤ 1) [o.hnd]
  | .tlbinv h o => rShape h o .no (if o.x = 0 then .src 1 else .no) (if o.x = 0 then .src 1 else .no) (if o.x = 2 then .no else .src 1) .no (h.f = 0 && o.x.toNat < 3)
  | .ctxsave h o => mShape h o (.dst 1) (.src 1) (h.hint = 0 && h.f = 0 && o.disp = 0) [o.hnd]
  | .ctxload h o => mShape h o (.dst 1) .no (h.hint = 0 && h.f = 0 && o.disp = 0) [o.hnd]
  | .frameret h o => rShape h o (.dst 1) (.src 1) (.src 1) (.src 1) (.src 1) (h.f = 0 && o.x = 0)
  | .fstore h o => tShape h o .srcOpt2 (.src 1) (h.hint = 0 && h.f = 0 && o.x = 0) [o.hnda, o.hndb]
  | .fload h o => tShape h o .srcOpt2 (.src 1) (h.hint = 0 && h.f = 0 && o.x = 0) [o.hnda, o.hndb]
  | .fred h o => tShape h o .no (.src 1) (h.hint = 0 && h.f = 0 && o.x = 0 && o.hndb = 0) [o.hnda]
  | .frel h o => rShape h o .no (if o.x = 1 then .no else .src 1) .no .no .no (h.f = 0 && o.x.toNat ≤ 1)
  | .collOpen h o => mShape h o (.dst 1) (.src 1) (h.hint = 0 && h.f = 0) [o.hnd]
  | .collNext h o => mShape h o (.dst 1) (.src 1) (h.hint = 0 && h.f = 1 && o.hnd = 0 && o.disp = 0) []
  | .collClose h o => mShape h o .no (.src 1) (h.hint = 0 && h.f = 2 && o.hnd = 0 && o.disp = 0) []
  | .fstat h o => rShape h o (.dst 1) (if o.x = 1 then .src 1 else .no) .no .no .no (h.f = 0 && o.x.toNat < 2)
  | .vendorDebug h _ _ => { opds := [], ok := setfOk h && h.hint = 0, handles := [] }
  | .ageOverride _ _ => noShape
  | .yieldExpiry _ _ => noShape
  | .completion _ _ _ => noShape
  | .trapEntry _ _ => noShape
  | .crewEnd _ => noShape
  | .warpEnd _ _ => noShape
  | .claimGrant _ => noShape
  | .reggiveReturn _ _ _ => noShape
  | .sleepTimer _ _ _ => noShape
  | .clockGate _ => noShape
  | .coreWake _ _ => noShape
  | .deadlockReport _ _ => noShape
  | .registration _ => noShape
  | .homeRead _ => noShape
  | .writeBack _ => noShape
  | .sliceWrite _ => noShape
  | .lineFill _ => noShape
  | .drainLineSend _ _ => noShape
  | .snapshotFinish _ => noShape
  | .snapshotAbandon _ _ => noShape
  | .tileLockGrant _ => noShape
  | .tileCommit _ => noShape
  | .sequencerCommandStart _ _ => noShape
  | .engineStep _ _ => noShape
  | .drainPieceCount _ _ => noShape
  | .copyCommandStart _ _ => noShape
  | .copyPieceCount _ _ _ => noShape
  | .copyAbandon _ _ _ => noShape
  | .sproutJob _ _ => noShape
  | .faultRecordWrite _ => noShape
  | .frespRetry _ => noShape
  | .frespAbort _ => noShape
  | .dispatch _ => noShape
  | .rrejClear _ => noShape
  | .crewPlacement _ _ => noShape
  | .acornPlacement _ _ => noShape
  | .launchCompletion _ => noShape
  | .ctxsaveWithdraw _ => noShape
  | .warmStart => noShape
  | .coldStart => noShape
  | .packageReset _ => noShape
  | .imageFetchAttempt _ => noShape
  | .freeze => noShape
  | .scanReadout _ => noShape
  | .debugUnlock _ => noShape
  | .pathMonitorRead _ _ _ _ _ => noShape
  | .powerLimit _ => noShape
  | .thermalTrip => noShape
  | .hostBar2Access _ _ _ => noShape
  | .packetReceive _ => noShape
  | .markerGather _ _ _ => noShape
  | .retransmissionTimeout _ _ => noShape
  | .connectionFailure _ => noShape
  | .fabricAbandon _ _ => noShape
  | .reductionChunkCombine _ _ => noShape
  | .planAbort _ => noShape
  | .registerWrite _ _ => noShape
  | .acknowledgementArrival _ => noShape
  | .portLinkChange _ _ => noShape

/-- Pipe, latency floor, privilege and the admission to cores and Acorns of each instruction (R43, R41 check 3, R276). R43 gives
0x1F0 to 0x1FF a dash in place of pipe and floor: the model takes no pipe and a floor of 1 (DESIGN CHOICE, log 46). -/
def instrInfo (i : Instr) : Info :=
  match i with
  | .fetchLine _ _ => ⟨.none, 0, false, false, false⟩
  | .nop _ _ => ⟨.none, 1, false, true, true⟩
  | .mov _ _ => ⟨.a, 4, false, true, true⟩
  | .movi _ _ => ⟨.a, 4, false, true, true⟩
  | .movhi _ _ => ⟨.a, 4, false, true, true⟩
  | .sel _ _ => ⟨.a, 4, false, true, true⟩
  | .iadd _ _ => ⟨.a, 4, false, true, true⟩
  | .isub _ _ => ⟨.a, 4, false, true, true⟩
  | .iadds _ _ => ⟨.a, 4, false, true, true⟩
  | .isubs _ _ => ⟨.a, 4, false, true, true⟩
  | .iadc _ _ => ⟨.a, 4, false, true, true⟩
  | .imul _ _ => ⟨.a, 4, false, true, true⟩
  | .imulh _ _ => ⟨.a, 4, false, true, true⟩
  | .imad _ _ => ⟨.a, 4, false, true, true⟩
  | .imadw _ _ => ⟨.a, 4, false, true, true⟩
  | .idp4 _ _ => ⟨.a, 4, false, true, true⟩
  | .iabs _ _ => ⟨.a, 4, false, true, true⟩
  | .imin _ _ => ⟨.a, 4, false, true, true⟩
  | .imax _ _ => ⟨.a, 4, false, true, true⟩
  | .isad _ _ => ⟨.a, 4, false, true, true⟩
  | .imax3 _ _ => ⟨.a, 4, false, true, true⟩
  | .and _ _ => ⟨.a, 4, false, true, true⟩
  | .or _ _ => ⟨.a, 4, false, true, true⟩
  | .xor _ _ => ⟨.a, 4, false, true, true⟩
  | .andn _ _ => ⟨.a, 4, false, true, true⟩
  | .lop3 _ _ => ⟨.a, 4, false, true, true⟩
  | .shl _ _ => ⟨.a, 4, false, true, true⟩
  | .shr _ _ => ⟨.a, 4, false, true, true⟩
  | .sar _ _ => ⟨.a, 4, false, true, true⟩
  | .rotl _ _ => ⟨.a, 4, false, true, true⟩
  | .fshf _ _ => ⟨.a, 4, false, true, true⟩
  | .bfx _ _ => ⟨.a, 4, false, true, true⟩
  | .bfi _ _ => ⟨.a, 4, false, true, true⟩
  | .popc _ _ => ⟨.a, 4, false, true, true⟩
  | .clz _ _ => ⟨.a, 4, false, true, true⟩
  | .ctz _ _ => ⟨.a, 4, false, true, true⟩
  | .brev _ _ => ⟨.a, 4, false, true, true⟩
  | .icmp _ _ => ⟨.a, 4, false, true, true⟩
  | .icmpm _ _ => ⟨.a, 4, false, true, true⟩
  | .fcmp _ _ => ⟨.a, 4, false, true, true⟩
  | .lea _ _ => ⟨.a, 4, false, true, true⟩
  | .fadd _ _ => ⟨.a, 4, false, true, true⟩
  | .fsub _ _ => ⟨.a, 4, false, true, true⟩
  | .fmul _ _ => ⟨.a, 4, false, true, true⟩
  | .ffma _ _ => ⟨.a, 4, false, true, true⟩
  | .fmin _ _ => ⟨.a, 4, false, true, true⟩
  | .fmax _ _ => ⟨.a, 4, false, true, true⟩
  | .fclass _ _ => ⟨.a, 4, false, true, true⟩
  | .frnd _ _ => ⟨.a, 4, false, true, true⟩
  | .fscale _ _ => ⟨.a, 4, false, true, true⟩
  | .fgetexp _ _ => ⟨.a, 4, false, true, true⟩
  | .fdot2 _ _ => ⟨.a, 4, false, true, true⟩
  | .fdot4 _ _ => ⟨.a, 4, false, true, true⟩
  | .fhadd _ _ => ⟨.a, 4, false, true, true⟩
  | .frcp _ _ => ⟨.x, 12, false, true, true⟩
  | .frsq _ _ => ⟨.x, 12, false, true, true⟩
  | .dadd _ _ => ⟨.a, 6, false, true, true⟩
  | .dmul _ _ => ⟨.a, 6, false, true, true⟩
  | .dfma _ _ => ⟨.a, 6, false, true, true⟩
  | .fabs _ _ => ⟨.a, 4, false, true, true⟩
  | .fneg _ _ => ⟨.a, 4, false, true, true⟩
  | .cvt _ _ => ⟨.x, 8, false, true, true⟩
  | .cvtsr _ _ => ⟨.x, 8, false, true, true⟩
  | .cvti _ _ => ⟨.x, 8, false, true, true⟩
  | .pack _ _ => ⟨.x, 8, false, true, true⟩
  | .unpk _ _ => ⟨.x, 8, false, true, true⟩
  | .bscale _ _ => ⟨.x, 8, false, true, true⟩
  | .qnt _ _ => ⟨.x, 8, false, true, true⟩
  | .dqnt _ _ => ⟨.x, 8, false, true, true⟩
  | .cbld _ _ => ⟨.m, 1, false, true, false⟩
  | .cbdec _ _ => ⟨.x, 8, false, true, false⟩
  | .fexp2 _ _ => ⟨.x, 12, false, true, false⟩
  | .flog2 _ _ => ⟨.x, 12, false, true, false⟩
  | .fsin _ _ => ⟨.x, 12, false, true, false⟩
  | .fcos _ _ => ⟨.x, 12, false, true, false⟩
  | .ftanh _ _ => ⟨.x, 12, false, true, false⟩
  | .fsig _ _ => ⟨.x, 12, false, true, false⟩
  | .act _ _ => ⟨.x, 12, false, true, false⟩
  | .actld _ _ => ⟨.m, 1, false, true, false⟩
  | .actsw _ _ => ⟨.m, 1, false, true, false⟩
  | .rngseed _ _ => ⟨.x, 8, false, true, false⟩
  | .rng _ _ => ⟨.x, 8, false, true, false⟩
  | .shfl _ _ => ⟨.x, 8, false, true, false⟩
  | .bcst _ _ => ⟨.x, 8, false, true, false⟩
  | .perm _ _ => ⟨.x, 8, false, true, false⟩
  | .zip _ _ => ⟨.x, 8, false, true, false⟩
  | .unzip _ _ => ⟨.x, 8, false, true, false⟩
  | .vote _ _ => ⟨.x, 8, false, true, false⟩
  | .matchLanes _ _ => ⟨.x, 8, false, true, false⟩
  | .redl _ _ => ⟨.x, 8, false, true, false⟩
  | .scanl _ _ => ⟨.x, 8, false, true, false⟩
  | .plop _ _ => ⟨.x, 8, false, true, true⟩
  | .pmovV _ _ => ⟨.x, 8, false, true, true⟩
  | .pmovP _ _ => ⟨.x, 8, false, true, true⟩
  | .actm _ _ => ⟨.x, 8, false, true, false⟩
  | .elect _ _ => ⟨.x, 8, false, true, true⟩
  | .bra _ _ => ⟨.c, 2, false, true, true⟩
  | .call _ _ => ⟨.c, 2, false, true, true⟩
  | .brx _ _ => ⟨.c, 2, false, true, true⟩
  | .callx _ _ => ⟨.c, 2, false, true, true⟩
  | .ret _ _ => ⟨.c, 2, false, true, true⟩
  | .exit _ _ => ⟨.c, 2, false, true, true⟩
  | .yield _ _ => ⟨.c, 2, false, true, true⟩
  | .trap _ _ => ⟨.c, 2, false, true, true⟩
  | .brkpt _ _ => ⟨.c, 2, false, true, true⟩
  | .tret _ _ => ⟨.c, 2, false, true, true⟩
  | .csrr _ _ => ⟨.m, 1, false, true, true⟩
  | .csrw _ _ => ⟨.m, 1, false, true, true⟩
  | .csrs _ _ => ⟨.m, 1, false, true, true⟩
  | .csrc _ _ => ⟨.m, 1, false, true, true⟩
  | .clock _ _ => ⟨.c, 2, false, true, true⟩
  | .join _ _ => ⟨.m, 1, false, true, false⟩
  | .leave _ _ => ⟨.m, 1, false, true, false⟩
  | .gbar _ _ => ⟨.m, 1, false, true, false⟩
  | .gcount _ _ => ⟨.m, 1, false, true, false⟩
  | .role _ _ => ⟨.m, 1, false, true, false⟩
  | .regclaim _ _ => ⟨.m, 1, false, true, false⟩
  | .reggive _ _ => ⟨.m, 1, false, true, false⟩
  | .sleep _ _ => ⟨.m, 1, false, true, false⟩
  | .wake _ _ => ⟨.m, 1, false, true, false⟩
  | .prio _ _ => ⟨.m, 1, false, true, false⟩
  | .ld _ _ => ⟨.m, 1, false, true, true⟩
  | .st _ _ => ⟨.m, 1, false, true, true⟩
  | .lda _ _ => ⟨.m, 1, false, true, true⟩
  | .sta _ _ => ⟨.m, 1, false, true, true⟩
  | .lds _ _ => ⟨.m, 1, false, true, true⟩
  | .sts _ _ => ⟨.m, 1, false, true, true⟩
  | .ldt _ _ => ⟨.m, 1, false, true, false⟩
  | .stt _ _ => ⟨.m, 1, false, true, false⟩
  | .pref _ _ => ⟨.m, 1, false, true, true⟩
  | .recset _ _ => ⟨.m, 1, false, true, true⟩
  | .recget _ _ => ⟨.m, 1, false, true, true⟩
  | .recinv _ _ => ⟨.m, 1, false, true, true⟩
  | .recgen _ _ => ⟨.m, 1, false, true, true⟩
  | .spalloc _ _ => ⟨.m, 1, false, true, false⟩
  | .spfree _ _ => ⟨.m, 1, false, true, false⟩
  | .spfence _ _ => ⟨.m, 1, false, true, false⟩
  | .atom _ _ => ⟨.m, 1, false, true, true⟩
  | .cas _ _ => ⟨.m, 1, false, true, true⟩
  | .red _ _ => ⟨.m, 1, false, true, true⟩
  | .atoms _ _ => ⟨.m, 1, false, true, true⟩
  | .cass _ _ => ⟨.m, 1, false, true, true⟩
  | .reds _ _ => ⟨.m, 1, false, true, true⟩
  | .awinit _ _ => ⟨.m, 1, false, true, false⟩
  | .arrive _ _ => ⟨.m, 1, false, true, false⟩
  | .arrdrop _ _ => ⟨.m, 1, false, true, false⟩
  | .await _ _ => ⟨.m, 1, false, true, false⟩
  | .awtest _ _ => ⟨.m, 1, false, true, false⟩
  | .qinit _ _ => ⟨.m, 1, false, true, false⟩
  | .push _ _ => ⟨.m, 1, false, true, true⟩
  | .pop _ _ => ⟨.m, 1, false, true, true⟩
  | .trypush _ _ => ⟨.m, 1, false, true, true⟩
  | .trypop _ _ => ⟨.m, 1, false, true, true⟩
  | .qstat _ _ => ⟨.m, 1, false, true, true⟩
  | .acq _ _ => ⟨.m, 1, false, true, true⟩
  | .rel _ _ => ⟨.m, 1, false, true, true⟩
  | .acqr _ _ => ⟨.m, 1, false, true, false⟩
  | .fence _ _ => ⟨.m, 1, false, true, true⟩
  | .seal _ _ => ⟨.m, 1, false, true, false⟩
  | .unseal _ _ => ⟨.m, 1, false, true, false⟩
  | .frfit _ _ => ⟨.m, 1, false, true, false⟩
  | .frstat _ _ => ⟨.m, 1, false, true, false⟩
  | .frinit _ _ => ⟨.m, 1, false, true, false⟩
  | .snap _ _ => ⟨.m, 1, false, true, false⟩
  | .snapwait _ _ => ⟨.m, 1, false, true, false⟩
  | .llcstat _ _ => ⟨.m, 1, false, true, false⟩
  | .mma _ _ => ⟨.m, 1, false, false, true⟩
  | .mmas _ _ => ⟨.m, 1, false, false, true⟩
  | .mzero _ _ => ⟨.m, 1, false, false, true⟩
  | .mdrain _ _ => ⟨.m, 1, false, false, true⟩
  | .wload _ _ => ⟨.m, 1, false, false, true⟩
  | .winv _ _ => ⟨.m, 1, false, false, true⟩
  | .mstat _ _ => ⟨.m, 1, false, false, true⟩
  | .mwait _ _ => ⟨.m, 1, false, false, true⟩
  | .mcfg _ _ => ⟨.m, 1, false, false, true⟩
  | .mstepRd _ _ => ⟨.m, 1, false, false, true⟩
  | .mstepHalt _ _ => ⟨.m, 1, false, false, true⟩
  | .mstepGo _ _ => ⟨.m, 1, false, false, true⟩
  | .cpy _ _ => ⟨.m, 1, false, true, true⟩
  | .cpyt _ _ => ⟨.m, 1, false, true, true⟩
  | .cvttab _ _ => ⟨.m, 1, false, true, true⟩
  | .cpystat _ _ => ⟨.m, 1, false, true, true⟩
  | .launch _ _ => ⟨.m, 1, false, true, false⟩
  | .tlbinv _ _ => ⟨.m, 1, true, true, false⟩
  | .ctxsave _ _ => ⟨.m, 1, true, true, false⟩
  | .ctxload _ _ => ⟨.m, 1, true, true, false⟩
  | .frameret _ _ => ⟨.m, 1, true, true, false⟩
  | .fstore _ _ => ⟨.m, 1, false, true, false⟩
  | .fload _ _ => ⟨.m, 1, false, true, false⟩
  | .fred _ _ => ⟨.m, 1, false, true, false⟩
  | .frel _ _ => ⟨.m, 1, false, true, false⟩
  | .collOpen _ _ => ⟨.m, 1, false, true, false⟩
  | .collNext _ _ => ⟨.m, 1, false, true, false⟩
  | .collClose _ _ => ⟨.m, 1, false, true, false⟩
  | .fstat _ _ => ⟨.m, 1, false, true, false⟩
  | .vendorDebug _ _ _ => ⟨.none, 1, false, true, false⟩
  | .ageOverride _ _ => ⟨.none, 0, false, false, false⟩
  | .yieldExpiry _ _ => ⟨.none, 0, false, false, false⟩
  | .completion _ _ _ => ⟨.none, 0, false, false, false⟩
  | .trapEntry _ _ => ⟨.none, 0, false, false, false⟩
  | .crewEnd _ => ⟨.none, 0, false, false, false⟩
  | .warpEnd _ _ => ⟨.none, 0, false, false, false⟩
  | .claimGrant _ => ⟨.none, 0, false, false, false⟩
  | .reggiveReturn _ _ _ => ⟨.none, 0, false, false, false⟩
  | .sleepTimer _ _ _ => ⟨.none, 0, false, false, false⟩
  | .clockGate _ => ⟨.none, 0, false, false, false⟩
  | .coreWake _ _ => ⟨.none, 0, false, false, false⟩
  | .deadlockReport _ _ => ⟨.none, 0, false, false, false⟩
  | .registration _ => ⟨.none, 0, false, false, false⟩
  | .homeRead _ => ⟨.none, 0, false, false, false⟩
  | .writeBack _ => ⟨.none, 0, false, false, false⟩
  | .sliceWrite _ => ⟨.none, 0, false, false, false⟩
  | .lineFill _ => ⟨.none, 0, false, false, false⟩
  | .drainLineSend _ _ => ⟨.none, 0, false, false, false⟩
  | .snapshotFinish _ => ⟨.none, 0, false, false, false⟩
  | .snapshotAbandon _ _ => ⟨.none, 0, false, false, false⟩
  | .tileLockGrant _ => ⟨.none, 0, false, false, false⟩
  | .tileCommit _ => ⟨.none, 0, false, false, false⟩
  | .sequencerCommandStart _ _ => ⟨.none, 0, false, false, false⟩
  | .engineStep _ _ => ⟨.none, 0, false, false, false⟩
  | .drainPieceCount _ _ => ⟨.none, 0, false, false, false⟩
  | .copyCommandStart _ _ => ⟨.none, 0, false, false, false⟩
  | .copyPieceCount _ _ _ => ⟨.none, 0, false, false, false⟩
  | .copyAbandon _ _ _ => ⟨.none, 0, false, false, false⟩
  | .sproutJob _ _ => ⟨.none, 0, false, false, false⟩
  | .faultRecordWrite _ => ⟨.none, 0, false, false, false⟩
  | .frespRetry _ => ⟨.none, 0, false, false, false⟩
  | .frespAbort _ => ⟨.none, 0, false, false, false⟩
  | .dispatch _ => ⟨.none, 0, false, false, false⟩
  | .rrejClear _ => ⟨.none, 0, false, false, false⟩
  | .crewPlacement _ _ => ⟨.none, 0, false, false, false⟩
  | .acornPlacement _ _ => ⟨.none, 0, false, false, false⟩
  | .launchCompletion _ => ⟨.none, 0, false, false, false⟩
  | .ctxsaveWithdraw _ => ⟨.none, 0, false, false, false⟩
  | .warmStart => ⟨.none, 0, false, false, false⟩
  | .coldStart => ⟨.none, 0, false, false, false⟩
  | .packageReset _ => ⟨.none, 0, false, false, false⟩
  | .imageFetchAttempt _ => ⟨.none, 0, false, false, false⟩
  | .freeze => ⟨.none, 0, false, false, false⟩
  | .scanReadout _ => ⟨.none, 0, false, false, false⟩
  | .debugUnlock _ => ⟨.none, 0, false, false, false⟩
  | .pathMonitorRead _ _ _ _ _ => ⟨.none, 0, false, false, false⟩
  | .powerLimit _ => ⟨.none, 0, false, false, false⟩
  | .thermalTrip => ⟨.none, 0, false, false, false⟩
  | .hostBar2Access _ _ _ => ⟨.none, 0, false, false, false⟩
  | .packetReceive _ => ⟨.none, 0, false, false, false⟩
  | .markerGather _ _ _ => ⟨.none, 0, false, false, false⟩
  | .retransmissionTimeout _ _ => ⟨.none, 0, false, false, false⟩
  | .connectionFailure _ => ⟨.none, 0, false, false, false⟩
  | .fabricAbandon _ _ => ⟨.none, 0, false, false, false⟩
  | .reductionChunkCombine _ _ => ⟨.none, 0, false, false, false⟩
  | .planAbort _ => ⟨.none, 0, false, false, false⟩
  | .registerWrite _ _ => ⟨.none, 0, false, false, false⟩
  | .acknowledgementArrival _ => ⟨.none, 0, false, false, false⟩
  | .portLinkChange _ _ => ⟨.none, 0, false, false, false⟩

/-! ## Decode check 4 (R41) -/

/-- Decode check 4: SETF, and the bytes 246 and 247 in a position that the instruction uses. -/
def check4 (i : Instr) (h : Hdr) : Bool :=
  setfOk h && (instrShape i).opds.all (fun d => match d.use with
    | .no => true
    | .any => true
    | _ => d.byte != 246 && d.byte != 247)

end Sys2Proof.Machine
end

