-- ==== Sys2Proof/Machine/Ops.lean ====
section
/-! DEFINITION. The named operations over registers, predicates, counters and memory; issuing an instruction with its decode
checks (02_encoding.md R41); taking a trap and returning from one (07_thread_control_traps.md R177-R186). -/

namespace Sys2Proof.Machine

/-! ## Lanes, masks, rows -/

/-- The mask of the lanes below n that satisfy p. -/
def maskUpTo (p : Nat → Bool) : Nat → Mask
  | 0 => 0
  | n + 1 => maskUpTo p n ||| (if p n then 1#32 <<< n else 0#32)
/-- The mask of the lanes that satisfy p. -/
def maskOf (p : Nat → Bool) : Mask := maskUpTo p 32

/-- The lowest lane of a mask. -/
def lowestFrom (m : Mask) : Nat → Nat → Option Nat
  | 0, _ => none
  | n + 1, l => if m.getLsbD l then some l else lowestFrom m n (l + 1)
def lowestLane (m : Mask) : Option Nat := lowestFrom m 32 0

/-- The lanes of a mask in ascending order. -/
def lanesOf (m : Mask) : List Nat := (List.range 32).filter (fun l => m.getLsbD l)

def popMask (m : Mask) : Nat := (lanesOf m).length

/-- A register from the contents of each lane. -/
def mkRow (f : Nat → Lane) : Row := (List.range 32).map f
def rowGet (r : Row) (l : Nat) : Lane := r.getD l Lane.zero
def emptyRow : Row := mkRow (fun _ => Lane.zero)
/-- A row with the lanes of a mask replaced. -/
def rowSet (r : Row) (m : Mask) (f : Nat → Lane) : Row := mkRow (fun l => if m.getLsbD l then f l else rowGet r l)

/-! ## Units, warps, quads, crews -/

/-- A warp slot is numbered unit * 32 + quad * 8 + slot; units from 1,216 on are Acorns (R230). -/
def keyUnit (key : Nat) : Nat := key % 65536 / 32
def keySlot (key : Nat) : Nat := key % 32
def keyQuad (key : Nat) : Nat := key % 65536 / 8
/-- What a warp that has ended left behind: instructions without SETF that have still to take effect (R24, R169). It stands under a key of its
own beyond those of the slots, and counts as no warp. -/
def isGhost (key : Nat) : Bool := 65536 ≤ key
def ghostKey (key n : Nat) : Nat := key % 65536 + 65536 * (n + 1)
def keyAcorn (key : Nat) : Bool := 1216 ≤ keyUnit key
/-- Cluster of a unit (R2): eight cores to a cluster. -/
def unitCluster (u : Nat) : Nat := if u < 1216 then u / 8 else u - 1216
/-- Compute die of a cluster (R2): 38 clusters to a die. -/
def clusterDie (c : Nat) : Nat := c / 38

def State.warp (s : State) (key : Nat) : Option Warp := fmFind s.warps key
def State.setWarp (s : State) (key : Nat) (w : Warp) : State := { s with warps := fmPut s.warps key w }
def State.modWarp (s : State) (key : Nat) (f : Warp → Warp) : State :=
  match s.warp key with
  | some w => s.setWarp key (f w)
  | none => s

def Quad.start : Quad := { bank := [], issued := none, aHold := 0 }
def State.quad (s : State) (q : Nat) : Quad := fmGet Quad.start s.quads q
def State.setQuad (s : State) (q : Nat) (v : Quad) : State := { s with quads := fmPut s.quads q v }

def State.crew (s : State) (c : Nat) : Option Crew := fmFind s.crews c
def State.setCrew (s : State) (c : Nat) (v : Crew) : State := { s with crews := fmPut s.crews c v }
def State.modCrew (s : State) (c : Nat) (f : Crew → Crew) : State :=
  match s.crew c with
  | some v => s.setCrew c (f v)
  | none => s

/-- An activation table at reset (R147). -/
def ActTable.start : ActTable := { cur := [], shadow := [], busy := 0, read := 0, swapped := none }
/-- A core after reset: L1 empty, 2,048 rows free, gated (R209, R218, R466). -/
def Core.start : Core :=
  { l1 := [], l1Clock := 0, poolFree := 2048, claims := [], poolAt := 0, waker := 0, deadlk := 0, gated := true, wakeAt := 0,
    codebook := none, act := [ActTable.start, ActTable.start, ActTable.start, ActTable.start], recs := [] }
def State.core (s : State) (c : Nat) : Core := fmGet Core.start s.cores c
def State.setCore (s : State) (c : Nat) (v : Core) : State := { s with cores := fmPut s.cores c v }
def State.modPkg (s : State) (f : Pkg → Pkg) : State := { s with pkg := f s.pkg }
def State.modCore (s : State) (c : Nat) (f : Core → Core) : State := s.setCore c (f (s.core c))

/-- Quiet sleep state (R197). -/
def Sleep.awake : Sleep := { asleep := false, until? := none, wakePending := false }

/-- A wake event at a core (R218, R219): a gated core with a crew ungates, its first issue follows 24 cycles later, and WAKER takes
the event; a further event of the same cycle joins it. -/
def wakeCore (s : State) (unit bit : Nat) : State :=
  if 1216 ≤ unit || !s.crews.any (fun e => e.2.unit = unit) then s
  else
    let c := s.core unit
    if c.gated then s.setCore unit { c with
      gated := false, wakeAt := s.cycle + Config.wakeCycles
      waker := BitVec.ofNat 64 ((c.waker.toNat / 2 ^ 32 + 1) % 2 ^ 32 * 2 ^ 32 + 2 ^ bit) }
    else if c.wakeAt = s.cycle + Config.wakeCycles then s.setCore unit { c with waker := c.waker ||| BitVec.ofNat 64 (2 ^ bit) }
    else s

/-! ## Program counters -/

/-- The next sequential PC (R16). -/
def nextPc (pc : Word) : Word := if pc.toNat % 8 = 4 then (pc - 4) + 0x40 else pc + 1

/-- A PC names a slot (R16, R493). -/
def pcNamesSlot (pc : Word) : Bool := pc.toNat % 8 ≤ 4 && (pc.toNat / 8) % 8 = 0 && pc.toNat < 2 ^ 52

/-- The target of a slot offset, or none where it is negative or too far (R17). -/
def pcOffset (pc : Word) (imm : BitVec 32) : Option Word :=
  let t : Int := ((pc.toNat >>> 6) * 5 + pc.toNat % 8 : Nat) + imm.toInt
  if t < 0 then none
  else
    let p := (t.toNat / 5) <<< 6 + t.toNat % 5
    if p < 2 ^ 52 then some (BitVec.ofNat 64 p) else none

/-! ## The fetch buffer (R12, R15) -/

/-- The line word of a fetch line, and its instruction slots. -/
def lineHead (d : BitVec 512) : BitVec 32 := d.extractLsb' 0 32
def lineSlot (d : BitVec 512) (i : Nat) : IWord := d.extractLsb' (32 + 96 * i) 96
/-- The address of the line of a PC. -/
def pcLine (pc : Word) : Nat := pc.toNat / 64 * 64
/-- The line of a PC, where the warp's fetch buffer holds it. -/
def lineAt (w : Warp) (pc : Word) : Option (BitVec 512) :=
  match w.fetch with
  | some (va, d) => if va = pcLine pc then some d else none
  | none => none
/-- The instruction word at a PC that names a slot, where the buffer holds its line. -/
def wordAt (w : Warp) (pc : Word) : Option IWord :=
  if pcNamesSlot pc then (lineAt w pc).map (fun d => lineSlot d (pc.toNat % 8)) else none

/-! ## Reading operands (R25, R31, R33) -/

/-- The number of the register that a byte names: 256 + k for the trap bank (R33). -/
def regId (w : Warp) (b : Nat) : Nat := if w.tm && b < 16 then 256 + b else b

/-- The register that a byte below 240 names, as it stands. -/
def regRow (s : State) (key : Nat) (w : Warp) (b : Nat) : Row :=
  if w.tm && b < 16 then fmGet emptyRow (s.quad (keyQuad key)).bank b else fmGet emptyRow w.regs b

/-- The lanes of a register that incomplete instructions are still to write (R25). -/
def pendingLanes (w : Warp) (r : Nat) : Mask :=
  w.pend.foldl (fun m p => p.regs.foldl (fun m g => if g.reg = r then m ||| g.mask else m) m) 0
/-- The lanes of a predicate that incomplete instructions are still to write (R25). -/
def pendingPred (w : Warp) (p : Nat) : Mask :=
  w.pend.foldl (fun m q => q.preds.foldl (fun m g => if g.pred = p then m ||| g.mask else m) m) 0

/-- Number of the free value for a register and lane in one issue (log 3). -/
def freeIndex (s : State) (b l : Nat) : Nat := s.draw * 65536 + b * 32 + l

/-- vlane, vtid, vwarp, vcrew and vcore (R31, R94, R98, R180, R274). -/
def laneNumber (key : Nat) (w : Warp) (l : Nat) : Nat :=
  if keyAcorn key then 0 else if w.tm then l else if w.prot then l / 2 else if w.c16 then l % 16 else l
def warpNumber (key : Nat) (w : Warp) (l : Nat) : Nat :=
  if keyAcorn key then 0 else if w.c16 && !w.tm then 2 * w.widx + l / 16 else w.widx
def threadNumber (key : Nat) (w : Warp) (l : Nat) : Nat :=
  if keyAcorn key then 0
  else if w.tm then w.widx * 32 + l
  else if w.prot then w.widx * 16 + l / 2
  else if w.c16 then (2 * w.widx + l / 16) * 16 + l % 16
  else w.widx * 32 + l
def crewNumber (s : State) (key : Nat) (w : Warp) : Nat :=
  if keyAcorn key then 0 else match s.crew w.crew with
    | some c => c.vcrew
    | none => 0

/-- The value that an operand byte reads in a lane (R31). -/
def opdVal (s : State) (key : Nat) (w : Warp) (b : Byte) (l : Nat) : Lane :=
  let n := b.toNat
  if n < 240 then
    if (pendingLanes w (regId w n)).getLsbD l then
      ⟨Config.freeWord (freeIndex s (regId w n) l), Config.freePoison (freeIndex s (regId w n) l)⟩
    else rowGet (regRow s key w n) l
  else
    let v := match n with
      | 241 => laneNumber key w l
      | 242 => threadNumber key w l
      | 243 => warpNumber key w l
      | 244 => crewNumber s key w
      | 245 => keyUnit key
      | _ => 0
    ⟨BitVec.ofNat 64 v, 0⟩

/-- Predicate p of a warp as it stands; p7 is true and clean (R31). -/
def predRow (w : Warp) (p : Nat) : PRow := if p = 7 then ⟨BitVec.allOnes 32, 0⟩ else w.preds.getD p ⟨0, 0⟩

/-- The value and poison that a predicate reads in a lane; one that an incomplete instruction writes is undefined (R25, R93). -/
def predVal (s : State) (w : Warp) (p : Nat) (l : Nat) : Bool × Bool :=
  if p != 7 && (pendingPred w p).getLsbD l then
    ((Config.freeMask (s.draw * 16 + 2 * p)).getLsbD l, (Config.freeMask (s.draw * 16 + 2 * p + 1)).getLsbD l)
  else ((predRow w p).val.getLsbD l, (predRow w p).poi.getLsbD l)

/-- A guard field's value and poison in a lane (R29). -/
def guardVal (s : State) (w : Warp) (g : BitVec 4) (l : Nat) : Bool × Bool :=
  let v := predVal s w (g.toNat % 8) l
  (v.1 != g.getLsbD 3, v.2)

/-- The lanes of a set whose guards are both true (R29). -/
def guardMask (s : State) (w : Warp) (h : Hdr) (act : Mask) : Mask :=
  maskOf (fun l => act.getLsbD l && (guardVal s w h.ga l).1 && (guardVal s w h.gb l).1)
/-- A guard predicate of a lane of the set is poisoned (R29). -/
def guardPoisoned (s : State) (w : Warp) (h : Hdr) (act : Mask) : Bool :=
  (lanesOf act).any (fun l => (guardVal s w h.ga l).2 || (guardVal s w h.gb l).2)

/-! ## Writing registers and predicates -/

/-- Marks lanes of a register that incomplete instructions also write: what they leave there is undefined (R25). -/
def clobberRegs (ps : List Pend) (r : Nat) (m : Mask) : List Pend :=
  ps.map (fun p => { p with regs := p.regs.map (fun g => if g.reg = r then { g with clob := g.clob ||| (g.mask &&& m) } else g) })
def clobberPreds (ps : List Pend) (n : Nat) (m : Mask) : List Pend :=
  ps.map (fun p => { p with preds := p.preds.map (fun g => if g.pred = n then { g with clob := g.clob ||| (g.mask &&& m) } else g) })

/-- Stores lanes of the register numbered r, the trap bank from 256 on. -/
def storeReg (s : State) (key r : Nat) (m : Mask) (f : Nat → Lane) : State :=
  if r < 256 then s.modWarp key (fun w => { w with regs := fmPut w.regs r (rowSet (fmGet emptyRow w.regs r) m f) })
  else
    let q := s.quad (keyQuad key)
    s.setQuad (keyQuad key) { q with bank := fmPut q.bank (r - 256) (rowSet (fmGet emptyRow q.bank (r - 256)) m f) }

/-- An instruction writes lanes of the register that a byte names; vz discards (R31). -/
def writeReg (s : State) (key : Nat) (b : Byte) (m : Mask) (f : Nat → Lane) : State :=
  if 240 ≤ b.toNat then s
  else match s.warp key with
    | none => s
    | some w =>
      let r := regId w b.toNat
      storeReg (s.setWarp key { w with pend := clobberRegs w.pend r m }) key r m f

/-- Lanes of a predicate replaced. -/
def storePred (w : Warp) (p : Nat) (m val poi : Mask) : Warp :=
  let v := ((predRow w p).val &&& ~~~m) ||| (val &&& m)
  let q := ((predRow w p).poi &&& ~~~m) ||| (poi &&& m)
  { w with preds := (List.range 7).map (fun k => if k = p then ⟨v, q⟩ else predRow w k) }

/-- An instruction writes lanes of the predicate that a byte names; p7 discards (R31). -/
def writePred (s : State) (key : Nat) (b : Byte) (m val poi : Mask) : State :=
  if b.toNat < 248 || b.toNat = 255 then s
  else s.modWarp key (fun w => storePred { w with pend := clobberPreds w.pend (b.toNat - 248) m } (b.toNat - 248) m val poi)

/-- Flags that an instruction sets when it completes, in the cycle given (R70). -/
def raiseFlags (s : State) (key at' : Nat) (fl : Flags) : State :=
  s.modWarp key (fun w => { w with flagsDue := w.flagsDue ++ [(at', fl)] })

/-- Flags that are set by a cycle. -/
def flagsBy (w : Warp) (cycle : Nat) : Flags := w.flagsDue.foldl (fun fl e => if e.1 ≤ cycle then fl ||| e.2 else fl) 0

/-- FPSTAT as it stands in a cycle: what is stored, and the flags of the instructions that have completed (R70, R71). -/
def statNow (w : Warp) (cycle : Nat) : Word := statSet w.fpstat (flagsBy w cycle)

/-- The flags of a cycle are stored when it ends, so that a setting stands beside a CSRW clear of the same cycle (R70). -/
def settleFlags (w : Warp) (cycle : Nat) : Warp :=
  { w with fpstat := statNow w cycle, flagsDue := w.flagsDue.filter (fun e => cycle < e.1) }

/-! ## Completion counters (R23, R98) -/

/-- The counters that a counter number means for an active set: in C16 mode those of each half with a lane of it (R98). -/
def ctrSet (w : Warp) (act : Mask) (n : Nat) : List Nat :=
  if w.c16 && !w.tm then
    (if act &&& 0xFFFF#32 != 0 then [n] else []) ++ (if act &&& 0xFFFF0000#32 != 0 then [n + 12] else [])
  else [n]

def ctrGet (w : Warp) (n : Nat) : Nat := w.ctrs.getD n 0
def ctrAdd (cs : List Nat) (ns : List Nat) : List Nat := ns.foldl (fun cs n => cs.set n (cs.getD n 0 + 1)) cs
def ctrSub (cs : List Nat) (ns : List Nat) : List Nat := ns.foldl (fun cs n => cs.set n (cs.getD n 0 - 1)) cs
/-- Every counter of the warp is zero. -/
def ctrsZero (w : Warp) : Bool := w.ctrs.all (fun n => n == 0)

/-- The counters that SETF names (R22). -/
def setfCtrs (w : Warp) (h : Hdr) (act : Mask) : List Nat := if h.setf = 0 then [] else ctrSet w act (h.setf.toNat - 1)

/-- Counters fall in a cycle; WAIT finds one that reaches zero satisfied from the next cycle on (R23). -/
def dropCtrs (w : Warp) (ns : List Nat) (cycle : Nat) : Warp :=
  { w with
    ctrs := ctrSub w.ctrs ns
    zeroFrom := ns.foldl (fun z n => z.set n (cycle + 1)) w.zeroFrom }

/-- WAIT holds: every named counter is zero (R22), and has been since an earlier cycle (R23). -/
def waitHolds (w : Warp) (h : Hdr) (act : Mask) (cycle : Nat) : Bool :=
  (List.range 12).all (fun n => !h.wait.getLsbD n
    || (ctrSet w act n).all (fun k => ctrGet w k == 0 && w.zeroFrom.getD k 0 ≤ cycle))
/-- SETF does not wait: the named counter has room for n more (R23). -/
def setfRoom (w : Warp) (h : Hdr) (act : Mask) (n : Nat) : Bool := (setfCtrs w h act).all (fun k => ctrGet w k + n ≤ 63)

/-! ## Traps (R177-R186) -/

/-- Trap causes (R188). -/
def cILLOP : Nat := 0x01
def cEMUL : Nat := 0x02
def cBADTGT : Nat := 0x03
def cREGBOUND : Nat := 0x04
def cPRIV : Nat := 0x05
def cMISALIGN : Nat := 0x06
def cBOUNDS : Nat := 0x07
def cSPBOUND : Nat := 0x08
def cPOISON : Nat := 0x09
def cSEALW : Nat := 0x0A
def cPAGE : Nat := 0x0B
def cRECINV : Nat := 0x0C
def cGRPBOUND : Nat := 0x0D
def cQBOUND : Nat := 0x0E
def cDEADLOCK : Nat := 0x0F
def cSDC : Nat := 0x10
def cPARITY : Nat := 0x11
def cBRKPT : Nat := 0x12
def cTRAPI : Nat := 0x13
def cFITFULL : Nat := 0x14
def cROLEPART : Nat := 0x15
def cTILEFAULT : Nat := 0x16
def cENGFAULT : Nat := 0x17

/-- A 32-bit lane mask as INFO holds it (R188). -/
def maskInfo (m : Mask) : Word := m.setWidth 64
/-- The INFO of "lane L" (R188). -/
def laneInfo (l : Nat) : Word := 1#64 <<< l

/-- A core begins to end a crew, whose warps issue nothing more (R185). The first end stands. -/
def markEnding (s : State) (crew : Nat) (e : Ending) : State :=
  s.modCrew crew (fun c => match c.ending with
    | some _ => c
    | none => { c with ending := some e })

/-- The byte of the running handler's frame at an offset (R182). -/
def frameByte (s : State) (w : Warp) (off : Nat) : Nat :=
  match s.crew w.crew with
  | some c => (memGet c.sp (w.tframe.toNat + off)).toNat
  | none => 0

/-- The core ends the crew because of its handler: it reports the frame's CAUSE byte as it stands (R185), and its INFO as it stands
(log 5); an Acorn has no frame and reports the cause and INFO of the trap itself (R279). -/
def handlerEnds (s : State) (key : Nat) (w : Warp) (cause : Nat) (info : Word) : State :=
  if keyAcorn key then markEnding s w.crew ⟨cause, w.tpc, info, 0⟩
  else markEnding s w.crew ⟨frameByte s w 0, w.tpc,
    BitVec.ofNat 64 ((List.range 8).foldl (fun a k => a + frameByte s w (0x18 + k) * 256 ^ k) 0), keySlot key⟩

/-- A trap of a warp: pending, or the end of the crew where the handler raised it (R177, R185). -/
def raiseTrap (s : State) (key : Nat) (t : TrapRec) : State :=
  match s.warp key with
  | none => s
  | some w =>
    if isGhost key then s
    else if w.tm then handlerEnds s key w t.cause t.info
    else s.setWarp key { w with traps := w.traps ++ [t], pairNext := none }

/-- The instruction word that TINST shows where a trap has no instruction: the spec leaves it open (log 3). -/
def freeInst (s : State) : IWord :=
  (Config.freeWord (s.draw * 65536 + 20601)).setWidth 32 ++ Config.freeWord (s.draw * 65536 + 20600)

/-- A late trap of an abandoned access, which goes before every other held trap (R192, R371). -/
def leads (t : TrapRec) : Bool := t.late && (t.cause = cPAGE || t.cause = cTILEFAULT)

/-- A late trap of an instruction that the warp itself issued before trap mode is held in the order in which it arose (R177). One of an
abandoned access goes first, and a trap of an instruction that had no effect is dropped for it: that instruction issues again after
TRET (R192). -/
def raiseLate (s : State) (key : Nat) (t : TrapRec) (handlers : Bool) : State :=
  match s.warp key with
  | none => s
  | some w =>
    if isGhost key then s
    else if handlers then handlerEnds s key w t.cause t.info
    else if leads t then
      let held := w.traps.filter (fun u => u.late)
      s.setWarp key { w with traps := held.filter leads ++ [t] ++ held.filter (fun u => !leads u) }
    else s.setWarp key { w with traps := w.traps ++ [t] }

/-- Opcodes of the R format, and those that have no format (R43, R182). -/
def opcIsR (o : Nat) : Bool :=
  let notR := o = 0x002 || o = 0x003 || o = 0x089 || o = 0x091 || o = 0x0C0 || o = 0x0C2 || o = 0x0C7 || o = 0x0C9 || o = 0x0CA
    || o = 0x0CB || (0x0E5 ≤ o && o ≤ 0x0E7) || o = 0x0E9 || (0x100 ≤ o && o ≤ 0x10E) || (0x140 ≤ o && o ≤ 0x14B)
    || o = 0x164 || o = 0x165 || (0x170 ≤ o && o ≤ 0x174) || o = 0x180 || o = 0x181 || (0x183 ≤ o && o ≤ 0x185) || o = 0x188
    || (0x1A0 ≤ o && o ≤ 0x1A2) || o = 0x1B0 || o = 0x1B2 || o = 0x1B3 || (0x1C0 ≤ o && o ≤ 0x1C2) || o = 0x1C4
  !notR

/-- The number of operand positions of an instruction's format (R182). -/
def nopsOf (word : IWord) : Nat := if opcIsR (opcOf word).toNat then 5 else 2
/-- The operand byte in position O(j + 1) (R34). -/
def posByte (word : IWord) (j : Nat) : Byte := if j < nopsOf word then word.extractLsb' (40 - 8 * j) 8 else 0

/-- Slot j of a frame: what its operand byte reads in each lane (R183). -/
def slotRow (s : State) (key : Nat) (w : Warp) (word : IWord) (j : Nat) : Row :=
  let b := posByte word j
  if nopsOf word ≤ j then emptyRow
  else if b.toNat < 240 then (if b.toNat < w.allot then mkRow (opdVal s key w b) else emptyRow)
  else if b.toNat < 246 then mkRow (opdVal s key w b)
  else if b.toNat < 248 then emptyRow
  else mkRow (fun l =>
    let v := predVal s w (b.toNat - 248) l
    ⟨if v.1 then 1 else 0, if v.2 then 1 else 0⟩)

/-- The five slots as they read now. -/
def slotRows (s : State) (key : Nat) (w : Warp) (word : IWord) : List Row := (List.range 5).map (slotRow s key w word)

/-- The low n bytes of a number, little-endian. -/
def bytesLE (v : Nat) : Nat → List Byte
  | 0 => []
  | n + 1 => BitVec.ofNat 8 v :: bytesLE (v / 256) n

/-- The PRED halfword of a lane (R182). -/
def predHalf (w : Warp) (l : Nat) : Nat :=
  let bit := fun (b : Bool) (k : Nat) => if b then 2 ^ k else 0
  (List.range 7).foldl (fun a p => a + bit ((predRow w p).val.getLsbD l) p + bit ((predRow w p).poi.getLsbD l) (8 + p)) 128

/-- The 1,568 bytes of an operand frame (R182). -/
def frameBytes (s : State) (key : Nat) (w : Warp) (t : TrapRec) : List Byte :=
  let slots := match t.slots with
    | some r => r
    | none => slotRows s key w t.word
  let bit := fun (b : Bool) (k : Nat) => if b then 2 ^ k else 0
  let pos := (List.range 5).map (fun j => (posByte t.word j).toNat)
  let h := hdrOf t.word
  let gpz := (lanesOf t.act).any (fun l => (predVal s w (h.ga.toNat % 8) l).2 || (predVal s w (h.gb.toNat % 8) l).2)
  let rbx := (List.range (nopsOf t.word)).any (fun j => w.allot ≤ pos.getD j 0 && pos.getD j 0 < 240)
  let header := t.cause + 256 * nopsOf t.word
    + 65536 * (bit (t.stage = .decode) 1 + bit (w.pt.live &&& ~~~t.act != 0) 2 + bit t.late 3)
    + 2 ^ 32 * (keySlot key / 8) + 2 ^ 40 * (keySlot key % 8) + 2 ^ 48 * w.allot + 2 ^ 56 * (bit gpz 0 + bit rbx 1)
  bytesLE header 8 ++ bytesLE t.pc.toNat 8 ++ bytesLE t.act.toNat 4 ++ bytesLE t.exec.toNat 4 ++ bytesLE t.info.toNat 8
    ++ bytesLE t.word.toNat 12 ++ pos.map (BitVec.ofNat 8) ++ List.replicate 15 0
    ++ slots.flatMap (fun r => (List.range 32).flatMap (fun l => bytesLE (rowGet r l).val.toNat 8))
    ++ slots.flatMap (fun r => (List.range 32).map (fun l => (rowGet r l).poi.setWidth 8))
    ++ (List.range 32).flatMap (fun l => bytesLE (predHalf w l) 2)

/-- Replaces the bytes from an address on by a list, in one pass. -/
def memBlock (m : Memory) (a : Nat) (bs : List Byte) : Memory :=
  let cells := (bs.zipIdx a).filter (fun e => e.1 != memDefault)
  m.filter (fun e => e.1 < a) ++ cells.map (fun e => (e.2, e.1)) ++ m.filter (fun e => a + bs.length ≤ e.1)

/-- A write of bytes to a scratchpad: a word of which all 8 bytes are written loses its error (R225). -/
def spClear (c : Crew) (a n : Nat) : FMap Bool :=
  (List.range ((a + n + 7) / 8 - a / 8)).foldl (fun m k =>
    let w := a / 8 + k
    if a ≤ 8 * w && 8 * w + 8 ≤ a + n then fmSet false m w false else m) c.spBad
/-- Writes a list of bytes to a scratchpad. -/
def spBlock (c : Crew) (a : Nat) (bs : List Byte) : Crew := { c with sp := memBlock c.sp a bs, spBad := spClear c a bs.length }

/-- The PC of a trap at its entry: the trapped instruction's, or, for the Acorn's matrix SDC, the one that it would issue next (R177,
R301). -/
def entryPc (key : Nat) (w : Warp) (t : TrapRec) : Word :=
  if keyAcorn key && t.late && t.cause = cSDC then w.pt.pcs.getD 0 0 else t.pc

/-- Trap entry (R179, R180): the frame at TFRAME, the trap CSRs, TSTAT.TM, and the handler's 32 lanes at TVEC, from 40 cycles
on. An Acorn writes no frame and runs one lane (R279). -/
def enterTrap (s : State) (key : Nat) (w : Warp) (t : TrapRec) (rest : List TrapRec) : State :=
  let all : Mask := if keyAcorn key then 1 else BitVec.allOnes 32
  let s1 := if keyAcorn key then s
    else s.modCrew w.crew (fun c => spBlock c w.tframe.toNat (frameBytes s key w t))
  s1.setWarp key { w with
    tcause := BitVec.ofNat 64 t.cause
    tpc := entryPc key w t
    tmask := (t.exec ++ t.act : BitVec 64)
    tinst := t.word
    tm := true
    saved := w.pt
    pt := { pcs := List.replicate 32 w.tvec, live := all, skips := List.replicate 32 0 }
    traps := rest
    pairNext := none
    holdUntil := max w.holdUntil (s.cycle + Config.trapCycles) }

/-- What a pending trap does once R178 is met: entry, or the end of the crew where TVEC is 0 (R179, R185). -/
def takeTrap (s : State) (key : Nat) : State :=
  match s.warp key with
  | none => s
  | some w =>
    match w.traps with
    | [] => s
    | t :: rest =>
      if w.tvec = 0 then markEnding (s.setWarp key { w with traps := rest }) w.crew ⟨t.cause, entryPc key w t, t.info, keySlot key⟩
      else enterTrap s key w t rest

/-- Another warp of the quad is in trap mode, or holds a trap that arose earlier, ties going to the lower slot (R178). Of a warp's several held
traps, the first in the order of delivery gives its place (DESIGN CHOICE, log 90). -/
def quadBusy (s : State) (key : Nat) (t : TrapRec) : Bool :=
  ((List.range 8).map (fun k => key / 8 * 8 + k)).any (fun k => k != key && (match s.warp k with
    | none => false
    | some v => v.tm || (match v.traps with
      | [] => false
      | u :: _ => u.cycle < t.cycle || (u.cycle = t.cycle && k < key))))

/-- An incomplete instruction is an entry of the operand log (R189). -/
def inLog (p : Pend) : Bool :=
  match p.late with
  | .parked _ _ => true
  | .tilePark _ _ => true
  | .region _ _ _ _ held _ => !held.isEmpty
  | .launch _ _ _ _ _ held => !held.isEmpty
  | _ => false
/-- Entries of a warp's operand log (R189). -/
def logCount (w : Warp) : Nat := (w.pend.filter inLog).length
/-- The operand log holds no entry (R189). -/
def logEmpty (w : Warp) : Bool := logCount w = 0

/-- The conditions of R178 on a warp with a pending trap; a warp under ROLE takes it before it switches (R208). -/
def trapReady (s : State) (key : Nat) : Bool :=
  match s.warp key with
  | none => false
  | some w =>
    match w.traps with
    | [] => false
    | t :: _ => !w.tm && ctrsZero w && logEmpty w && !quadBusy s key t
        && (match s.crew w.crew with
          | some c => c.ending.isNone
          | none => true)

/-- The safe point at a PC. -/
def safeAt (c : Crew) (pc : Word) : Option SafePoint := c.safe.find? (fun x => x.pc = pc.toNat)

/-- Every live thread of a warp sits at a safe point. -/
def atSafe (c : Crew) (w : Warp) : Bool := (lanesOf w.pt.live).all (fun l => (safeAt c (w.pt.pcs.getD l 0)).isSome)

/-- TRET (R184): dirty slots and predicates back from the frame, the threads' PC table, the resume PC. -/
def leaveTrap (s : State) (key : Nat) : State :=
  match s.warp key with
  | none => s
  | some w =>
    let tmask : Mask := w.tmask.setWidth 32
    let fb := fun off => frameByte s w off
    let fword := fun off => (List.range 8).foldl (fun a k => a + fb (off + k) * 256 ^ k) 0
    let late := !keyAcorn key && (fb 2).testBit 3
    let adv := !keyAcorn key && (fb 2).testBit 0
    let resume := if adv then nextPc w.tpc else w.tpc
    if !late && !pcNamesSlot resume then handlerEnds s key w cILLOP 0
    else
      let dirty := if keyAcorn key then [] else (List.range 5).filter (fun j => (fb 3).testBit j && fb (0x2C + j) < w.allot)
      let regs := dirty.foldl (fun rs j =>
        let r := fb (0x2C + j)
        fmPut rs r (rowSet (fmGet emptyRow rs r) tmask (fun l =>
          ⟨BitVec.ofNat 64 (fword (0x40 + 0x100 * j + 8 * l)), BitVec.ofNat 2 (fb (0x540 + 0x20 * j + l))⟩))) w.regs
      let preds := if keyAcorn key then w.preds else (List.range 7).map (fun p =>
        (⟨maskOf (fun l => (fb (0x5E0 + 2 * l)).testBit p), maskOf (fun l => (fb (0x5E0 + 2 * l + 1)).testBit p)⟩ : PRow))
      let pcs := (List.range 32).map (fun l =>
        if !late && tmask.getLsbD l then resume else w.saved.pcs.getD l 0)
      s.setWarp key { w with
        regs := regs
        preds := preds
        tm := false
        pt := { w.saved with pcs := pcs }
        pairNext := none
        holdUntil := max w.holdUntil (s.cycle + Config.tretCycles) }

/-! ## Incomplete instructions -/

/-- A register that an instruction will write: lanes of the register a byte names. -/
def regWr (w : Warp) (b : Byte) (m : Mask) (f : Nat → Lane) : List RegWr :=
  if 240 ≤ b.toNat then [] else [⟨regId w b.toNat, m, mkRow f, 0⟩]
def predWr (b : Byte) (m val poi : Mask) : List PredWr :=
  if b.toNat < 248 || b.toNat = 255 then [] else [⟨b.toNat - 248, m, val, poi, 0⟩]

/-- Lanes of a register that the list of incomplete instructions is still to write. -/
def pendMask (ps : List Pend) (r : Nat) : Mask :=
  ps.foldl (fun m p => p.regs.foldl (fun m g => if g.reg = r then m ||| g.mask else m) m) 0
def pendPredMask (ps : List Pend) (n : Nat) : Mask :=
  ps.foldl (fun m p => p.preds.foldl (fun m g => if g.pred = n then m ||| g.mask else m) m) 0

/-- Adds an incomplete instruction; where an earlier one writes the same lanes, both leave them undefined (R25). -/
def addPend (w : Warp) (p : Pend) : Warp :=
  let p' := { p with
    regs := p.regs.map (fun g => { g with clob := g.clob ||| (g.mask &&& pendMask w.pend g.reg) })
    preds := p.preds.map (fun g => { g with clob := g.clob ||| (g.mask &&& pendPredMask w.pend g.pred) }) }
  let ps := p.regs.foldl (fun ps g => clobberRegs ps g.reg g.mask) w.pend
  let ps := p.preds.foldl (fun ps g => clobberPreds ps g.pred g.mask) ps
  { w with pend := ps ++ [p'] }

/-- The incomplete instruction with an operation number. -/
def findPend (w : Warp) (op : Nat) : Option Pend := w.pend.find? (fun p => p.op == op)
def setPend (w : Warp) (p : Pend) : Warp := { w with pend := w.pend.map (fun q => if q.op = p.op then p else q) }

/-- An instruction completes: its writes land, undefined where another write met them, and its counters fall (R23-R25). -/
def completePend (s : State) (key : Nat) (p : Pend) : State :=
  let s := s.modWarp key (fun w => { dropCtrs w p.ctrs s.cycle with
    pend := w.pend.filter (fun q => q.op != p.op)
    blockM := w.blockM.filter (fun o => o != p.op) })
  let s := p.regs.foldl (fun s g => storeReg s key g.reg g.mask (fun l =>
    if g.clob.getLsbD l then ⟨Config.freeWord (freeIndex s g.reg l), Config.freePoison (freeIndex s g.reg l)⟩
    else rowGet g.row l)) s
  let s := p.preds.foldl (fun s g => s.modWarp key (fun w =>
    storePred w g.pred g.mask
      ((g.val &&& ~~~g.clob) ||| (Config.freeMask (s.draw * 16 + 2 * g.pred) &&& g.clob))
      ((g.poi &&& ~~~g.clob) ||| (Config.freeMask (s.draw * 16 + 2 * g.pred + 1) &&& g.clob)))) s
  { s with draw := s.draw + 1 }

/-! ## Issue -/

/-- What a meaning sees of the instruction it carries out: the state at issue, the lanes that participate, the counters it
holds, its operation number. -/
structure Ctx where
  s    : State
  key  : Nat
  w    : Warp
  cur  : Cursor
  h    : Hdr
  exec : Mask
  ctrs : List Nat
  op   : Nat
  floor : Nat

def Ctx.val (c : Ctx) (b : Byte) (l : Nat) : Lane := opdVal c.s c.key c.w b l
def Ctx.pred (c : Ctx) (b : Byte) (l : Nat) : Bool × Bool := predVal c.s c.w (b.toNat - 248) l
def Ctx.acorn (c : Ctx) : Bool := keyAcorn c.key
def Ctx.unit (c : Ctx) : Nat := keyUnit c.key
/-- Protected mode compares (R95), outside trap mode. -/
def Ctx.protected? (c : Ctx) : Bool := c.w.prot && !c.w.tm
/-- Lanes of a logical warp (R136). -/
def Ctx.halves (c : Ctx) : Bool := (c.w.prot || c.w.c16) && !c.w.tm

/-- What a meaning answers: a trap at execution with its INFO, one behind the lookups of records that it made (R236), or the state with
its effect. -/
inductive Res where
  | trap (cause : Nat) (info : Word)
  | trapIn (cause : Nat) (info : Word) (found : State)
  | ok (s : State)

/-- A trap keeps what the lookup of a record left: its copies stay installed (R236). -/
def Res.keeping (found : State) (r : Res) : Res :=
  match r with
  | .trap cause info => .trapIn cause info found
  | r => r

/-! ## The decode table (R41 check 5, R47) -/

/-- The opcode of an instruction; a step of the part has none. -/
def opcodeOf (i : Instr) : Option Nat := (encode i).map (fun w => (opcOf w).toNat)

/-- The decode table puts an instruction in emulate state. -/
def emulated (t : DecTable) (i : Instr) : Bool :=
  match opcodeOf i with
  | some o => t.emul.contains o
  | none => false

/-- The latency floor of an instruction under a decode table: that of R43, or a higher one. -/
def floorOf (t : DecTable) (i : Instr) : Nat :=
  let base := (instrInfo i).floor
  match opcodeOf i with
  | none => base
  | some o => (t.floors.filter (fun f => f.1 = o)).foldl (fun m f => max m f.2) base

/-- The cause of an exception at decode, or none (R41 checks 3 to 11). `extra` is the instruction's own check 10. -/
def decodeTrap (i : Instr) (s : State) (key : Nat) (w : Warp) (h : Hdr) (act : Mask)
    (early : Bool) (extra : Option Nat) : Option Nat :=
  let info := instrInfo i
  let sh := instrShape i
  let crew := s.crew w.crew
  let acorn := keyAcorn key
  let priv := info.priv || (match i with
    | .csrw _ o => 0x400 ≤ o.csr.toNat
    | .csrs _ o => 0x400 ≤ o.csr.toNat
    | .csrc _ o => 0x400 ≤ o.csr.toNat
    | _ => false)
  let sys := match crew with
    | some c => c.sys
    | none => false
  let trtn := match crew with
    | some c => c.cregs.trtn.toNat
    | none => 0
  let regOver := fun (b : Byte) (n : Nat) =>
    b.toNat < 240 && (List.range n).any (fun k => w.allot ≤ b.toNat + k && !(w.tm && b.toNat + k < 16))
  let regbound := sh.opds.any (fun d => match d.use with
    | .src n => regOver d.byte n
    | .dst n => regOver d.byte n
    | .upd n => regOver d.byte n
    | .srcOpt2 => regOver d.byte 2
    | _ => false)
  let nop := match i with
    | .nop _ _ => true
    | _ => false
  if !(if acorn then info.onAcorn else info.onCore) then some cILLOP
  else if !check4 i h then some cILLOP
  else if emulated s.pkg.table i then some cEMUL
  else if !sh.ok || early then some cILLOP
  else if priv && !sys then some cPRIV
  else if regbound then some cREGBOUND
  else if sh.handles.any (fun hd => trtn ≤ hd.toNat) then some cRECINV
  else if extra.isSome then extra
  else if !nop && guardPoisoned s w h act then some cPOISON
  else none

/-- INFO of a trap at decode (R188): the handle at check 9, else 0. -/
def decodeInfo (i : Instr) (s : State) (w : Warp) (cause : Nat) : Word :=
  if cause = cRECINV then
    let trtn := match s.crew w.crew with
      | some c => c.cregs.trtn.toNat
      | none => 0
    match (instrShape i).handles.find? (fun hd => trtn ≤ hd.toNat) with
    | some hd => hd.setWidth 64
    | none => 0
  else 0

/-- The warp after an issue: PCs, skip counts, counters, the cycle and floor of the issue, the switch stop (R23, R27, R28,
R89, R91). A pair's second slot adds no skip and keeps the larger floor (R20). -/
def retireWarp (s : State) (w : Warp) (cur : Cursor) (h : Hdr) (floor : Nat) (fixed : Bool) : Warp :=
  let second := match w.pairNext with
    | some p => p.1 = cur.pc && w.lastIssue = some s.cycle
    | none => false
  let pcs := (List.range 32).map (fun l => if cur.act.getLsbD l then nextPc cur.pc else w.pt.pcs.getD l 0)
  let skips := if second then w.pt.skips else (List.range 32).map (fun l =>
    if cur.act.getLsbD l then 0 else if w.pt.live.getLsbD l then min 63 (w.pt.skips.getD l 0 + 1) else w.pt.skips.getD l 0)
  let sw := h.sw = 1
  let c16 := w.c16 && !w.tm
  { w with
    pt := { w.pt with pcs := pcs, skips := skips }
    ctrs := ctrAdd w.ctrs (setfCtrs w h cur.act)
    lastIssue := some s.cycle
    lastFloor := if second then max w.lastFloor floor else floor
    stopLo := if !c16 || cur.act &&& 0xFFFF#32 != 0 then sw else w.stopLo
    stopHi := if c16 && cur.act &&& 0xFFFF0000#32 != 0 then sw else w.stopHi
    drainAt := if fixed then max w.drainAt (s.cycle + floor) else w.drainAt
    age := 0
    pairNext := if second then none else w.pairNext }

/-- The quad after an issue: DADD, DMUL and DFMA hold the A pipe in the next cycle (R46). -/
def retireQuad (s : State) (q : Quad) (info : Info) : Quad :=
  { q with issued := some s.cycle, aHold := if info.pipe = .a && info.floor = 6 then s.cycle + 1 else q.aHold }

/-- The context CSRs that a warp's accesses use now: those of its crew (R407). -/
def warpCregs (s : State) (w : Warp) : CtxRegs := match s.crew w.crew with
  | some cr => cr.cregs
  | none => { heapb := 0, heapl := 0, heapo := 0, ptbr := 0, asid := 0, trtb := 0, trtn := 0, ctxpri := 0, dring := 0, fabric := 0 }
/-- A crew as an access that has issued sees it: with the context CSRs at its issue (R407). -/
def Crew.at_ (c : Crew) (p : Pend) : Crew := { c with cregs := p.cregs }

/-- The cursor's warp after an issue: an instruction of fixed latency with SETF, and one of the M pipe in which no lane executes,
complete when their floor has passed (R24). -/
def retired (s : State) (w : Warp) (cur : Cursor) (h : Hdr) (info : Info) (floor : Nat) (exec : Mask) : Warp :=
  let fixed := info.pipe != .m
  let w' := retireWarp s w cur h floor fixed
  if (fixed && h.setf != 0) || (!fixed && exec = 0) then
    { w' with pend := w'.pend ++ [{ op := s.nextOp, word := cur.word, pc := cur.pc, act := cur.act, exec := exec,
                                    ctrs := setfCtrs w h cur.act, mpipe := !fixed, tm := w.tm, ready := s.cycle + floor,
                                    late := .done, regs := [], preds := [], slots := [], cregs := warpCregs s w }] }
  else w'

/-- The state after an issue, before the instruction's own effect. -/
def retire (s : State) (key : Nat) (w : Warp) (cur : Cursor) (h : Hdr) (info : Info) (floor : Nat) (exec : Mask) : State :=
  let s1 := (s.setWarp key (retired s w cur h info floor exec)).setQuad (keyQuad key) (retireQuad s (s.quad (keyQuad key)) info)
  { s1 with draw := s.draw + 1, nextOp := s.nextOp + 1 }

/-- The trap that an instruction at the cursor raises. -/
def trapOf (s : State) (key : Nat) (w : Warp) (cur : Cursor) (h : Hdr) (stage : Stage) (cause : Nat) (info : Word) : TrapRec :=
  { cause := cause, stage := stage, late := false, info := info, pc := cur.pc, act := cur.act,
    exec := guardMask s w h cur.act, word := cur.word,
    slots := if stage = .execution then some (slotRows s key w cur.word) else none, cycle := s.cycle }

/-- An instruction traps at execution. It was an issue: the quad has issued, and DIST, SW and the skip counts have seen it (R27, R28,
R85, R89). It had no effect: no PC moved and no counter rose (R41, R177). TMASK of an SDC trap holds the mismatching pairs (R96). -/
def trapIssued (s base : State) (key : Nat) (w : Warp) (cur : Cursor) (h : Hdr) (info : Info) (floor cause : Nat) (inf : Word) : State :=
  let r := retireWarp s w cur h floor (info.pipe != .m)
  let t := trapOf s key w cur h .execution cause inf
  let t := if cause = cSDC then { t with act := inf.setWidth 32, exec := t.exec &&& inf.setWidth 32 } else t
  raiseTrap (base.setWarp key { r with pt := { w.pt with skips := r.pt.skips }, ctrs := w.ctrs, pairNext := none }) key t

/-- Issues the instruction at the cursor: the decode checks, then its effect, or the trap that either raises (R41). -/
def issueWith (i : Instr) (h : Hdr) (s : State) (early : Ctx → Bool) (extra : Ctx → Option Nat)
    (body : Ctx → State → Res) : Host.Outcome State Fault Refusal :=
  let key := s.cur.key
  match s.warp key with
  | none => .fault .noWarp
  | some w =>
    let exec := guardMask s w h s.cur.act
    let info := instrInfo i
    let floor := floorOf s.pkg.table i
    let c : Ctx := { s := s, key := key, w := w, cur := s.cur, h := h, exec := exec,
                     ctrs := setfCtrs w h s.cur.act, op := s.nextOp, floor := floor }
    match decodeTrap i s key w h s.cur.act (early c) (extra c) with
    | some cause => .next (raiseTrap s key (trapOf s key w s.cur h .decode cause (decodeInfo i s w cause)))
    | none =>
      let s1 := retire s key w s.cur h info floor exec
      if info.pipe = .m && exec = 0 then .next s1
      else match body c s1 with
        | .trap cause inf => .next (trapIssued s s1 key w s.cur h info floor cause inf)
        | .trapIn cause inf base => .next (trapIssued s base key w s.cur h info floor cause inf)
        | .ok s2 => .next s2

/-- Issue of an instruction without decode checks of its own. -/
def issue (i : Instr) (h : Hdr) (s : State) (body : Ctx → State → Res) : Host.Outcome State Fault Refusal :=
  issueWith i h s (fun _ => false) (fun _ => none) body

/-! ## Results of a lane-wise operation -/

/-- Writes a register from the results of the participating lanes and raises their flags. -/
def writeLanes (c : Ctx) (s : State) (b : Byte) (f : Nat → LaneRes) : State :=
  let s1 := writeReg s c.key b c.exec (fun l => (f l).lane)
  raiseFlags s1 c.key (c.s.cycle + c.floor) ((lanesOf c.exec).foldl (fun fl l => fl ||| (f l).flags) 0)

/-- Writes a register from values that raise no flag. -/
def writeClean (c : Ctx) (s : State) (b : Byte) (f : Nat → Lane) : State := writeReg s c.key b c.exec f

/-- Writes a predicate in the participating lanes. -/
def writePreds (c : Ctx) (s : State) (b : Byte) (val poi : Nat → Bool) : State :=
  writePred s c.key b c.exec (maskOf val) (maskOf poi)

/-! ## M-pipe instructions -/

def Ctx.cregs (c : Ctx) : CtxRegs := warpCregs c.s c.w

/-- An M-pipe instruction that stays incomplete: what it waits for and what it will write. -/
def pendOf (c : Ctx) (ready : Nat) (late : Late) (regs : List RegWr) (preds : List PredWr) : Pend :=
  { op := c.op, word := c.cur.word, pc := c.cur.pc, act := c.cur.act, exec := c.exec, ctrs := c.ctrs, mpipe := true, tm := c.w.tm,
    ready := ready, late := late, regs := regs, preds := preds, slots := slotRows c.s c.key c.w c.cur.word, cregs := c.cregs }

/-- Leaves the instruction incomplete. -/
def addLate (c : Ctx) (s : State) (late : Late) (regs : List RegWr) (preds : List PredWr) : State :=
  s.modWarp c.key (fun w => addPend w (pendOf c (s.cycle + 1) late regs preds))

/-- An instruction of fixed latency that still has to act: its counter falls at its floor (R24), and what it waits for goes by an
operation number of its own. -/
def addWait (c : Ctx) (s : State) (late : Late) : State :=
  { s.modWarp c.key (fun w => addPend w { pendOf c s.cycle late [] [] with op := s.nextOp, ctrs := [], mpipe := false }) with
    nextOp := s.nextOp + 1 }

/-- An instruction whose effect is done and whose results land when it completes, at the earliest in the next cycle. -/
def addDone (c : Ctx) (s : State) (regs : List RegWr) (preds : List PredWr) : State := addLate c s .done regs preds

/-- Lanes whose pair mismatches in its guards or compared values (R95). -/
def protMismatch (c : Ctx) (vals : Nat → List Word) : Mask :=
  maskOf (fun l =>
    let a := l / 2 * 2
    let b := a + 1
    (c.exec.getLsbD a || c.exec.getLsbD b)
      && !(c.exec.getLsbD a && c.exec.getLsbD b && vals a == vals b))

/-- SDC where the pairs of a protected warp mismatch (R96); otherwise goes on. -/
def protGuard (c : Ctx) (vals : Nat → List Word) (k : Res) : Res :=
  if c.protected? && protMismatch c vals != 0 then .trap cSDC (maskInfo (protMismatch c vals)) else k

/-- The instruction is the first slot of a pair whose second slot has not issued (R19). -/
def pairFirst (c : Ctx) : Bool := c.w.pairNext.any (fun p => p.1 != c.cur.pc)

/-- The lanes that perform an access: the primary lanes of a protected warp (R95). -/
def performLanes (c : Ctx) : Mask := if c.protected? then c.exec &&& 0x55555555 else c.exec

/-- Both lanes of each pair whose primary lane is in the mask, in a protected warp: the lanes of a pair fail together, since they
execute with equal values (R95, R182). -/
def pairLanes (pair : Bool) (m : Mask) : Mask := if pair then m ||| ((m &&& 0x55555555) <<< 1) else m

end Sys2Proof.Machine
end

