-- ==== Sys2Proof/Machine/IntOps.lean ====
section
/-! DEFINITION. Integer, address, move and bit instructions of one thread (05_thread_arith.md R103-R124). -/

namespace Sys2Proof.Machine

/-- The type of F, i64 where the code is not a type (the decode checks have refused that). -/
def etyF (f : Byte) : Ety := (etyOf (f.toNat % 16)).getD .i64

/-- The immediate of O3 in every sub-element of width w (R35). -/
def immLane (o : OpR) (w : Nat) : Lane :=
  let v : Int := if o.x.getLsbD 6 then o.o3.toInt else o.o3.toNat
  ⟨BitVec.ofNat 64 (packElems w (fun _ => wrapTo w v) (64 / w)), 0⟩

/-- Source b: the register of O3, or the immediate (R103). -/
def srcB (c : Ctx) (o : OpR) (w l : Nat) : Lane := if o.x.getLsbD 7 then immLane o w else c.val o.o3 l

/-- One source, sub-element by sub-element, under `fit`. -/
def intLane1 (c : Ctx) (f : Byte) (a : Lane) (g : Int → Int) : LaneRes :=
  let t := etyF f
  let w := etyWidth t
  packRes c.w.fpmode w (etyCount t) (elemPoison w [a]) (fun s =>
    fitInt (f.getLsbD 6) (etySigned t) w (g (intOf (etySigned t) w (elemAt w s a.val))))

/-- Two sources, sub-element by sub-element, under `fit` (R104). -/
def intLane2 (c : Ctx) (f : Byte) (a b : Lane) (g : Int → Int → Int) : LaneRes :=
  let t := etyF f
  let w := etyWidth t
  let sg := etySigned t
  packRes c.w.fpmode w (etyCount t) (elemPoison w [a, b]) (fun s =>
    fitInt (f.getLsbD 6) sg w (g (intOf sg w (elemAt w s a.val)) (intOf sg w (elemAt w s b.val))))

/-- Three sources, sub-element by sub-element, under `fit`. -/
def intLane3 (c : Ctx) (f : Byte) (a b d : Lane) (g : Int → Int → Int → Int) : LaneRes :=
  let t := etyF f
  let w := etyWidth t
  let sg := etySigned t
  packRes c.w.fpmode w (etyCount t) (elemPoison w [a, b, d]) (fun s =>
    fitInt (f.getLsbD 6) sg w
      (g (intOf sg w (elemAt w s a.val)) (intOf sg w (elemAt w s b.val)) (intOf sg w (elemAt w s d.val))))

/-- Sub-element patterns as unsigned numbers, up to four sources, with no flag. -/
def bitLane (c : Ctx) (f : Byte) (srcs : List Lane) (g : Nat → List Nat → Nat) : LaneRes :=
  let t := etyF f
  let w := etyWidth t
  packRes c.w.fpmode w (etyCount t) (elemPoison w srcs) (fun s => ⟨g w (srcs.map (fun x => elemAt w s x.val)), 0⟩)

/-- Issue of an instruction that writes its O1 from the results of the lanes. -/
def issueLanes (i : Instr) (h : Hdr) (dst : Byte) (s : State) (f : Ctx → Nat → LaneRes) : Host.Outcome State Fault Refusal :=
  issue i h s (fun c s1 => .ok (writeLanes c s1 dst (f c)))

/-- MOV (R106). -/
def execMov (h : Hdr) (o : OpR) (s : State) : Host.Outcome State Fault Refusal :=
  issueLanes (.mov h o) h o.o1 s (fun c l => ⟨c.val o.o2 l, 0⟩)

/-- The value that MOVI writes (R107). -/
def moviWord (f : Byte) (imm : BitVec 32) : Word :=
  match etyF f with
  | .i64 => imm.signExtend 64
  | .n64 => imm.setWidth 64
  | .f64 => imm ++ 0#32
  | t => BitVec.ofNat 64 (packElems (etyWidth t) (fun _ => imm.toNat) (etyCount t))

/-- MOVI (R107). -/
def execMovi (h : Hdr) (o : OpI) (s : State) : Host.Outcome State Fault Refusal :=
  issueLanes (.movi h o) h o.o1 s (fun _ _ => cleanRes (moviWord h.f o.imm) 0)

/-- MOVHI (R108): half 0 and its poison stay; O1 is both read and written. -/
def execMovhi (h : Hdr) (o : OpI) (s : State) : Host.Outcome State Fault Refusal :=
  issueLanes (.movhi h o) h o.o1 s (fun c l =>
    let d := c.val o.o1 l
    cleanRes (o.imm ++ d.val.extractLsb' 0 32) (d.poi &&& 1))

/-- SEL (R109). -/
def execSel (h : Hdr) (o : OpR) (s : State) : Host.Outcome State Fault Refusal :=
  issueLanes (.sel h o) h o.o1 s (fun c l =>
    let p := c.pred o.o4 l
    let v := if p.1 then c.val o.o2 l else c.val o.o3 l
    cleanRes v.val (if p.2 then 3 else v.poi))

/-- IADD (R110). -/
def execIadd (h : Hdr) (o : OpR) (s : State) : Host.Outcome State Fault Refusal :=
  issueLanes (.iadd h o) h o.o1 s (fun c l =>
    intLane2 c h.f (c.val o.o2 l) (srcB c o (etyWidth (etyF h.f)) l) (fun a b => a + b))

/-- ISUB (R110). -/
def execIsub (h : Hdr) (o : OpR) (s : State) : Host.Outcome State Fault Refusal :=
  issueLanes (.isub h o) h o.o1 s (fun c l =>
    intLane2 c h.f (c.val o.o2 l) (srcB c o (etyWidth (etyF h.f)) l) (fun a b => a - b))

/-- A 64-bit value at the signedness of F. -/
def int64Of (f : Byte) (x : Word) : Int := intOf (etySigned (etyF f)) 64 x.toNat

/-- An exact 64-bit result lies outside the type's range: carry, borrow or signed overflow (R111, R112). -/
def outside64 (f : Byte) (x : Int) : Bool :=
  x < intMin (etySigned (etyF f)) 64 || x > intMax (etySigned (etyF f)) 64

/-- A 64-bit sum or difference with its outcome in a predicate (R111, R112). -/
def issueCarry (i : Instr) (h : Hdr) (dst pdst : Byte) (s : State) (srcs : Ctx → Nat → List Lane) (poi : Ctx → Nat → Bool)
    (x : Ctx → Nat → Int) : Host.Outcome State Fault Refusal :=
  issue i h s (fun c s1 =>
    let bad := fun l => (srcs c l).any anyPoison || poi c l
    let s2 := writeClean c s1 dst (fun l => ⟨BitVec.ofInt 64 (x c l), bothPoison (bad l)⟩)
    .ok (writePreds c s2 pdst (fun l => outside64 h.f (x c l)) bad))

/-- IADDS (R111). -/
def execIadds (h : Hdr) (o : OpR) (s : State) : Host.Outcome State Fault Refusal :=
  issueCarry (.iadds h o) h o.o1 o.o4 s (fun c l => [c.val o.o2 l, srcB c o 64 l]) (fun _ _ => false)
    (fun c l => int64Of h.f (c.val o.o2 l).val + int64Of h.f (srcB c o 64 l).val)

/-- ISUBS (R111). -/
def execIsubs (h : Hdr) (o : OpR) (s : State) : Host.Outcome State Fault Refusal :=
  issueCarry (.isubs h o) h o.o1 o.o4 s (fun c l => [c.val o.o2 l, srcB c o 64 l]) (fun _ _ => false)
    (fun c l => int64Of h.f (c.val o.o2 l).val - int64Of h.f (srcB c o 64 l).val)

/-- IADC (R112). -/
def execIadc (h : Hdr) (o : OpR) (s : State) : Host.Outcome State Fault Refusal :=
  issueCarry (.iadc h o) h o.o1 o.o5 s (fun c l => [c.val o.o2 l, c.val o.o3 l]) (fun c l => (c.pred o.o4 l).2)
    (fun c l => int64Of h.f (c.val o.o2 l).val + int64Of h.f (c.val o.o3 l).val + (if (c.pred o.o4 l).1 then 1 else 0))

/-- IMUL (R113). -/
def execImul (h : Hdr) (o : OpR) (s : State) : Host.Outcome State Fault Refusal :=
  issueLanes (.imul h o) h o.o1 s (fun c l =>
    intLane2 c h.f (c.val o.o2 l) (srcB c o (etyWidth (etyF h.f)) l) (fun a b => a * b))

/-- IMULH (R113): the upper w bits of the product. -/
def execImulh (h : Hdr) (o : OpR) (s : State) : Host.Outcome State Fault Refusal :=
  issueLanes (.imulh h o) h o.o1 s (fun c l =>
    intLane2 c h.f (c.val o.o2 l) (srcB c o (etyWidth (etyF h.f)) l) (fun a b => (a * b) / 2 ^ etyWidth (etyF h.f)))

/-- IMAD (R113): one fit of the exact sum. -/
def execImad (h : Hdr) (o : OpR) (s : State) : Host.Outcome State Fault Refusal :=
  issueLanes (.imad h o) h o.o1 s (fun c l =>
    intLane3 c h.f (c.val o.o2 l) (srcB c o (etyWidth (etyF h.f)) l) (c.val o.o4 l) (fun a b d => a * b + d))

/-- IMADW's result in a lane (R114). -/
def imadwLane (fpmode : Word) (f x : Byte) (a b d : Lane) : LaneRes :=
  let t := etyF f
  let w := etyWidth t
  let sg := etySigned t
  let hi := if x.getLsbD 0 then 1 else 0
  let dep : BitVec 2 :=
    if w = 32 then bothPoison (a.poi.getLsbD hi || b.poi.getLsbD hi || anyPoison d) else a.poi ||| b.poi ||| d.poi
  packRes fpmode (2 * w) (etyCount t / 2) dep (fun j =>
    fitInt (f.getLsbD 6) sg (2 * w)
      (intOf sg w (elemAt w (2 * j + hi) a.val) * intOf sg w (elemAt w (2 * j + hi) b.val)
        + intOf sg (2 * w) (elemAt (2 * w) j d.val)))

/-- IMADW (R114). -/
def execImadw (h : Hdr) (o : OpR) (s : State) : Host.Outcome State Fault Refusal :=
  issueLanes (.imadw h o) h o.o1 s (fun c l => imadwLane c.w.fpmode h.f o.x (c.val o.o2 l) (c.val o.o3 l) (c.val o.o4 l))

/-- IDP4's result in a lane (R115). -/
def idp4Lane (fpmode : Word) (f : Byte) (a b d : Lane) : LaneRes :=
  let sg := etySigned (etyF f)
  packRes fpmode 32 2 (a.poi ||| b.poi ||| d.poi) (fun k =>
    fitInt (f.getLsbD 6) sg 32 (intOf sg 32 (elemAt 32 k d.val)
      + (List.range 4).foldl (fun acc j =>
          acc + intOf sg 8 (elemAt 8 (4 * k + j) a.val) * intOf sg 8 (elemAt 8 (4 * k + j) b.val)) 0))

/-- IDP4 (R115). -/
def execIdp4 (h : Hdr) (o : OpR) (s : State) : Host.Outcome State Fault Refusal :=
  issueLanes (.idp4 h o) h o.o1 s (fun c l => idp4Lane c.w.fpmode h.f (c.val o.o2 l) (c.val o.o3 l) (c.val o.o4 l))

/-- IABS (R116). -/
def execIabs (h : Hdr) (o : OpR) (s : State) : Host.Outcome State Fault Refusal :=
  issueLanes (.iabs h o) h o.o1 s (fun c l => intLane1 c h.f (c.val o.o2 l) (fun a => (a.natAbs : Int)))

/-- IMIN (R116). -/
def execImin (h : Hdr) (o : OpR) (s : State) : Host.Outcome State Fault Refusal :=
  issueLanes (.imin h o) h o.o1 s (fun c l =>
    intLane2 c h.f (c.val o.o2 l) (srcB c o (etyWidth (etyF h.f)) l) (fun a b => min a b))

/-- IMAX (R116). -/
def execImax (h : Hdr) (o : OpR) (s : State) : Host.Outcome State Fault Refusal :=
  issueLanes (.imax h o) h o.o1 s (fun c l =>
    intLane2 c h.f (c.val o.o2 l) (srcB c o (etyWidth (etyF h.f)) l) (fun a b => max a b))

/-- ISAD (R116). -/
def execIsad (h : Hdr) (o : OpR) (s : State) : Host.Outcome State Fault Refusal :=
  issueLanes (.isad h o) h o.o1 s (fun c l =>
    intLane3 c h.f (c.val o.o2 l) (srcB c o (etyWidth (etyF h.f)) l) (c.val o.o4 l) (fun a b d => ((a - b).natAbs : Int) + d))

/-- IMAX3 (R116, R117): while the decode table has it in emulate state, as the shipped one does, it takes EMUL at check 5; the effect below
is what it has under a signed table that assigns it (R47, log 47). -/
def execImax3 (h : Hdr) (o : OpR) (s : State) : Host.Outcome State Fault Refusal :=
  issueLanes (.imax3 h o) h o.o1 s (fun c l =>
    intLane3 c h.f (c.val o.o2 l) (c.val o.o3 l) (c.val o.o4 l) (fun a b d => max (max a b) d))

/-- Bitwise logic on all 64 bits; half h of the result depends on half h of each source (R118). -/
def issueLogic (i : Instr) (h : Hdr) (o : OpR) (s : State) (g : Word → Word → Word) : Host.Outcome State Fault Refusal :=
  issueLanes i h o.o1 s (fun c l =>
    let a := c.val o.o2 l
    let b := srcB c o (etyWidth (etyF h.f)) l
    cleanRes (g a.val b.val) (a.poi ||| b.poi))

/-- AND (R118). -/
def execAnd (h : Hdr) (o : OpR) (s : State) : Host.Outcome State Fault Refusal := issueLogic (.and h o) h o s (fun a b => a &&& b)
/-- OR (R118). -/
def execOr (h : Hdr) (o : OpR) (s : State) : Host.Outcome State Fault Refusal := issueLogic (.or h o) h o s (fun a b => a ||| b)
/-- XOR (R118). -/
def execXor (h : Hdr) (o : OpR) (s : State) : Host.Outcome State Fault Refusal := issueLogic (.xor h o) h o s (fun a b => a ^^^ b)
/-- ANDN (R118). -/
def execAndn (h : Hdr) (o : OpR) (s : State) : Host.Outcome State Fault Refusal :=
  issueLogic (.andn h o) h o s (fun a b => a &&& ~~~b)

/-- The word that has bit i set where the table has bit a_i + 2 b_i + 4 c_i (R118): one term per table entry. -/
def lop3Word (table : Byte) (a b d : Word) : Word :=
  let term := fun (n : Nat) =>
    if table.getLsbD n then
      (if n.testBit 0 then a else ~~~a) &&& (if n.testBit 1 then b else ~~~b) &&& (if n.testBit 2 then d else ~~~d)
    else 0
  term 0 ||| term 1 ||| term 2 ||| term 3 ||| term 4 ||| term 5 ||| term 6 ||| term 7

/-- LOP3 (R118). -/
def execLop3 (h : Hdr) (o : OpR) (s : State) : Host.Outcome State Fault Refusal :=
  issueLanes (.lop3 h o) h o.o1 s (fun c l =>
    let a := c.val o.o2 l
    let b := c.val o.o3 l
    let d := c.val o.o4 l
    cleanRes (lop3Word o.x a.val b.val d.val) (a.poi ||| b.poi ||| d.poi))

/-- Issue of a two-source operation on sub-element patterns. -/
def issueBits2 (i : Instr) (h : Hdr) (o : OpR) (s : State) (g : Nat → Nat → Nat → Nat) : Host.Outcome State Fault Refusal :=
  issueLanes i h o.o1 s (fun c l =>
    bitLane c h.f [c.val o.o2 l, srcB c o (etyWidth (etyF h.f)) l] (fun w xs => g w (xs.getD 0 0) (xs.getD 1 0)))

/-- Shifts of a w-bit pattern by an unsigned count (R119). -/
def shlBits (w a n : Nat) : Nat := if n < w then (a <<< n) % 2 ^ w else 0
def shrBits (w a n : Nat) : Nat := if n < w then a >>> n else 0
def sarBits (w a n : Nat) : Nat := wrapTo w (intOf true w a / 2 ^ min n (w - 1))
def rotlBits (w a n : Nat) : Nat := (a <<< (n % w)) % 2 ^ w + a >>> (w - n % w)

/-- SHL (R119). -/
def execShl (h : Hdr) (o : OpR) (s : State) : Host.Outcome State Fault Refusal := issueBits2 (.shl h o) h o s shlBits
/-- SHR (R119). -/
def execShr (h : Hdr) (o : OpR) (s : State) : Host.Outcome State Fault Refusal := issueBits2 (.shr h o) h o s shrBits
/-- SAR (R119). -/
def execSar (h : Hdr) (o : OpR) (s : State) : Host.Outcome State Fault Refusal := issueBits2 (.sar h o) h o s sarBits
/-- ROTL (R119). -/
def execRotl (h : Hdr) (o : OpR) (s : State) : Host.Outcome State Fault Refusal := issueBits2 (.rotl h o) h o s rotlBits

/-- The funnel shift of a and b by n (R120). -/
def fshfBits (left : Bool) (w a b n : Nat) : Nat :=
  let y := a <<< w + b
  let n := n % w
  if left then (y >>> (w - n)) % 2 ^ w else (y >>> n) % 2 ^ w

/-- FSHF (R120). -/
def execFshf (h : Hdr) (o : OpR) (s : State) : Host.Outcome State Fault Refusal :=
  issueLanes (.fshf h o) h o.o1 s (fun c l =>
    bitLane c h.f [c.val o.o2 l, c.val o.o3 l, c.val o.o4 l]
      (fun w xs => fshfBits (o.x.getLsbD 0) w (xs.getD 0 0) (xs.getD 1 0) (xs.getD 2 0)))

/-- The effective length of a bit field (R121). -/
def fieldLen (w pos len : Nat) : Nat := if w ≤ pos || len = 0 then 0 else min len (w - pos)

/-- A bit field extracted (R121). -/
def bfxBits (signed : Bool) (w a pos len : Nat) : Nat :=
  let eff := fieldLen w pos len
  if eff = 0 then 0 else wrapTo w (intOf signed eff ((a >>> pos) % 2 ^ eff))

/-- BFX (R121). -/
def execBfx (h : Hdr) (o : OpR) (s : State) : Host.Outcome State Fault Refusal :=
  issueLanes (.bfx h o) h o.o1 s (fun c l =>
    bitLane c h.f [c.val o.o2 l, srcB c o (etyWidth (etyF h.f)) l, c.val o.o4 l]
      (fun w xs => bfxBits (etySigned (etyF h.f)) w (xs.getD 0 0) (xs.getD 1 0) (xs.getD 2 0)))

/-- A bit field inserted (R121). -/
def bfiBits (w a base pos len : Nat) : Nat :=
  let eff := fieldLen w pos len
  if eff = 0 then base
  else base - ((base >>> pos) % 2 ^ eff) <<< pos + (a % 2 ^ eff) <<< pos

/-- BFI (R121). -/
def execBfi (h : Hdr) (o : OpR) (s : State) : Host.Outcome State Fault Refusal :=
  issueLanes (.bfi h o) h o.o1 s (fun c l =>
    bitLane c h.f [c.val o.o2 l, c.val o.o3 l, c.val o.o4 l, c.val o.o5 l]
      (fun w xs => bfiBits w (xs.getD 0 0) (xs.getD 1 0) (xs.getD 2 0) (xs.getD 3 0)))

/-- Counts over the bits of a w-bit pattern (R122). -/
def popcBits : Nat → Nat → Nat
  | 0, _ => 0
  | n + 1, a => a % 2 + popcBits n (a / 2)
def clzBits (w a : Nat) : Nat := if a = 0 then w else w - 1 - Nat.log2 a
def ctzBits : Nat → Nat → Nat
  | 0, _ => 0
  | n + 1, a => if a % 2 = 1 then 0 else 1 + ctzBits n (a / 2)
def brevBits : Nat → Nat → Nat
  | 0, _ => 0
  | n + 1, a => (a % 2) <<< n + brevBits n (a / 2)

/-- Issue of a one-source operation on sub-element patterns. -/
def issueBits1 (i : Instr) (h : Hdr) (o : OpR) (s : State) (g : Nat → Nat → Nat) : Host.Outcome State Fault Refusal :=
  issueLanes i h o.o1 s (fun c l => bitLane c h.f [c.val o.o2 l] (fun w xs => g w (xs.getD 0 0)))

/-- POPC (R122). -/
def execPopc (h : Hdr) (o : OpR) (s : State) : Host.Outcome State Fault Refusal := issueBits1 (.popc h o) h o s popcBits
/-- CLZ (R122). -/
def execClz (h : Hdr) (o : OpR) (s : State) : Host.Outcome State Fault Refusal := issueBits1 (.clz h o) h o s clzBits
/-- CTZ (R122). -/
def execCtz (h : Hdr) (o : OpR) (s : State) : Host.Outcome State Fault Refusal := issueBits1 (.ctz h o) h o s ctzBits
/-- BREV (R122). -/
def execBrev (h : Hdr) (o : OpR) (s : State) : Host.Outcome State Fault Refusal := issueBits1 (.brev h o) h o s brevBits

/-- How the results of the sub-elements combine (R123): sub-element 0, all, or any. -/
def combine (mode k : Nat) (t : Nat → Bool) : Bool :=
  match mode with
  | 0 => t 0
  | 1 => (List.range k).all t
  | _ => (List.range k).any t

/-- The poison of a compare's predicate: the halves read (R123). -/
def cmpPoison (mode w : Nat) (srcs : List Lane) : Bool :=
  if mode = 0 && w != 64 then srcs.any (fun x => x.poi.getLsbD 0) else srcs.any anyPoison

/-- ICMP (R123). -/
def execIcmp (h : Hdr) (o : OpR) (s : State) : Host.Outcome State Fault Refusal :=
  issue (.icmp h o) h s (fun c s1 =>
    let t := etyF h.f
    let w := etyWidth t
    let b := fun l => srcB c o w l
    let mode := o.x.toNat % 4
    .ok (writePreds c s1 o.o1
      (fun l => combine mode (etyCount t) (fun k => iCond (h.f.toNat >>> 4)
        (intOf (etySigned t) w (elemAt w k (c.val o.o2 l).val)) (intOf (etySigned t) w (elemAt w k (b l).val))))
      (fun l => cmpPoison mode w [c.val o.o2 l, b l])))

/-- ICMPM (R123). -/
def execIcmpm (h : Hdr) (o : OpR) (s : State) : Host.Outcome State Fault Refusal :=
  issueLanes (.icmpm h o) h o.o1 s (fun c l =>
    let sg := etySigned (etyF h.f)
    bitLane c h.f [c.val o.o2 l, srcB c o (etyWidth (etyF h.f)) l] (fun w xs =>
      if iCond (h.f.toNat >>> 4) (intOf sg w (xs.getD 0 0)) (intOf sg w (xs.getD 1 0)) then 2 ^ w - 1 else 0))

/-- The index that LEA reads (R124). -/
def leaIndex (f : Byte) (b : Word) : Int :=
  let t := etyF f
  intOf (etySigned t) (etyWidth t) (elemAt (etyWidth t) 0 b)

/-- LEA (R124). -/
def execLea (h : Hdr) (o : OpR) (s : State) : Host.Outcome State Fault Refusal :=
  issueLanes (.lea h o) h o.o1 s (fun c l =>
    let a := c.val o.o2 l
    let b := c.val o.o3 l
    let bad := anyPoison a || (if etyWidth (etyF h.f) = 64 then anyPoison b else b.poi.getLsbD 0)
    cleanRes (BitVec.ofInt 64 ((a.val.toNat : Int) + leaIndex h.f b.val * 2 ^ (o.x.toNat % 8))) (bothPoison bad))

end Sys2Proof.Machine
end

