-- ==== Sys2Proof/Machine/FloatOps.lean ====
section
/-! DEFINITION. Floating-point arithmetic of one thread (05_thread_arith.md R123, R125-R135). -/

namespace Sys2Proof.Machine

/-- Sub-element s of a source as a value, after FTZ on inputs. -/
def fElem (f : Byte) (s : Nat) (x : Lane) : FVal := fInput (f.getLsbD 7) (etyF f) (elemAt (etyWidth (etyF f)) s x.val)

/-- An element-wise floating-point operation on values read under FTZ. -/
def fltLane (c : Ctx) (f : Byte) (srcs : List Lane) (g : RCtl → Ety → List FVal → FRes) : LaneRes :=
  let t := etyF f
  let w := etyWidth t
  packRes c.w.fpmode w (etyCount t) (elemPoison w srcs)
    (fun s => g (ctlOf c.w.fpmode f) t (srcs.map (fElem f s)))

/-- a + b, a - b, a * b and a * b + c, rounded once (R126). -/
def faddRes (r : RCtl) (t : Ety) (a b : FVal) : FRes := fSumRound t r [a, b]
def fsubRes (r : RCtl) (t : Ety) (a b : FVal) : FRes := fSumRound t r [a, b.flip]
def fmulRes (r : RCtl) (t : Ety) (a b : FVal) : FRes := fRoundVal t r (fMul a b)
def ffmaRes (r : RCtl) (t : Ety) (a b d : FVal) : FRes := fSumRound t r [fMul a b, d]

/-- The n-th value of a list of sources. -/
def nth (xs : List FVal) (n : Nat) : FVal := xs.getD n (.nan false)

def issueFlt2 (i : Instr) (h : Hdr) (o : OpR) (s : State) (g : RCtl → Ety → FVal → FVal → FRes) :
    Host.Outcome State Fault Refusal :=
  issueLanes i h o.o1 s (fun c l =>
    fltLane c h.f [c.val o.o2 l, c.val o.o3 l] (fun r t xs => g r t (nth xs 0) (nth xs 1)))
def issueFlt3 (i : Instr) (h : Hdr) (o : OpR) (s : State) (g : RCtl → Ety → FVal → FVal → FVal → FRes) :
    Host.Outcome State Fault Refusal :=
  issueLanes i h o.o1 s (fun c l =>
    fltLane c h.f [c.val o.o2 l, c.val o.o3 l, c.val o.o4 l] (fun r t xs => g r t (nth xs 0) (nth xs 1) (nth xs 2)))

/-- FADD (R126). -/
def execFadd (h : Hdr) (o : OpR) (s : State) : Host.Outcome State Fault Refusal := issueFlt2 (.fadd h o) h o s faddRes
/-- FSUB (R126). -/
def execFsub (h : Hdr) (o : OpR) (s : State) : Host.Outcome State Fault Refusal := issueFlt2 (.fsub h o) h o s fsubRes
/-- FMUL (R126). -/
def execFmul (h : Hdr) (o : OpR) (s : State) : Host.Outcome State Fault Refusal := issueFlt2 (.fmul h o) h o s fmulRes
/-- FFMA (R126). -/
def execFfma (h : Hdr) (o : OpR) (s : State) : Host.Outcome State Fault Refusal := issueFlt3 (.ffma h o) h o s ffmaRes
/-- DADD (R134). -/
def execDadd (h : Hdr) (o : OpR) (s : State) : Host.Outcome State Fault Refusal := issueFlt2 (.dadd h o) h o s faddRes
/-- DMUL (R134). -/
def execDmul (h : Hdr) (o : OpR) (s : State) : Host.Outcome State Fault Refusal := issueFlt2 (.dmul h o) h o s fmulRes
/-- DFMA (R134). -/
def execDfma (h : Hdr) (o : OpR) (s : State) : Host.Outcome State Fault Refusal := issueFlt3 (.dfma h o) h o s ffmaRes

/-- An element-wise operation on bit patterns. -/
def patLane (c : Ctx) (f : Byte) (srcs : List Lane) (g : Ety → List Nat → FRes) : LaneRes :=
  let t := etyF f
  let w := etyWidth t
  packRes c.w.fpmode w (etyCount t) (elemPoison w srcs) (fun s => g t (srcs.map (fun x => elemAt w s x.val)))

/-- FMIN (R127). -/
def execFmin (h : Hdr) (o : OpR) (s : State) : Host.Outcome State Fault Refusal :=
  issueLanes (.fmin h o) h o.o1 s (fun c l =>
    patLane c h.f [c.val o.o2 l, c.val o.o3 l] (fun t xs => fMinMax false (h.f.getLsbD 7) t (xs.getD 0 0) (xs.getD 1 0)))
/-- FMAX (R127). -/
def execFmax (h : Hdr) (o : OpR) (s : State) : Host.Outcome State Fault Refusal :=
  issueLanes (.fmax h o) h o.o1 s (fun c l =>
    patLane c h.f [c.val o.o2 l, c.val o.o3 l] (fun t xs => fMinMax true (h.f.getLsbD 7) t (xs.getD 0 0) (xs.getD 1 0)))

/-- FCLASS (R128). -/
def execFclass (h : Hdr) (o : OpR) (s : State) : Host.Outcome State Fault Refusal :=
  issueLanes (.fclass h o) h o.o1 s (fun c l =>
    patLane c h.f [c.val o.o2 l] (fun t xs => ⟨2 ^ fClassBit t (xs.getD 0 0), 0⟩))

/-- FRND (R129). -/
def execFrnd (h : Hdr) (o : OpR) (s : State) : Host.Outcome State Fault Refusal :=
  issueLanes (.frnd h o) h o.o1 s (fun c l =>
    patLane c h.f [c.val o.o2 l] (fun t xs =>
      fIntegral t (modeOf c.w.fpmode h.f) (xs.getD 0 0) (fInput (h.f.getLsbD 7) t (xs.getD 0 0))))

/-- FSCALE (R130). -/
def execFscale (h : Hdr) (o : OpR) (s : State) : Host.Outcome State Fault Refusal :=
  issueLanes (.fscale h o) h o.o1 s (fun c l =>
    patLane c h.f [c.val o.o2 l, c.val o.o3 l] (fun t xs =>
      fScale t (ctlOf c.w.fpmode h.f) (xs.getD 0 0) (fInput (h.f.getLsbD 7) t (xs.getD 0 0)) (intOf true (etyWidth t) (xs.getD 1 0))))

/-- FGETEXP (R130). -/
def execFgetexp (h : Hdr) (o : OpR) (s : State) : Host.Outcome State Fault Refusal :=
  issueLanes (.fgetexp h o) h o.o1 s (fun c l =>
    fltLane c h.f [c.val o.o2 l] (fun _ t xs => fGetExp t (nth xs 0)))

/-- A dot product of n elements per half into an FP32 accumulator (R131). -/
def fdotLane (c : Ctx) (f : Byte) (n : Nat) (a b d : Lane) : LaneRes :=
  let ftz := f.getLsbD 7
  packRes c.w.fpmode 32 2 (a.poi ||| b.poi ||| d.poi) (fun k =>
    fSumRound .f32 (ctlOf c.w.fpmode f) (fInput ftz .f32 (elemAt 32 k d.val)
      :: (List.range n).map (fun j => fMul (fElem f (n * k + j) a) (fElem f (n * k + j) b))))

/-- FDOT2 (R131). -/
def execFdot2 (h : Hdr) (o : OpR) (s : State) : Host.Outcome State Fault Refusal :=
  issueLanes (.fdot2 h o) h o.o1 s (fun c l => fdotLane c h.f 2 (c.val o.o2 l) (c.val o.o3 l) (c.val o.o4 l))
/-- FDOT4 (R131). -/
def execFdot4 (h : Hdr) (o : OpR) (s : State) : Host.Outcome State Fault Refusal :=
  issueLanes (.fdot4 h o) h o.o1 s (fun c l => fdotLane c h.f 4 (c.val o.o2 l) (c.val o.o3 l) (c.val o.o4 l))

/-- The sums of adjacent pairs (R132). -/
def fhaddLane (c : Ctx) (f : Byte) (a b : Lane) : LaneRes :=
  let t := etyF f
  let k := etyCount t
  packRes c.w.fpmode (etyWidth t) k (halfPoison (anyPoison a) (anyPoison b)) (fun s =>
    let x := if s < k / 2 then a else b
    let j := if s < k / 2 then s else s - k / 2
    fSumRound t (ctlOf c.w.fpmode f) [fElem f (2 * j) x, fElem f (2 * j + 1) x])

/-- FHADD (R132). -/
def execFhadd (h : Hdr) (o : OpR) (s : State) : Host.Outcome State Fault Refusal :=
  issueLanes (.fhadd h o) h o.o1 s (fun c l => fhaddLane c h.f (c.val o.o2 l) (c.val o.o3 l))

/-- FRCP (R133). -/
def execFrcp (h : Hdr) (o : OpR) (s : State) : Host.Outcome State Fault Refusal :=
  issueLanes (.frcp h o) h o.o1 s (fun c l => fltLane c h.f [c.val o.o2 l] (fun r t xs => fRecip t r (nth xs 0)))
/-- FRSQ (R133). -/
def execFrsq (h : Hdr) (o : OpR) (s : State) : Host.Outcome State Fault Refusal :=
  issueLanes (.frsq h o) h o.o1 s (fun c l => fltLane c h.f [c.val o.o2 l] (fun r t xs => fRecipSqrt t r (nth xs 0)))

/-- The word that has every sub-element's sign bit set. -/
def signBits (t : Ety) : Word := BitVec.ofNat 64 (packElems (etyWidth t) (fun _ => 2 ^ (etyWidth t - 1)) (etyCount t))

/-- FABS (R135). -/
def execFabs (h : Hdr) (o : OpR) (s : State) : Host.Outcome State Fault Refusal :=
  issueLanes (.fabs h o) h o.o1 s (fun c l =>
    let a := c.val o.o2 l
    cleanRes (a.val &&& ~~~signBits (etyF h.f)) a.poi)
/-- FNEG (R135). -/
def execFneg (h : Hdr) (o : OpR) (s : State) : Host.Outcome State Fault Refusal :=
  issueLanes (.fneg h o) h o.o1 s (fun c l =>
    let a := c.val o.o2 l
    cleanRes (a.val ^^^ signBits (etyF h.f)) a.poi)

/-- FCMP (R123): the condition on values as they are, NV for a signalling NaN in a sub-element that is compared. -/
def execFcmp (h : Hdr) (o : OpR) (s : State) : Host.Outcome State Fault Refusal :=
  issue (.fcmp h o) h s (fun c s1 =>
    let t := etyF h.f
    let w := etyWidth t
    let mode := o.x.toNat % 4
    let a := fun l k => fDecode t (elemAt w k (c.val o.o2 l).val)
    let b := fun l k => fDecode t (elemAt w k (c.val o.o3 l).val)
    let n := if mode = 0 then 1 else etyCount t
    let nv := (lanesOf c.exec).any (fun l => (List.range n).any (fun k => (a l k).isSignalling || (b l k).isSignalling))
    let s2 := writePreds c s1 o.o1
      (fun l => combine mode (etyCount t) (fun k => fCond (h.f.toNat >>> 4) (a l k) (b l k)))
      (fun l => cmpPoison mode w [c.val o.o2 l, c.val o.o3 l])
    .ok (raiseFlags s2 c.key (c.s.cycle + c.floor) (flagIf nv flNV)))

end Sys2Proof.Machine
end

