-- ==== Sys2Proof/Machine/Trans.lean ====
section
/-! DEFINITION. The special functions of R79 and R80, evaluated in fixed point with 320 fraction bits (480 for the argument
reduction of sine and cosine) and rounded once with an odd last digit in place of what lies below (assumption log 12). -/

namespace Sys2Proof.Machine

/-- Fraction bits of the working precision. -/
def fxBits : Nat := 320
/-- ln 2 at 320 fraction bits. -/
def fxLn2 : Nat := 1480553391661173448385607439722553250922680800745876974795605978609098082859138712941075737848984
/-- 1 / ln 2 at 320 fraction bits. -/
def fxInvLn2 : Nat := 3081577904126213121686167198097690134163479766071396094403848907535455306605342191083616308484524
/-- pi / 2 at 480 fraction bits. -/
def fxHalfPi : Nat := 4903631156013654104835216594459417753999121174389642500969893891376420597345114094181205771426638395810007501500231852443806468116305670880520922

/-- Product of two fixed-point numbers. -/
def fxMul (a b : Int) : Int := (a * b) / 2 ^ fxBits

/-- The Taylor sum of exp from term k on, where t is term k: n more terms. -/
def fxExpSum (y : Int) : Nat → Nat → Int → Int
  | 0, _, _ => 0
  | n + 1, k, t => t + fxExpSum y n (k + 1) (fxMul t y / (k + 1))

/-- exp y for y in [0, ln 2). -/
def fxExp (y : Int) : Int := fxExpSum y 70 0 (2 ^ fxBits)

/-- A fixed-point number as 2^n * m with m in [1, 2): exp2 of the number. -/
def fxExp2 (z : Int) : Nat × Int :=
  let n := z / 2 ^ fxBits
  let f := z - n * 2 ^ fxBits
  ((fxExp (fxMul f fxLn2)).toNat, n)

/-- The alternating or plain Taylor sum x^k/k! in steps of two, from the term t of index k. -/
def fxSinSum (x2 : Int) : Nat → Nat → Int → Int
  | 0, _, _ => 0
  | n + 1, k, t => t + fxSinSum x2 n (k + 2) (-(fxMul t x2) / ((k + 1) * (k + 2)))

def fxSin (r : Int) : Int := fxSinSum (fxMul r r) 50 1 r
def fxCos (r : Int) : Int := fxSinSum (fxMul r r) 50 0 (2 ^ fxBits)

/-- 2 atanh z = ln ((1 + z) / (1 - z)) for z in [0, 1/3]. -/
def fxAtanhSum (z2 : Int) : Nat → Nat → Int → Int
  | 0, _, _ => 0
  | n + 1, k, t => 2 * t / (2 * k + 1) + fxAtanhSum z2 n (k + 1) (fxMul t z2)

/-- ln y for a fixed-point y in [1, 2). -/
def fxLn (y : Int) : Int :=
  let z := ((y - 2 ^ fxBits) * 2 ^ fxBits) / (y + 2 ^ fxBits)
  fxAtanhSum (fxMul z z) 104 0 z

/-- The fixed-point value of m * 2^e, limited to a magnitude of 4096. -/
def fxOf (m : Nat) (e : Int) : Int :=
  if e + Nat.log2 m ≥ 12 then 4096 * 2 ^ fxBits
  else if e + fxBits ≥ 0 then (m : Int) * 2 ^ (e + fxBits).toNat else m / 2 ^ (-(e + fxBits)).toNat

/-- The six functions. -/
inductive SFun where
  | exp2 | log2 | sin | cos | tanh | sig
  deriving DecidableEq, Repr

/-- The exact value of a function of a finite nonzero argument, as sign, magnitude and exponent, an odd last digit standing
for what is below; the flag says that the value is exact. -/
def sfExact (f : SFun) (neg : Bool) (m : Nat) (e : Int) : Bool × Nat × Int × Bool :=
  let x := if neg then -(fxOf m e) else fxOf m e
  let P : Int := fxBits
  let odd := fun (v : Int) (sc : Int) => let w := withSticky v.natAbs sc true; (decide (v < 0), w.1, w.2, false)
  match f with
  | .exp2 =>
    let isInt := e ≥ 0 || m % 2 ^ (min (-e).toNat (Nat.log2 m + 1)) = 0
    if isInt then (false, 1, x / 2 ^ fxBits, true)
    else let r := fxExp2 x; odd r.1 (r.2 - P)
  | .log2 =>
    let k := Nat.log2 m
    if m = 2 ^ k then
      let v : Int := e + k
      (decide (v < 0), v.natAbs, 0, true)
    else odd (fxMul (fxLn ((m : Int) * 2 ^ (fxBits - k))) fxInvLn2 + (e + k) * 2 ^ fxBits) (-P)
  | .sin | .cos =>
    let a : Int := (m : Int) * 2 ^ (e + 480).toNat
    let k := (a + fxHalfPi / 2) / fxHalfPi
    let r := (a - k * fxHalfPi) / 2 ^ 160
    let q := (k % 4).toNat
    match f, q with
    | .sin, 0 => let v := fxSin r; odd (if neg then -v else v) (-P)
    | .sin, 1 => let v := fxCos r; odd (if neg then -v else v) (-P)
    | .sin, 2 => let v := -fxSin r; odd (if neg then -v else v) (-P)
    | .sin, _ => let v := -fxCos r; odd (if neg then -v else v) (-P)
    | _, 0 => odd (fxCos r) (-P)
    | _, 1 => odd (-fxSin r) (-P)
    | _, 2 => odd (-fxCos r) (-P)
    | _, _ => odd (fxSin r) (-P)
  | .tanh =>
    let a := fxOf m e
    let t := fxExp2 (-(fxMul (2 * a) fxInvLn2))
    let tv := (t.1 : Int) / 2 ^ (-t.2).toNat
    let v := ((2 ^ fxBits - tv) * 2 ^ fxBits) / (2 ^ fxBits + tv)
    odd (if neg then -v else v) (-P)
  | .sig =>
    let a := fxOf m e
    let t := fxExp2 (-(fxMul a fxInvLn2))
    let tv := (t.1 : Int) / 2 ^ (-t.2).toNat
    if neg then odd (((t.1 : Int) * 2 ^ fxBits) / (2 ^ fxBits + tv)) (t.2 - P)
    else odd ((2 ^ fxBits * 2 ^ fxBits) / (2 ^ fxBits + tv)) (-P)

/-- The threshold of R79: at or above it the exact path is taken. -/
def sfAbove (f : SFun) (m : Nat) (e : Int) : Bool :=
  let lim : Nat × Int := match f with
    | .exp2 => (126, 0) | .log2 => (1, 64) | .sin => (1024, 0) | .cos => (1024, 0) | .tanh => (9, 0) | .sig => (24, 0)
  !fLess (.fin false m e) (.fin false lim.1 lim.2)

/-- The R80 rows, where one applies: a result of the destination type. -/
def sfSpecial (f : SFun) (t : Ety) (c : RCtl) (a : FVal) : Option FRes :=
  let one := (fRound t rcNear false 1 0).bits
  let half := (fRound t rcNear false 1 (-1)).bits
  match a with
  | .nan s => some (fNan t s)
  | .inf n =>
    some (match f with
      | .exp2 => if n then ⟨0, 0⟩ else ⟨etyInf t, 0⟩
      | .log2 => if n then fNan t true else ⟨etyInf t, 0⟩
      | .sin | .cos => fNan t true
      | .tanh => ⟨etySign t n + one, 0⟩
      | .sig => if n then ⟨0, 0⟩ else ⟨one, 0⟩)
  | .fin n m _ =>
    if m = 0 then
      some (match f with
        | .exp2 => ⟨one, 0⟩
        | .log2 => let r := fInfinite t c true; ⟨r.bits, r.flags ||| flDZ⟩
        | .sin => ⟨etySign t n, 0⟩
        | .cos => ⟨one, 0⟩
        | .tanh => ⟨etySign t n, 0⟩
        | .sig => ⟨half, 0⟩)
    else if f = .log2 && n then some (fNan t true) else none

/-- Rounds a bit pattern of FP32 to the destination type. -/
def f32To (t : Ety) (c : RCtl) (x : Nat) : FRes := if t = .f32 then fRoundVal .f32 c (fDecode .f32 x) else fRoundVal t c (fDecode .f32 x)

/-- The result of R79, R80 and R146 for a value already read under FTZ. FEXP2 of an integer whose power of two is exact in T leaves NX
clear even where FTZ flushes that power (DEDUCED, log 61: R146's exception stands before R63's NX). With T = FP32 the exact value below the
threshold is rounded once, and UF comes from that rounding (DEDUCED, log 61). -/
def sfEval (f : SFun) (t : Ety) (c : RCtl) (a : FVal) : FRes :=
  match sfSpecial f t c a with
  | some r => r
  | none =>
    match a with
    | .fin n m e =>
      let v := sfExact f n m e
      let r :=
        if sfAbove f m e || t = .f32 then fRound t c v.1 v.2.1 v.2.2.1
        else f32To t c (fRound .f32 rcNear v.1 v.2.1 v.2.2.1).bits
      let exactRes := v.2.2.2 && (fRound t rcNear v.1 v.2.1 v.2.2.1).flags = 0
      ⟨r.bits, (r.flags &&& ~~~flNX) ||| flagIf (!exactRes) flNX⟩
    | _ => fNan t false

end Sys2Proof.Machine
end

