-- ==== Sys2Proof/Machine/ConvOps.lean ====
section
/-! DEFINITION. Conversions, block scales, codebook decoding, special functions, activation and random numbers
(06_thread_convert_lanes.md R136-R151). -/

namespace Sys2Proof.Machine

/-- A sub-element's result and whether a source it depends on is poisoned. -/
structure ElemRes where
  res : FRes
  bad : Bool
  deriving DecidableEq, Repr

/-- Whether the halves that hold sub-element i of width w are poisoned (R73). -/
def elemBad (w i : Nat) (x : Lane) : Bool := if w = 64 then anyPoison x else x.poi.getLsbD (halfOf w i)

/-- Packs sub-elements with their own dependences: a result half is poisoned when a sub-element of it is (R73). -/
def packDep (fpmode : Word) (w k : Nat) (f : Nat → ElemRes) : LaneRes :=
  let bad := fun h => (List.range k).any (fun s => (w = 64 || halfOf w s = h) && (f s).bad)
  packRes fpmode w k (halfPoison (bad 0) (bad 1)) (fun s => (f s).res)

/-- Destination and source types of a conversion, and its part (R138). -/
def cvtDst (f : Byte) : Ety := etyF f
def cvtSrc (x : Byte) : Ety := (etyOf (x.toNat % 16)).getD .f32
def cvtPart (x : Byte) : Nat := (x.toNat >>> 4) % 4

/-- The layout of a conversion: destination sub-element j comes from source sub-element i of va, or from vc (R138). -/
def cvtFrom (f x : Byte) (j : Nat) : Option Nat :=
  let wd := etyWidth (cvtDst f)
  let ws := etyWidth (cvtSrc x)
  let p := cvtPart x
  if wd < ws then
    let ks := 64 / ws
    if p * ks ≤ j && j < p * ks + ks then some (j - p * ks) else none
  else some (p * (64 / wd) + j)

/-- A conversion's lane, given conv of a source sub-element by its order. -/
def cvtLane (fpmode : Word) (f x : Byte) (a d : Lane) (conv : Nat → FRes) (extraBad : Bool) : LaneRes :=
  let wd := etyWidth (cvtDst f)
  let ws := etyWidth (cvtSrc x)
  packDep fpmode wd (64 / wd) (fun j =>
    match cvtFrom f x j with
    | some i => ⟨conv i, elemBad ws i a || extraBad⟩
    | none => ⟨⟨elemAt wd j d.val, 0⟩, elemBad wd j d⟩)

/-- conv of CVT (R138). -/
def cvtConv (r : RCtl) (f x : Byte) (a : Word) (i : Nat) : FRes :=
  fRoundVal (cvtDst f) r (fInput r.ftz (cvtSrc x) (elemAt (etyWidth (cvtSrc x)) i a))

/-- conv of CVTI (R138). -/
def cvtiConv (r : RCtl) (f x : Byte) (a : Word) (i : Nat) : FRes :=
  let d := cvtDst f
  let t := cvtSrc x
  let bits := elemAt (etyWidth t) i a
  if etyIsInt t then
    let v := intOf (etySigned t) (etyWidth t) bits
    if etyIsInt d then fitInt r.sat (etySigned d) (etyWidth d) v else fRound d r (v < 0) v.natAbs 0
  else fToInt r.mode (etySigned d) (etyWidth d) (fInput r.ftz t bits)

/-- CVT (R138). -/
def execCvt (h : Hdr) (o : OpR) (s : State) : Host.Outcome State Fault Refusal :=
  issueLanes (.cvt h o) h o.o1 s (fun c l =>
    let a := c.val o.o2 l
    cvtLane c.w.fpmode h.f o.x a (c.val o.o3 l) (cvtConv (ctlOf c.w.fpmode h.f) h.f o.x a.val) false)

/-- CVTI (R138). -/
def execCvti (h : Hdr) (o : OpR) (s : State) : Host.Outcome State Fault Refusal :=
  issueLanes (.cvti h o) h o.o1 s (fun c l =>
    let a := c.val o.o2 l
    cvtLane c.w.fpmode h.f o.x a (c.val o.o3 l) (cvtiConv (ctlOf c.w.fpmode h.f) h.f o.x a.val) false)

/-- The generator of a lane. -/
def genOf (w : Warp) (l : Nat) : Word := w.gens.getD l 0
/-- The generator after n draws. -/
def genAfter (g : Word) : Nat → Word
  | 0 => g
  | n + 1 => (genDraw (genAfter g n)).1
/-- The n-th draw from a generator. -/
def genNth (g : Word) (n : Nat) : Nat := (genDraw (genAfter g n)).2
/-- Generators of the lanes of a mask replaced. -/
def setGens (s : State) (key : Nat) (m : Mask) (f : Nat → Word) : State :=
  s.modWarp key (fun w => { w with gens := (List.range 32).map (fun l => if m.getLsbD l then f l else genOf w l) })

/-- The number of sub-elements that a conversion converts. -/
def cvtCount (f x : Byte) : Nat := min (etyCount (cvtDst f)) (etyCount (cvtSrc x))

/-- conv of CVTSR: stochastic rounding with the i-th draw; specials and zeros convert by R65 (R68). -/
def cvtsrConv (r : RCtl) (f x : Byte) (a g : Word) (i : Nat) : FRes :=
  let first := if etyWidth (cvtDst f) < etyWidth (cvtSrc x) then 0 else cvtPart x * etyCount (cvtDst f)
  match fInput r.ftz (cvtSrc x) (elemAt (etyWidth (cvtSrc x)) i a) with
  | .fin n m e => if m = 0 then fRound (cvtDst f) r n m e else fStochastic (cvtDst f) r n m e (genNth g (i - first))
  | v => fRoundVal (cvtDst f) r v

/-- CVTSR (R138, R68). -/
def execCvtsr (h : Hdr) (o : OpR) (s : State) : Host.Outcome State Fault Refusal :=
  issue (.cvtsr h o) h s (fun c s1 =>
    let s2 := writeLanes c s1 o.o1 (fun l =>
      let a := c.val o.o2 l
      cvtLane c.w.fpmode h.f o.x a (c.val o.o3 l) (cvtsrConv (ctlOf c.w.fpmode h.f) h.f o.x a.val (genOf c.w l))
        (c.w.genPoi.getLsbD l))
    .ok (setGens s2 c.key c.exec (fun l => genAfter (genOf c.w l) (cvtCount h.f o.x))))

/-- PACK's lane (R139). -/
def packLane (c : Ctx) (f : Byte) (a b : Lane) : LaneRes :=
  let t := etyF f
  let w := etyWidth t
  let k := etyCount t
  packRes c.w.fpmode w k (halfPoison (anyPoison a) (anyPoison b)) (fun j =>
    let x := if j < k / 2 then a else b
    let i := if j < k / 2 then j else j - k / 2
    fitInt (f.getLsbD 6) (etySigned t) w (intOf (etySigned t) (2 * w) (elemAt (2 * w) i x.val)))

/-- PACK (R139). -/
def execPack (h : Hdr) (o : OpR) (s : State) : Host.Outcome State Fault Refusal :=
  issueLanes (.pack h o) h o.o1 s (fun c l => packLane c h.f (c.val o.o2 l) (c.val o.o3 l))

/-- UNPK (R139). -/
def execUnpk (h : Hdr) (o : OpR) (s : State) : Host.Outcome State Fault Refusal :=
  issueLanes (.unpk h o) h o.o1 s (fun c l =>
    let t := etyF h.f
    let w := etyWidth t
    let k := etyCount t
    let a := c.val o.o2 l
    let hi := if o.x.getLsbD 0 then 1 else 0
    packRes c.w.fpmode (2 * w) (k / 2) (bothPoison (a.poi.getLsbD hi)) (fun j =>
      ⟨wrapTo (2 * w) (intOf (etySigned t) w (elemAt w (hi * (k / 2) + j) a.val)), 0⟩))

/-- The largest finite magnitude of a narrow format as m * 2^e (R140). -/
def narrowMax (t : Ety) : Nat × Int :=
  match t with
  | .e4m3 => (7, 6)
  | .e5m2 => (7, 13)
  | _ => (3, 1)

/-- The scale code of BSCALE for a magnitude (R140). -/
def bscaleRes (t : Ety) (a : FVal) : FRes :=
  match a with
  | .nan s => ⟨0xFF, flagIf s flNV⟩
  | .inf _ => ⟨0xFF, flNV⟩
  | .fin _ m e =>
    if m = 0 then ⟨127, 0⟩
    else
      let mx := narrowMax t
      let n : Int := (e + Nat.log2 m) - (mx.2 + Nat.log2 mx.1)
      let n := if fLess (.fin false mx.1 (mx.2 + n)) (.fin false m e) then n + 1 else n
      ⟨(max 0 (min 254 (127 + n))).toNat, 0⟩

/-- BSCALE (R140). Where it raises NV while FPMODE.PI is 1 it poisons both halves, since R140 makes both depend on half 0 (DEDUCED, log
59: R72 names the half that holds the sub-element). -/
def execBscale (h : Hdr) (o : OpR) (s : State) : Host.Outcome State Fault Refusal :=
  issueLanes (.bscale h o) h o.o1 s (fun c l =>
    let a := c.val o.o2 l
    let r := bscaleRes (etyF h.f) (fDecode .f32 (elemAt 32 0 a.val))
    ⟨⟨BitVec.ofNat 64 r.bits, bothPoison (a.poi.getLsbD 0 || flagsPoison c.w.fpmode r.flags)⟩, r.flags⟩)

/-- A value times a power of two. -/
def fShift (v : FVal) (n : Int) : FVal :=
  match v with
  | .fin s m e => .fin s m (e + n)
  | v => v

/-- QNT's lane (R141). -/
def qntLane (c : Ctx) (f x : Byte) (a b d e : Lane) : LaneRes :=
  let t := etyF f
  let w := etyWidth t
  let p := x.toNat % 4
  let sc := elemAt 8 0 d.val
  let dep := anyPoison a || anyPoison b || d.poi.getLsbD 0
  packDep c.w.fpmode w (etyCount t) (fun s =>
    if 4 * p ≤ s && s < 4 * p + 4 then
      let i := s - 4 * p
      let v := fDecode .f32 (elemAt 32 (i % 2) (if i < 2 then a else b).val)
      let r := if sc = 0xFF then (⟨etyNan t, flNV⟩ : FRes) else fRoundVal t (ctlOf c.w.fpmode f) (fShift v (127 - sc))
      ⟨r, dep || (t = .e2m1 && elemBad w s e)⟩
    else ⟨⟨elemAt w s e.val, 0⟩, elemBad w s e⟩)

/-- QNT (R141). -/
def execQnt (h : Hdr) (o : OpR) (s : State) : Host.Outcome State Fault Refusal :=
  issueLanes (.qnt h o) h o.o1 s (fun c l =>
    qntLane c h.f o.x (c.val o.o2 l) (c.val o.o3 l) (c.val o.o4 l) (c.val o.o5 l))

/-- DQNT's lane (R142). -/
def dqntLane (c : Ctx) (f x : Byte) (a b : Lane) : LaneRes :=
  let t := etyF f
  let w := etyWidth t
  let p := x.toNat % 8
  let sc := elemAt 8 0 b.val
  packRes c.w.fpmode 32 2 (bothPoison (elemBad w (2 * p) a || b.poi.getLsbD 0)) (fun i =>
    let v := fDecode t (elemAt w (2 * p + i) a.val)
    if sc = 0xFF then fNan .f32 true else fRoundVal .f32 (ctlOf c.w.fpmode f) (fShift v (sc - 127)))

/-- DQNT (R142). -/
def execDqnt (h : Hdr) (o : OpR) (s : State) : Host.Outcome State Fault Refusal :=
  issueLanes (.dqnt h o) h o.o1 s (fun c l => dqntLane c h.f o.x (c.val o.o2 l) (c.val o.o3 l))

/-- Entry j of a codebook table and its poison; no table of its own is the default table (R143). -/
def cbEntry (t : Option (FMap (BitVec 24 × Bool))) (j : Nat) : Nat × Bool :=
  match t with
  | none => (cbDefault.getD j 0, false)
  | some m => let e := fmGet (0, false) m j; (e.1.toNat, e.2)

/-- Element i of a decoded code in a narrow format (R61). -/
def cbElem (t : Ety) (entry code i : Nat) : Nat :=
  (fRound t rcNear (code.testBit i) ((entry >>> (3 * i)) % 8) (-1)).bits

/-- CBDEC (R145). -/
def execCbdec (h : Hdr) (o : OpR) (s : State) : Host.Outcome State Fault Refusal :=
  issueLanes (.cbdec h o) h o.o1 s (fun c l =>
    let a := c.val o.o2 l
    let p := o.x.toNat % 4
    let code := elemAt 16 p a.val
    let e := cbEntry (c.s.core c.unit).codebook (code / 256)
    cleanRes (BitVec.ofNat 64 (packElems 8 (cbElem (etyF h.f) e.1 code) 8)) (bothPoison (a.poi.getLsbD (p / 2) || e.2)))

/-- A special function element-wise (R146). -/
def issueSpecial (i : Instr) (h : Hdr) (o : OpR) (s : State) (f : SFun) : Host.Outcome State Fault Refusal :=
  issueLanes i h o.o1 s (fun c l => fltLane c h.f [c.val o.o2 l] (fun _ t xs => sfEval f t (ctlNear h.f) (nth xs 0)))

/-- FEXP2 (R146). -/
def execFexp2 (h : Hdr) (o : OpR) (s : State) : Host.Outcome State Fault Refusal := issueSpecial (.fexp2 h o) h o s .exp2
/-- FLOG2 (R146). -/
def execFlog2 (h : Hdr) (o : OpR) (s : State) : Host.Outcome State Fault Refusal := issueSpecial (.flog2 h o) h o s .log2
/-- FSIN (R146). -/
def execFsin (h : Hdr) (o : OpR) (s : State) : Host.Outcome State Fault Refusal := issueSpecial (.fsin h o) h o s .sin
/-- FCOS (R146). -/
def execFcos (h : Hdr) (o : OpR) (s : State) : Host.Outcome State Fault Refusal := issueSpecial (.fcos h o) h o s .cos
/-- FTANH (R146). -/
def execFtanh (h : Hdr) (o : OpR) (s : State) : Host.Outcome State Fault Refusal := issueSpecial (.ftanh h o) h o s .tanh
/-- FSIG (R146). -/
def execFsig (h : Hdr) (o : OpR) (s : State) : Host.Outcome State Fault Refusal := issueSpecial (.fsig h o) h o s .sig

/-- A value of a bank: 0 is lo, 1 is iw, then the slope and intercept of each segment (R147). -/
def actVal (b : FMap (BitVec 32 × Bool)) (n : Nat) : FVal × Bool :=
  let e := fmGet (0, false) b n
  (fDecode .f32 e.1.toNat, e.2)

/-- floor of a finite value limited to 0 to 255 (R81). -/
def segIndex (v : FVal) (free : Nat) : Nat :=
  match v with
  | .nan _ => free
  | .inf n => if n then 0 else 255
  | .fin n m e =>
    if n then 0 else if e ≥ 0 then (if e ≥ 8 && m != 0 then 255 else min 255 (m <<< e.toNat))
    else min 255 (m >>> (-e).toNat)

/-- The segment, the FP32 result and the poison of an activation (R81, R148); `free` is the segment where round(t * iw) is
a NaN, which R81 does not state. SAT and FTZ act on x and on the conversion to T alone, not on the FP32 roundings within (DEDUCED, log
60). -/
def actEval (b : FMap (BitVec 32 × Bool)) (x : FVal) (free : Nat) : FRes × Bool :=
  let rd := fun v => fDecode .f32 (fRoundVal .f32 rcNear v).bits
  let lo := actVal b 0
  let iw := actVal b 1
  let t := rd (fSum .rne [x, lo.1.flip]).1
  let j := segIndex (rd (fMul t iw.1)) free
  let sa := actVal b (2 + 2 * j)
  let sb := actVal b (3 + 2 * j)
  if x.isNan then (fNan .f32 x.isSignalling, lo.2 || iw.2)
  else (fSumRound .f32 rcNear [fMul sa.1 x, sb.1], lo.2 || iw.2 || sa.2 || sb.2)

/-- The bank of a core's table that an ACT of a cycle reads: the one before an exchange at the end of that cycle (R150). -/
def actBank (k : Core) (n cycle : Nat) : FMap (BitVec 32 × Bool) :=
  let t := k.act.getD n ActTable.start
  if t.swapped = some cycle then t.shadow else t.cur

/-- An ACT has read its bank in a cycle, and is done with it 12 cycles later (R149). -/
def actRead (t : ActTable) (cycle : Nat) : ActTable :=
  if t.swapped = some cycle then { t with busy := max t.busy (cycle + 12) } else { t with read := max t.read (cycle + 12) }

/-- ACT's lane (R148). -/
def actLane (c : Ctx) (f : Byte) (b : FMap (BitVec 32 × Bool)) (a : Lane) (l : Nat) : LaneRes :=
  let t := etyF f
  let w := etyWidth t
  packDep c.w.fpmode w (etyCount t) (fun s =>
    let x := fInput (f.getLsbD 7) t (elemAt w s a.val)
    let r := actEval b x ((Config.freeWord (freeIndex c.s (400 + s) l)).toNat % 256)
    let y := fRoundVal t (ctlNear f) (fDecode .f32 r.1.bits)
    ⟨⟨y.bits, r.1.flags ||| y.flags⟩, elemBad w s a || r.2⟩)

/-- ACT (R148): it reads the bank that is current in the cycle of its issue. -/
def execAct (h : Hdr) (o : OpR) (s : State) : Host.Outcome State Fault Refusal :=
  issue (.act h o) h s (fun c s1 =>
    let n := o.x.toNat % 4
    let k := c.s.core c.unit
    let s2 := writeLanes c s1 o.o1 (fun l => actLane c h.f (actBank k n s.cycle) (c.val o.o2 l) l)
    let t := k.act.getD n ActTable.start
    .ok (if c.exec = 0 then s2
      else s2.modCore c.unit (fun k => { k with act := k.act.set n (actRead t s.cycle) })))

/-- RNGSEED (R151, R67). -/
def execRngseed (h : Hdr) (o : OpR) (s : State) : Host.Outcome State Fault Refusal :=
  issue (.rngseed h o) h s (fun c s1 =>
    let v := fun l => c.val o.o2 l
    let s2 := setGens s1 c.key c.exec (fun l => if (v l).val = 0 then BitVec.ofNat 64 Config.golden else (v l).val)
    .ok (s2.modWarp c.key (fun w =>
      { w with genPoi := (w.genPoi &&& ~~~c.exec) ||| (maskOf (fun l => anyPoison (v l)) &&& c.exec) })))

/-- The FP32 value (u >> 8) * 2^-24 (R151). -/
def rngF32 (u : Nat) : Nat := (fRound .f32 rcNear false (u >>> 8) (-24)).bits

/-- RNG (R151): two draws. -/
def execRng (h : Hdr) (o : OpR) (s : State) : Host.Outcome State Fault Refusal :=
  issue (.rng h o) h s (fun c s1 =>
    let half := fun u => if h.f = 4 then u else rngF32 u
    let s2 := writeClean c s1 o.o1 (fun l =>
      let g := genOf c.w l
      ⟨BitVec.ofNat 64 (half (genNth g 0) + half (genNth g 1) * 2 ^ 32), bothPoison (c.w.genPoi.getLsbD l)⟩)
    .ok (setGens s2 c.key c.exec (fun l => genAfter (genOf c.w l) 2)))

end Sys2Proof.Machine
end

