-- ==== Sys2Proof/Machine/LaneOps.lean ====
section
/-! DEFINITION. Cross-lane instructions, predicates and lane masks (06_thread_convert_lanes.md R136, R152-R161). -/

namespace Sys2Proof.Machine

/-- Lanes of a logical warp, a lane's logical warp and its index there, and the lane of an index (R94, R98, R136). -/
def logN (c : Ctx) : Nat := if c.halves then 16 else 32
def logGroup (c : Ctx) (l : Nat) : Nat := if !c.halves then 0 else if c.w.prot then l % 2 else l / 16
def logIdx (c : Ctx) (l : Nat) : Nat := if !c.halves then l else if c.w.prot then l / 2 else l % 16
def logLane (c : Ctx) (g i : Nat) : Nat := if !c.halves then i else if c.w.prot then 2 * i + g else 16 * g + i

/-- The lanes of a mask that lie in the logical warp of lane l. -/
def logPart (c : Ctx) (l : Nat) (m : Mask) : Mask := maskOf (fun k => m.getLsbD k && logGroup c k = logGroup c l)
/-- A mask of hardware lanes as a mask of logical lanes of the logical warp of lane l. -/
def logMask (c : Ctx) (l : Nat) (m : Mask) : Mask :=
  maskOf (fun i => i < logN c && m.getLsbD (logLane c (logGroup c l) i))

/-- Where a moved sub-element comes from: a register lane, its sub-element, and a further poisoned dependence. -/
structure Move where
  lane : Lane
  elem : Nat
  bad  : Bool
  deriving DecidableEq, Repr

/-- A lane of moved sub-elements of width w: bits and the poison of the halves they come from (R152, R155). -/
def moveLanes (w : Nat) (f : Nat → Move) : Lane :=
  let k := 64 / w
  let v := BitVec.ofNat 64 (packElems w (fun s => elemAt w (f s).elem (f s).lane.val) k)
  if w = 64 then ⟨v, (f 0).lane.poi ||| bothPoison (f 0).bad⟩
  else
    let bad := fun h => (List.range k).any (fun s => halfOf w s = h
      && ((f s).bad || (f s).lane.poi.getLsbD (halfOf w (f s).elem)))
    ⟨v, halfPoison (bad 0) (bad 1)⟩

/-- The source element of SHFL, or none where it lies outside the warp (R152). -/
def shflFrom (mode n e b : Nat) : Option Nat :=
  match mode with
  | 0 => some (b % n)
  | 1 => some (e ^^^ (b % n))
  | 2 => if b ≤ e then some (e - b) else none
  | 3 => if e + b < n then some (e + b) else none
  | _ => some ((e + n - b % n) % n)

/-- SHFL (R152). -/
def execShfl (h : Hdr) (o : OpR) (s : State) : Host.Outcome State Fault Refusal :=
  issue (.shfl h o) h s (fun c s1 =>
    let w := etyWidth (etyF h.f)
    let k := 64 / w
    let n := logN c * k
    .ok (writeClean c s1 o.o1 (fun l =>
      let b := srcB c o w l
      moveLanes w (fun sb =>
        let bad := elemBad w sb b
        match shflFrom (o.x.toNat % 8) n (logIdx c l * k + sb) (elemAt w sb b.val) with
        | some e => ⟨c.val o.o2 (logLane c (logGroup c l) (e / k)), e % k, bad⟩
        | none => ⟨c.val o.o1 l, sb, bad⟩))))

/-- BCST (R153). -/
def execBcst (h : Hdr) (o : OpR) (s : State) : Host.Outcome State Fault Refusal :=
  issue (.bcst h o) h s (fun c s1 =>
    .ok (writeClean c s1 o.o1 (fun l =>
      let lead := (lowestLane (logPart c l c.exec)).getD l
      let b := if o.x.getLsbD 7 then (⟨o.o3.setWidth 64, 0⟩ : Lane) else c.val o.o3 lead
      let v := c.val o.o2 (logLane c (logGroup c l) (b.val.toNat % logN c))
      ⟨v.val, v.poi ||| bothPoison (anyPoison b)⟩)))

/-- PERM's lane (R154). -/
def permLane (a b d : Lane) : Lane :=
  let sel := fun i => elemAt 8 i d.val
  let byte := fun i => if (sel i).testBit 7 then 0
    else elemAt 8 (sel i % 8) (if sel i % 16 < 8 then a else b).val
  let bad := fun i => !(sel i).testBit 7
    && (if sel i % 16 < 8 then a else b).poi.getLsbD (sel i % 8 / 4)
  let half := fun h => d.poi.getLsbD h || (List.range 4).any (fun j => bad (4 * h + j))
  ⟨BitVec.ofNat 64 (packElems 8 byte 8), halfPoison (half 0) (half 1)⟩

/-- PERM (R154). -/
def execPerm (h : Hdr) (o : OpR) (s : State) : Host.Outcome State Fault Refusal :=
  issue (.perm h o) h s (fun c s1 =>
    .ok (writeClean c s1 o.o1 (fun l => permLane (c.val o.o2 l) (c.val o.o3 l) (c.val o.o4 l))))

/-- Byte b + n of a register range. -/
def byteAdd (b : Byte) (n : Nat) : Byte := BitVec.ofNat 8 (b.toNat + n)

/-- The source position of a result position of ZIP or UNZIP over n registers of E elements (R155): the register of the range
and the element. -/
def zipFrom (unzip : Bool) (n e j i : Nat) : Nat × Nat :=
  if unzip then ((i * n + j) / e, (i * n + j) % e) else ((j * e + i) % n, (j * e + i) / n)

/-- ZIP and UNZIP (R155): all sources are read before any register is written. -/
def issueZip (i : Instr) (h : Hdr) (o : OpR) (s : State) (unzip : Bool) : Host.Outcome State Fault Refusal :=
  issue i h s (fun c s1 =>
    let w := etyWidth (etyF h.f)
    let k := 64 / w
    let e := logN c * k
    let n := o.x.toNat
    .ok ((List.range n).foldl (fun st j =>
      writeClean c st (byteAdd o.o1 j) (fun l =>
        moveLanes w (fun sb =>
          let f := zipFrom unzip n e j (logIdx c l * k + sb)
          ⟨c.val (byteAdd o.o2 f.1) (logLane c (logGroup c l) (f.2 / k)), f.2 % k, false⟩))) s1))

/-- ZIP (R155). -/
def execZip (h : Hdr) (o : OpR) (s : State) : Host.Outcome State Fault Refusal := issueZip (.zip h o) h o s false
/-- UNZIP (R155). -/
def execUnzip (h : Hdr) (o : OpR) (s : State) : Host.Outcome State Fault Refusal := issueZip (.unzip h o) h o s true

/-- VOTE (R156). -/
def execVote (h : Hdr) (o : OpR) (s : State) : Host.Outcome State Fault Refusal :=
  issue (.vote h o) h s (fun c s1 =>
    let yes := maskOf (fun l => c.exec.getLsbD l && (c.pred o.o2 l).1)
    let no := maskOf (fun l => c.exec.getLsbD l && !(c.pred o.o2 l).1)
    let bad := fun l => (lanesOf (logPart c l c.exec)).any (fun k => (c.pred o.o2 k).2)
    let mode := o.x.toNat % 4
    if mode = 3 then
      .ok (writeClean c s1 o.o1 (fun l => ⟨logMask c l no ++ logMask c l yes, bothPoison (bad l)⟩))
    else
      .ok (writePreds c s1 o.o1
        (fun l =>
          let y := logPart c l yes != 0
          let n := logPart c l no != 0
          if mode = 0 then !n else if mode = 1 then y else !(y && n)) bad))

/-- MATCH (R157). -/
def execMatch (h : Hdr) (o : OpR) (s : State) : Host.Outcome State Fault Refusal :=
  issue (.matchLanes h o) h s (fun c s1 =>
    let w := etyWidth (etyF h.f)
    let key := fun l => elemAt w 0 (c.val o.o2 l).val
    let bad := fun l => (lanesOf (logPart c l c.exec)).any (fun k => elemBad w 0 (c.val o.o2 k))
    let same := fun l => maskOf (fun k => c.exec.getLsbD k && logGroup c k = logGroup c l && key k = key l)
    let s2 := writeClean c s1 o.o1 (fun l => ⟨0#32 ++ logMask c l (same l), halfPoison (bad l) false⟩)
    .ok (writePreds c s2 o.o3 (fun l => same l = logPart c l c.exec) bad))

/-- Pairs of neighbours combined; an absent one leaves the other (R76). -/
def pairUp (g : FRes → FRes → FRes) : List (Option FRes) → List (Option FRes)
  | [] => []
  | [x] => [x]
  | x :: y :: t => (match x, y with
      | some a, some b => some (g a b)
      | some a, none => some a
      | none, y => y) :: pairUp g t

/-- The tree of R76. -/
def treeUp (g : FRes → FRes → FRes) : Nat → List (Option FRes) → List (Option FRes)
  | 0, xs => xs
  | n + 1, xs => treeUp g n (pairUp g xs)

/-- One step of a reduction on patterns of a type; flags accumulate (R158). -/
def redStep (op : Nat) (t : Ety) (a b : FRes) : FRes :=
  let w := etyWidth t
  let sg := etySigned t
  let r : FRes :=
    if etyIsInt t then
      let x := intOf sg w a.bits
      let y := intOf sg w b.bits
      match op with
      | 0 => ⟨wrapTo w (x + y), 0⟩
      | 1 => ⟨wrapTo w (min x y), 0⟩
      | 2 => ⟨wrapTo w (max x y), 0⟩
      | 3 => ⟨a.bits &&& b.bits, 0⟩
      | 4 => ⟨a.bits ||| b.bits, 0⟩
      | _ => ⟨a.bits ^^^ b.bits, 0⟩
    else match op with
      | 0 => fSumRound t rcNear [fDecode t a.bits, fDecode t b.bits]
      | 1 => fMinMax false false t a.bits b.bits
      | _ => fMinMax true false t a.bits b.bits
  ⟨r.bits, a.flags ||| b.flags ||| r.flags⟩

/-- REDL's result at a position over the participating lanes of a logical warp (R158, R76). -/
def redlRes (c : Ctx) (f x : Byte) (src : Byte) (l sb : Nat) : FRes :=
  let t := etyF f
  let w := etyWidth t
  let op := x.toNat % 8
  let g := logGroup c l
  let elem := fun i => elemAt w sb (c.val src (logLane c g i)).val
  let part := fun i => c.exec.getLsbD (logLane c g i)
  let idx := (List.range (logN c)).filter part
  if etyIsInt t then
    if op = 0 then fitInt (f.getLsbD 6) (etySigned t) w (idx.foldl (fun a i => a + intOf (etySigned t) w (elem i)) 0)
    else match idx with
      | [] => ⟨0, 0⟩
      | i :: rest => rest.foldl (fun a j => redStep op t a ⟨elem j, 0⟩) ⟨elem i, 0⟩
  else
    match treeUp (redStep op t) 5 ((List.range (logN c)).map (fun i => if part i then some ⟨elem i, 0⟩ else none)) with
    | some r :: _ => r
    | _ => ⟨0, 0⟩

/-- The poison of a reduction over some lanes (R158). -/
def redPoison (c : Ctx) (w : Nat) (src : Byte) (ls : List Nat) : BitVec 2 := elemPoison w (ls.map (c.val src))

/-- REDL (R158). -/
def execRedl (h : Hdr) (o : OpR) (s : State) : Host.Outcome State Fault Refusal :=
  issueLanes (.redl h o) h o.o1 s (fun c l =>
    let t := etyF h.f
    packRes c.w.fpmode (etyWidth t) (etyCount t) (redPoison c (etyWidth t) o.o2 (lanesOf (logPart c l c.exec)))
      (redlRes c h.f o.x o.o2 l))

/-- The identity of an exclusive scan (R158). -/
def scanIdentity (op : Nat) (t : Ety) : Nat :=
  let w := etyWidth t
  match op with
  | 1 => if etyIsInt t then wrapTo w (intMax (etySigned t) w) else etyInf t
  | 2 => if etyIsInt t then wrapTo w (intMin (etySigned t) w) else etySign t true + etyInf t
  | 3 => 2 ^ w - 1
  | _ => 0

/-- One step of a scan: as REDL's, with fit after each integer add (R158). -/
def scanStep (op : Nat) (t : Ety) (sat : Bool) (a b : FRes) : FRes :=
  if op = 0 && etyIsInt t then
    let w := etyWidth t
    let r := fitInt sat (etySigned t) w (intOf (etySigned t) w a.bits + intOf (etySigned t) w b.bits)
    ⟨r.bits, a.flags ||| b.flags ||| r.flags⟩
  else redStep op t a b

/-- The lanes that a scan's fold covers for a lane (R158). -/
def scanLanes (c : Ctx) (ex : Bool) (l : Nat) : List Nat :=
  (lanesOf (logPart c l c.exec)).filter (fun k => k < l || (k = l && !ex))

/-- SCANL (R158). -/
def execScanl (h : Hdr) (o : OpR) (s : State) : Host.Outcome State Fault Refusal :=
  issueLanes (.scanl h o) h o.o1 s (fun c l =>
    let t := etyF h.f
    let w := etyWidth t
    let op := o.x.toNat % 8
    let ls := scanLanes c (o.x.getLsbD 3) l
    packRes c.w.fpmode w (etyCount t) (redPoison c w o.o2 ls) (fun sb =>
      let elem := fun k => (⟨elemAt w sb (c.val o.o2 k).val, 0⟩ : FRes)
      match ls with
      | [] => ⟨scanIdentity op t, 0⟩
      | k :: rest => rest.foldl (fun a j => scanStep op t (h.f.getLsbD 6) a (elem j)) (elem k)))

/-- PLOP (R159). -/
def execPlop (h : Hdr) (o : OpR) (s : State) : Host.Outcome State Fault Refusal :=
  issue (.plop h o) h s (fun c s1 =>
    let bit := fun (b : Bool) (n : Nat) => if b then n else 0
    .ok (writePreds c s1 o.o1
      (fun l => o.x.getLsbD (bit (c.pred o.o2 l).1 1 + bit (c.pred o.o3 l).1 2 + bit (c.pred o.o4 l).1 4))
      (fun l => (c.pred o.o2 l).2 || (c.pred o.o3 l).2 || (c.pred o.o4 l).2)))

/-- PMOV to a register (R160). -/
def execPmovV (h : Hdr) (o : OpR) (s : State) : Host.Outcome State Fault Refusal :=
  issue (.pmovV h o) h s (fun c s1 =>
    .ok (writeClean c s1 o.o1 (fun l =>
      let v := (List.range 7).foldl (fun a p => a + (if (predVal c.s c.w p l).1 then 2 ^ p else 0)) 128
      ⟨BitVec.ofNat 64 v, halfPoison ((List.range 7).any (fun p => (predVal c.s c.w p l).2)) false⟩)))

/-- PMOV from a register (R160). -/
def execPmovP (h : Hdr) (o : OpR) (s : State) : Host.Outcome State Fault Refusal :=
  issue (.pmovP h o) h s (fun c s1 =>
    .ok ((List.range 7).foldl (fun st p =>
      if o.x.getLsbD (p + 1) then
        writePreds c st (BitVec.ofNat 8 (248 + p)) (fun l => (c.val o.o2 l).val.getLsbD p) (fun l => (c.val o.o2 l).poi.getLsbD 0)
      else st) s1))

/-- ACTM (R161). -/
def execActm (h : Hdr) (o : OpR) (s : State) : Host.Outcome State Fault Refusal :=
  issue (.actm h o) h s (fun c s1 =>
    .ok (writeClean c s1 o.o1 (fun l => ⟨logMask c l c.exec ++ logMask c l c.cur.act, 0⟩)))

/-- ELECT (R161). -/
def execElect (h : Hdr) (o : OpR) (s : State) : Host.Outcome State Fault Refusal :=
  issue (.elect h o) h s (fun c s1 =>
    let lead := fun l => (lowestLane (logPart c l c.exec)).getD l
    let s2 := writePreds c s1 o.o1 (fun l => lead l = l) (fun _ => false)
    .ok (writeClean c s2 o.o2 (fun l => ⟨BitVec.ofNat 64 (logIdx c (lead l)), 0⟩)))

end Sys2Proof.Machine
end

