-- ==== Sys2Proof/Machine/Slices.lean ====
section
/-! DEFINITION. The home slices: homes and sets (13_die_cache.md R327), encodings and room (R329-R333), recalls and forwarding
(10_core_ordering.md R258, R259; R334-R337), copies for snapshots (R349), tile locks (14_die_tiles.md R368). -/

namespace Sys2Proof.Machine

/-! ## Addresses -/

/-- The home slice of a physical address (R327). -/
def homeOf (pa : Nat) : Nat :=
  let g := pa / 16384
  let f := (List.range 5).foldl (fun a i => a ^^^ ((g >>> (7 * i)) % 128)) 0
  128 * (g % 3) + f
/-- The home slice of a line, numbered PA / 128. -/
def lineHome (ln : Nat) : Nat := homeOf (128 * ln)
/-- The set of a line (R327). -/
def lineSet (ln : Nat) : Nat := (ln ^^^ (ln >>> 13)) % 8192

/-! ## Lines -/

/-- Word i of a line (R329). -/
def lineWord (d : Line) (i : Nat) : BitVec 32 := d.extractLsb' (32 * i) 32
/-- The bits of the words of a mask. -/
def wordBits (m : BitVec 32) : Line :=
  (List.range 32).foldl (fun a i => if m.getLsbD i then a ||| (0xFFFFFFFF#1024 <<< (32 * i)) else a) 0
/-- The bits of n bytes from byte off on. -/
def byteSpan (off n : Nat) : Line := BitVec.ofNat 1024 ((2 ^ (8 * n) - 1) <<< (8 * off))
/-- The bits of the bytes of a mask. -/
def byteBits (m : BitVec 128) : Line :=
  (List.range 128).foldl (fun a i => if m.getLsbD i then a ||| (0xFF#1024 <<< (8 * i)) else a) 0
/-- A mask of the bytes from off on. -/
def byteMask (off n : Nat) : BitVec 128 := BitVec.ofNat 128 ((2 ^ n - 1) <<< off)
/-- The words that n bytes from byte off on touch. -/
def wordMask (off n : Nat) : BitVec 32 :=
  (List.range 32).foldl (fun a i => if off < 4 * i + 4 && 4 * i < off + n then a ||| (1#32 <<< i) else a) 0
/-- The words of a byte mask. -/
def wordsOfBytes (m : BitVec 128) : BitVec 32 :=
  (List.range 32).foldl (fun a i => if m.extractLsb' (4 * i) 4 != 0 then a ||| (1#32 <<< i) else a) 0
/-- The bytes of a word mask. -/
def bytesOfWords (m : BitVec 32) : BitVec 128 :=
  (List.range 32).foldl (fun a i => if m.getLsbD i then a ||| (0xF#128 <<< (4 * i)) else a) 0
/-- Bits of a line replaced under a mask of bits. -/
def mergeLine (old new m : Line) : Line := (old &&& ~~~m) ||| (new &&& m)

/-- The encodings of a line (R329). -/
inductive Enc where
  | zero | rep | bd8 | bd16 | zrun | raw
  deriving DecidableEq, Repr

/-- The encoding of a line and its sectors: the fewest sectors, ties to the higher row; a poison mask forces RAW (R329, R332). -/
def encodeLine (d : Line) (bad : BitVec 16) : Enc × Nat :=
  if bad != 0 then (.raw, 8)
  else
    let w0 := lineWord d 0
    let ds := (List.range 32).map (fun i => (lineWord d i - w0).toInt)
    let nz := ((List.range 32).filter (fun i => lineWord d i != 0)).length
    let zr := (4 + 4 * nz + 15) / 16
    if nz = 0 then (.zero, 0)
    else if ds.all (fun x => x = 0) then (.rep, 1)
    else
      let bd8 := ds.all (fun x => -128 ≤ x && x ≤ 127)
      let bd16 := ds.all (fun x => -32768 ≤ x && x ≤ 32767)
      if bd8 && 3 ≤ zr then (.bd8, 3)
      else if bd16 && 5 ≤ zr && !bd8 then (.bd16, 5)
      else if zr ≤ 8 then (.zrun, zr)
      else (.raw, 8)

/-- The code of a tag (R329). -/
def encCode (e : Enc) : BitVec 3 :=
  match e with
  | .zero => 0
  | .rep => 1
  | .bd8 => 2
  | .bd16 => 3
  | .zrun => 4
  | .raw => 5

/-- The payload of a line (R329). -/
def encPayload (d : Line) (bad : BitVec 16) : List Byte :=
  let bytes := fun (n v : Nat) => (List.range n).map (fun k => BitVec.ofNat 8 (v >>> (8 * k)))
  let word := fun (i : Nat) => bytes 4 (lineWord d i).toNat
  let delta := fun (n i : Nat) => bytes n (lineWord d i - lineWord d 0).toNat
  let used := (List.range 32).filter (fun i => lineWord d i != 0)
  match (encodeLine d bad).1 with
  | .zero => []
  | .rep => word 0
  | .bd8 => word 0 ++ (List.range 32).flatMap (delta 1)
  | .bd16 => word 0 ++ (List.range 32).flatMap (delta 2)
  | .zrun => bytes 4 (used.foldl (fun a i => a + 2 ^ i) 0) ++ used.flatMap word
  | .raw => (List.range 32).flatMap word

/-- The bytes of a sector of a resident line: its part of the payload, zero after the payload (R329). -/
def sectorBytes (l : SLine) (k : Nat) : List Byte := (List.range 16).map (fun i => (encPayload l.data l.bad).getD (16 * k + i) 0)

/-- The lowest free sectors of a pool of 64 (DESIGN CHOICE, log 67: the spec does not say which free sectors a line takes). -/
def freeSectors (used : List Nat) (n : Nat) : List Nat := ((List.range 64).filter (fun i => !used.contains i)).take n

/-! ## CXL memory -/

/-- A frame on the refusal list: no fill or write-back reaches it (R419 step 4). -/
def frameRefused (s : State) (ln : Nat) : Bool := s.retired.contains (ln / 512)

/-- What a fill from a refused frame carries: undefined and uncorrectable (log 3). -/
def refusedLine (ln : Nat) : Line := (List.range 16).foldl (fun (a : Line) i =>
  a ||| (BitVec.setWidth 1024 (Config.freeWord (2 ^ 80 + 16 * ln + i)) <<< (64 * i))) 0

/-- A line of second-tier memory with its poison marks: a poisoned read marks the whole line (R328, R332, R439). -/
def cxlLine (s : State) (ln : Nat) : Line × BitVec 16 :=
  if frameRefused s ln then (refusedLine ln, 0xFFFF) else
  let d : Line := s.mem.foldl (fun (a : Line) e => if e.1 / 128 = ln then a ||| (BitVec.setWidth 1024 e.2 <<< (8 * (e.1 % 128))) else a) 0
  let p := s.memBad.any (fun e => e.1 / 16 = ln && e.2)
  (d, if p then 0xFFFF else 0)

/-- The 128 bytes of a line in order. -/
def lineBytes (d : Line) : List Byte := (List.range 128).map (fun i => d.extractLsb' (8 * i) 8)

/-- A write-back to second-tier memory carries the marks (R328, R332). -/
def cxlWrite (s : State) (ln : Nat) (d : Line) (bad : BitVec 16) : State :=
  if frameRefused s ln then s else
  { s with
    mem := memBlock s.mem (128 * ln) (lineBytes d)
    memBad := (List.range 16).foldl (fun m i => fmSet false m (16 * ln + i) (bad.getLsbD i)) s.memBad }

/-! ## The data array -/

def Slice.start : Slice :=
  { lines := [], dir := [], obj := [], drain := [], locks := [], waits := [], servedAt := 0, served := [], clock := 0, copied := 0,
    expev := 0, recomp := 0, lockw := 0, recalls := 0 }
def State.slice (s : State) (i : Nat) : Slice := fmGet Slice.start s.slices i
def State.setSlice (s : State) (i : Nat) (v : Slice) : State := { s with slices := fmPut s.slices i v }
def State.modSlice (s : State) (i : Nat) (f : Slice → Slice) : State := s.setSlice i (f (s.slice i))

/-- The lines of a set. -/
def setLines (sl : Slice) (st : Nat) : FMap SLine := sl.lines.filter (fun e => lineSet e.1 = st)
/-- Sectors of lines. -/
def sectorsOf (ls : FMap SLine) : Nat := ls.foldl (fun a e => a + (encodeLine e.2.data e.2.bad).2) 0
/-- A granted tile lock holds the line (R330). -/
def lineLocked (sl : Slice) (ln : Nat) : Bool := sl.locks.any (fun k => k.granted && k.lines.contains ln)

/-- The line that goes next: the least recent evictable one, first candidates before the others (R330, R350, R361). `spare` are the lines
that the current request writes. -/
def victimOf (sl : Slice) (ln : Nat) (spare : List Nat) (ls : FMap SLine) : Option (Nat × SLine) :=
  let ok := ls.filter (fun e => e.1 != ln && !spare.contains e.1 && !lineLocked sl e.1)
  let pick := fun (l : FMap SLine) => l.foldl (fun (b : Option (Nat × SLine)) e => match b with
    | none => some e
    | some v => if e.2.stamp < v.2.stamp then some e else some v) none
  match pick (ok.filter (fun e => e.2.low)) with
  | some v => some v
  | none => pick ok

/-- Why a request waits for room: the lines that its slice has evicted for it so far, each with whether it was for a resident line that grows
(R330, R331). None of them where a drain buffer is full. -/
abbrev Lack := List (Nat × Bool)
/-- A result at a slice, or the want of room for it. -/
abbrev Room (α : Type) := Except Lack α

/-- Evicts lines of the set until `tags` tags and `sect` sectors are free: the slice and the evicted lines; when no evictable line remains, the
lines that have gone by then (R330). -/
def makeRoom (ln tags sect : Nat) (grow : Bool) (spare : List Nat) : Nat → Slice → List (Nat × SLine) → Room (Slice × List (Nat × SLine))
  | 0, _, out => .error (out.reverse.map (fun v => (v.1, grow)))
  | fuel + 1, sl, out =>
    let ls := setLines sl (lineSet ln)
    if ls.length + tags ≤ 16 && sectorsOf ls + sect ≤ 64 then .ok (sl, out)
    else match victimOf sl ln spare ls with
      | none => .error (out.reverse.map (fun v => (v.1, grow)))
      | some v => makeRoom ln tags sect grow spare fuel
          { sl with lines := fmErase sl.lines v.1, expev := if grow then sl.expev + 1 else sl.expev } (v :: out)

/-- Writes back the dirty ones of evicted lines (R328). -/
def writeBacks (s : State) (vs : List (Nat × SLine)) : State :=
  vs.foldl (fun s v => if v.2.dirty then cxlWrite s v.1 v.2.data v.2.bad else s) s

/-- A request waits for room: the lines that its slice has evicted for it are gone, the dirty ones written back (R328, R330, R331). -/
def evictFor (s : State) (v : Lack) : State :=
  v.foldl (fun s e => match fmFind (s.slice (lineHome e.1)).lines e.1 with
    | none => s
    | some l => writeBacks (s.modSlice (lineHome e.1) (fun sl => { sl with
        lines := fmErase sl.lines e.1, expev := if e.2 then sl.expev + 1 else sl.expev })) [(e.1, l)]) s

/-- Stores a whole line in its slice: encodes, makes room, counts (R329-R333, R338). -/
def slPut (s : State) (ln : Nat) (d : Line) (bad : BitVec 16) (dirty : Bool) (spare : List Nat := []) : Room State :=
  let h := lineHome ln
  let sl := s.slice h
  let new := encodeLine d bad
  let old := fmFind sl.lines ln
  let room := match old with
    | some l => makeRoom ln 0 (new.2 - (encodeLine l.data l.bad).2) true spare 17 sl []
    | none => makeRoom ln 1 new.2 false spare 17 sl []
  match room with
  | .error v => .error v
  | .ok (sl1, out) =>
    let rc := match old with
      | some l => if (encodeLine l.data l.bad).1 = new.1 then 0 else 1
      | none => 0
    let dirty' := match old with
      | some l => l.dirty || dirty
      | none => dirty
    let used := (setLines sl1 (lineSet ln)).flatMap (fun e => if e.1 = ln then [] else e.2.sectors)
    let sl2 := { sl1 with
      lines := fmPut sl1.lines ln
        { data := d, bad := bad, sectors := freeSectors used new.2, dirty := dirty', stamp := sl1.clock, low := false }
      clock := sl1.clock + 1, recomp := sl1.recomp + rc }
    .ok (writeBacks (s.setSlice h sl2) out)

/-- A use of a line makes it the most recent of its set and no first candidate (R330, R350, R361). -/
def SLine.used (l : SLine) (clock : Nat) : SLine := { l with stamp := clock, low := false }

/-- The resident line, filled from second-tier memory when absent, and made the most recent (R328, R330). -/
def slGet (s : State) (ln : Nat) (spare : List Nat := []) : Room (State × SLine) :=
  let h := lineHome ln
  let sl := s.slice h
  match fmFind sl.lines ln with
  | some l =>
    let l' := l.used sl.clock
    .ok (s.setSlice h { sl with lines := fmPut sl.lines ln l', clock := sl.clock + 1 }, l')
  | none =>
    let (d, b) := cxlLine s ln
    match slPut s ln d b false spare with
    | .error v => .error v
    | .ok s1 => match fmFind (s1.slice h).lines ln with
      | some l => .ok (s1, l)
      | none => .error []

/-- A registration of words of a line is a write of it: an absent line is filled, and the line is the most recent (R328, R330, R333). -/
def slTouch (s : State) (ln : Nat) (spare : List Nat) : Room State := (slGet s ln spare).map (fun r => r.1)

/-- A slice finds an uncorrectable half in a resident line, or a code that no encoding has in its tag: every word of the line is marked, and
the line is held RAW from then on (R329, R332); that is no recompression, for nothing is written (R338). Where its set has no room for it
as RAW, the line leaves the slice, and its marks go to memory with it (DESIGN CHOICE, log 87). -/
def slSpoil (s : State) (ln : Nat) : State :=
  let h := lineHome ln
  match fmFind (s.slice h).lines ln with
  | none => s
  | some l => match slPut s ln l.data (BitVec.allOnes 16) l.dirty with
    | .ok s1 => s1.modSlice h (fun sl => { sl with recomp := (s.slice h).recomp })
    | .error _ => cxlWrite (s.modSlice h (fun sl => { sl with lines := fmErase sl.lines ln })) ln l.data (BitVec.allOnes 16)

/-- Marks lines as first candidates for eviction at their slices (R350, R361). -/
def slLow (s : State) (lns : List Nat) : State :=
  lns.foldl (fun s ln => s.modSlice (lineHome ln) (fun sl => match fmFind sl.lines ln with
    | some l => { sl with lines := fmPut sl.lines ln { l with low := true } }
    | none => sl)) s

/-! ## Copies for snapshots (R349) -/

/-- The active snapshots that still need their copy of a line before it is written. -/
def snapsNeeding (s : State) (ln : Nat) : List Nat :=
  (s.snaps.zipIdx).filterMap (fun e =>
    if e.1.active && !e.1.abandoned && ((e.1.src.zipIdx).any (fun p => p.1 = ln && !e.1.sent.contains p.2))
        && !((s.slice (lineHome ln)).drain.any (fun d => d.snap = e.2 && d.line = ln))
    then some e.2 else none)

/-- Copies the line's current value into the drain buffer for each snapshot that needs it; it waits while the buffer is full or the line
cannot be brought in. -/
def snapCopy (s : State) (ln : Nat) : Room State :=
  match snapsNeeding s ln with
  | [] => .ok s
  | ids => do
    let (s1, l) ← slGet s ln
    let h := lineHome ln
    let sl := s1.slice h
    if 64 < sl.drain.length + ids.length then .error []
    else return s1.setSlice h { sl with
      drain := sl.drain ++ ids.map (fun i => { snap := i, line := ln, data := l.data, bad := l.bad })
      copied := sl.copied + ids.length }

/-! ## Owned words of the cores -/

def L1Line.empty : L1Line :=
  { data := 0, copy := 0, owned := 0, sealed := 0, stale := 0, known := 0, bad := 0, stamp := 0, keep := false, obj := false }
/-- A line of a core's L1; an absent line holds no word. -/
def State.l1 (s : State) (core ln : Nat) : L1Line := fmGet L1Line.empty (s.core core).l1 ln
def State.setL1 (s : State) (core ln : Nat) (v : L1Line) : State := s.modCore core (fun c => { c with l1 := fmPut c.l1 ln v })

/-- The registration of a store that a request carries. -/
def reqStore (k : ReqKind) : Option StoreReg :=
  match k with
  | .register r => some r
  | .registerObj _ _ r => some r
  | _ => none

/-- Requests of a core for a line that are on their way, oldest first. -/
def flying (s : State) (core ln : Nat) : List Req := s.net.filter (fun r => r.unit = core && r.line = ln)

/-- Words that registrations on their way name. -/
def flyingRegs (s : State) (core ln : Nat) : BitVec 32 :=
  (flying s core ln).foldl (fun m r => match reqStore r.kind with
    | some g => m ||| g.mask
    | none => m) 0

/-- What a home sees of an owner's words: the words, the bits that hold a value, the value, the marks of their 8-byte words. -/
structure OwnerView where
  words : BitVec 32
  bits  : Line
  data  : Line
  bad   : BitVec 16

/-- A view in which some words stand as given, whatever it held for them. -/
def OwnerView.put (v : OwnerView) (m : BitVec 32) (known : BitVec 128) (d : Line) (bad : BitVec 16) : OwnerView :=
  let t := (List.range 16).foldl (fun (a : BitVec 16) i => if m.getLsbD (2 * i) || m.getLsbD (2 * i + 1) then a ||| (1#16 <<< i) else a) 0
  { words := v.words ||| m
    bits := (v.bits &&& ~~~wordBits m) ||| (wordBits m &&& byteBits known)
    data := mergeLine v.data d (wordBits m)
    bad := (v.bad &&& ~~~t) ||| (bad &&& t) }

/-- A core's current values of words of a line as its home sees them (R258, R259). A store whose registration is on its way has no place in
the order of writes yet (R261): of such a word the home sees what a write-back before it carries, or what the word held before it; of
any other word, what stands in L1 (log 66). -/
def ownerWords (s : State) (core ln : Nat) (mask : BitVec 32) : OwnerView :=
  let l := s.l1 core ln
  let v : OwnerView := OwnerView.put ⟨0, 0, 0, 0⟩ (l.owned &&& mask) l.known l.data l.bad
  (flying s core ln).reverse.foldl (fun v r => match r.kind with
    | .writeBack m kn d b => v.put (m &&& mask) kn d b
    | .register g => v.put (g.was &&& mask) g.known g.old g.bad
    | .registerObj _ _ g => v.put (g.was &&& mask) g.known g.old g.bad
    | _ => v) v

/-- 8-byte words both of whose 4-byte words a mask holds. -/
def wholeWords (m : BitVec 32) : BitVec 16 :=
  (List.range 16).foldl (fun a i => if m.getLsbD (2 * i) && m.getLsbD (2 * i + 1) then a ||| (1#16 <<< i) else a) 0
/-- 8-byte words of which a mask holds a word. -/
def touchedWords (m : BitVec 32) : BitVec 16 :=
  (List.range 16).foldl (fun a i => if m.getLsbD (2 * i) || m.getLsbD (2 * i + 1) then a ||| (1#16 <<< i) else a) 0

/-- Words from an owner enter the slice's data as one write (R258, R259, R333); a whole 8-byte word without an error clears its
mark, an uncorrectable one sets it (R332). -/
def takeWords (s : State) (ln : Nat) (v : OwnerView) (spare : List Nat := []) : Room State :=
  if v.words = 0 then .ok s
  else do
    let (s1, l) ← slGet s ln spare
    let marks := (l.bad &&& ~~~(wholeWords v.words &&& ~~~v.bad)) ||| (v.bad &&& touchedWords v.words)
    slPut s1 ln (mergeLine l.data v.data v.bits) marks true spare

/-- The directory entry of a line. -/
def dirEnt (s : State) (ln : Nat) : Option DirEnt := fmFind (s.slice (lineHome ln)).dir ln
def dropDir (s : State) (ln : Nat) : State := s.modSlice (lineHome ln) (fun sl => { sl with dir := fmErase sl.dir ln })
def countRecall (s : State) (h : Nat) : State := s.modSlice h (fun sl => { sl with recalls := sl.recalls + 1 })

/-- Words of a core's line become Copy, but for those that its later registration is on its way for (R258, R270). -/
def uncover (s : State) (core ln : Nat) (mask : BitVec 32) : State :=
  match fmFind (s.core core).l1 ln with
  | none => s
  | some l =>
    let m := l.owned &&& mask &&& ~~~flyingRegs s core ln
    s.setL1 core ln { l with owned := l.owned &&& ~~~m, copy := l.copy ||| m }

/-- One recall: the owner's registered words of a line come back and become Copy there; the entry is freed (R258, R335, R337). -/
def recallLine (s : State) (ln : Nat) (spare : List Nat := []) : Room State :=
  match dirEnt s ln with
  | none => .ok s
  | some e => (takeWords s ln (ownerWords s e.owner ln e.mask) spare).map (fun s1 =>
      countRecall (dropDir (uncover s1 e.owner ln e.mask) ln) (lineHome ln))

/-- The object-table entry that covers a line (R336). -/
def objEnt (s : State) (ln : Nat) : Option ObjEnt :=
  (s.slice (lineHome ln)).obj.find? (fun e => e.granule = ln / 128 && e.mask.getLsbD (ln % 128))
/-- The lines of an object-table entry. -/
def objLines (e : ObjEnt) : List Nat :=
  ((List.range 128).filter (fun i => e.mask.getLsbD i)).map (fun i => e.granule * 128 + i)

/-- Words of a line that a core holds registered as its home sees it: what the oldest request on its way that names a word says of it, a write-back
that it is, a registration whether it was before; else whether it is Owned in L1 (R258, R373, R374). -/
def objWords (s : State) (core ln : Nat) : BitVec 32 :=
  (flying s core ln).reverse.foldl (fun m r => match r.kind with
    | .writeBack k _ _ _ => m ||| k
    | .register g => (m &&& ~~~g.mask) ||| g.was
    | .registerObj _ _ g => (m &&& ~~~g.mask) ||| g.was
    | _ => m) (s.l1 core ln).owned

/-- A recall of a whole object-table entry (R336, R337). -/
def recallObj (s : State) (e : ObjEnt) (spare : List Nat := []) : Room State := do
  let h := lineHome (e.granule * 128)
  let s1 ← (objLines e).foldlM (fun s ln => do
    let m := objWords s e.owner ln
    let s1 ← takeWords s ln (ownerWords s e.owner ln m) spare
    let s2 := match fmFind (s1.core e.owner).l1 ln with
      | some l => s1.setL1 e.owner ln { l with obj := false }
      | none => s1
    return uncover s2 e.owner ln m) s
  return countRecall (s1.modSlice h (fun sl => { sl with obj := sl.obj.filter (fun x => x != e) })) h

/-- An entry of the object table has been used: it is the most recent (R336). -/
def objTouch (s : State) (e : ObjEnt) : State :=
  s.modSlice (lineHome (e.granule * 128)) (fun sl => { sl with
    obj := sl.obj.map (fun x => if x = e then { x with stamp := sl.clock } else x), clock := sl.clock + 1 })

/-- A line as its slice or second-tier memory holds it, brought in or not. -/
def peekLine (s : State) (ln : Nat) : Line × BitVec 16 :=
  match fmFind (s.slice (lineHome ln)).lines ln with
  | some l => (l.data, l.bad)
  | none => cxlLine s ln

/-- Words from an owner over a line and its marks (R258, R259, R332). -/
def OwnerView.over (v : OwnerView) (d : Line × BitVec 16) : Line × BitVec 16 :=
  (mergeLine d.1 v.data v.bits, (d.2 &&& ~~~(wholeWords v.words &&& ~~~v.bad)) ||| (v.bad &&& touchedWords v.words))

/-- What a read of a line at its home would return, registered words from their owners included (R259). -/
def homePeek (s : State) (ln : Nat) : Line × BitVec 16 :=
  let d := match dirEnt s ln with
    | some e => (ownerWords s e.owner ln e.mask).over (peekLine s ln)
    | none => peekLine s ln
  match objEnt s ln with
  | some e => (ownerWords s e.owner ln (objWords s e.owner ln)).over d
  | none => d

/-- Words from an owner enter the slice's data whether or not it has room: for want of it the line leaves the slice, written back (R330; log
87). -/
def forceWords (s : State) (ln : Nat) (v : OwnerView) : State :=
  if v.words = 0 then s
  else
    let (d, b) := v.over (peekLine s ln)
    match slPut s ln d b true with
    | .ok s1 => s1
    | .error _ => cxlWrite (s.modSlice (lineHome ln) (fun sl => { sl with lines := fmErase sl.lines ln })) ln d b

/-- A recall of lines at every core of the package, for an entry that an error has damaged (R474): each core writes back its Owned words of
them, which become Copy, and no entry of the lines is left. -/
def recallEverywhere (s : State) (lns : List Nat) : State :=
  lns.foldl (fun s ln =>
    let s1 := s.cores.foldl (fun s e =>
      let m := objWords s e.1 ln
      uncover (forceWords s ln (ownerWords s e.1 ln m)) e.1 ln m) s
    dropDir s1 ln) s

/-- Recalls the object-table entry that covers a line, where there is one (R336). -/
def recallCover (s : State) (ln : Nat) (spare : List Nat) : Room State :=
  match objEnt s ln with
  | some e => recallObj s e spare
  | none => .ok s
/-- Recalls whatever covers a line: the object entry and the registered words. -/
def recallAll (s : State) (ln : Nat) (spare : List Nat := []) : Room State := do
  let s1 ← recallCover s ln spare
  recallLine s1 ln spare

/-! ## Requests at a slice -/

/-- A read of words of a line at its home: registered words come from their owner and enter the slice's data; ownership stays
(R259, R373). -/
def homeRead (s : State) (ln : Nat) (mask : BitVec 32) : Room (State × SLine) := do
  let s1 ← match dirEnt s ln with
    | some e => takeWords s ln (ownerWords s e.owner ln (e.mask &&& mask))
    | none => .ok s
  let s2 ← match objEnt s1 ln with
    | some e => takeWords (objTouch s1 e) ln (ownerWords s1 e.owner ln (objWords s1 e.owner ln &&& mask))
    | none => .ok s1
  slGet s2 ln

/-- The slice's own value of a line, without owners (the merge of R257 step 3). -/
def slValue (s : State) (ln : Nat) : Room (State × SLine) := slGet s ln

/-- A write of bytes at the home: the copy for snapshots, the recalls, the data and its marks (R332-R334, R349). A write of an engine
recalls every registered word of the line (R316), another the line's words where one of them that it reaches is registered (R334), the writing
core's own too (DESIGN CHOICE, log 97). An absent line is filled first, for a write of all of it too (R328). -/
def homeWrite (s : State) (ln : Nat) (bytes : BitVec 128) (d : Line) (bad : BitVec 16) (engine : Bool := false) : Room State := do
  let s0 ← snapCopy s ln
  let reg := match dirEnt s0 ln with
    | some e => engine || e.mask &&& wordsOfBytes bytes != 0
    | none => false
  let s1 ← recallCover s0 ln [ln]
  let s2 ← if reg then recallLine s1 ln [ln] else .ok s1
  let whole := (List.range 16).foldl (fun (a : BitVec 16) i => if bytes.extractLsb' (8 * i) 8 = 0xFF#8 then a ||| (1#16 <<< i) else a) 0
  let (s3, l) ← slGet s2 ln
  slPut s3 ln (mergeLine l.data d (byteBits bytes)) ((l.bad &&& ~~~whole) ||| bad) true

/-- Reads n bytes at a physical address inside one line: the value, and whether a word of them is uncorrectable. -/
def homeBytes (s : State) (pa n : Nat) : Room (State × Nat × Bool) :=
  let ln := pa / 128
  let off := pa % 128
  match homeRead s ln (wordMask off n) with
  | .error v => .error v
  | .ok (s1, l) => .ok (s1, (l.data.toNat >>> (8 * off)) % 2 ^ (8 * n), l.bad &&& touchedWords (wordMask off n) != 0)

/-- Writes n bytes at a physical address inside one line. -/
def homeStore (s : State) (pa n v : Nat) (bad : Bool) (engine : Bool := false) : Room State :=
  let ln := pa / 128
  let off := pa % 128
  homeWrite s ln (byteMask off n) (BitVec.ofNat 1024 ((v % 2 ^ (8 * n)) <<< (8 * off))) (if bad then touchedWords (wordMask off n) else 0) engine

/-- Lines that a store, a tile, a copy, a snapshot or the fabric writes, remembered for the arenas that may hold them (R397). -/
def noteWrites (s : State) (lns : List Nat) : State :=
  { s with foreign := s.foreign ++ lns.eraseDups.filter (fun l => !s.foreign.contains l) }

/-! ## Registration (R258, R335, R373) -/

/-- The directory set of a line is full: the least recently registered entry of it is recalled first (R335), behind an object-table entry that
covers its line (R336). -/
def dirRoom (s : State) (ln : Nat) : Room State :=
  let sl := s.slice (lineHome ln)
  let es := sl.dir.filter (fun e => e.1 % 4096 = ln % 4096)
  if es.length < 16 then .ok s
  else match es.foldl (fun (b : Option (Nat × DirEnt)) e => match b with
      | none => some e
      | some v => if e.2.stamp < v.2.stamp then some e else some v) none with
    | none => .ok s
    | some v => recallAll s v.1 [ln]

/-- One registration of words of a line (R258): the copy for snapshots, the recall of another owner, the entry, the line brought in (R328). -/
def homeRegister (s : State) (core ln : Nat) (mask : BitVec 32) : Room State := do
  let s0 ← snapCopy s ln
  let s1 ← recallCover s0 ln [ln]
  let mine := match dirEnt s1 ln with
    | some e => e.owner == core
    | none => false
  if mine then
    slTouch (s1.modSlice (lineHome ln) (fun sl => match fmFind sl.dir ln with
      | some e => { sl with dir := fmPut sl.dir ln { e with mask := e.mask ||| mask, stamp := sl.clock }, clock := sl.clock + 1 }
      | none => sl)) ln [ln]
  else do
    let s2 ← recallLine s1 ln [ln]
    let s3 ← dirRoom s2 ln
    slTouch (s3.modSlice (lineHome ln) (fun sl =>
      { sl with dir := fmPut sl.dir ln { owner := core, mask := mask, stamp := sl.clock }, clock := sl.clock + 1 })) ln [ln]

/-- An object-table entry of a core ends once its owner's L1 holds no covered line any more (R374). -/
def objSpent (s : State) (e : ObjEnt) : Bool := !(objLines e).any (fun ln => (s.l1 e.owner ln).obj)

/-- A replaced line's Owned words come home and are deregistered (R259, R374); words that a recall took before are not the core's
to write any more. -/
def homeWriteBack (s : State) (core ln : Nat) (mask : BitVec 32) (known : BitVec 128) (d : Line) (bad : BitVec 16) : Room State := do
  let ent := match objEnt s ln with
    | some e => if e.owner = core then some e else none
    | none => none
  let listed := match dirEnt s ln with
    | some e => if e.owner = core then e.mask &&& mask else 0
    | none => 0
  let held := if ent.isSome then mask else listed
  let s1 ← if held = 0 then .ok s else do
    let s0 ← snapCopy s ln
    takeWords s0 ln (OwnerView.put ⟨0, 0, 0, 0⟩ held known d bad)
  return (s1.modSlice (lineHome ln) (fun sl =>
      let dir := match fmFind sl.dir ln with
        | some e => if e.owner != core then sl.dir
            else if e.mask &&& ~~~mask = 0 then fmErase sl.dir ln
            else fmPut sl.dir ln { e with mask := e.mask &&& ~~~mask }
        | none => sl.dir
      let obj := match ent with
        | some e => if objSpent s e then sl.obj.filter (fun x => x != e)
            else sl.obj.map (fun x => if x = e then { x with stamp := sl.clock } else x)
        | none => sl.obj
      { sl with dir := dir, obj := obj, clock := sl.clock + 1 }))

/-- Registration of a grid tile's lines in one granule (R373, R374): entries that touch those lines, and words that another core has
registered in them, are recalled, and an entry of the registering core is made; an entry of the same core and generation stands. -/
def homeRegisterObj (s : State) (core granule : Nat) (mask : BitVec 128) (gen : Nat) : Room State :=
  let h := lineHome (granule * 128)
  let lns := ((List.range 128).filter (fun i => mask.getLsbD i)).map (fun i => granule * 128 + i)
  match (s.slice h).obj.find? (fun e => e.granule = granule && e.mask = mask && e.owner = core && e.gen = gen) with
  | some e => .ok (objTouch s e)
  | none => do
    let s1 ← lns.foldlM (fun s ln => do
      let s0 ← snapCopy s ln
      let s1 ← recallCover s0 ln lns
      let s2 ← match dirEnt s1 ln with
        | some e => if e.owner = core then .ok s1 else recallLine s1 ln lns
        | none => .ok s1
      slTouch s2 ln lns) s
    let full := (s1.slice h).obj
    let s2 ← if full.length < 256 then .ok s1
      else match full.foldl (fun (b : Option ObjEnt) e => match b with
          | none => some e
          | some v => if e.stamp < v.stamp then some e else some v) none with
        | none => .ok s1
        | some v => recallObj s1 v lns
    return s2.modSlice h (fun sl =>
      { sl with obj := sl.obj ++ [{ granule := granule, mask := mask, owner := core, gen := gen, stamp := sl.clock }],
                clock := sl.clock + 1 })

/-! ## Tile locks (R368) -/

/-- Two lock requests conflict: an STT excludes every other request to its lines. -/
def locksConflict (a b : TileLock) : Bool := (a.store || b.store) && a.lines.any (fun l => b.lines.contains l)

def reqWrites (k : ReqKind) : Bool :=
  match k with
  | .read _ _ _ _ => false
  | _ => true

/-- The lines of a request: one, or those that a registration of a grid tile names (R373). -/
def reqLines (r : Req) : List Nat :=
  match r.kind with
  | .registerObj m _ _ => ((List.range 128).filter (fun i => m.getLsbD i)).map (fun i => r.line / 128 * 128 + i)
  | _ => [r.line]

/-- The fault ring of an ASID (R412). -/
def faultRing (asid : Nat) : Nat :=
  (asid % 16) ^^^ (asid / 16 % 16) ^^^ (asid / 256 % 16) ^^^ (asid / 4096 % 16)

/-! ## Rings (R405, R421) -/

def Ring.start : Ring := { base := 0, cfg := 0, head := 0, tail := 0, rej := 0, tags := [] }
def State.ring (s : State) (r : Nat) : Ring := fmGet Ring.start s.pkg.rings r
def State.setRing (s : State) (r : Nat) (v : Ring) : State := s.modPkg (fun p => { p with rings := fmPut p.rings r v })

/-- log2 of the slots, the writer class, and the legal sizes. -/
def ringLog (g : Ring) : Nat := g.cfg % 32
def ringSlots (g : Ring) : Nat := 2 ^ ringLog g
def ringLegal (g : Ring) : Bool := 3 ≤ ringLog g && ringLog g ≤ 16
def ringClass (g : Ring) : Nat := g.cfg / 256 % 4
def ringEnabled (g : Ring) : Bool := g.cfg.testBit 16
def ringStopped (g : Ring) : Bool := g.rej.testBit 63
/-- Slots in use. -/
def ringUsed (g : Ring) : Nat := (g.tail % ringSlots g + ringSlots g - g.head % ringSlots g) % ringSlots g

/-! ## Places at a locked line (R368) -/

/-- A run of a warp stands at a PC and goes on there: no trap of the warp is pending, no fault record holds the run, no pre-emption stops it. -/
def runLives (s : State) (key : Nat) (pc : Word) : Bool :=
  (s.warp key).any (fun w => (w.tm || w.traps.isEmpty) && (lanesOf w.pt.live).any (fun l => w.pt.pcs.getD l 0 = pc)
    && (s.crew w.crew).any (fun c => c.ending.isNone && c.preempt.isNone)) && !s.faults.any (fun f => f.waiter = .fetch key pc)

/-- What waits for a line still exists. -/
def waiterLives (s : State) (w : Waiter) : Bool :=
  match w with
  | .nobody => false
  | .access key op => (s.warp key).any (fun w => w.pend.any (fun p => p.op = op))
  | .fetch key pc => runLives s key pc
  | .copy cl cmd => (fmFind s.clusters cl).any (fun k => k.copies.any (fun c => c.id = cmd))
  | .matrix cl => (fmFind s.clusters cl).any (fun k => !k.cmds.isEmpty)
  | .snap id => (s.snaps[id]?).any (fun x => x.active)
  | .sprout d => (fmFind s.dies d).any (fun k => !k.queue.isEmpty)
  | .fabric cmd => s.pkg.fabric.any (fun c => c.id = cmd)
  | .receive conn psn => s.pkg.inbox.any (fun k => k.conn = conn && k.psn = psn)
  | .host => !s.pkg.posted.isEmpty
  | .record ring => s.faults.any (fun f => !f.written && faultRing f.asid = ring)
  | .plan slot => (fmFind s.pkg.plans slot).isSome
  | .done l => s.pkg.launches.any (fun x => x.id = l)
  | .dispatch ring => s.pkg.boot.fail = 0 && ringEnabled (s.ring ring) && !ringStopped (s.ring ring) && ringUsed (s.ring ring) != 0

/-- A request to a line stands behind a lock: a granted one that conflicts, or an earlier waiting lock, word or engine request that does
(R368). `place` is its own place in the order of arrival, once it waits. -/
def heldBack (s : State) (ln : Nat) (write : Bool) (place : Option Nat) : Bool :=
  let sl := s.slice (lineHome ln)
  let earlier := fun (p : Nat) => match place with
    | some q => p < q
    | none => true
  sl.locks.any (fun k => k.lines.contains ln && (k.store || write) && (k.granted || earlier k.place))
    || s.net.any (fun r => (match r.place with
        | some p => earlier p
        | none => false) && (write || reqWrites r.kind) && (reqLines r).contains ln)
    || sl.waits.any (fun x => x.line = ln && (write || x.write) && earlier x.place && waiterLives s x.who)

/-- The place at which an engine's access to a line waits. -/
def waitPlace (s : State) (who : Waiter) (ln : Nat) : Option Nat :=
  ((s.slice (lineHome ln)).waits.find? (fun x => x.who = who && x.line = ln)).map (fun x => x.place)

/-- A request of a higher unit has reached the line in this cycle: a lower one did not reach it in the same cycle (R333). -/
def servedLater (s : State) (ln unit : Nat) : Bool :=
  let sl := s.slice (lineHome ln)
  sl.servedAt = s.cycle && sl.served.any (fun e => e.1 = ln && unit < e.2)
/-- A unit's request is applied to a line in this cycle. -/
def markServed (s : State) (ln unit : Nat) : State :=
  let sl := s.slice (lineHome ln)
  if sl.servedAt = s.cycle && sl.served.contains (ln, unit) then s
  else s.modSlice (lineHome ln) (fun sl => { sl with
    servedAt := s.cycle, served := (if sl.servedAt = s.cycle then sl.served else []) ++ [(ln, unit)] })

/-- A unit's request is applied to its lines in this cycle. -/
def markAll (s : State) (lns : List Nat) (unit : Nat) : State := lns.foldl (fun s ln => markServed s ln unit) s

/-- The place of an engine in the order of units at a line (R333): as R413 numbers them, the Sprouts between the drain engines, whose
numbers they share, and the I/O dies. -/
def engineRank (who : Waiter) (unit : Nat) : Nat :=
  match who with
  | .sprout d => 1524 + d
  | _ => if 1524 ≤ unit then unit + 4 else unit
/-- An engine's access to a line waits (R333, R365, R368). -/
def lineHeld (s : State) (who : Waiter) (unit ln : Nat) (write : Bool) : Bool :=
  heldBack s ln write (waitPlace s who ln) || servedLater s ln (engineRank who unit)
/-- An engine's access takes its place among what waits for a locked line, and counts one wait (R338, R368). -/
def engineWait (s : State) (who : Waiter) (ln : Nat) (write : Bool) : State :=
  if (waitPlace s who ln).isSome || !heldBack s ln write none || !waiterLives s who then s
  else s.modSlice (lineHome ln) (fun sl => { sl with
    waits := sl.waits.filter (fun x => waiterLives s x.who) ++ [⟨who, ln, write, sl.clock⟩]
    clock := sl.clock + 1, lockw := sl.lockw + 1 })
/-- A read of table words or of an instruction line waits for a lock of an STT (R368). -/
def readHeld (s : State) (who : Waiter) (ln : Nat) : Bool := heldBack s ln false (waitPlace s who ln)
/-- An access that waited for a line gives up its place there. -/
def leavePlace (s : State) (who : Waiter) (ln : Nat) : State :=
  if (waitPlace s who ln).isNone then s
  else s.modSlice (lineHome ln) (fun sl => { sl with waits := sl.waits.filter (fun x => !(x.who = who && x.line = ln)) })
/-- Every place that someone holds is given up. -/
def leavePlaces (s : State) (who : Waiter) : State :=
  { s with slices := s.slices.map (fun e => (e.1, { e.2 with waits := e.2.waits.filter (fun x => x.who != who) })) }
/-- An engine's access goes ahead. -/
def engineGoes (s : State) (who : Waiter) (unit ln : Nat) : State := leavePlace (markServed s ln (engineRank who unit)) who ln

/-- An STT holds a lock on one of the lines (R376, R377). -/
def sttHeld (s : State) (lns : List Nat) : Bool :=
  lns.any (fun ln => (s.slice (lineHome ln)).locks.any (fun k => k.granted && k.store && k.lines.contains ln))

end Sys2Proof.Machine
end

