-- ==== Sys2Proof/Machine/Translate.lean ====
section
/-! DEFINITION. Translation (16_package.md R408-R411, R417), fault records (R412, R413), tensor records and their caches
(09_core_memory.md R234-R238), target crews (R235). -/

namespace Sys2Proof.Machine

/-! ## Translation -/

/-- The permissions R, W, X as a PTE and HEAPL hold them in bits 0 to 2 of a field. -/
def permR : Nat := 1
def permW : Nat := 2
def permX : Nat := 4

/-- What a translation gives: an address, or a reason of R413 and the PTE found. -/
inductive Tr where
  | ok (pa : Nat)
  | fault (reason : Nat) (pte : Nat)
  deriving DecidableEq, Repr

/-- The first permission that is missing, as a reason of R413. -/
def permFault (have_ need : Nat) : Option Nat :=
  if need.testBit 0 && !have_.testBit 0 then some 2
  else if need.testBit 1 && !have_.testBit 1 then some 3
  else if need.testBit 2 && !have_.testBit 2 then some 4
  else none

/-- The heap window (R408): its base, its length and its permissions. -/
def heapLen (cr : CtxRegs) : Nat := cr.heapl.toNat / 65536 * 65536
def heapHit (cr : CtxRegs) (va : Nat) : Bool := heapLen cr != 0 && cr.heapb.toNat ≤ va && va < cr.heapb.toNat + heapLen cr

/-- A VA in the context's fabric window (R446). -/
def fabricVa (cr : CtxRegs) (va : Nat) : Bool :=
  let tag := cr.fabric.toNat % 16
  tag != 0 && (va / 2 ^ 48) % 16 = tag

/-- A byte of a range lies at or above 2^52 or in the fabric window: such a VA is never translated (R408, R446, R447). -/
def vaOut (cr : CtxRegs) (va n : Nat) : Bool :=
  n != 0 && (2 ^ 52 < va + n || fabricVa cr va || fabricVa cr (va + n - 1))

/-- A read of a table entry at its home, as an engine read (R409). It takes no time here, and where the line cannot be brought in for want of
room it reads the value without that (DESIGN CHOICE, log 86). -/
def walkRead (s : State) (pa : Nat) : State × Nat × Bool :=
  match homeBytes s pa 8 with
  | .ok r => r
  | .error _ =>
    let (d, b) := homePeek s (pa / 128)
    (s, (d.toNat >>> (8 * (pa % 128))) % 2 ^ 64, b &&& touchedWords (wordMask (pa % 128) 8) != 0)

/-- One table level of the walk: the next table, or the fault (R409, R413). A table beyond memory gives reason 7 (R404, log 23). -/
def walkStep (s : State) (table index : Nat) : State × Except (Nat × Nat) Nat :=
  if Config.memTop ≤ table then (s, .error (7, 0)) else
  let (s1, e, bad) := walkRead s (table + 8 * index)
  if bad then (s1, .error (8, e))
  else if e % 2 = 0 then (s1, .error (1, e))
  else if e / 2 ^ 48 != 0 || (e / 2) % 2 ^ 14 != 0 then (s1, .error (6, e))
  else (s1, .ok (e / 2 ^ 15 * 2 ^ 15))

/-- The PTE of a page by the walk, or the fault. -/
def walk (s : State) (cr : CtxRegs) (va : Nat) : State × Except (Nat × Nat) Nat :=
  match walkStep s cr.ptbr.toNat (va / 2 ^ 40 % 4096) with
  | (s1, .error f) => (s1, .error f)
  | (s1, .ok t1) => match walkStep s1 t1 (va / 2 ^ 28 % 4096) with
    | (s2, .error f) => (s2, .error f)
    | (s2, .ok t2) =>
      if Config.memTop ≤ t2 then (s2, .error (7, 0)) else
      let (s3, e, bad) := walkRead s2 (t2 + 8 * (va / 2 ^ 16 % 4096))
      if bad then (s3, .error (8, e))
      else if e.testBit 4 then (s3, .error (5, e))
      else if e % 2 = 0 then (s3, .error (1, e))
      else if e / 2 ^ 48 != 0 || (e / 32) % 2 ^ 11 != 0 then (s3, .error (6, e))
      else (s3, .ok e)

/-- A TLBINV or FRAMERET in progress covers the page (R417). -/
def invCovers (s : State) (asid va : Nat) : Bool := s.tlbinv.any (fun o => match o with
  | none => true
  | some (a, base, len) => a = asid && base / 65536 ≤ va / 65536 && va / 65536 * 65536 < base + len)

/-- Checks a PTE's permissions and its frame; while an invalidation covers the page, W reads as clear (R410, R413, R417). -/
def pteCheck (pte va need : Nat) (noW : Bool) : Tr :=
  let perms := (pte / 2) % 8
  match permFault (if noW then perms &&& 5 else perms) need with
  | some r => .fault r pte
  | none =>
    let pa := (pte / 65536) % 2 ^ 32 * 65536 + va % 65536
    if Config.memTop ≤ pa then .fault 7 pte else .ok pa

/-- Translates a VA for a unit in a context: the heap window, then the unit's TLB, then the walk, whose result the unit keeps
(R408-R411). A VA beyond 2^52 or in the fabric window is never translated (R408, R446): where no check has stopped it before, it fails as
one whose entry is not valid does (DESIGN CHOICE, log 85). -/
def translate (s : State) (unit : Nat) (cr : CtxRegs) (va need : Nat) : State × Tr :=
  if 2 ^ 52 ≤ va || fabricVa cr va then (s, .fault 1 0)
  else if heapHit cr va then
    match permFault (cr.heapl.toNat % 8) need with
    | some r => (s, .fault r 0)
    | none =>
      let pa := (va + cr.heapo.toNat) % 2 ^ 48
      (s, if Config.memTop ≤ pa then .fault 7 0 else .ok pa)
  else
    let asid := cr.asid.toNat % 65536
    let page := va / 65536
    let noW := invCovers s asid va
    match s.tlb.find? (fun e => e.unit = unit && e.asid = asid && e.page = page) with
    | some e => (s, pteCheck e.pte va need false)
    | none => match walk s cr va with
      | (s1, .error (r, p)) => (s1, .fault r p)
      | (s1, .ok pte) =>
        let t := pteCheck pte va need noW
        match t with
        | .ok _ => (if noW then s1 else { s1 with tlb := s1.tlb ++ [{ unit := unit, asid := asid, page := page, pte := pte }] }, t)
        | .fault _ _ => (s1, t)

/-- A 64-bit word as a read at its home would return it. -/
def peekWord (s : State) (pa : Nat) : Nat := ((homePeek s (pa / 128)).1.toNat >>> (8 * (pa % 128))) % 2 ^ 64

/-- The lines of the table entries that the walk of a page reads, in its order (R409). -/
def walkLines (s : State) (cr : CtxRegs) (va : Nat) : List Nat :=
  let a1 := cr.ptbr.toNat + 8 * (va / 2 ^ 40 % 4096)
  let e1 := peekWord s a1
  let a2 := e1 / 2 ^ 15 * 2 ^ 15 + 8 * (va / 2 ^ 28 % 4096)
  let e2 := peekWord s a2
  let a3 := e2 / 2 ^ 15 * 2 ^ 15 + 8 * (va / 2 ^ 16 % 4096)
  if Config.memTop ≤ a1 then []
  else if e1 % 2 = 0 || Config.memTop ≤ a2 then [a1 / 128]
  else if e2 % 2 = 0 || Config.memTop ≤ a3 then [a1 / 128, a2 / 128]
  else [a1 / 128, a2 / 128, a3 / 128]

/-- A translation of a unit needs a walk. -/
def walkNeeded (s : State) (unit : Nat) (cr : CtxRegs) (va : Nat) : Bool :=
  va < 2 ^ 52 && !fabricVa cr va && !heapHit cr va
    && !s.tlb.any (fun e => e.unit = unit && e.asid = cr.asid.toNat % 65536 && e.page = va / 65536)

/-- The line that holds up the walk of a page: an STT has its lock (R368, R409). -/
def walkWait (s : State) (who : Waiter) (unit : Nat) (cr : CtxRegs) (va : Nat) : Option Nat :=
  if walkNeeded s unit cr va then (walkLines s cr va).find? (readHeld s who) else none
/-- The first line that holds up the walks of a list of VAs. -/
def walksWait (s : State) (who : Waiter) (unit : Nat) (cr : CtxRegs) (vas : List Nat) : Option Nat :=
  ((vas.map (fun v => v / 65536)).eraseDups).findSome? (fun p => walkWait s who unit cr (65536 * p))
/-- The walks of a list of VAs go ahead: the places that they held are given up. -/
def walksGo (s : State) (who : Waiter) (unit : Nat) (cr : CtxRegs) (vas : List Nat) : State :=
  if s.slices.any (fun e => e.2.waits.any (fun x => x.who = who)) then
    ((vas.map (fun v => v / 65536)).eraseDups).foldl (fun s p =>
      if walkNeeded s unit cr (65536 * p) then (walkLines s cr (65536 * p)).foldl (fun s ln => leavePlace s who ln) s else s) s
  else s

/-- The line that holds up a read at a VA by a unit: one of its walk, or its own (R368). -/
def readWait (s : State) (who : Waiter) (unit : Nat) (cr : CtxRegs) (va need : Nat) : Option Nat :=
  (walkWait s who unit cr va).orElse (fun _ => match (translate s unit cr va need).2 with
    | .ok pa => if readHeld s who (pa / 128) then some (pa / 128) else none
    | .fault _ _ => none)
/-- Such a read goes ahead: its places are given up. -/
def readGoes (s : State) (who : Waiter) (unit : Nat) (cr : CtxRegs) (va need : Nat) : State :=
  if s.slices.any (fun e => e.2.waits.any (fun x => x.who = who)) then
    let s1 := walksGo s who unit cr [va]
    match (translate s1 unit cr va need).2 with
    | .ok pa => leavePlace s1 who (pa / 128)
    | .fault _ _ => s1
  else s

/-- Removes translations: every one, those of an ASID, or those of pages of a range (R416). -/
def dropTlb (s : State) (asid : Option Nat) (range : Option (Nat × Nat)) : State :=
  { s with tlb := s.tlb.filter (fun e => !(match asid with
      | none => true
      | some a => e.asid = a && (match range with
        | none => true
        | some (base, len) => base / 65536 ≤ e.page && e.page * 65536 < base + len))) }

/-! ## Fault records -/

/-- A unit sends a fault record, which waits until its ring has room (R412); the TAG of a type-1 record is its own. -/
def sendFault (s : State) (f : FaultRec) : State :=
  let tag := if f.ftype = 1 then s.nextTag + 1 else 0
  { s with faults := s.faults ++ [{ f with tag := tag }], nextTag := s.nextTag + 1 }

/-- What waited for the answer to some records waits no more: those in their ring are forgotten here, and the others are still written, for
no record is ever dropped (R412). -/
def orphanFaults (s : State) (who : Waiter) : State :=
  { s with faults := s.faults.filterMap (fun f =>
      if f.waiter != who then some f else if f.written then none else some { f with waiter := .nobody }) }

/-- The record of a translation fault of a crew's unit (R413). -/
def faultOf (c : Crew) (unit wslot reason access va : Nat) (pc : Word) (pte : Nat) (w : Waiter) : FaultRec :=
  { ftype := 1, reason := reason, access := access, asid := c.cregs.asid.toNat % 65536, ctxid := c.ctx, va := va, tag := 0,
    unit := unit, wslot := wslot, ring := c.ring, launchid := c.lid, vcrew := c.vcrew, pc := pc,
    info := BitVec.ofNat 64 pte, waiter := w, written := false, counted := false }

/-- The ACCESS byte of a permission set (R413). -/
def accessByte (need : Nat) : Nat :=
  (if need.testBit 0 then 1 else 0) + (if need.testBit 1 then 2 else 0) + (if need.testBit 2 then 4 else 0)

/-! ## Tensor records (R234-R238) -/

abbrev Tensor := BitVec 256

def tBase (r : Tensor) : Nat := (r.extractLsb' 0 57).toNat
def tClass (r : Tensor) : Nat := (r.extractLsb' 57 7).toNat
def tExtent (r : Tensor) : Nat := (r.extractLsb' 64 40).toNat
def tStride0 (r : Tensor) : Nat := (r.extractLsb' 104 24).toNat
def tStride1 (r : Tensor) : Nat := (r.extractLsb' 128 32).toNat
def tFmt (r : Tensor) : Nat := (r.extractLsb' 160 8).toNat
def tBmode (r : Tensor) : Nat := (r.extractLsb' 168 2).toNat
def tCoh (r : Tensor) : Nat := (r.extractLsb' 170 2).toNat
def tScale (r : Tensor) : Nat := (r.extractLsb' 172 12).toNat
def tGen (r : Tensor) : Nat := (r.extractLsb' 184 16).toNat
def tDim0 (r : Tensor) : Nat := (r.extractLsb' 200 16).toNat
def tDim1 (r : Tensor) : Nat := (r.extractLsb' 216 16).toNat
def tTcols (r : Tensor) : Nat := (r.extractLsb' 232 4).toNat
def tTrows (r : Tensor) : Nat := (r.extractLsb' 236 4).toNat
def tSnap (r : Tensor) : Bool := r.getLsbD 240

/-- The width in bits of a record's FMT; 16 for codebook codes (R354). -/
def fmtWidth (f : Nat) : Nat := if f = 0x10 then 16 else match etyOf f with
  | some t => etyWidth t
  | none => 8
/-- Element size in bytes of FMT (R237, R354). -/
def fmtBytes (f : Nat) : Nat := fmtWidth f / 8
/-- The step between elements of a row (R234). -/
def tStep (r : Tensor) : Nat := if tStride1 r = 0 then fmtBytes (tFmt r) else tStride1 r

/-- A class-3 record keeps the limits of R380: unnamed fields zero, FMT f32, f16 or bf16, XSZ 0 to 12. -/
def regionValid (r : Tensor) : Bool :=
  r.extractLsb' 108 52 = 0 && r.extractLsb' 172 12 = 0 && r.extractLsb' 200 56 = 0 && tCoh r = 0
    && (tFmt r = 9 || tFmt r = 10 || tFmt r = 11) && (r.extractLsb' 104 4).toNat ≤ 12

/-- The record's class, FMT and reserved bits are legal (R236). -/
def tensorValid (r : Tensor) : Bool :=
  if tClass r = 3 then regionValid r
  else 1 ≤ tClass r && tClass r ≤ 6 && r.extractLsb' 241 15 = 0 && (tFmt r ≤ 0x0E || tFmt r = 0x10)

/-- What a lookup gives: the record, or the translation fault of its address. -/
inductive Found where
  | found (r : Tensor) (bad : BitVec 4)
  | fault (va reason pte : Nat)

/-- A cluster after package reset (R297, R302, R320, R324): the multiplier format is BF16. -/
def Cluster.start : Cluster :=
  { ctx := none, recs := [], fmt := 0x0B, cmds := [], halted := false, steps := 0, mxerr := 0, acc := [[], [], [], []], wdir := [],
    wbuf := [], wbad := [], decoder := none, slabs := [], copies := [], nextCmd := 0, tables := [[], [], [], []], cpyerr := 0 }
def State.cluster (s : State) (c : Nat) : Cluster := fmGet Cluster.start s.clusters c
def State.setCluster (s : State) (c : Nat) (v : Cluster) : State := { s with clusters := fmPut s.clusters c v }
def State.modCluster (s : State) (c : Nat) (f : Cluster → Cluster) : State := s.setCluster c (f (s.cluster c))

/-- A record cache with an entry made the most recent, within its size (R236). -/
def recTouch (cache : List RecEnt) (size : Nat) (e : RecEnt) : List RecEnt :=
  let c := cache.filter (fun x => x.handle != e.handle) ++ [e]
  c.drop (c.length - size)

/-- The VA of record h (R234). -/
def recVa (cr : CtxRegs) (h : Nat) : Nat := cr.trtb.toNat + 32 * h

/-- The lookup of a record: the core's cache, the cluster's, then memory at the home slice (R236). The Acorn has the cluster's
cache alone. -/
def lookup (s : State) (unit : Nat) (cr : CtxRegs) (h : Nat) : State × Found :=
  let cl := unitCluster unit
  let core := unit < 1216
  let mine := if core then (s.core unit).recs else []
  let install := fun (s : State) (e : RecEnt) =>
    let s1 := s.modCluster cl (fun c => { c with recs := recTouch c.recs 256 e })
    if core then s1.modCore unit (fun c => { c with recs := recTouch c.recs 64 e }) else s1
  match mine.find? (fun e => e.handle = h) with
  | some e => (s.modCore unit (fun c => { c with recs := recTouch c.recs 64 e }), .found e.data 0)
  | none => match (s.cluster cl).recs.find? (fun e => e.handle = h) with
    | some e => (install s e, .found e.data 0)
    | none => match translate s unit cr (recVa cr h) permR with
      | (s1, .fault r p) => (s1, .fault (recVa cr h) r p)
      | (s1, .ok pa) =>
        let rd := fun (a : State × Nat × BitVec 4) (k : Nat) =>
          let (s2, v, b) := walkRead a.1 (pa + 8 * k)
          (s2, a.2.1 + v * 2 ^ (64 * k), if b then a.2.2 ||| (1#4 <<< k) else a.2.2)
        let (s2, v, bad) := (List.range 4).foldl rd (s1, 0, 0)
        let data := BitVec.ofNat 256 v
        (if bad = 0 then install s2 { handle := h, data := data } else s2, .found data bad)

/-- The line that holds up the lookup of a record which no cache holds: one of its walk, or its own (R236, R368). -/
def lookupWait (s : State) (who : Waiter) (unit : Nat) (cr : CtxRegs) (h : Nat) : Option Nat :=
  if (unit < 1216 && (s.core unit).recs.any (fun e => e.handle = h)) || (s.cluster (unitCluster unit)).recs.any (fun e => e.handle = h) then none
  else readWait s who unit cr (recVa cr h) permR
/-- The lookup goes ahead: its places are given up. -/
def lookupGoes (s : State) (who : Waiter) (unit : Nat) (cr : CtxRegs) (h : Nat) : State := readGoes s who unit cr (recVa cr h) permR

/-- Removes a handle of a context from every record cache of the package: each cluster holds one context (R194, R236). -/
def dropRecord (s : State) (ctx h : Nat) : State :=
  { s with
    clusters := s.clusters.map (fun e => if e.2.ctx = some ctx then (e.1, { e.2 with recs := e.2.recs.filter (fun x => x.handle != h) }) else e)
    cores := s.cores.map (fun e => if (s.cluster (e.1 / 8)).ctx = some ctx
      then (e.1, { e.2 with recs := e.2.recs.filter (fun x => x.handle != h) }) else e) }

/-- Removes the operand-cache slabs tagged with a handle of a context (R239, R282). -/
def dropSlabs (s : State) (ctx h : Nat) : State :=
  { s with clusters := s.clusters.map (fun e =>
      if e.2.ctx = some ctx then (e.1, { e.2 with slabs := e.2.slabs.filter (fun x => x.handle != h) }) else e) }

/-- One bounded quantity under a bounds mode (R238): the value in range, nothing for the lane, or out of bounds. -/
inductive Bound where
  | ok (q : Nat)
  | zero
  | out
  deriving DecidableEq, Repr

/-- R238 for a quantity against [0, lim], where lim is negative for an empty range; span is m or EXTENT, n the access size. -/
def boundBy (q lim : Int) (span n bmode : Nat) : Bound :=
  if 0 ≤ q && q ≤ lim then .ok q.toNat
  else if bmode = 2 then .zero
  else if lim < 0 then .out
  else if bmode = 1 then
    let v := if q < 0 then 0 else lim.toNat
    .ok (v / n * n)
  else if bmode = 3 then
    let v := (q % (span : Int)).toNat
    if (v : Int) ≤ lim then .ok v else .out
  else .out

/-- A lane's address through a record: the sum of R237 under the bounds of R238. Class 5 gives a crew address. -/
def laneAddr (r : Tensor) (o : Nat) (disp : Int) (n : Nat) : Bound :=
  let ext : Int := tExtent r
  if tClass r = 2 then
    let i : Nat := o / 2 ^ 32
    let j : Nat := o % 2 ^ 32
    match boundBy i ((tDim1 r : Int) - 1) (tDim1 r) 1 (tBmode r) with
    | .zero => .zero
    | .out => .out
    | .ok i => match boundBy j ((tDim0 r : Int) - 1) (tDim0 r) 1 (tBmode r) with
      | .zero => .zero
      | .out => .out
      | .ok j =>
        let x : Int := (i * tStride0 r + j * tStep r : Nat) + disp
        if 0 ≤ x && x ≤ ext - n then .ok (tBase r + x.toNat) else .out
  else
    match boundBy ((o : Int) + disp) (ext - n) (tExtent r) n (tBmode r) with
    | .ok x => .ok ((if tClass r = 5 then tBase r % 2 ^ 20 else tBase r) + x)
    | .zero => .zero
    | .out => .out

/-- A class-2 record whose element step has no whole size (R237). -/
def tensorUnsized (r : Tensor) : Bool := tClass r = 2 && tStride1 r = 0 && (tFmt r = 0xE || tFmt r = 0x10)

/-- The target crew of a class-5 or class-6 record: of the issuing launch, on a core of the unit's cluster, with the vcrew
(R235). `launch` is the issuing launch, if there is one. -/
def targetCrew (s : State) (unit : Nat) (launch : Option (Nat × Nat)) (r : Tensor) : Option Nat :=
  let b := tBase r
  let core := b / 2 ^ 20 % 2 ^ 11
  let v := b / 2 ^ 31
  match launch with
  | none => none
  | some (ring, lid) =>
    if 1216 ≤ core || core / 8 != unitCluster unit then none
    else match s.crews.find? (fun e => e.2.unit = core && e.2.ring = ring && e.2.lid = lid && e.2.vcrew = v) with
      | some e => some e.1
      | none => none

/-- The issuing launch of a crew's accesses: its own, or the one that an Acorn launch names through AFTER (R235). -/
def issuingLaunch (c : Crew) : Option (Nat × Nat) := if 1216 ≤ c.unit then c.after else some (c.ring, c.lid)

/-! ## Seals (R342) -/

/-- A range that the seal table makes read-only for an ASID. -/
def sealHit (s : State) (asid va n : Nat) : Bool :=
  s.seals.any (fun e => e.asid = asid && va < e.base + e.len && e.base < va + n)
/-- A range whose fills become Sealed: the entry is not closing. -/
def sealFills (s : State) (asid va n : Nat) : Bool :=
  s.seals.any (fun e => !e.closing && e.asid = asid && va < e.base + e.len && e.base < va + n)

end Sys2Proof.Machine
end

