-- ==== Sys2Proof/Machine/L1.lean ====
section
/-! DEFINITION. The L1 of a core and the requests that it sends on its ordered path (09_core_memory.md R226, R228;
10_core_ordering.md R256-R259, R266). -/

namespace Sys2Proof.Machine

/-! ## Ways -/

/-- Lines that crews pin in a set of a core (R228). -/
def pinnedIn (s : State) (core st : Nat) : Nat :=
  s.crews.foldl (fun a e =>
    if e.2.unit = core then
      let n := (e.2.pins + 127) / 128
      let d := (st + 512 - e.2.place % 512) % 512
      a + (if d < n then (n - d + 511) / 512 else 0)
    else a) 0

/-- A request put at the end of the path of its unit (R102). -/
def sendReq (s : State) (unit key op ln : Nat) (kind : ReqKind) : State :=
  { s with net := s.net ++ [{ id := s.nextOp, unit := unit, key := key, op := op, line := ln, kind := kind, place := none }],
           nextOp := s.nextOp + 1 }

/-- A line leaves L1: its Owned words are written back and deregistered on the ordered path (R226, R259, R374). -/
def l1Evict (s : State) (core ln : Nat) : State :=
  match fmFind (s.core core).l1 ln with
  | none => s
  | some l =>
    let s1 := s.modCore core (fun c => { c with l1 := fmErase c.l1 ln })
    if l.owned != 0 || l.obj then sendReq s1 core 0 0 ln (.writeBack l.owned l.known l.data l.bad) else s1

/-- The line that a set replaces: the least recently used, lines filled under .kp last (R226). -/
def l1Victim (ls : FMap L1Line) : Option Nat :=
  let pick := fun (l : FMap L1Line) => l.foldl (fun (b : Option (Nat × L1Line)) e => match b with
    | none => some e
    | some v => if e.2.stamp < v.2.stamp then some e else some v) none
  match pick (ls.filter (fun e => !e.2.keep)) with
  | some v => some v.1
  | none => match pick ls with
    | some v => some v.1
    | none => none

/-- Brings the lines of a set down to a number of ways. -/
def l1Shrink (core st ways : Nat) : Nat → State → State
  | 0, s => s
  | fuel + 1, s =>
    let ls := (s.core core).l1.filter (fun e => e.1 % 512 = st)
    if ls.length ≤ ways then s
    else match l1Victim ls with
      | none => s
      | some v => l1Shrink core st ways fuel (l1Evict s core v)

/-- Allocates a way for a line, without fetching it, and makes it the most recent (R226, R257). -/
def l1Alloc (s : State) (core ln : Nat) : State :=
  match fmFind (s.core core).l1 ln with
  | some l => s.modCore core (fun c => { c with l1 := fmPut c.l1 ln { l with stamp := c.l1Clock }, l1Clock := c.l1Clock + 1 })
  | none =>
    let s1 := l1Shrink core (ln % 512) (11 - pinnedIn s core (ln % 512)) 13 s
    s1.modCore core (fun c => { c with l1 := fmPut c.l1 ln { L1Line.empty with stamp := c.l1Clock }, l1Clock := c.l1Clock + 1 })

/-- Words that hold a value. -/
def l1Valid (l : L1Line) : BitVec 32 := l.copy ||| l.owned ||| l.sealed
/-- Words that a load may take from L1: not Copy words that an operation of the core at their home has overtaken (R99, log 65). -/
def l1Ready (l : L1Line) : BitVec 32 := l1Valid l &&& ~~~l.stale

/-- A line after words became Invalid: marks only of words that are left; a line without words is gone. -/
def l1Put (s : State) (core ln : Nat) (l : L1Line) : State :=
  if l1Valid l = 0 && !l.obj then s.modCore core (fun c => { c with l1 := fmErase c.l1 ln })
  else s.setL1 core ln { l with bad := l.bad &&& touchedWords (l1Valid l), stale := l.stale &&& l.copy }

/-- An operation of a core at the home of some bytes has been applied: the Copy words of them in its L1 keep their state, and its loads
look for their values at home from then on (R99, R256, log 65). -/
def l1Overtake (s : State) (core ln : Nat) (m : BitVec 32) : State :=
  match fmFind (s.core core).l1 ln with
  | none => s
  | some l => s.setL1 core ln { l with stale := l.stale ||| (l.copy &&& m) }

/-! ## Loads -/

/-- All bytes of an access are in L1 (R226, R257). -/
def l1Has (l : L1Line) (off n : Nat) : Bool :=
  wordMask off n &&& ~~~l1Ready l = 0 && byteMask off n &&& ~~~l.known = 0
/-- The bytes of an access in a line's data. -/
def lineTake (d : Line) (off n : Nat) : Nat := (d.toNat >>> (8 * off)) % 2 ^ (8 * n)

/-- An element that is not in L1. -/
def elemMiss (pa n idx : Nat) : Elem := { idx := idx, addr := pa, n := n, val := 0, known := 0, bad := false }
def elemDone (e : Elem) : Bool := e.known = 2 ^ e.n - 1

/-- Looks an access up in L1: the element whole on a hit (R226, R241, R260). Words that an earlier operation of the warp is on its way for
are not there for it (R99). -/
def l1Lookup (s : State) (core : Nat) (pa n idx : Nat) (gone : BitVec 32) : Elem :=
  let l := s.l1 core (pa / 128)
  let off := pa % 128
  if l1Has l off n && wordMask off n &&& gone = 0 then
    { idx := idx, addr := pa, n := n, val := lineTake l.data off n, known := 2 ^ n - 1,
      bad := l.bad &&& touchedWords (wordMask off n) != 0 }
  else elemMiss pa n idx

/-- An element after its line was read at home (R259, R260). -/
def elemFill (e : Elem) (ln : Nat) (d : Line) (bad : BitVec 16) : Elem :=
  if e.addr / 128 != ln || elemDone e then e
  else
    let off := e.addr % 128
    { e with val := lineTake d off e.n, known := 2 ^ e.n - 1, bad := bad &&& touchedWords (wordMask off e.n) != 0 }

/-- A fill: words that are neither Owned nor Sealed take the home's value and become Copy, or Sealed (R256). -/
def l1Fill (s : State) (core ln : Nat) (d : Line) (bad : BitVec 16) (keep seals : Bool) : State :=
  let s1 := l1Alloc s core ln
  let l := s1.l1 core ln
  let m := ~~~(l.owned ||| l.sealed)
  let fresh := m &&& ~~~l.copy
  let b := touchedWords m
  l1Put s1 core ln { l with
    data := mergeLine l.data d (wordBits m)
    copy := if seals then l.copy else l.copy ||| m
    sealed := if seals then l.sealed ||| fresh else l.sealed
    stale := 0
    known := l.known ||| bytesOfWords m
    bad := (l.bad &&& ~~~b) ||| (bad &&& b)
    keep := l.keep || keep }

/-! ## Stores -/

/-- The bytes that a store's lanes write in a line, in ascending lane order: offset and value of each lane's n bytes (R229, R257). -/
def laneBytes (n : Nat) (vs : List (Nat × Nat)) : BitVec 128 × Line :=
  vs.foldl (fun (a : BitVec 128 × Line) v =>
    (a.1 ||| byteMask v.1 n, mergeLine a.2 (BitVec.ofNat 1024 ((v.2 % 2 ^ (8 * n)) <<< (8 * v.1))) (byteSpan v.1 n))) (0, 0)

/-- 8-byte words all of whose bytes a mask holds. -/
def wholeBytes (m : BitVec 128) : BitVec 16 :=
  (List.range 16).foldl (fun (a : BitVec 16) i => if m.extractLsb' (8 * i) 8 = 0xFF#8 then a ||| (1#16 <<< i) else a) 0
/-- Words of which a byte mask holds some bytes, but not all four. -/
def partWords (m : BitVec 128) : BitVec 32 :=
  (List.range 32).foldl (fun (a : BitVec 32) i =>
    let b := m.extractLsb' (4 * i) 4
    if b != 0 && b != 0xF#4 then a ||| (1#32 <<< i) else a) 0

/-- A store into a line of L1 (R257): the line with its bytes, and what it registers. `pairs` for elements of 8 bytes, whose two words go
together. -/
def l1StoreLine (l : L1Line) (pairs : Bool) (bytes : BitVec 128) (d : Line) : L1Line × StoreReg :=
  let wm := wordsOfBytes bytes
  let new := wm &&& ~~~l.owned
  let mask := if pairs then (List.range 16).foldl (fun (a : BitVec 32) i =>
      let p := wm &&& (3#32 <<< (2 * i))
      if p &&& new != 0 then a ||| p else a) 0 else new
  ({ l with
     data := mergeLine l.data d (byteBits bytes)
     owned := l.owned ||| wm, copy := l.copy &&& ~~~wm, sealed := l.sealed &&& ~~~wm, stale := l.stale &&& ~~~wm
     known := (l.known &&& ~~~bytesOfWords new) ||| bytes, bad := l.bad &&& ~~~wholeBytes bytes },
   { mask := mask, part := new &&& partWords bytes, was := mask &&& l.owned, old := l.data, known := l.known, bad := l.bad })

/-- A store of a warp into a line of L1 with its registration (R257, R373). `objs` are the granules and lines that a record of COH 1
registers, with its generation. -/
def l1Store (s : State) (core key op ln n : Nat) (vs : List (Nat × Nat)) (objs : Option (List (Nat × BitVec 128) × Nat)) : State :=
  let s1 := l1Alloc s core ln
  let (bytes, d) := laneBytes n vs
  let (l, g) := l1StoreLine (s1.l1 core ln) (n == 8) bytes d
  let s2 := s1.setL1 core ln l
  if g.mask = 0 then s2
  else if l.obj then (if g.part = 0 then s2 else sendReq s2 core key op ln (.register { g with mask := 0, was := 0 }))
  else match objs with
    | none => sendReq s2 core key op ln (.register g)
    | some (gs, gen) =>
      let s3 := gs.foldl (fun s q => if q.1 = ln / 128 then sendReq s core key op ln (.registerObj q.2 gen g)
        else sendReq s core key op (q.1 * 128) (.registerObj q.2 gen { g with mask := 0, part := 0, was := 0 })) s2
      s3.modCore core (fun c => { c with l1 := c.l1.map (fun e =>
        if gs.any (fun q => q.1 = e.1 / 128 && q.2.getLsbD (e.1 % 128)) then (e.1, { e.2 with obj := true }) else e) })

/-- Words of a line whose stores later requests of the core than one register, or merge (R257). -/
def laterRegs (s : State) (core ln id : Nat) : BitVec 32 :=
  (flying s core ln).foldl (fun m r => if r.id ≤ id then m else match reqStore r.kind with
    | some g => m ||| g.mask ||| g.part
    | none => m) 0

/-- The other words of the 8-byte words of a mask. -/
def pairWords (m : BitVec 32) : BitVec 32 := (List.range 16).foldl (fun (a : BitVec 32) i =>
  if m.getLsbD (2 * i) || m.getLsbD (2 * i + 1) then a ||| (3#32 <<< (2 * i)) else a) 0 &&& ~~~m

/-- The merge of R257 step 3: the bytes that the core did not write come from the slice. A word that left L1 and was stored again since has
its own registration, which merges it. A Copy word beside a merged one in its 8-byte word may be older than what came, so that loads look
for it at home (R260, log 65). -/
def l1Merge (s : State) (core ln id : Nat) (part : BitVec 32) (d : Line) (bad : BitVec 16) : State :=
  match fmFind (s.core core).l1 ln with
  | none => s
  | some l =>
    let mine := part &&& l.owned &&& ~~~laterRegs s core ln id
    let m := bytesOfWords mine &&& ~~~l.known
    s.setL1 core ln { l with data := mergeLine l.data d (byteBits m), known := l.known ||| m,
                             bad := l.bad ||| (bad &&& touchedWords mine), stale := l.stale ||| (l.copy &&& pairWords mine) }

/-- Self-invalidation (R266): Copy words become Invalid, and fills on their way are not installed. -/
def l1Acquire (s : State) (core : Nat) : State :=
  let s1 := (s.core core).l1.foldl (fun s e => l1Put s core e.1 { e.2 with copy := 0 }) s
  { s1 with net := s1.net.map (fun r => if r.unit = core then (match r.kind with
      | .read _ k se c => { r with kind := .read false k se c }
      | _ => r) else r) }

/-- Copy words of a line become Invalid (R318). -/
def l1Invalidate (s : State) (core ln : Nat) (m : BitVec 32) : State :=
  match fmFind (s.core core).l1 ln with
  | none => s
  | some l => l1Put s core ln { l with copy := l.copy &&& ~~~m }

/-- Copy words of a byte range become Invalid in a core's L1 (R318). -/
def l1InvalidateRange (s : State) (core pa n : Nat) : State :=
  (List.range ((pa + n + 127) / 128 - pa / 128)).foldl (fun s k =>
    let ln := pa / 128 + k
    let lo := max pa (128 * ln) - 128 * ln
    let hi := min (pa + n) (128 * ln + 128) - 128 * ln
    l1Invalidate s core ln (wordMask lo (hi - lo))) s

end Sys2Proof.Machine
end

