-- ==== Sys2Proof/Machine/Banks.lean ====
section
/-! DEFINITION. Scratchpad banks: bytes and marks (09_core_memory.md R225, R227-R229), atomics (R246-R248), arrival words
(R249-R251), queues (R252-R255, R494). -/

namespace Sys2Proof.Machine

/-! ## Bytes -/

/-- An 8-byte word of a crew's scratchpad is uncorrectable (R225). -/
def spBadAt (c : Crew) (a n : Nat) : Bool :=
  (List.range ((a + n + 7) / 8 - a / 8)).any (fun k => fmGet false c.spBad (a / 8 + k))
def spWrite (c : Crew) (a v n : Nat) : Crew := { c with sp := memWrite c.sp a v n, spBad := spClear c a n }
def spRead (c : Crew) (a n : Nat) : Nat := memRead c.sp a n
/-- Writes whole 8-byte words with their marks: what an engine writes of uncorrectable words (R313). -/
def spMark (c : Crew) (a : Nat) (bad : Bool) : Crew := { c with spBad := fmSet false c.spBad (a / 8) bad }

/-- The base of a crew's trap area: the first line boundary at or after its allocation (R181). -/
def trapBase (c : Crew) : Nat := (c.spBytes + 127) / 128 * 128
/-- The frame of a quad (R181). -/
def frameBase (c : Crew) (quad : Nat) : Nat := trapBase c + quad * 0x620

/-- Check 4 of R242: an access at or above the top, or in the trap area but for the own quad's frame of a warp in trap mode. -/
def spOut (c : Crew) (own tm : Bool) (quad a n : Nat) : Bool :=
  let tb := trapBase c
  if c.top < a + n then true
  else if a < tb + Config.trapArea && tb < a + n then
    !(own && tm && frameBase c quad ≤ a && a + n ≤ frameBase c quad + 1568)
  else false

/-! ## Operations at a word (R246-R248) -/

/-- The new value of an atomic operation (R246); no FPSTAT flag. -/
def atomValue (op : Nat) (t : Ety) (m b : Nat) : Nat := if op = 6 then b else (redStep op t ⟨m, 0⟩ ⟨b, 0⟩).bits

/-- One operation on a value m as found: what memory holds then, and the predicate (R247). -/
def atomApply (k : AtomKind) (t : Ety) (m b expect : Nat) : Nat × Bool :=
  match k with
  | .op o => (atomValue o t m b, false)
  | .cas => if m = expect then (b, true) else (m, false)

/-- One lane of an atomic at its word: an uncorrectable word stays as it is, and so does the one that a CAS does not match (R225, R247). -/
def atomWrite (k : AtomKind) (t : Ety) (c : Crew) (size : Nat) (e : MemEl) : Crew :=
  let r := atomApply k t (spRead c e.pa size) e.data e.expect
  if spBadAt c e.pa size || (match k with
    | .cas => !r.2
    | .op _ => false) then c else spWrite c e.pa r.1 size
/-- One combined operation at its element (R248). -/
def redWrite (op : Nat) (t : Ety) (size : Nat) (c : Crew) (e : AtomEl) : Crew :=
  if spBadAt c e.addr size then c else spWrite c e.addr (atomValue op t (spRead c e.addr size) e.b) size

/-- Combines the operands of lanes on one element, in ascending lane order (R77, R248). -/
def redCombine (op : Nat) (t : Ety) (els : List AtomEl) : List AtomEl :=
  els.foldl (fun acc e =>
    if acc.any (fun x => x.addr = e.addr)
    then acc.map (fun x => if x.addr = e.addr then { x with b := atomValue op t x.b e.b } else x)
    else acc ++ [e]) []

/-- What a load or an atomic returns in a lane: n bytes at the type, extended for an i type, poisoned where memory reported an
error (R225, R241). -/
def loadLane (signed : Bool) (n v : Nat) (bad : Bool) : Lane :=
  let x := if signed && v.testBit (8 * n - 1) then BitVec.ofInt 64 ((v : Int) - 2 ^ (8 * n)) else BitVec.ofNat 64 v
  ⟨x, if !bad then 0 else if signed || n = 8 then 3 else 1⟩

/-- A register from values of lanes; under pair each value goes to both lanes of its pair (R95). -/
def rowOfVals (pair : Bool) (vs : List (Nat × Lane)) : Row :=
  mkRow (fun l => fmGet Lane.zero vs (if pair then l / 2 * 2 else l))
def maskOfVals (pair : Bool) (vs : List (Nat × Bool)) : Mask :=
  maskOf (fun l => fmGet false vs (if pair then l / 2 * 2 else l))

/-- One lane's result of an access. -/
structure LaneOut where
  lane : Lane
  pval : Bool
  ppoi : Bool

/-- A memory operation on a crew's scratchpad, lane by lane in ascending order (R229, R247, R248): the crew after it and what
each lane receives. An uncorrectable word stays as it is (R225). -/
def bankOp (c : Crew) (m : MemOp) : Crew × List (Nat × LaneOut) :=
  let t : Ety := match etyOf m.ety with
    | some t => t
    | none => .n64
  let sg := m.ety < 4
  match m.kind with
  | .store =>
    let c1 := m.els.foldl (fun c e => spWrite c e.pa e.data m.size) c
    -- lanes that write one word between them write it in one access (R225, R229)
    (((m.els.map (fun e => e.pa / 8)).eraseDups).foldl (fun c w =>
      if (List.range 8).all (fun j => m.els.any (fun e => e.pa ≤ 8 * w + j && 8 * w + j < e.pa + m.size)) then spMark c (8 * w) false else c) c1, [])
  | .red op =>
    let els := redCombine op t (m.els.map (fun e => { idx := e.idx, addr := e.pa, b := e.data, expect := 0 }))
    (els.foldl (redWrite op t m.size) c, [])
  | .atom k => m.els.foldl (fun (a : Crew × List (Nat × LaneOut)) e =>
      let old := spRead a.1 e.pa m.size
      let bad := spBadAt a.1 e.pa m.size
      (atomWrite k t a.1 m.size e, a.2 ++ [(e.idx, ⟨loadLane sg m.size old bad, (atomApply k t old e.data e.expect).2 && !bad, bad⟩)])) (c, [])
  | _ => (c, m.els.map (fun e => (e.idx, ⟨loadLane sg m.size (spRead c e.pa m.size) (spBadAt c e.pa m.size), false, false⟩)))

/-- The states of a list of writes, one after each of them. -/
def afterEach (f : Crew → α → Crew) : Crew → List α → List Crew
  | _, [] => []
  | c, x :: xs => f c x :: afterEach f (f c x) xs
/-- The crew after each write of an access whose lanes are applied one by one; a store's writes of one word are one access (R229, R247, R248). -/
def bankSteps (c : Crew) (m : MemOp) : List Crew :=
  let t := (etyOf m.ety).getD .n64
  match m.kind with
  | .atom k => afterEach (fun c e => atomWrite k t c m.size e) c m.els
  | .red op => afterEach (redWrite op t m.size) c
      (redCombine op t (m.els.map (fun e => { idx := e.idx, addr := e.pa, b := e.data, expect := 0 })))
  | _ => []

/-! ## Arrival words (R249-R251) -/

def awGen (w : Nat) : Nat := w / 2 ^ 48 % 2 ^ 16
def awTarget (w : Nat) : Nat := w / 2 ^ 24 % 2 ^ 24
def awCount (w : Nat) : Nat := w % 2 ^ 24
def awWord (gen target count : Nat) : Nat := gen % 2 ^ 16 * 2 ^ 48 + target % 2 ^ 24 * 2 ^ 24 + count % 2 ^ 24

/-- arrive(c): a TARGET of 0 counts as 1 and stays 0 (R250). -/
def awArrive (w c : Nat) : Nat :=
  let t := max (awTarget w) 1
  let n := awCount w + c
  awWord (awGen w + n / t) (awTarget w) (n % t)
/-- ARRDROP: the target falls to at least 1, then arrive(0) (R250). -/
def awDrop (w c : Nat) : Nat := awArrive (awWord (awGen w) (max (max (awTarget w) 1 - c) 1) (awCount w)) 0

/-- The operation of an arrival instruction on the word as found. -/
def awApply (k : ArrKind) (w : Nat) : Nat :=
  match k with
  | .init t => awWord 0 t 0
  | .arrive c => awArrive w c
  | .drop c => awDrop w c
  | .await _ => w
  | .test => w

/-- Lanes of waiting AWAITs whose word now differs from their generation, or is uncorrectable, are released: what each such
instruction still waits for and what its lanes receive (R249, R250, R494). -/
def releaseAwaits (s : State) (crew : Nat) (bads : List Nat) : State :=
  match s.crew crew with
  | none => s
  | some c =>
    let flips := s.warps.any (fun kw => kw.2.pend.any (fun p => match p.late with
      | .await cr g els => cr = crew && els.any (fun e => awGen (spRead c e.pa 8) != g || bads.contains e.pa)
      | _ => false))
    let s := if flips then wakeCore s c.unit 0 else s
    { s with warps := s.warps.map (fun kw => (kw.1, { kw.2 with pend := kw.2.pend.map (fun p => match p.late with
        | .await cr g els =>
          if cr != crew then p
          else
            let free := els.filter (fun e => awGen (spRead c e.pa 8) != g || bads.contains e.pa)
            if free.isEmpty then p
            else
              let m := maskOf (fun l => free.any (fun e => e.idx = l || (e.expect = 1 && l / 2 * 2 = e.idx)))
              let val := fun l => (free.find? (fun e => e.idx = l || (e.expect = 1 && l / 2 * 2 = e.idx))).elim Lane.zero
                (fun e => if bads.contains e.pa then ⟨0, 3⟩ else ⟨BitVec.ofNat 64 (spRead c e.pa 8), 0⟩)
              { p with
                late := .await cr g (els.filter (fun e => !free.contains e))
                regs := p.regs.map (fun r => { r with row := rowSet r.row m val }) }
        | _ => p) })) }

/-- The writes of an access come to the crew one by one, and each releases the waiters of the words that it changes (R249). -/
def writeEach (s : State) (crew : Nat) (cs : List Crew) : State := cs.foldl (fun s c => releaseAwaits (s.setCrew crew c) crew []) s

/-- A late trap of an instruction, with its execution mask in INFO. -/
def trapLate (s : State) (key : Nat) (p : Pend) (cause : Nat) : State :=
  raiseLate s key { cause := cause, stage := .late, late := true, info := maskInfo p.exec, pc := p.pc, act := p.act, exec := p.exec,
                    word := p.word, slots := none, cycle := s.cycle } p.tm
/-- Instructions with no result to carry the poison of an uncorrectable word: POISON as a late trap (R494). -/
def poisonLate (s : State) (key : Nat) (p : Pend) : State := trapLate s key p cPOISON

/-- The AWAITs that wait on uncorrectable words and have no result register. -/
def mutedAwaits (s : State) (crew : Nat) (bads : List Nat) : List (Nat × Pend) :=
  s.warps.flatMap (fun kw => kw.2.pend.filterMap (fun p => match p.late with
    | .await cr _ els => if cr = crew && p.regs.isEmpty && els.any (fun e => bads.contains e.pa) then some (kw.1, p) else none
    | _ => none))

/-- Releases the waiters of words that an operation found uncorrectable (R494). -/
def releaseBad (s : State) (crew : Nat) (bads : List Nat) : State :=
  (mutedAwaits s crew bads).foldl (fun s e => poisonLate s e.1 e.2) (releaseAwaits s crew bads)

/-- A count of bytes into an arrival word, as an engine makes it (R250, R317, R494): a word that is uncorrectable counts nothing
and releases its waiters. True when the word was uncorrectable. -/
def countInto (s : State) (crew a n : Nat) : State × Bool :=
  match s.crew crew with
  | none => (s, false)
  | some c =>
    if spBadAt c a 8 then (releaseBad s crew [a], true)
    else (releaseAwaits (s.setCrew crew (spWrite c a (awArrive (spRead c a 8) n) 8)) crew [], false)

/-! ## Queues (R252-R255) -/

def qTail (w : Nat) : Nat := w / 2 ^ 48 % 2 ^ 16
def qHead (w : Nat) : Nat := w / 2 ^ 32 % 2 ^ 16
def qWord (w head tail : Nat) : Nat := tail % 2 ^ 16 * 2 ^ 48 + head % 2 ^ 16 * 2 ^ 32 + w % 2 ^ 32
def qAllow (w : Nat) : Nat := w % 2 ^ 16
def qCount (w : Nat) : Nat := (qTail w + 2 ^ 16 - qHead w) % 2 ^ 16
/-- Free room: the depth less the elements and the reserved ones (R253). -/
def qRoom (q : QueueEnt) (w0 w1 : Nat) : Nat := 2 ^ q.d - qCount w0 - qAllow w1
/-- The address of element i. -/
def qElem (q : QueueEnt) (i : Nat) : Nat := q.base + q.size * (i % 2 ^ q.d)

/-- Writes elements from tail on, each a list of 64-bit words, and advances tail. -/
def qPush (c : Crew) (q : QueueEnt) (els : List (List Word)) : Crew :=
  let w0 := spRead c q.qcw 8
  let t := qTail w0
  let c1 := els.zipIdx.foldl (fun c e => e.1.zipIdx.foldl (fun c x => spWrite c (qElem q (t + e.2) + 8 * x.2) x.1.toNat 8) c) c
  spWrite c1 q.qcw (qWord w0 (qHead w0) (t + els.length)) 8

/-- Reserves n elements in ALLOW (R253, R278). -/
def qReserve (c : Crew) (q : QueueEnt) (n : Nat) : Crew :=
  let w1 := spRead c (q.qcw + 8) 8
  spWrite c (q.qcw + 8) (w1 / 2 ^ 16 * 2 ^ 16 + (qAllow w1 + n) % 2 ^ 16) 8
/-- Lowers ALLOW by n. -/
def qRelease (c : Crew) (q : QueueEnt) (n : Nat) : Crew :=
  let w1 := spRead c (q.qcw + 8) 8
  spWrite c (q.qcw + 8) (w1 / 2 ^ 16 * 2 ^ 16 + (qAllow w1 - n)) 8

/-- Takes k elements from head on: the crew and the elements with the errors of their words. -/
def qPop (c : Crew) (q : QueueEnt) (k : Nat) : Crew × List (List Lane) :=
  let w0 := spRead c q.qcw 8
  let h := qHead w0
  let els := (List.range k).map (fun i => (List.range (q.size / 8)).map (fun j =>
    let a := qElem q (h + i) + 8 * j
    (⟨BitVec.ofNat 64 (spRead c a 8), bothPoison (spBadAt c a 8)⟩ : Lane)))
  (spWrite c q.qcw (qWord w0 (h + k) (qTail w0)) 8, els)

/-- The QCW of an entry has an uncorrectable word (R494). -/
def qcwBad (c : Crew) (q : QueueEnt) : Bool := spBadAt c q.qcw 16

/-- Word 1 with the waiter fields of the operations that wait on a queue of a crew (R253, R255). -/
def qWaiters (s : State) (crew qn : Nat) : Nat :=
  s.warps.foldl (fun a kw => kw.2.pend.foldl (fun a p => match p.late with
    | .queueWait cr q k _ =>
      if cr = crew && q = qn then a ||| (if keyAcorn kw.1 then 0 else 2 ^ (16 + kw.2.widx)) ||| (match k with
        | .push => 2 ^ 48
        | .pop => 2 ^ 49) else a
    | _ => a) a) 0
/-- Writes the waiter fields of a queue's word 1; an uncorrectable QCW stays as it is (R494). A write of a word that an AWAIT waits on
releases it (R249). -/
def qMarkWaiters (s : State) (crew qn : Nat) : State :=
  match s.crew crew with
  | none => s
  | some c => match c.queues.getD qn none with
    | none => s
    | some q =>
      if qcwBad c q then s
      else releaseAwaits (s.setCrew crew (spWrite c (q.qcw + 8) (qAllow (spRead c (q.qcw + 8) 8) + qWaiters s crew qn) 8)) crew []

/-- The addresses of the elements that an operation on n elements moves, as the QCW stands: from tail on, or from head on (R255). -/
def qSpan (c : Crew) (q : QueueEnt) (k : QueueKind) (n : Nat) : List Nat :=
  let w0 := spRead c q.qcw 8
  (List.range n).map (fun i => qElem q ((match k with
    | .push => qTail w0
    | .pop => qHead w0) + i))
/-- An operation that is served would move elements that lie above the top or in the trap area (R181, R232): the late trap SPBOUND and no effect.
An SPFREE that was issued after the operation waits for it instead (log 32). -/
def qSpanOut (s : State) (key : Nat) (p : Pend) (crew : Nat) (c : Crew) (q : QueueEnt) (k : QueueKind) (n : Nat) : Bool :=
  (qSpan c q k n).any (fun a => spOut c (!keyAcorn key) p.tm (keySlot key / 8) a q.size) &&
  !s.warps.any (fun e => e.2.crew = crew && e.2.pend.any (fun f => p.op < f.op && (match f.late with
    | .spfree => true
    | _ => false)))
/-- An operation that is not applied: it completes with nothing written. -/
def dropResult (p : Pend) : Pend := { p with late := .done, regs := [], preds := [] }

/-- Lanes of an execution mask paired with elements in ascending order; in a protected warp the primary lanes (R95). -/
def qLanes (exec : Mask) (prot : Bool) : List Nat := (lanesOf exec).filter (fun l => !prot || l % 2 = 0)

/-- The registers of a POP with the elements of its lanes. -/
def qDeliver (regs : List RegWr) (lanes : List Nat) (prot : Bool) (els : List (List Lane)) : List RegWr :=
  regs.zipIdx.map (fun r =>
    let vs := (lanes.zip els).map (fun e => (e.1, e.2.getD r.2 Lane.zero))
    { r.1 with row := rowOfVals prot vs })

/-- The waiting operations of a kind on a queue, in ascending warp index, the Acorn's last (R255, R278). -/
def qWaiting (s : State) (crew qn : Nat) (k : QueueKind) : List (Nat × Nat × Pend) :=
  let all := s.warps.flatMap (fun kw => kw.2.pend.filterMap (fun p => match p.late with
    | .queueWait cr q k' _ => if cr = crew && q = qn && k' = k then some (if keyAcorn kw.1 then 32 else kw.2.widx, kw.1, p) else none
    | _ => none))
  (List.range 33).flatMap (fun i => all.filter (fun e => e.1 = i))

/-- Serves the waiting operations of one kind from the lowest warp on, up to the first that cannot be served whole. -/
def qServeKind (crew qn : Nat) (k : QueueKind) : List (Nat × Nat × Pend) → State → State
  | [], s => s
  | e :: rest, s =>
    match s.crew crew, s.warp e.2.1 with
    | some c, some w =>
      match c.queues.getD qn none with
      | none => s
      | some q =>
        if qcwBad c q then s else
        let p := e.2.2
        let prot := w.prot && !w.tm
        let lanes := qLanes p.exec prot
        let n := lanes.length
        let w0 := spRead c q.qcw 8
        let w1 := spRead c (q.qcw + 8) 8
        match k with
        | .pop =>
          if qCount w0 < n then s
          else if qSpanOut s e.2.1 p crew c q k n then
            qServeKind crew qn k rest (trapLate (s.setWarp e.2.1 (setPend w (dropResult p))) e.2.1 p cSPBOUND)
          else
            let (c1, els) := qPop c q n
            let s1 := (s.setCrew crew c1).setWarp e.2.1 (setPend w { p with late := .done, regs := qDeliver p.regs lanes prot els })
            qServeKind crew qn k rest s1
        | .push =>
          let data := match p.late with
            | .queueWait _ _ _ d => d
            | _ => []
          if qRoom q w0 w1 < n then s
          else if qSpanOut s e.2.1 p crew c q k n then
            qServeKind crew qn k rest (trapLate (s.setWarp e.2.1 (setPend w (dropResult p))) e.2.1 p cSPBOUND)
          else
            let acorn := keyAcorn e.2.1
            let c1 := if acorn then qReserve c q n else qPush c q (data.map (fun x => x.map (fun y => y.val)))
            let s1 := (s.setCrew crew c1).setWarp e.2.1 (setPend w { p with late := if acorn then .queuePut crew qn data else .done })
            qServeKind crew qn k rest s1
    | _, _ => s

/-- After a change of a queue: waiting pops, then waiting pushes, again while one of them changed it; then the waiter fields
(R255). An uncorrectable QCW releases nothing by itself. -/
def qServe (crew qn : Nat) : Nat → State → State
  | 0, s => qMarkWaiters s crew qn
  | fuel + 1, s =>
    let s1 := qServeKind crew qn .pop (qWaiting s crew qn .pop) s
    let s2 := qServeKind crew qn .push (qWaiting s1 crew qn .push) s1
    let s2 := match s2.crew crew with
      | some c => if (qWaiting s crew qn .pop).length + (qWaiting s crew qn .push).length
          = (qWaiting s2 crew qn .pop).length + (qWaiting s2 crew qn .push).length then s2 else wakeCore s2 c.unit 1
      | none => s2
    if (qWaiting s crew qn .pop).length + (qWaiting s crew qn .push).length
        = (qWaiting s2 crew qn .pop).length + (qWaiting s2 crew qn .push).length then qMarkWaiters s2 crew qn
    else qServe crew qn fuel s2

end Sys2Proof.Machine
end

