-- ==== Sys2Proof/Machine/Access.lean ====
section
/-! DEFINITION. A memory access from its checks to its end: the checks of R242, parking (07_thread_control_traps.md R189-R192),
the requests it sends and their effect at the home slice (09_core_memory.md R237-R248, 10_core_ordering.md R257-R260). -/

namespace Sys2Proof.Machine

/-! ## Checks (R242) -/

/-- Through what an access names its addresses. -/
inductive Via where
  | tensor (h : Nat) (r : Tensor)
  | raw
  | own

/-- What the checks decide. -/
inductive Checked where
  | trap (cause : Nat) (info : Word)
  | ok (els : List MemEl) (space : Space)

/-- The lanes of the elements that satisfy p. -/
def elMask (els : List MemEl) (p : MemEl → Bool) : Mask := els.foldl (fun m e => if p e then m ||| (1#32 <<< e.idx) else m) 0

/-- The crew that an access of a crew through a record reaches, for class 5. -/
def crewVia (s : State) (c : Crew) (r : Tensor) : Option Nat :=
  if tClass r = 5 || tClass r = 6 then targetCrew s c.unit (issuingLaunch c) r else none

/-- Checks 1 to 6 of R242 for elements whose va holds the offset value (R237); `write` for stores, atomics and reductions. -/
def memCheck (s : State) (crew : Nat) (c : Crew) (tm pair : Bool) (quad : Nat) (via : Via) (disp : Int) (n : Nat)
    (classes : List Nat) (write : Bool) (poison : Mask) (els : List MemEl) : Checked :=
  let badRec := match via with
    | .tensor h r =>
      if !tensorValid r || !classes.contains (tClass r) || tensorUnsized r || (tClass r = 5 && (crewVia s c r).isNone)
      then some h else none
    | _ => none
  match badRec with
  | some h => .trap cRECINV (BitVec.ofNat 64 h)
  | none =>
    if poison != 0 then .trap cPOISON (maskInfo poison)
    else
      let addr := fun (e : MemEl) => match via with
        | .tensor _ r => laneAddr r e.va disp n
        | _ =>
          let x : Int := (e.va : Int) + disp
          if x < 0 then Bound.out else Bound.ok x.toNat
      let scratch := match via with
        | .tensor _ r => tClass r = 5
        | .raw => false
        | .own => true
      let target := match via with
        | .tensor _ r => (crewVia s c r).getD crew
        | _ => crew
      let out := fun (e : MemEl) => match addr e with
        | .out => !(match via with
          | .own => true
          | _ => false)
        | .zero => false
        | .ok a => !scratch && (2 ^ 52 ≤ a || fabricVa c.cregs a)
      let b := elMask els out
      if b != 0 then .trap cBOUNDS (maskInfo (pairLanes pair b))
      else
        let real := els.filterMap (fun e => match addr e with
          | .ok a => some { e with va := a, pa := a }
          | _ => none)
        let under := elMask els (fun e => match addr e with
          | .out => true
          | _ => false)
        let sp := if scratch then (match s.crew target with
          | some t => under ||| elMask real (fun e => spOut t (target = crew) tm quad e.va 1)
          | none => under) else 0
        if sp != 0 then .trap cSPBOUND (maskInfo (pairLanes pair sp))
        else
          let mis := elMask real (fun e => e.va % n != 0)
          if mis != 0 then .trap cMISALIGN (maskInfo (pairLanes pair mis))
          else
            let coh2 := match via with
              | .tensor _ r => tCoh r = 2
              | _ => false
            let ro := if write then elMask real (fun e => coh2 || (!scratch && sealHit s (c.cregs.asid.toNat % 65536) e.va n)) else 0
            if ro != 0 then .trap cSEALW (maskInfo (pairLanes pair ro))
            else .ok real (if scratch then .scratch target else .cached)

/-! ## Pages and the operand log (R189-R192) -/

/-- The permissions that an access needs (R410). -/
def memNeed (k : MemKind) : Nat :=
  match k with
  | .load _ => permR
  | .prefetch => permR
  | .store => permW
  | .recSet => permW
  | .atom _ => permR + permW
  | .red _ => permR + permW
  | .recGen => permR + permW

/-- The pages of an access's bytes. -/
def memPages (m : MemOp) : List Nat :=
  match m.space with
  | .scratch _ => []
  | _ => m.els.map (fun e => e.va / 65536)

/-- The pages of the parked entries of a warp that were parked before an operation. -/
def parkedPages (w : Warp) (before : Nat) : List Nat :=
  w.pend.flatMap (fun p => if p.op < before then (match p.late with
    | .parked m _ => memPages m
    | .tilePark t _ => t.els.map (fun e => e.va / 65536)
    | .region _ _ _ _ held _ => held
    | .launch _ _ _ _ _ held => held
    | _ => []) else [])

/-- Translates the elements: the elements with their addresses, or the fault at the lowest failing VA (R412, R413). -/
def translateEls (s : State) (unit : Nat) (cr : CtxRegs) (need : Nat) :
    List MemEl → State × List MemEl × Option (Nat × Nat × Nat)
  | [] => (s, [], none)
  | e :: t =>
    let (s1, r) := translate s unit cr e.va need
    let (s2, es, f) := translateEls s1 unit cr need t
    match r with
    | .ok pa => (s2, { e with pa := pa } :: es, f)
    | .fault reason pte => (s2, es, match f with
      | some (va, a, b) => if va < e.va then some (va, a, b) else some (e.va, reason, pte)
      | none => some (e.va, reason, pte))

/-- The VA of the lowest lane whose translation fails (R188). -/
def lowestFault (s : State) (unit : Nat) (cr : CtxRegs) (need : Nat) (els : List MemEl) : Option Nat :=
  (els.find? (fun e => match (translate s unit cr e.va need).2 with
    | .ok _ => false
    | .fault _ _ => true)).map (fun e => e.va)

/-! ## Replies -/

/-- Changes an incomplete instruction of a warp. -/
def modPend (s : State) (key op : Nat) (f : Pend → Pend) : State :=
  s.modWarp key (fun w => { w with pend := w.pend.map (fun p => if p.op = op then f p else p) })

/-- One reply arrives (R24). -/
def takeReply (s : State) (key op : Nat) : State :=
  modPend (wakeCore s (keyUnit key) 2) key op (fun p => match p.late with
    | .replies n => { p with late := if n ≤ 1 then .done else .replies (n - 1), ready := max p.ready (s.cycle + 1) }
    | _ => p)

/-- Puts what a lane receives into the registers and predicates that an instruction will write; under pair both lanes of its
pair (R95). -/
def putLane (p : Pend) (pair : Bool) (idx : Nat) (o : LaneOut) : Pend :=
  let m : Mask := if pair then 3#32 <<< idx else 1#32 <<< idx
  { p with
    regs := p.regs.map (fun r => { r with row := rowSet r.row m (fun _ => o.lane) })
    preds := p.preds.map (fun q => { q with
      val := (q.val &&& ~~~m) ||| (if o.pval then m else 0)
      poi := (q.poi &&& ~~~m) ||| (if o.ppoi then m else 0) }) }

/-! ## Performing an access -/

/-- The lines of an object record's grid tile that hold a byte at an address, as VAs of lines (R373). -/
def gridLines (r : Tensor) (va : Nat) : List Nat :=
  let es := max (fmtBytes (tFmt r)) 1
  let x := va - tBase r
  let i := if tStride0 r = 0 then 0 else x / tStride0 r
  let j := (if tStride0 r = 0 then x else x % tStride0 r) / es
  let rows := 2 ^ tTrows r
  let cols := 2 ^ tTcols r
  let i0 := i / rows * rows
  let j0 := j / cols * cols
  let clip := tClass r = 2 || tClass r = 4
  let jn := if clip then min (j0 + cols) (tDim0 r) else j0 + cols
  ((List.range rows).flatMap (fun k =>
    if clip && tDim1 r ≤ i0 + k then []
    else
      let a := tBase r + (i0 + k) * tStride0 r + j0 * es
      let n := (jn - j0) * es
      (List.range ((a + n + 127) / 128 - a / 128)).map (fun q => a / 128 + q))).eraseDups

/-- The granules and line masks that a store through a COH 1 record registers; lines whose page does not translate for the unit
are left out (R373). -/
def gridGranules (s : State) (unit : Nat) (cr : CtxRegs) (r : Tensor) (va pa : Nat) : List (Nat × BitVec 128) :=
  let lns := (gridLines r va).filterMap (fun l => match (translate s unit cr (128 * l) permW).2 with
    | .ok p => some (p / 128)
    | .fault _ _ => none)
  let lns := (pa / 128 :: lns).eraseDups
  (lns.map (fun l => l / 128)).eraseDups.map (fun g =>
    (g, (lns.filter (fun l => l / 128 = g)).foldl (fun (m : BitVec 128) l => m ||| (1#128 <<< (l % 128))) 0))

/-- Distinct lines of elements in the order in which they first appear. -/
def elLines (els : List Elem) : List Nat := (els.map (fun e => e.addr / 128)).eraseDups

/-- The words of a line that a read wants: all of them for a fill, else those of its elements. -/
def readMask (s : State) (r : Req) (install : Bool) : BitVec 32 :=
  if install then BitVec.allOnes 32
  else match s.warp r.key with
    | none => 0
    | some w => match findPend w r.op with
      | none => 0
      | some p => match p.late with
        | .load es _ => es.foldl (fun m e => if e.addr / 128 = r.line && !elemDone e then m ||| wordMask (e.addr % 128) e.n else m) 0
        | _ => 0

/-- Words of a line that a load may not take from L1: what earlier operations of its warp on their way to the home write (R99), and Copy words
for which an earlier cached load of the core is on its way home, from where it may bring a newer value (R261). -/
def goneWords (s : State) (unit key ln : Nat) : BitVec 32 :=
  (flying s unit ln).foldl (fun m r => match r.kind with
    | .read _ _ _ true => m ||| (readMask s r false &&& (s.l1 unit ln).copy)
    | k => if r.key != key then m else match k with
    | .write b _ => m ||| wordsOfBytes b
    | .atoms _ e els _ => els.foldl (fun m x => m ||| wordMask (x.addr % 128) (codeWidth e / 8)) m
    | .recSet off _ _ _ => m ||| wordMask off 32
    | .recGen off _ _ => m ||| wordMask off 32
    | _ => m) 0

/-- A load's elements go to L1 or to their homes; what is missing is asked for, line by line (R226, R259). -/
def loadStart (s : State) (unit key op asid : Nat) (m : MemOp) (sink : Sink) : State :=
  let core := unit < 1216
  let lookup := fun (e : MemEl) => match m.space with
    | .cached => if core then l1Lookup s unit e.pa m.size e.idx (goneWords s unit key (e.pa / 128)) else elemMiss e.pa m.size e.idx
    | _ => elemMiss e.pa m.size e.idx
  let es := m.els.map lookup
  let hit := (es.filter elemDone).map (fun e => e.addr / 128)
  let s1 := if core then hit.eraseDups.foldl (fun s ln => l1Alloc s unit ln) s else s
  let s2 := (elLines (es.filter (fun e => !elemDone e))).foldl (fun s ln =>
    let va := ((m.els.find? (fun e => e.pa / 128 = ln)).elim 0 (fun e => e.va)) / 128 * 128
    sendReq s unit key op ln (.read (m.fills && core && m.space = .cached) m.keep (m.seals || sealFills s asid va 128) (core && m.space = .cached))) s1
  modPend s2 key op (fun p => { p with late := .load es sink, ready := s.cycle + 1 })

/-! ## The turn at L1 (R102, R271) -/

/-- Elements of an access by line, in the order in which the lines first appear. -/
def byLine (els : List MemEl) : List (Nat × List MemEl) :=
  ((els.map (fun e => e.pa / 128)).eraseDups).map (fun ln => (ln, els.filter (fun e => e.pa / 128 = ln)))

/-- An earlier access of the warp waits for its turn at L1. -/
def turnTaken (w : Warp) (op : Nat) : Bool :=
  w.pend.any (fun p => p.op < op && (match p.late with
    | .held _ => true
    | .tileHeld _ => true
    | _ => false))

/-- A store to a word that the core already holds registered sends nothing, so the home sees it at once. It waits until what its warp has
sent to the same home, and every registration of the line, has been applied (R99, R267, R271, log 66). -/
def storeWaits (s : State) (unit key : Nat) (m : MemOp) : Bool :=
  (byLine m.els).any (fun b =>
    let l := s.l1 unit b.1
    let wm := b.2.foldl (fun (a : BitVec 32) e => a ||| wordMask (e.pa % 128) m.size) 0
    (l.obj || l.owned &&& wm != 0) && s.net.any (fun r => r.unit = unit && (match r.kind with
      | .writeBack _ _ _ _ => false
      | _ => (r.key = key && lineHome r.line = lineHome b.1) || ((reqStore r.kind).isSome && (reqLines r).contains b.1))))

/-- Writes the effect of a scratchpad access, and releases what waits for it (R229, R249, R255). -/
def afterScratch (s : State) (crew : Nat) : State :=
  let s1 := releaseAwaits s crew []
  match s1.crew crew with
  | none => s1
  | some c => (List.range c.queues.length).foldl (fun s q => if qWaiters s crew q = 0 then s else qServe crew q 65 s) s1

/-- The warp already waits on the queue, or has an earlier operation on its way to it: a later one is held at the core (R255). -/
def queueHeld (w : Warp) (op crew qn : Nat) : Bool :=
  w.pend.any (fun p => p.op < op && (match p.late with
    | .queueWait cr q _ _ => cr = crew && q = qn
    | .queueReq cr q _ _ => cr = crew && q = qn
    | .queueTry cr q _ _ => cr = crew && q = qn
    | .queuePut cr q _ => cr = crew && q = qn
    | .queueInit cr q _ => cr = crew && q = qn
    | _ => false))

/-- A scratchpad access, arrival, queue or tile operation of the warp before an operation has not reached its bank (R99, R102, R251). A
later access waits for an LDT too, though R357 asks the program for a WAIT (log 64). -/
def scratchBusy (w : Warp) (op : Nat) : Bool :=
  w.pend.any (fun p => p.op < op && (match p.late with
    | .banks _ => true
    | .arrival _ _ _ => true
    | .queueReq cr q _ _ => !queueHeld w p.op cr q
    | .queueTry cr q _ _ => !queueHeld w p.op cr q
    | .queueStat cr q => !queueHeld w p.op cr q
    | .queuePut _ _ _ => true
    | .queueInit cr q _ => !queueHeld w p.op cr q
    | .tilePark _ _ => true
    | .tileHeld _ => true
    | .tile _ banks => banks
    | _ => false))

/-- An earlier scratchpad access of the warp has not completed, one that waits in its queue included: ARRIVE, ARRDROP, AWINIT, PUSH and an
STT's reading wait for it (R251, R255, R357). -/
def scratchWaits (w : Warp) (op : Nat) : Bool :=
  scratchBusy w op || w.pend.any (fun p => p.op < op && (match p.late with
    | .queueWait _ _ _ _ => true
    | .queueReq _ _ _ _ => true
    | .queueTry _ _ _ _ => true
    | .queueStat _ _ => true
    | .queueInit _ _ _ => true
    | _ => false))

/-! ## The order of requests at a bank (R230) -/

/-- The crew whose banks the request of an instruction is at, or on its way to. -/
def bankCrew (s : State) (p : Pend) : Option Nat :=
  match p.late with
  | .banks m => (match m.space with
    | .scratch crew => some crew
    | _ => none)
  | .arrival crew _ _ => some crew
  | .queueReq crew _ _ _ => some crew
  | .queueTry crew _ _ _ => some crew
  | .queueStat crew _ => some crew
  | .queuePut crew _ _ => some crew
  | .queueInit crew _ _ => some crew
  | .tile id banks => if banks then (s.tiles.find? (fun t => t.id = id)).map (fun t => t.crew) else none
  | _ => none

/-- An operation that an earlier one of its warp holds stays at its core: one of its own queue (R255), and for ARRIVE, ARRDROP, AWINIT and a
push any that has not completed (R251, R255). -/
def bankHeld (w : Warp) (p : Pend) : Bool :=
  match p.late with
  | .arrival _ (.await _) _ => false
  | .arrival _ .test _ => false
  | .arrival _ _ _ => scratchWaits w p.op
  | .queueReq crew q k _ => queueHeld w p.op crew q || (k = .push && scratchWaits w p.op)
  | .queueTry crew q k _ => queueHeld w p.op crew q || (k = .push && scratchWaits w p.op)
  | .queueStat crew q => queueHeld w p.op crew q
  | .queueInit crew q _ => queueHeld w p.op crew q
  | _ => false

/-- The order of requests that reach one bank in one cycle: the core's own by quad, then the others by unit (R230). -/
def bankRank (key unit : Nat) : Nat := if keyUnit key = unit then keyQuad key % 4 else 4 + keyUnit key

/-- A tile that does not come to the banks by itself in this cycle: an LDT's elements come with its commit, an STT reads once nothing of its
warp stands before it (R357). -/
def tileIdle (s : State) (w : Warp) (p : Pend) : Bool :=
  match p.late with
  | .tile id _ => scratchWaits w p.op || !s.tiles.any (fun t => t.id = id && t.store)
  | _ => false

/-- A request is due at a crew's banks in this cycle. -/
def bankDue (s : State) (id : Nat) (e : Nat × Warp) : Bool :=
  (s.crew e.2.crew).any (fun c => c.ending.isNone) && e.2.pend.any (fun p =>
    p.ready ≤ s.cycle && bankCrew s p = some id && !bankHeld e.2 p && !tileIdle s e.2 p && !scratchBusy e.2 p.op && !s.faults.any (fun f => f.waiter = .access e.1 p.op))

/-- No request that goes before one of a warp is due at a crew's banks (R230). -/
def bankFree (s : State) (key id : Nat) : Bool :=
  match s.crew id with
  | none => true
  | some c => !s.warps.any (fun e => bankRank e.1 c.unit < bankRank key c.unit && bankDue s id e)

/-- An instruction's request has its turn at its bank. -/
def bankTurn (s : State) (key : Nat) (p : Pend) : Bool :=
  match bankCrew s p with
  | none => true
  | some id => bankFree s key id

/-- Requests of warps are due at some banks in this cycle; those of engines come after them (R230). -/
def banksDue (s : State) : Bool := s.crews.any (fun c => s.warps.any (bankDue s c.1))

/-- Performs a scratchpad access at the banks (R229, R243). -/
def banksPerform (s : State) (key op crew : Nat) (m : MemOp) : State :=
  match s.crew crew with
  | none => modPend s key op (fun p => { p with late := .done })
  | some c =>
    let (c1, outs) := bankOp c m
    let s1 := (writeEach s crew (bankSteps c m)).setCrew crew c1
    let s2 := modPend s1 key op (fun p =>
      { outs.foldl (fun p o => putLane p m.pair o.1 o.2) p with late := .done, ready := max p.ready (s.cycle + 1) })
    match m.kind with
    | .load _ => s2
    | _ => afterScratch s2 crew

/-- An access whose elements are translated is performed or sent on its way (R226, R243, R247, R248). -/
def memPerform (s : State) (unit key op : Nat) (crew : Nat) (cr : CtxRegs) (ctx : Nat) (m : MemOp) : State :=
  let core := unit < 1216
  let asid := cr.asid.toNat % 65536
  let done := fun (s : State) => modPend s key op (fun p => { p with late := .done, ready := s.cycle + 1 })
  let wait := fun (s : State) (n : Nat) => modPend s key op (fun p => { p with late := if n = 0 then .done else .replies n, ready := s.cycle + 1 })
  let intoL1 := m.kind = .store && m.space = .cached && core
  let turn := match s.warp key with
    | some w => turnTaken w op
    | none => false
  match m.space with
  | .scratch t =>
    let busy := match s.warp key with
      | some w => scratchBusy w op
      | none => false
    if t = crew && !busy && bankFree s key t then banksPerform s key op t m
    else modPend s key op (fun p => { p with late := .banks m, ready := s.cycle + 1 })
  | _ =>
    if turn || (intoL1 && storeWaits s unit key m) then modPend s key op (fun p => { p with late := .held m, ready := s.cycle + 1 })
    else
    let s := match m.kind with
      | .store => noteWrites s (m.els.map (fun e => e.pa / 128))
      | .atom _ => noteWrites s (m.els.map (fun e => e.pa / 128))
      | .red _ => noteWrites s (m.els.map (fun e => e.pa / 128))
      | _ => s
    match m.kind with
    | .load sink => loadStart s unit key op asid m sink
    | .store =>
      let lanes := fun (b : Nat × List MemEl) => b.2.map (fun e => (e.pa % 128, e.data))
      if intoL1 then
        done ((byLine m.els).foldl (fun s b =>
          let objs := match m.tensor with
            | some r => if tCoh r = 1 then
                some (gridGranules s unit cr r ((b.2.head?).elim 0 (fun e => e.va)) (128 * b.1), tGen r) else none
            | none => none
          l1Store s unit key op b.1 m.size (lanes b) objs) s)
      else
        wait ((byLine m.els).foldl (fun s b =>
          let (bytes, d) := laneBytes m.size (lanes b)
          sendReq s unit key op b.1 (.write bytes d)) s) (byLine m.els).length
    | .atom k =>
      wait (m.els.foldl (fun s e =>
        sendReq s unit key op (e.pa / 128) (.atoms k m.ety [{ idx := e.idx, addr := e.pa, b := e.data, expect := e.expect }] m.pair)) s)
        m.els.length
    | .red o =>
      let t := (etyOf m.ety).getD .n64
      let els := redCombine o t (m.els.map (fun e => { idx := e.idx, addr := e.pa, b := e.data, expect := 0 }))
      wait (els.foldl (fun s e => sendReq s unit key op (e.addr / 128) (.atoms (.op o) m.ety [e] false)) s) els.length
    | .prefetch =>
      let lns := (byLine m.els).filter (fun b => !(m.space = .cached && core && l1Has (s.l1 unit b.1) 0 128))
      wait (lns.foldl (fun s b =>
        let va := ((b.2.head?).elim 0 (fun e => e.va)) / 128 * 128
        sendReq s unit key op b.1 (.read (m.fills && core && m.space = .cached) m.keep (m.seals || sealFills s asid va 128) false)) s) lns.length
    | .recSet =>
      let d := m.els.foldl (fun a e => a + e.data * 2 ^ (64 * e.idx)) 0
      let pa := (m.els.head?.elim 0 (fun e => e.pa))
      wait (sendReq s unit key op (pa / 128) (.recSet (pa % 128) (BitVec.ofNat 256 d) ctx (m.els.head?.elim 0 (fun e => e.expect)))) 1
    | .recGen =>
      let pa := (m.els.head?.elim 0 (fun e => e.pa))
      wait (sendReq s unit key op (pa / 128) (.recGen (pa % 128) ctx (m.els.head?.elim 0 (fun e => e.expect)))) 1

/-- An access that waits for its turn at L1 takes it when it comes. -/
def heldStep (s : State) (key op : Nat) (m : MemOp) : State :=
  match s.warp key with
  | none => s
  | some w => match s.crew w.crew with
    | none => s
    | some c => memPerform s (keyUnit key) key op w.crew ((findPend w op).elim c.cregs (fun p => p.cregs)) c.ctx m

/-- A parked or new access is tried: its translations, whose walks wait for a locked line of a table (R368), then its effect. A fault sends a
record and leaves it parked (R189, R191, R412). The seal table was read at issue: a store that is translated only after a SEAL has completed is
not checked against it again (DESIGN CHOICE, log 96). -/
def memTry (s : State) (key op : Nat) : State :=
  match s.warp key with
  | none => s
  | some w =>
    match s.crew w.crew, findPend w op with
    | some c, some p =>
      match p.late with
      | .parked m _ =>
        let unit := keyUnit key
        match m.space with
        | .scratch _ => memPerform s unit key op w.crew p.cregs c.ctx m
        | _ =>
          match walksWait s (.access key op) unit p.cregs (m.els.map (fun e => e.va)) with
          | some ln => engineWait s (.access key op) ln false
          | none =>
          let (s1, els, f) := translateEls (walksGo s (.access key op) unit p.cregs (m.els.map (fun e => e.va))) unit p.cregs (memNeed m.kind) m.els
          match f with
          | some (va, r, pte) =>
            let low := lowestFault s unit p.cregs (memNeed m.kind) m.els
            sendFault (modPend s1 key op (fun p => { p with late := match p.late with
                | .parked m sl => .parked { m with fail := low } sl
                | l => l }))
              (faultOf (c.at_ p) unit (keySlot key) r (accessByte (memNeed m.kind)) va p.pc pte (.access key op))
          | none => memPerform s1 unit key op w.crew p.cregs c.ctx { m with els := els }
      | _ => s
    | _, _ => s

/-- Starts an access: it is parked behind an earlier entry whose pages it touches, or tried at once (R189, R190). -/
def memStart (c : Ctx) (s : State) (m : MemOp) (regs : List RegWr) (preds : List PredWr) : State :=
  let s1 := addLate c s (.parked m (slotRows c.s c.key c.w c.cur.word)) regs preds
  match s.warp c.key with
  | some w => if (memPages m).any (fun p => (parkedPages w c.op).contains p) then s1 else memTry s1 c.key c.op
  | none => s1

/-- A parked access becomes unrecoverable (R192): its registers are undefined, its counter falls, a late trap follows, whose INFO is the VA
of the lowest failing lane (R188). -/
def abandonAccess (s : State) (key op : Nat) (va : Nat) : State :=
  match s.warp key with
  | none => s
  | some w => match findPend w op with
    | none => s
    | some p =>
      let slots := match p.late with
        | .parked _ sl => some sl
        | .region _ _ _ _ _ sl => some sl
        | .launch _ _ _ sl _ _ => some sl
        | _ => none
      let p' := { p with regs := p.regs.map (fun g => { g with clob := g.mask }), preds := p.preds.map (fun g => { g with clob := g.mask }) }
      let low := match p.late with
        | .parked m _ => m.fail.getD va
        | _ => va
      let t : TrapRec := { cause := cPAGE, stage := .late, late := true, info := BitVec.ofNat 64 low, pc := p.pc, act := p.act,
                           exec := p.exec, word := p.word, slots := slots, cycle := s.cycle }
      raiseLate (completePend s key p') key t p.tm

/-! ## Requests at their home (R102, R258, R259, R333) -/

/-- A tile of the core with an earlier instruction that has not released its lock there holds the request (R359). -/
def tileHolds (s : State) (r : Req) : Bool :=
  s.tiles.any (fun t => t.unit = r.unit && t.id < r.id && !t.sealed && t.els.any (fun e => (reqLines r).contains (e.pa / 128)))

/-- A request is the oldest of its unit to its slice. -/
def reqFirst (s : State) (r : Req) : Bool :=
  !s.net.any (fun q => q.id < r.id && q.unit = r.unit && lineHome q.line = lineHome r.line)

/-- A read's reply: the line for the load that asked, the fill of L1 (R226, R241, R256, R266). Words that a cached load got without a fill
overtake the Copy words that its core holds: none of its later cached loads returns an older value (R261, log 65). -/
def replyRead (s : State) (r : Req) (install keep seals : Bool) (got : BitVec 32) (l : SLine) : State :=
  let s1 := if install then l1Fill s r.unit r.line l.data l.bad keep seals else l1Overtake s r.unit r.line got
  modPend (wakeCore s1 r.unit 2) r.key r.op (fun p => match p.late with
    | .load es sink => { p with late := .load (es.map (fun e => elemFill e r.line l.data l.bad)) sink, ready := max p.ready (s.cycle + 1) }
    | .replies n => { p with late := if n ≤ 1 then .done else .replies (n - 1), ready := max p.ready (s.cycle + 1) }
    | _ => p)

/-- Operations on elements at their home, in order (R247, R248): an uncorrectable word stays as it is (R225). -/
def homeAtoms (k : AtomKind) (t : Ety) (n : Nat) : List AtomEl → State → Room (State × List (Nat × LaneOut))
  | [], s => .ok (s, [])
  | e :: rest, s => do
    let reg := match dirEnt s (e.addr / 128) with
      | some d => d.mask &&& wordMask (e.addr % 128) n != 0
      | none => false
    let s0 ← if reg || (objEnt s (e.addr / 128)).isSome then recallAll s (e.addr / 128) else .ok s
    let (s1, old, bad) ← homeBytes s0 e.addr n
    let r := atomApply k t old e.b e.expect
    let skip := bad || (match k with
      | .cas => !r.2
      | .op _ => false)
    let s2 ← if skip then .ok s1 else homeStore s1 e.addr n r.1 false
    let (s3, outs) ← homeAtoms k t n rest s2
    return (s3, (e.idx, ⟨loadLane (etySigned t && etyIsInt t) n old bad, r.2 && !bad, bad⟩) :: outs)

/-- A request is applied at its home slice, or waits there for room. -/
def applyReq (s : State) (r : Req) : Room State := do
  let fin := fun (s : State) => { s with net := s.net.filter (fun q => q.id != r.id) }
  let merge := fun (s : State) (part : BitVec 32) =>
    if part = 0 then .ok s else (slValue s r.line).map (fun x => l1Merge x.1 r.unit r.line r.id part x.2.data x.2.bad)
  let own := fun (s : State) (m : BitVec 32) => if r.unit < 1216 then l1Overtake s r.unit r.line m else s
  match r.kind with
  | .register g =>
    let s1 ← if g.mask = 0 then .ok s else homeRegister s r.unit r.line g.mask
    let s2 ← merge s1 g.part
    return fin s2
  | .registerObj lns gen g =>
    let s1 ← homeRegisterObj s r.unit (r.line / 128) lns gen
    let s2 ← merge s1 g.part
    return fin s2
  | .writeBack m kn d b =>
    let s1 ← homeWriteBack s r.unit r.line m kn d b
    return fin s1
  | .read i k se cached =>
    let (s1, l) ← homeRead s r.line (readMask s r i)
    return fin (replyRead s1 r i k se (if cached then readMask s r false else 0) l)
  | .write bytes d =>
    let s1 ← homeWrite s r.line bytes d 0
    return fin (takeReply (own s1 (wordsOfBytes bytes)) r.key r.op)
  | .atoms k e els pair =>
    let t := (etyOf e).getD .n64
    let (s1, outs) ← homeAtoms k t (etyWidth t / 8) els s
    let m := els.foldl (fun (m : BitVec 32) x => m ||| wordMask (x.addr % 128) (etyWidth t / 8)) 0
    return fin (takeReply (modPend (own s1 m) r.key r.op (fun p => outs.foldl (fun p o => putLane p pair o.1 o.2) p)) r.key r.op)
  | .recSet off d ctx h =>
    let s1 ← homeWrite s r.line (byteMask off 32) (d.setWidth 1024 <<< (8 * off)) 0
    return fin (takeReply (dropRecord (own s1 (wordMask off 32)) ctx h) r.key r.op)
  | .recGen off ctx h =>
    let (s0, l) ← homeRead s r.line (wordMask off 32)
    let gen := (lineTake l.data (off + 23) 2 + 1) % 65536
    let bad := l.bad.getLsbD ((off + 16) / 8) || l.bad.getLsbD ((off + 24) / 8)
    let s2 ← homeStore s0 (128 * r.line + off + 23) 2 gen false
    let out : LaneOut := ⟨⟨BitVec.ofNat 64 gen, bothPoison bad⟩, false, false⟩
    return fin (takeReply (modPend (dropSlabs (dropRecord (own s2 (wordMask off 32)) ctx h) ctx h) r.key r.op (fun p =>
      { p with regs := p.regs.map (fun g => { g with row := mkRow (fun _ => out.lane) }) })) r.key r.op)

/-- An earlier tile of the request's core holds a lock on one of its lines, or has asked for it (R359, R368). -/
def ownLock (s : State) (r : Req) : Bool :=
  (s.slice (lineHome r.line)).locks.any (fun k => k.lines.any (fun ln => (reqLines r).contains ln)
    && s.tiles.any (fun t => t.id = k.tile && t.unit = r.unit && t.id < r.id))

/-- An earlier region store of the request's warp that is not parked is on its way to its anchor at the same slice: it counts as an ATOM there, on
the core's one path (R102, R403). -/
def regionAhead (s : State) (r : Req) : Bool :=
  (s.warp r.key).any (fun w => w.pend.any (fun p => p.op < r.op && (match p.late with
    | .region _ t true _ [] _ => (match (translate s r.unit p.cregs (tBase t) permR).2 with
      | .ok pa => homeOf pa = lineHome r.line
      | .fault _ _ => false)
    | _ => false)))

/-- A step of a request: it takes its place while a lock holds one of its lines, waits for a later cycle where a higher unit has reached one
of its lines in this one, waits for room, or is applied (R330, R333, R368). One behind a tile of its own core that has not asked for its lock
there yet waits without a place, for the lock goes first (R359). -/
def stepReq (s : State) (id : Nat) (mine : ReqKind → Bool) : State :=
  match s.net.find? (fun r => r.id = id) with
  | none => s
  | some r =>
    if !mine r.kind || !reqFirst s r || regionAhead s r then s
    else
      let h := lineHome r.line
      if tileHolds s r && !ownLock s r then s
      else if tileHolds s r || (reqLines r).any (fun ln => heldBack s ln (reqWrites r.kind) r.place) then
        match r.place with
        | some _ => s
        | none =>
          let sl := s.slice h
          { s.setSlice h { sl with clock := sl.clock + 1, lockw := sl.lockw + 1 } with
            net := s.net.map (fun q => if q.id = id then { q with place := some sl.clock } else q) }
      else if (reqLines r).any (fun ln => servedLater s ln r.unit) then s
      else match applyReq s r with
        | .ok s1 => markAll s1 (reqLines r) r.unit
        | .error v => evictFor s v

end Sys2Proof.Machine
end

