-- ==== Sys2Proof/Machine/CoreOps.lean ====
section
/-! DEFINITION. Groups, roles, the register pool, sleep and priority (08_core_groups.md R199-R223): the group unit and the meanings
of opcodes 0x0E0 to 0x0E9, with the events of the core. -/

namespace Sys2Proof.Machine

/-! ## The group unit (R201-R205) -/

def grpMembers (g : Group) (w : Nat) : Mask := g.members.getD w 0
def grpArrived (g : Group) (w : Nat) : Mask := g.arrived.getD w 0
/-- A list of masks, one per warp of a crew, with one of them changed. -/
def setMask (ms : List Mask) (w : Nat) (m : Mask) : List Mask :=
  (List.range (max ms.length (w + 1))).map (fun i => if i = w then m else ms.getD i 0)

def crewGroup (c : Crew) (g : Nat) : Group := c.groups.getD g ⟨[], []⟩
def setGroup (c : Crew) (g : Nat) (v : Group) : Crew :=
  { c with groups := (List.range (max c.groups.length (g + 1))).map (fun i => if i = g then v else crewGroup c i) }

/-- The warps of a crew that have not ended: slot key and warp. -/
def crewWarps (s : State) (crew : Nat) : List (Nat × Warp) := s.warps.filter (fun e => e.2.crew = crew && !isGhost e.1)

/-- Lanes as group membership knows them: in a protected warp it is held per visible thread, and the shadow lane follows its primary
(R94, R200). -/
def threadLanes (w : Warp) (m : Mask) : Mask := if w.prot then maskOf (fun l => m.getLsbD (l - l % 2)) else m

/-- Some thread waits on a group (R203). -/
def grpWaits (s : State) (crew g : Nat) : Bool :=
  (crewWarps s crew).any (fun e => e.2.pend.any (fun p => match p.late with
    | .groupWait q waiting _ => q = g && waiting != 0
    | _ => false))
/-- Every member has arrived. -/
def grpFull (g : Group) : Bool :=
  (List.range g.members.length).all (fun w => grpMembers g w &&& ~~~grpArrived g w = 0)

/-- The lanes that a GBAR holds for the next phase arrive when it opens; one that has already arrived in it stays held (R203). -/
def openLanes (g : Group) (widx : Nat) (held : Mask) : Mask := held &&& ~~~(grpArrived g widx &&& grpMembers g widx)

/-- Lets the held lanes of one warp's GBARs into the phase that opened, in issue order. -/
def openPends (g : Nat) (widx : Nat) : List Pend → Group → List Pend × Group
  | [], v => ([], v)
  | p :: t, v =>
    match p.late with
    | .groupWait q waiting held =>
      if q = g then
        let m := openLanes v widx held
        let v1 : Group := { v with arrived := setMask v.arrived widx (grpArrived v widx ||| (m &&& grpMembers v widx)) }
        let (t', v2) := openPends g widx t v1
        ({ p with late := .groupWait q (waiting ||| m) (held &&& ~~~m) } :: t', v2)
      else
        let (t', v2) := openPends g widx t v
        (p :: t', v2)
    | _ =>
      let (t', v2) := openPends g widx t v
      (p :: t', v2)

/-- Ends a phase: every waiting thread is released and the held ones enter the next phase (R203). -/
def openPhase (s : State) (crew g : Nat) : State :=
  match s.crew crew with
  | none => s
  | some c =>
    let g0 : Group := { crewGroup c g with arrived := [] }
    let release := fun (p : Pend) => match p.late with
      | .groupWait q _ held => if q = g then { p with late := .groupWait q 0 held, ready := s.cycle + 1 } else p
      | _ => p
    let r := (crewWarps s crew).foldl (fun (a : State × Group) e =>
      let (ps, v) := openPends g e.2.widx (e.2.pend.map release) a.2
      (a.1.setWarp e.1 { e.2 with pend := ps }, v)) (s, g0)
    r.1.setCrew crew (setGroup c g r.2)

/-- After each request on a group: while some thread waits and every member has arrived, the phase ends (R203). A phase that the held arrivals
fill at its opening ends at once too (DESIGN CHOICE, log 83). -/
def settleGroup (crew g : Nat) : Nat → State → State
  | 0, s => s
  | fuel + 1, s =>
    match s.crew crew with
    | none => s
    | some c => if grpWaits s crew g && grpFull (crewGroup c g) then settleGroup crew g fuel (openPhase s crew g) else s

/-- A warp's threads leave every group: EXIT, in issue order with its other requests (R201). -/
def leaveGroups (s : State) (crew widx : Nat) (lanes : Mask) : State :=
  match s.crew crew with
  | none => s
  | some c =>
    let gs := c.groups.map (fun g => { g with members := setMask g.members widx (grpMembers g widx &&& ~~~lanes) })
    (List.range gs.length).foldl (fun s g => settleGroup crew g 64 s) (s.setCrew crew { c with groups := gs })

/-- The earlier accesses of a warp that a GBAR waits for: loads, stores, scratchpad accesses, atomics, queue operations (R204). One that is
served and only has to complete counts too; an AWAIT does not: R204 does not name it (DESIGN CHOICE, log 70). -/
def memIncomplete (w : Warp) (op : Nat) : Bool :=
  w.pend.any (fun p => p.op < op && p.mpipe && (match p.late with
    | .done => true
    | .held _ => true
    | .tileHeld _ => true
    | .queuePut _ _ _ => true
    | .queueInit _ _ _ => true
    | .load _ _ => true
    | .replies _ => true
    | .banks _ => true
    | .parked _ _ => true
    | .arrival _ _ _ => true
    | .queueReq _ _ _ _ => true
    | .queueWait _ _ _ _ => true
    | .queueTry _ _ _ _ => true
    | .queueStat _ _ => true
    | .region _ _ _ _ _ _ => true
    | .tilePark _ _ => true
    | .tile _ _ => true
    | _ => false))

/-- A request of the warp that the group unit has not applied stands before an operation (R201). -/
def grpEarlier (w : Warp) (op : Nat) : Bool :=
  w.pend.any (fun p => p.op < op && (match p.late with
    | .group _ _ => true
    | _ => false))

/-- Containment of a warp in a group (R207): 0 outside, 1 contained, 2 partial. -/
def warpIn (g : Group) (w : Warp) : Nat :=
  let live := w.pt.live
  if w.tm then (let l := w.saved.live
                if l = 0 || l &&& grpMembers g w.widx = 0 then 0 else if l &&& ~~~grpMembers g w.widx = 0 then 1 else 2)
  else if live = 0 || live &&& grpMembers g w.widx = 0 then 0
  else if live &&& ~~~grpMembers g w.widx = 0 then 1 else 2

/-- The warps of a crew that a group contains. -/
def contained (s : State) (crew : Nat) (v : Group) : List Nat := ((crewWarps s crew).filter (fun e => warpIn v e.2 = 1)).map (fun e => e.1)

/-- No warp that a group contains belongs to a ROLE in progress, which may be one of a warp that has ended (R208). -/
def roleFree (s : State) (crew g : Nat) : Bool :=
  match s.crew crew with
  | none => true
  | some c =>
    let ins := contained s crew (crewGroup c g)
    !s.warps.any (fun e => e.2.crew = crew && e.2.pend.any (fun p => match p.late with
      | .role _ ks => ks.any (fun k => ins.contains k)
      | _ => false))

/-- The request may be applied now. -/
def grpReady (s : State) (key op g : Nat) (r : GrpReq) : Bool :=
  match s.warp key with
  | none => false
  | some w => !grpEarlier w op && (match r with
    | .gbar => !memIncomplete w op
    | .role _ => roleFree s w.crew g
    | _ => true)

/-- Threads of a warp stand at a PC again. -/
def backTo (w : Warp) (act : Mask) (pc : Word) : Warp :=
  { w with pt := { w.pt with pcs := (List.range 32).map (fun l => if act.getLsbD l then pc else w.pt.pcs.getD l 0) } }

/-- The group unit applies a request of an incomplete instruction (R202, R203, R205, R207). A member that arrives, leaves and joins again
within a phase is still counted as arrived (DESIGN CHOICE, log 69). A ROLE that is applied once its issuer is in trap mode for another trap,
and finds a partial warp, ends the crew as a handler's own trap does (DESIGN CHOICE, log 84); outside trap mode its threads go back to it, so that
it issues again where its trap is dropped for another (R177, R192). -/
def applyGroup (s : State) (key : Nat) (p : Pend) (g : Nat) (r : GrpReq) : State :=
  match s.warp key with
  | none => s
  | some w => match s.crew w.crew with
    | none => s
    | some c =>
      let v := crewGroup c g
      let setV := fun (v : Group) => s.setCrew w.crew (setGroup c g v)
      let done := fun (s : State) => modPend s key p.op (fun p => { p with late := .done, ready := s.cycle + 1 })
      match r with
      | .join => settleGroup w.crew g 64 (done (setV { v with members := setMask v.members w.widx (grpMembers v w.widx ||| threadLanes w p.exec) }))
      | .leave => settleGroup w.crew g 64 (done (setV { v with members := setMask v.members w.widx (grpMembers v w.widx &&& ~~~threadLanes w p.exec) }))
      | .gbar =>
        let mem := threadLanes w p.exec &&& grpMembers v w.widx
        let fresh := mem &&& ~~~grpArrived v w.widx
        let held := mem &&& grpArrived v w.widx
        let s1 := setV { v with arrived := setMask v.arrived w.widx (grpArrived v w.widx ||| fresh) }
        settleGroup w.crew g 64 (modPend s1 key p.op (fun p => { p with late := .groupWait g (p.exec &&& ~~~held) held, ready := s.cycle + 1 }))
      | .gcount =>
        -- the two lanes of a pair are one thread (R94, R200)
        let one : Mask := if w.prot then 0x55555555#32 else BitVec.allOnes 32
        let sum := fun (f : Nat → Mask) => (List.range 32).foldl (fun a i => a + popMask (f i &&& one)) 0
        let n := sum (grpMembers v)
        let a := sum (fun i => grpArrived v i &&& grpMembers v i)
        let x : Word := (grpMembers v w.widx ++ BitVec.ofNat 32 (a % 65536 * 65536 + n % 65536) : BitVec 64)
        modPend s key p.op (fun p => { p with late := .done, ready := s.cycle + 1,
                                              regs := p.regs.map (fun q => { q with row := mkRow (fun _ => ⟨x, 0⟩) }) })
      | .exit => leaveGroups (modPend s key p.op (fun p => { p with late := .done, ready := s.cycle })) w.crew w.widx (threadLanes w p.exec)
      | .role index =>
        let ws := crewWarps s w.crew
        if ws.any (fun e => warpIn v e.2 = 2) then
          let t : TrapRec := { cause := cROLEPART, stage := .execution, late := false, info := BitVec.ofNat 64 g, pc := p.pc, act := p.act,
                               exec := p.exec, word := p.word, slots := some p.slots, cycle := s.cycle }
          raiseTrap ((completePend s key p).modWarp key (fun w => if w.tm then w else backTo w p.act p.pc)) key t
        else
          let ins := contained s w.crew v
          let s1 := ins.foldl (fun s k => s.modWarp k (fun w => { w with switching := some index })) s
          modPend s1 key p.op (fun p => { p with late := if ins.isEmpty then .done else .role index ins, ready := s.cycle + 1 })

/-! ## The register pool (R209-R213) -/

/-- Registers from one on take zero with poison clear. -/
def zeroRegs (w : Warp) (lo n : Nat) : Warp := { w with regs := w.regs.filter (fun e => e.1 < lo || lo + n ≤ e.1 || 256 ≤ e.1) }

/-- Rows of waiting claims of a warp. -/
def claimRows (c : Core) (key : Nat) : Nat := c.claims.foldl (fun a q => if q.key = key then a + q.rows else a) 0

/-- A claim enters the core's queue; the head may be granted from the next cycle on (R209). -/
def queueClaim (k : Core) (cycle : Nat) (q : Claim) : Core :=
  { k with claims := k.claims ++ [q], poolAt := if k.claims.isEmpty then cycle + 1 else k.poolAt }
/-- Rows return to the pool: a head claim that lacked room may be granted from the next cycle on (R209). -/
def returnRows (k : Core) (cycle n : Nat) : Core :=
  { k with poolFree := k.poolFree + n, poolAt := if k.claims.any (fun q => k.poolFree < q.rows) then cycle + 1 else k.poolAt }

/-- A warp under ROLE takes its new class, allotment and PC; what it holds beyond the role's REGS, its granted rows counted in, returns to
the pool (R207, R209). -/
def roleFinish (s : State) (key index granted : Nat) : State :=
  match s.warp key with
  | none => s
  | some w => match s.crew w.crew with
    | none => s
    | some c =>
      let r := c.roles.getD index ⟨0, 8, 0⟩
      let pt := { w.pt with
        pcs := (List.range 32).map (fun l => if w.pt.live.getLsbD l then r.entry else w.pt.pcs.getD l 0)
        skips := (List.range 32).map (fun l => if w.pt.live.getLsbD l then 0 else w.pt.skips.getD l 0) }
      let w1 := if w.allot < r.regs then zeroRegs w w.allot (r.regs - w.allot) else zeroRegs w r.regs (w.allot - r.regs)
      (s.setWarp key { w1 with allot := r.regs, prio := r.cls, role := index, switching := none, granted := 0, pt := pt, pairNext := none }).modCore
        (keyUnit key) (fun k => returnRows k s.cycle (w.allot + granted - r.regs))

/-- A warp under ROLE receives its rows: it switches, but only after its TRET where a trap holds it (R208). -/
def roleGrant (s : State) (key rows : Nat) : State :=
  match s.warp key with
  | none => s
  | some w => match w.switching with
    | none => s
    | some i => if w.tm || !w.traps.isEmpty then s.setWarp key { w with granted := rows } else roleFinish s key i rows

/-- The pool grants the head claim in the cycle after one in which enough rows were free (R209): a REGCLAIM completes, a switching warp
switches. -/
def grantClaim (s : State) (core : Nat) : State :=
  let c := s.core core
  match c.claims with
  | [] => s
  | q :: rest =>
    if c.poolFree < q.rows || s.cycle < c.poolAt then s
    else
      let s1 := wakeCore (s.setCore core { c with claims := rest, poolFree := c.poolFree - q.rows, poolAt := s.cycle + 1 }) core 3
      match s1.warp q.key with
      | none => s1
      | some w => match findPend w q.op with
        | some p => match p.late with
          | .claim n => completePend (s1.setWarp q.key { zeroRegs w w.allot n with allot := w.allot + n }) q.key p
          | _ => roleGrant s1 q.key q.rows
        | none => roleGrant s1 q.key q.rows

/-- The counters of a warp are zero but for those of one operation (R207). -/
def ctrsZeroBut (w : Warp) (op : Nat) : Bool :=
  match findPend w op with
  | none => ctrsZero w
  | some p => (ctrSub w.ctrs p.ctrs).all (fun n => n == 0)

/-- One warp under ROLE takes its next step: it waits, returns rows, or queues its claim; true when it has switched or ended (R207,
R208). -/
def roleStep (s : State) (core op index key : Nat) : State × Bool :=
  match s.warp key with
  | none => (s, true)
  | some w => match w.switching with
    | none => (s, true)
    | some _ =>
      if w.pt.live = 0 && !w.tm then (s.setWarp key { w with switching := none }, true)
      else if !ctrsZeroBut w op || !logEmpty w || w.tm || !w.traps.isEmpty then (s, false)
      else match s.crew w.crew with
        | none => (s, true)
        | some c =>
          let n := (c.roles.getD index ⟨0, 8, 0⟩).regs
          if w.granted != 0 then (roleFinish s key index w.granted, true)
          else if w.allot < n then
            if (s.core core).claims.any (fun q => q.key = key && q.op = op) then (s, false)
            else (s.modCore core (fun c => queueClaim c s.cycle ⟨key, op, n - w.allot⟩), false)
          else (roleFinish s key index 0, true)

/-- A ROLE's warps take their next steps; it completes when every one has switched (R207). -/
def roleAdvance (s : State) (key : Nat) (p : Pend) (index : Nat) (warps : List Nat) : State :=
  let r := warps.foldl (fun (a : State × Bool) k =>
    let (s1, done) := roleStep a.1 (keyUnit key) p.op index k
    (s1, a.2 && done)) (s, true)
  if r.2 then completePend r.1 key p else modPend r.1 key p.op (fun p => { p with ready := s.cycle + 1 })

/-! ## Meanings of opcodes 0x0E0 to 0x0E9 -/

/-- GRPBOUND at check 10 for a group id at or above GROUPS (R198). -/
def grpBound (s : State) (w : Warp) (x : Byte) : Option Nat :=
  match s.crew w.crew with
  | some c => if c.ngroups ≤ x.toNat % 16 then some cGRPBOUND else none
  | none => none

/-- A request to the group unit: applied at once where nothing of the warp stands before it, else in its turn (R201, R204). -/
def groupBody (c : Ctx) (s1 : State) (g : Nat) (r : GrpReq) (regs : List RegWr) : Res :=
  protGuard c (fun _ => []) (
    let s2 := addLate c s1 (.group g r) regs []
    if grpReady s2 c.key c.op g r then
      match s2.warp c.key with
      | none => .ok s2
      | some w => match findPend w c.op with
        | some p => .ok (applyGroup s2 c.key p g r)
        | none => .ok s2
    else .ok s2)

/-- JOIN (R202). -/
def execJoin (h : Hdr) (o : OpR) (s : State) : Host.Outcome State Fault Refusal :=
  issueWith (.join h o) h s (fun _ => false) (fun c => grpBound c.s c.w o.x) (fun c s1 => groupBody c s1 (o.x.toNat % 16) .join [])
/-- LEAVE (R202). -/
def execLeave (h : Hdr) (o : OpR) (s : State) : Host.Outcome State Fault Refusal :=
  issueWith (.leave h o) h s (fun _ => false) (fun c => grpBound c.s c.w o.x) (fun c s1 => groupBody c s1 (o.x.toNat % 16) .leave [])
/-- GBAR (R203, R204). -/
def execGbar (h : Hdr) (o : OpR) (s : State) : Host.Outcome State Fault Refusal :=
  issueWith (.gbar h o) h s (fun _ => false) (fun c => grpBound c.s c.w o.x) (fun c s1 => groupBody c s1 (o.x.toNat % 16) .gbar [])
/-- GCOUNT (R205). -/
def execGcount (h : Hdr) (o : OpR) (s : State) : Host.Outcome State Fault Refusal :=
  issueWith (.gcount h o) h s (fun _ => false) (fun c => grpBound c.s c.w o.x)
    (fun c s1 => groupBody c s1 (o.x.toNat % 16) .gcount (regWr c.w o.o1 c.exec (fun _ => Lane.zero)))
/-- ROLE (R207, R208): a role index at or above ROLES is ILLOP at check 6. -/
def execRole (h : Hdr) (o : OpR) (s : State) : Host.Outcome State Fault Refusal :=
  issueWith (.role h o) h s
    (fun c => match c.s.crew c.w.crew with
      | some cr => cr.nroles ≤ o.x.toNat / 16 % 4
      | none => false)
    (fun c => grpBound c.s c.w o.x)
    (fun c s1 =>
      let g := o.x.toNat % 16
      let partial_ := match c.s.crew c.w.crew with
        | some cr => (crewWarps c.s c.w.crew).any (fun e => warpIn (crewGroup cr g) e.2 = 2)
        | none => false
      protGuard c (fun _ => []) (
        -- applied at issue, a partial warp makes the ROLE trap with no effect
        if partial_ && grpReady c.s c.key c.op g (.role 0)
        then .trap cROLEPART (BitVec.ofNat 64 g)
        else groupBody c s1 g (.role (o.x.toNat / 16 % 4)) []))

/-- REGCLAIM (R210). -/
def execRegclaim (h : Hdr) (o : OpI) (s : State) : Host.Outcome State Fault Refusal :=
  issueWith (.regclaim h o) h s (fun _ => false)
    (fun c => if 240 < c.w.allot + claimRows (c.s.core c.unit) c.key + o.imm.toNat then some cREGBOUND else none)
    (fun c s1 => protGuard c (fun _ => []) (
      let s2 := addLate c s1 (.claim o.imm.toNat) [] []
      .ok (s2.modCore c.unit (fun k => queueClaim k c.s.cycle ⟨c.key, c.op, o.imm.toNat⟩))))

/-- The warp's allotment falls to a by n registers (R211): earlier writes to them no longer land in the warp. -/
def shrinkTo (w : Warp) (a n : Nat) : Warp :=
  { zeroRegs w a n with
    allot := a
    pend := w.pend.map (fun p => { p with regs := p.regs.map (fun g => if a ≤ g.reg && g.reg < a + n then { g with mask := 0 } else g) }) }

/-- The first slot of the pair whose second slot is the instruction writes one of n registers from a on, and its floor has not passed (R19,
R24). -/
def firstWrites (c : Ctx) (a n : Nat) : Bool :=
  c.w.lastIssue = some c.s.cycle && (match wordAt c.w (c.cur.pc - 1) with
    | none => false
    | some word => match decode word with
      | .error _ => false
      | .ok i => (instrInfo i).pipe != .m && (instrShape i).opds.any (fun d => match d.use with
        | .dst k => d.byte.toNat < 240 && d.byte.toNat < a + n && a < d.byte.toNat + k
        | .upd k => d.byte.toNat < 240 && d.byte.toNat < a + n && a < d.byte.toNat + k
        | _ => false))

/-- REGGIVE (R211). As the first slot of a pair it leaves the registers as they are for the second slot, which is of the same issue
(R20, R211), and the allotment shrinks at the end of the cycle; as the second slot, its rows wait for a first slot that still writes one of
their registers. -/
def execReggive (h : Hdr) (o : OpI) (s : State) : Host.Outcome State Fault Refusal :=
  issueWith (.reggive h o) h s (fun _ => false)
    (fun c => if c.w.allot ≤ o.imm.toNat then some cREGBOUND else none)
    (fun c s1 => protGuard c (fun _ => []) (
      let n := o.imm.toNat
      let a := c.w.allot - n
      let s2 := if pairFirst c then s1 else s1.modWarp c.key (fun w => shrinkTo w a n)
      let s3 := addLate c s2 (.give a n) [] []
      .ok (if firstWrites c a n then modPend s3 c.key c.op (fun p => { p with ready := max p.ready (c.s.cycle + c.w.lastFloor) }) else s3)))

/-- The end of a cycle for a REGGIVE that issued in it as the first slot of a pair: the allotment shrinks (R20, R211). -/
def settleGive (w : Warp) (cycle : Nat) : Warp :=
  w.pend.foldl (fun v p => match p.late with
    | .give a n => if p.ready = cycle + 1 && v.allot = a + n then shrinkTo v a n else v
    | _ => v) w

/-- The halves of a warp that a mask touches, outside C16 mode the one sleep state (R215). -/
def sleepHalves (w : Warp) (m : Mask) : Bool × Bool :=
  if w.c16 && !w.tm then (m &&& 0xFFFF#32 != 0, m &&& 0xFFFF0000#32 != 0) else (true, false)

/-- One sleep state at a SLEEP: a set wake-pending bit is cleared, else it falls asleep (R215). -/
def sleepOne (v : Sleep) (until? : Option Nat) : Sleep :=
  if v.wakePending then { v with wakePending := false } else { v with asleep := true, until? := until? }

/-- SLEEP (R215): in trap mode it completes at once. -/
def execSleep (h : Hdr) (o : OpI) (s : State) : Host.Outcome State Fault Refusal :=
  issue (.sleep h o) h s (fun c s1 => protGuard c (fun _ => []) (
    if c.w.tm then .ok (addDone c s1 [] [])
    else
      let hs := sleepHalves c.w c.exec
      let t := if o.imm = 0 then none else some (s.cycle + o.imm.toNat)
      let s2 := addLate c s1 .sleep [] []
      .ok (s2.modWarp c.key (fun w => { w with
        sleepLo := if hs.1 then sleepOne w.sleepLo t else w.sleepLo
        sleepHi := if hs.2 then sleepOne w.sleepHi t else w.sleepHi }))))

/-- A wake of one sleep state: asleep wakes, awake takes the pending bit (R216). -/
def wakeOne (v : Sleep) : Sleep := if v.asleep then { v with asleep := false, until? := none } else { v with wakePending := true }

/-- A warp with no live thread, in or out of trap mode, has ended its threads (R169). -/
def warpLive (w : Warp) : Bool := w.pt.live != 0 || (w.tm && w.saved.live != 0)

/-- The halves of the issuer that hold a participating lane of a WAKE (R216). -/
def wakeHalves (w : Warp) (m : Mask) : Bool × Bool :=
  if w.c16 then (m &&& 0xFFFF#32 != 0, m &&& 0xFFFF0000#32 != 0) else (true, false)

/-- WAKE (R216). In a handler of a C16 crew too, t is a vwarp number and the halves keep their sleep states (DESIGN CHOICE, log 71). -/
def execWake (h : Hdr) (o : OpR) (s : State) : Host.Outcome State Fault Refusal :=
  issue (.wake h o) h s (fun c s1 => protGuard c (fun l => if o.x = 1 then [] else [(c.val o.o2 l).val]) (
    let all := o.x = 1
    let l := (lowestLane c.exec).getD 0
    let v := c.val o.o2 l
    let ws := crewWarps s1 c.w.crew
    let c16 := c.w.c16
    let n := match c.s.crew c.w.crew with
      | some cr => cr.slots.length
      | none => 0
    let lim := if c16 then 2 * n else n
    if !all && v.poi != 0 then .trap cPOISON (laneInfo l)
    else if !all && lim ≤ v.val.toNat then .trap cBOUNDS (laneInfo l)
    else
      let mine := wakeHalves c.w c.exec
      let t := v.val.toNat
      let s2 := ws.foldl (fun s e =>
        if !warpLive e.2 then s
        else
          let lo := if all then !(e.1 = c.key && (!c16 || mine.1)) else if c16 then t / 2 = e.2.widx && t % 2 = 0 else t = e.2.widx
          let hi := c16 && (if all then !(e.1 = c.key && mine.2) else t / 2 = e.2.widx && t % 2 = 1)
          s.modWarp e.1 (fun w => { w with
            sleepLo := if lo then wakeOne w.sleepLo else w.sleepLo
            sleepHi := if hi then wakeOne w.sleepHi else w.sleepHi })) s1
      .ok (addDone c s2 [] [])))

/-- PRIO (R217). -/
def execPrio (h : Hdr) (o : OpI) (s : State) : Host.Outcome State Fault Refusal :=
  issue (.prio h o) h s (fun c s1 => protGuard c (fun _ => []) (
    .ok (addDone c (s1.modWarp c.key (fun w => { w with prio := o.imm.toNat % 4 })) [] [])))

/-! ## Events of the core -/

/-- CLAIM_GRANT (R209). -/
def execClaimGrant (core : Nat) (s : State) : Host.Outcome State Fault Refusal := .next (grantClaim s core)

/-- Rows of a REGGIVE return once no earlier instruction of the warp writes one of its registers (R211). -/
def giveReady (w : Warp) (op reg rows : Nat) : Bool :=
  !w.pend.any (fun p => p.op < op && p.regs.any (fun g => reg ≤ g.reg && g.reg < reg + rows))
def giveReturn (s : State) (key op : Nat) : State :=
  match s.warp key with
  | none => s
  | some w => match findPend w op with
    | none => s
    | some p => match p.late with
      | .give reg rows =>
        if p.ready ≤ s.cycle && giveReady w op reg rows then
          completePend (s.modCore (keyUnit key) (fun c => returnRows c s.cycle rows)) key p
        else s
      | _ => s
/-- REGGIVE_RETURN (R211). -/
def execReggiveReturn (unit slot op : Nat) (s : State) : Host.Outcome State Fault Refusal := .next (giveReturn s (unit * 32 + slot) op)

/-- A SLEEP's pend completes when the halves that it put to sleep are awake (R215). -/
def sleepOver (w : Warp) (p : Pend) : Bool :=
  let hs := sleepHalves w p.exec
  !(hs.1 && w.sleepLo.asleep) && !(hs.2 && w.sleepHi.asleep)

/-- SLEEP_TIMER (R215). -/
def execSleepTimer (unit slot half : Nat) (s : State) : Host.Outcome State Fault Refusal :=
  let key := unit * 32 + slot
  match s.warp key with
  | none => .next s
  | some w =>
    let v := if half = 0 then w.sleepLo else w.sleepHi
    match v.until? with
    | none => .next s
    | some t =>
      if v.asleep && t ≤ s.cycle then
        let v' := { v with asleep := false, until? := none }
        .next (wakeCore (s.setWarp key (if half = 0 then { w with sleepLo := v' } else { w with sleepHi := v' })) unit 5)
      else .next s

/-- CORE_WAKE (R219): a wake event with its bit of REASON. -/
def execCoreWake (core : Nat) (reason : BitVec 8) (s : State) : Host.Outcome State Fault Refusal :=
  .next ((List.range 8).foldl (fun s b => if reason.getLsbD b then wakeCore s core b else s) s)

end Sys2Proof.Machine
end

