-- ==== Sys2Proof/Machine/Regions.lean ====
section
/-! DEFINITION. Fitted regions (15_die_fitted.md R380-R403): evaluation, region loads and stores, Sprout's jobs, and the meanings of
FRINIT, FRFIT and FRSTAT. -/

namespace Sys2Proof.Machine

/-! ## Virtual accesses at home slices, as a unit makes them for itself -/

/-- Why such an access does not go on: a translation fault, a line that it may not reach yet, with whether it writes it, or the want of room at
a slice. -/
inductive VErr where
  | fault (va reason pte need : Nat)
  | held (line : Nat) (write : Bool)
  | wait (lack : Lack)
  deriving DecidableEq, Repr

/-- The unit and the context of the access, and what waits where a line is locked. -/
structure Env where
  unit : Nat
  cr   : CtxRegs
  who  : Waiter

/-- A result at a slice, for an access that waits where room is lacking. -/
def roomed {α : Type} (r : Room α) : Except VErr α := r.mapError VErr.wait

/-- An access that does not go on takes its place at the line that holds it up (R368), or has the slice evict what it can for it (R330). -/
def VErr.waitsAs (v : VErr) (who : Waiter) (s : State) : State :=
  match v with
  | .held ln w => engineWait s who ln w
  | .wait v => evictFor s v
  | .fault _ _ _ _ => s
def VErr.waits (v : VErr) (e : Env) (s : State) : State := v.waitsAs e.who s

/-- Translates a VA for an access of a unit's own: the walk waits for a locked line of a table (R368). -/
def envTr (e : Env) (s : State) (va need : Nat) : Except VErr (State × Nat) :=
  match walkWait s e.who e.unit e.cr va with
  | some ln => .error (.held ln false)
  | none => match translate (walksGo s e.who e.unit e.cr [va]) e.unit e.cr va need with
    | (_, .fault r p) => .error (.fault va r p need)
    | (s1, .ok pa) => .ok (s1, pa)

/-- Reads n bytes inside one line: the value, and whether a word of them is uncorrectable. -/
def vmRd (e : Env) (s : State) (va n : Nat) : Except VErr (State × Nat × Bool) :=
  match envTr e s va permR with
  | .error v => .error v
  | .ok (s1, pa) =>
    if lineHeld s1 e.who e.unit (pa / 128) false then .error (.held (pa / 128) false)
    else roomed (homeBytes (engineGoes s1 e.who e.unit (pa / 128)) pa n)

/-- Writes n bytes inside one line. -/
def vmWr (e : Env) (s : State) (va n v : Nat) : Except VErr State :=
  match envTr e s va permW with
  | .error v => .error v
  | .ok (s1, pa) =>
    if lineHeld s1 e.who e.unit (pa / 128) true then .error (.held (pa / 128) true)
    else roomed (homeStore (engineGoes s1 e.who e.unit (pa / 128)) pa n v false true)

/-- Reads n 8-byte words from an aligned address on: the number they make up, and the indices of uncorrectable words. -/
def vmRdWords (e : Env) : Nat → State → Nat → Except VErr (State × Nat × List Nat)
  | 0, s, _ => .ok (s, 0, [])
  | n + 1, s, va => do
    let (s1, v, b) ← vmRd e s va 8
    let (s2, vs, bs) ← vmRdWords e n s1 (va + 8)
    return (s2, v + 2 ^ 64 * vs, (if b then [0] else []) ++ bs.map (fun i => i + 1))

/-- Writes n 8-byte words. -/
def vmWrWords (e : Env) : Nat → State → Nat → Nat → Except VErr State
  | 0, s, _, _ => .ok s
  | n + 1, s, va, v => do
    let s1 ← vmWr e s va 8 (v % 2 ^ 64)
    vmWrWords e n s1 (va + 8) (v / 2 ^ 64)

/-- Writes n whole lines from an aligned address on. -/
def vmWrLines (e : Env) : Nat → State → Nat → Nat → Except VErr State
  | 0, s, _, _ => .ok s
  | n + 1, s, va, v => match envTr e s va permW with
    | .error v => .error v
    | .ok (s1, pa) =>
      if lineHeld s1 e.who e.unit (pa / 128) true then .error (.held (pa / 128) true)
      else match homeWrite (engineGoes s1 e.who e.unit (pa / 128)) (pa / 128) (BitVec.allOnes 128) (BitVec.ofNat 1024 v) 0 with
        | .ok s2 => vmWrLines e n s2 (va + 128) (v / 2 ^ 1024)
        | .error v => .error (.wait v)

/-- Reads an element of at most 8 bytes that may cross into the next line. -/
def vmRdSpan (e : Env) (s : State) (va n : Nat) : Except VErr (State × Nat × Bool) := do
  let k := min n (128 - va % 128)
  let (s1, x, b1) ← vmRd e s va k
  if k = n then return (s1, x, b1)
  else
    let (s2, y, b2) ← vmRd e s1 (va + k) (n - k)
    return (s2, x + y * 256 ^ k, b1 || b2)

/-- Writes such an element. -/
def vmWrSpan (e : Env) (s : State) (va n v : Nat) : Except VErr State := do
  let k := min n (128 - va % 128)
  let s1 ← vmWr e s va k v
  if k = n then return s1 else vmWr e s1 (va + k) (n - k) (v / 256 ^ k)

/-! ## The parameter block (R380-R384) -/

def regPblk (r : Tensor) : Nat := tBase r
def regXtab (r : Tensor) : Nat := (r.extractLsb' 64 40).toNat * 4096
def regXsz (r : Tensor) : Nat := (r.extractLsb' 104 4).toNat

/-- A field of n bytes of a block held as a number. -/
def blk (b off n : Nat) : Nat := (b >>> (8 * off)) % 2 ^ (8 * n)

def blkNd (b : Nat) : Nat := blk b 0 1
def blkH1 (b : Nat) : Nat := blk b 1 1
def blkH2 (b : Nat) : Nat := blk b 2 1
def blkExtent (b i : Nat) : Nat := blk b (8 + 4 * i) 4
def blkParam (b i : Nat) : FVal := fDecode .f16 (blk b (0x80 + 2 * i) 2)
def blkF32 (b off : Nat) : FVal := fDecode .f32 (blk b off 4)
def blkRsvn (b : Nat) : Nat := blk b 0x48 4

/-- The key of a coordinate vector, its filter bit and its bucket (R384). -/
def keyHash (k : Nat) : Nat := k * Config.golden % 2 ^ 64
def filterBit (k : Nat) : Nat := keyHash k / 2 ^ 52
def bucketOf (k xsz : Nat) : Nat := keyHash k / 2 ^ (60 - xsz)
/-- Coordinate i of a key. -/
def coord (k i : Nat) : Nat := k / 2 ^ (16 * i) % 65536

/-- Bytes of a half of a region (R381). -/
def halfBytes (xsz rsvn : Nat) : Nat := (4096 + 16 * 2 ^ (xsz + 8) + 256 * rsvn + 4095) / 4096 * 4096

/-- A line lies among n bytes at a VA of a unit's context. -/
def lineAmong (e : Env) (s : State) (va n ln : Nat) : Bool :=
  (List.range ((va % 65536 + n + 65535) / 65536)).any (fun i =>
    let page := va / 65536 * 65536 + 65536 * i
    match (translate s e.unit e.cr page permR).2 with
    | .ok pa => ln / 512 = pa / 65536 && va / 128 ≤ (page + ln % 512 * 128) / 128 && page + ln % 512 * 128 < va + n
    | .fault _ _ => false)
/-- A line lies in the arena of a block or in the block itself (R381, R397). -/
def lineInArena (e : Env) (s : State) (pblk b xsz ln : Nat) : Bool :=
  lineAmong e s pblk 4096 ln || lineAmong e s (blk b 0x40 8) (2 * halfBytes xsz (blkRsvn b)) ln

/-! ## Evaluation (R385) -/

def f32Mul (a b c : FVal) : FVal := fDecode .f32 (fSumRound .f32 rcNear [fMul a b, c]).bits

/-- One activation: identity, relu, or the table image (R81); whether a word of the image that it read was uncorrectable. -/
def actFn (code : Nat) (table : FMap (BitVec 32 × Bool)) (free : Nat) (a : FVal) : FVal × Bool :=
  match code with
  | 0 => (a, false)
  | 1 => (if a.isNan then fDecode .f32 (etyNan .f32) else if !a.neg? && !a.isZero then a else fDecode .f32 0, false)
  | _ =>
    let r := actEval table a free
    (fDecode .f32 r.1.bits, r.2)

/-- One layer: weights from index w on, row by row, biases from index b on; whether an activation read an uncorrectable word. -/
def layer (blkv : Nat) (w b n : Nat) (x : List FVal) (act : FVal → FVal × Bool) : List FVal × Bool :=
  let ys := (List.range n).map (fun j =>
    act ((x.zipIdx).foldl (fun a e => f32Mul (blkParam blkv (w + j * x.length + e.2)) e.1 a) (blkParam blkv (b + j))))
  (ys.map (fun y => y.1), ys.any (fun y => y.2))

/-- The network's value at a point, in the value format, and whether it read an uncorrectable word of the image. -/
def regionEval (b : Nat) (fmt : Ety) (table : FMap (BitVec 32 × Bool)) (free k : Nat) : Nat × Bool :=
  let nd := blkNd b
  let h1 := blkH1 b
  let h2 := blkH2 b
  let x := (List.range nd).map (fun i =>
    f32Mul (fDecode .f32 (fRoundVal .f32 rcNear (.fin false (coord k i) 0)).bits) (blkF32 b (0x20 + 4 * i)) (blkF32 b (0x30 + 4 * i)))
  let u := layer b 0 (h1 * nd) h1 x (actFn (blk b 3 1) table free)
  let p1 := h1 * nd + h1
  let v := if h2 = 0 then u else layer b p1 (p1 + h2 * h1) h2 u.1 (actFn (blk b 4 1) table free)
  let p := if h2 = 0 then p1 else p1 + h2 * h1 + h2
  let y := (v.1.zipIdx).foldl (fun a e => f32Mul (blkParam b (p + e.2)) e.1 a) (blkParam b (p + v.1.length))
  ((fRoundVal fmt rcNear y).bits, u.2 || v.2)

/-- Parameters that the network of a block has (R383). -/
def blkParams (b : Nat) : Nat :=
  let h1 := blkH1 b
  let h2 := blkH2 b
  h1 * blkNd b + h1 + (if h2 = 0 then h1 else h2 * h1 + h2 + h2) + 1

/-- The activation image at ATAB as a table (R149): word i of its 514 words, from word `i` on, each with the mark of the memory words that hold it,
wherever ATAB lies among the 8-byte words. -/
def readImage (e : Env) : Nat → Nat → State → Nat → Except VErr (State × FMap (BitVec 32 × Bool))
  | 0, _, s, _ => .ok (s, [])
  | n + 1, i, s, atab => do
    let (s1, v, bad) ← vmRdSpan e s (atab + 4 * i) 4
    let (s2, t) ← readImage e n (i + 1) s1 atab
    return (s2, (i, (BitVec.ofNat 32 v, bad)) :: t)

/-- Whether a layer of the block uses the image. -/
def usesImage (b : Nat) : Bool := blk b 3 1 = 2 || (blkH2 b != 0 && blk b 4 1 = 2)

/-- The block of a generation with its image: what a unit reads to evaluate. -/
structure Gen where
  pblk  : Nat
  xtab  : Nat
  xsz   : Nat
  b     : Nat
  badB  : List Nat
  table : FMap (BitVec 32 × Bool)

/-- Reads the block of a record copy, and the image where a layer uses it. -/
def readGen (e : Env) (s : State) (r : Tensor) : Except VErr (State × Gen) := do
  let (s1, b, bad) ← vmRdWords e 256 s (regPblk r)
  if usesImage b then
    let (s2, t) ← readImage e 514 0 s1 (blk b 0x50 8)
    return (s2, ⟨regPblk r, regXtab r, regXsz r, b, bad, t⟩)
  else return (s1, ⟨regPblk r, regXtab r, regXsz r, b, bad, []⟩)

/-- The entries of a table or reserve from an address on, with marks: key, value, flags. -/
def readEntries (e : Env) : Nat → State → Nat → Except VErr (State × List (Nat × Nat × Nat × Bool))
  | 0, s, _ => .ok (s, [])
  | n + 1, s, va => do
    let (s1, k, b1) ← vmRd e s va 8
    let (s2, v, b2) ← vmRd e s1 (va + 8) 8
    let (s3, t) ← readEntries e n s2 (va + 16)
    return (s3, (k, v % 2 ^ 32, v / 2 ^ 32, b1 || b2) :: t)

def entryValid (x : Nat × Nat × Nat × Bool) : Bool := x.2.2.1 % 2 = 1

/-- The address of a bucket and of the reserve (R381, R384). -/
def bucketVa (xtab xsz k : Nat) : Nat := xtab + 256 * bucketOf k xsz
def reserveVa (xtab xsz : Nat) : Nat := xtab + 16 * 2 ^ (xsz + 8)

/-- The 8-byte words of a block that a lane reads for its coordinates (R386), and for the network (R385). -/
def coordWords (b : Nat) : List Nat := if 2 < blkNd b then [0, 1, 2] else [0, 1]
def netWords (b : Nat) : List Nat :=
  (if 2 < blkNd b then [4, 5, 6, 7] else [4, 6]) ++ (if usesImage b then [10] else [])
    ++ (List.range ((blkParams b + 3) / 4)).map (fun i => 16 + i)

/-- The exception of a point in a generation, if it has one: its value and marks of what was read (R387). -/
def findException (e : Env) (s : State) (g : Gen) (k : Nat) : Except VErr (State × Option Nat × Bool) := do
  let fb := filterBit k
  let badF := g.badB.contains (0x80 + fb / 64)
  if !(blk g.b (0x400 + fb / 8) 1).testBit (fb % 8) then return (s, none, badF)
  else
    let (s1, es) ← readEntries e 16 s (bucketVa g.xtab g.xsz k)
    let badE := es.any (fun x => x.2.2.2)
    match es.find? (fun x => entryValid x && x.1 = k) with
    | some x => return (s1, some x.2.1, badF || badE)
    | none =>
      if (es.head?.elim 0 (fun x => x.2.2.1)).testBit 1 then
        let n := blk g.b 0x604 4
        let (s2, rs) ← readEntries e n s1 (reserveVa g.xtab g.xsz)
        let badR := rs.any (fun x => x.2.2.2) || g.badB.contains 0xC0
        match (rs.filter (fun x => entryValid x && x.1 = k)).getLast? with
        | some x => return (s2, some x.2.1, badF || badE || badR)
        | none => return (s2, none, badF || badE || badR)
      else return (s1, none, badF || badE)

/-- A point's value under a generation: its exception, or the network (R387). -/
def regionValue (e : Env) (s : State) (g : Gen) (fmt : Ety) (k : Nat) : Except VErr (State × Nat × Bool) := do
  let (s1, x, badX) ← findException e s g k
  let bad := badX || (coordWords g.b).any (fun i => g.badB.contains i)
  match x with
  | some v => return (s1, v, bad)
  | none =>
    let y := regionEval g.b fmt g.table ((Config.freeWord (s.draw * 65536 + 20500)).toNat % 256) k
    return (s1, y.1, bad || y.2 || (netWords g.b).any (fun i => g.badB.contains i))

/-! ## Coordinates (R386) -/

/-- A lane's coordinates under BMODE: the key of the point, nothing for the lane, or out of bounds. -/
def regionKey (b bmode o : Nat) : Bound :=
  let nd := blkNd b
  if nd < 4 && o / 2 ^ (16 * nd) != 0 then .out
  else
    let outs := (List.range nd).any (fun i => blkExtent b i ≤ coord o i)
    if !outs then .ok o
    else match bmode with
      | 0 => .out
      | 1 => .ok ((List.range nd).foldl (fun a i => a + (if blkExtent b i ≤ coord o i then blkExtent b i - 1 else coord o i) * 2 ^ (16 * i)) 0)
      | 2 => .zero
      | _ => .ok ((List.range nd).foldl (fun a i => a + coord o i % blkExtent b i * 2 ^ (16 * i)) 0)

/-! ## Sprout's queue (R391, R394, R402) -/

def Die.start : Die := { queue := [], jobs := 0, drops := 0, age := 0 }
def State.die (s : State) (d : Nat) : Die := fmGet Die.start s.dies d
def State.setDie (s : State) (d : Nat) (v : Die) : State := { s with dies := fmPut s.dies d v }

/-- The die of a region's anchor slice: the home of its PBLK. -/
def anchorDie (e : Env) (s : State) (pblk : Nat) : Nat :=
  match (translate s e.unit e.cr pblk permR).2 with
  | .ok pa => homeOf pa / 96
  | .fault _ _ => 0

/-- Asks a die's Sprout for a job: it merges with a queued one of the region, joins the queue, or finds it full (R394). The queue's
head is the job in progress once it has started. -/
def askSprout (s : State) (die : Nat) (j : SproutJob) : Option State :=
  let d := s.die die
  if d.queue.any (fun q => q.stage = 0 && q.ctx = j.ctx && q.handle = j.handle) then
    some (s.setDie die { d with queue := d.queue.map (fun q =>
      if q.stage = 0 && q.ctx = j.ctx && q.handle = j.handle then
        { q with waiters := q.waiters ++ j.waiters, more := if j.pblk = q.pblk || q.more.contains j.pblk then q.more else q.more ++ [j.pblk],
                 source := if j.source.isSome then j.source else q.source } else q) })
  else if (d.queue.filter (fun q => q.stage = 0)).length < 16 then some (s.setDie die { d with queue := d.queue ++ [j] })
  else none

/-! ## Region stores (R389-R391) -/

/-- The open block that a store reaches: while a block is CLOSED the record at its home is read again (R389 step 1); none where that record is
uncorrectable (R236). -/
def openBlock (e : Env) (h : Nat) : Nat → State → Tensor → Except VErr (State × Option Tensor)
  | 0, s, r => .ok (s, some r)
  | fuel + 1, s, r => do
    let (s1, st, _) ← vmRd e s (regPblk r + 0x608) 4
    if st % 2 = 0 then return (s1, some r)
    else
      let (s2, v, bad) ← vmRdWords e 4 s1 (recVa e.cr h)
      let r' := BitVec.ofNat 256 v
      if !bad.isEmpty then return (s2, none)
      else if regPblk r' = regPblk r then .error (.wait []) else openBlock e h fuel s2 r'

/-- A region store needs R and W of what it touches (R410). -/
def vmBoth (e : Env) (s : State) (both : Bool) (va : Nat) : Except VErr State :=
  if !both then .ok s
  else (envTr e s va (permR + permW)).map (fun r => r.1)

/-- An entry of a table or of the reserve (R384): key, value, flags. -/
def entryWord (k v flags : Nat) : Nat := k % 2 ^ 64 + v % 2 ^ 32 * 2 ^ 64 + flags % 2 ^ 32 * 2 ^ 96

/-- Inserts one point's value: into its bucket, or into the reserve from `ov` on; the state, and whether an entry was newly made in the
bucket or in the reserve (R389 step 2). The slice writes an entry in one access. -/
def insertPoint (e : Env) (both : Bool) (s : State) (xtab xsz ov k v : Nat) : Except VErr (State × Bool × Bool) := do
  let a := bucketVa xtab xsz k
  let s0 ← vmBoth e s both a
  let (s1, es) ← readEntries e 16 s0 a
  match (es.zipIdx).find? (fun x => entryValid x.1 && x.1.1 = k) with
  | some x => return (← vmWr e s1 (a + 16 * x.2 + 8) 4 v, false, false)
  | none => match (es.zipIdx).find? (fun x => !entryValid x.1) with
    | some x =>
      return (← vmWr e s1 (a + 16 * x.2) 16 (entryWord k v (x.1.2.2.1 ||| 1)), true, false)
    | none =>
      let fl := es.head?.elim 0 (fun x => x.2.2.1)
      let ra := reserveVa xtab xsz + 16 * ov
      let s2 ← vmBoth e (← vmWr e s1 (a + 12) 4 (fl ||| 2)) both ra
      return (← vmWr e s2 ra 16 (entryWord k v 1), false, true)

/-- Inserts points in order; sets their filter bits: the state, entries made, reserve entries made. -/
def insertPoints (e : Env) (both : Bool) (pblk xtab xsz : Nat) : List (Nat × Nat) → State → Nat → Nat → Except VErr (State × Nat × Nat)
  | [], s, made, ov => .ok (s, made, ov)
  | (k, v) :: t, s, made, ov => do
    let (s1, inB, inR) ← insertPoint e both s xtab xsz ov k v
    let fa := pblk + 0x400 + filterBit k / 8
    let (s2, f, _) ← vmRd e s1 fa 1
    let s3 ← vmWr e s2 fa 1 (f ||| 2 ^ (filterBit k % 8))
    insertPoints e both pblk xtab xsz t s3 (if inB || inR then made + 1 else made) (if inR then ov + 1 else ov)

/-- The crew whose instruction makes an access. -/
def envCrew (e : Env) (s : State) : Nat :=
  match e.who with
  | .access key _ => (s.warp key).elim 0 (fun w => w.crew)
  | .fetch key _ => (s.warp key).elim 0 (fun w => w.crew)
  | _ => 0

/-- What one try of a region access gives. -/
inductive RegRes where
  | done (outs : List (Nat × LaneOut))
  | initClear
  | full
  | boundsAt (m : Mask)
  | sealedAt (m : Mask)

/-- Width in bytes of the value format. -/
def fmtN (r : Tensor) : Nat := fmtBytes (tFmt r)

/-- Performs a region load whose elements hold their coordinates as read (R386, R387). -/
def regionLoad (e : Env) (r : Tensor) : List MemEl → State → Gen → Except VErr (State × List (Nat × LaneOut))
  | [], s, _ => .ok (s, [])
  | el :: t, s, g => do
    let fmt := (etyOf (tFmt r)).getD .f32
    match regionKey g.b (tBmode r) el.va with
    | .ok k =>
      let (s1, v, bad) ← regionValue e s g fmt k
      let (s2, outs) ← regionLoad e r t s1 g
      return (s2, (el.idx, ⟨loadLane false (fmtN r) v bad, false, false⟩) :: outs)
    | _ =>
      let (s2, outs) ← regionLoad e r t s g
      return (s2, (el.idx, ⟨Lane.zero, false, false⟩) :: outs)

/-- The lanes of a region store that reach a sealed range (check 6 of R242): through the block's filter and state words, through the
reserve, or through the lane's bucket. -/
def regionSealed (e : Env) (s : State) (r : Tensor) (b : Nat) (els : List MemEl) : Mask :=
  let hit := fun (va n : Nat) => sealHit s (e.cr.asid.toNat % 65536) va n
  let all := hit (regPblk r + 0x400) 0x20C || hit (reserveVa (regXtab r) (regXsz r)) (256 * blkRsvn b)
  elMask els (fun el => match regionKey b (tBmode r) el.va with
    | .ok k => all || hit (bucketVa (regXtab r) (regXsz r) k) 256
    | _ => false)

/-- The 64 KiB pages of a region access (R190): those of the block, of the table and of the head of the reserve. -/
def regionPages (r : Tensor) : List Nat :=
  let a := regXtab r
  let n := 16 * 2 ^ (regXsz r + 8) + 256
  (regPblk r / 65536 :: (List.range ((a + n + 65535) / 65536 - a / 65536)).map (fun i => a / 65536 + i)).eraseDups

/-- The slices that a region access reaches, each by the core's one path to it (R102, R403): the anchor's, and those of its lanes' buckets, of
the reserve and of the image. -/
def regionHomes (e : Env) (s : State) (r : Tensor) (els : List MemEl) : List Nat :=
  let home := fun (va : Nat) => match (translate s e.unit e.cr va permR).2 with
    | .ok pa => [homeOf pa]
    | .fault _ _ => []
  let b := match vmRdWords e 16 s (regPblk r) with
    | .ok (_, b, _) => b
    | .error _ => 0
  home (regPblk r) ++ home (reserveVa (regXtab r) (regXsz r))
    ++ (if usesImage b then home (blk b 0x50 8) ++ home (blk b 0x50 8 + 2055) else []) ++ els.flatMap (fun el => match regionKey b (tBmode r) el.va with
    | .ok k => home (bucketVa (regXtab r) (regXsz r) k)
    | _ => [])

/-- A byte of a region lies at or above 2^52 or in the fabric window (check 3 of R242, R447): of the block and the table, and where the block's head
is known, of the reserve and of the image. -/
def regionPast (cr : CtxRegs) (r : Tensor) (head : Option Nat) : Bool :=
  vaOut cr (regPblk r) 4096 || vaOut cr (regXtab r) (16 * 2 ^ (regXsz r + 8)) || head.any (fun b =>
    vaOut cr (reserveVa (regXtab r) (regXsz r)) (256 * blkRsvn b) || (usesImage b && vaOut cr (blk b 0x50 8) 2056))

/-- A region access whose bytes may not be translated ends before it reads more of them; else it goes on. -/
def regionFits (e : Env) (r : Tensor) (els : List MemEl) (s : State) (go : State → Except VErr (State × RegRes)) : Except VErr (State × RegRes) := do
  let (s1, b, _) ← vmRdWords e 16 s (regPblk r)
  if regionPast e.cr r (some b) then return (s1, if blk b 6 1 % 2 = 0 then .initClear else .boundsAt (elMask els (fun _ => true)))
  else go s1

/-- One try of a region access, from INIT on (R387-R391). -/
def regionTry (e : Env) (s : State) (ctx h : Nat) (r : Tensor) (store : Bool) (els : List MemEl) : Except VErr (State × RegRes) := do
  if !store then regionFits e r els s fun s => do
    let (s1, g) ← readGen e s r
    let out := elMask els (fun el => regionKey g.b (tBmode r) el.va = .out)
    if blk g.b 6 1 % 2 = 0 then return (s1, .initClear)
    else if out != 0 then return (s1, .boundsAt out)
    else
      let (s2, outs) ← regionLoad e r els s1 g
      -- a region whose arena something else has written gives undefined values (R397)
      if s2.foreign.any (lineInArena e s2 g.pblk g.b g.xsz) then
        return ({ s2 with draw := s2.draw + 1 }, .done (outs.map (fun (o : Nat × LaneOut) => (o.1, { o.2 with lane :=
          { o.2.lane with val := (loadLane false (fmtN r) ((Config.freeWord (freeIndex s2 600 o.1)).toNat % 2 ^ (8 * fmtN r)) false).val } }))))
      else return (s2, .done outs)
  else
    let (s1, o) ← openBlock e h 64 s r
    match o with
    | none => return (s1, .initClear)
    | some r1 =>
    let s1 ← vmBoth e s1 true (regPblk r1)
    regionFits e r1 els s1 fun s1 => do
    let (s2, g) ← readGen e s1 r1
    let out := elMask els (fun el => regionKey g.b (tBmode r) el.va = .out)
    if blk g.b 6 1 % 2 = 0 then return (s2, .initClear)
    else if out != 0 then return (s2, .boundsAt out)
    else if regionSealed e s2 r1 g.b els != 0 then return (s2, .sealedAt (regionSealed e s2 r1 g.b els))
    else
      let pts := els.filterMap (fun el => match regionKey g.b (tBmode r) el.va with
        | .ok k => some (k, el.data)
        | _ => none)
      let ov := blk g.b 0x604 4
      if 16 * blkRsvn g.b < ov + pts.length then return (s2, .full)
      else
        let (s3, made, ov') ← insertPoints e true (regPblk r1) (regXtab r1) (regXsz r1) pts s2 0 ov
        let xc := blk g.b 0x600 4 + made
        let s4 ← vmWr e s3 (regPblk r1 + 0x600) 4 xc
        let s5 ← vmWr e s4 (regPblk r1 + 0x604) 4 ov'
        let th := blk g.b 0x1C 4
        let st := blk g.b 0x608 4
        if th != 0 && th < xc && !st.testBit 1 then
          let die := anchorDie e s5 (regPblk r1)
          match askSprout s5 die { ctx := ctx, cregs := e.cr, handle := h, source := none, pblk := regPblk r1, waiters := [], more := [], stage := 0, crew := envCrew e s5 } with
          | some s6 => return (← vmWr e s6 (regPblk r1 + 0x608) 4 (st ||| 2), .done [])
          | none =>
            let d := s5.die die
            return (s5.setDie die { d with drops := min 65535 (d.drops + 1) }, .done [])
        else return (s5, .done [])

/-- The region access that an incomplete instruction of a warp holds back another one by (R99, R403): those of one region are in issue order.
A region is told by its block, or by the handle, whose record may have moved on. -/
def regionBefore (w : Warp) (op h : Nat) (r : Tensor) : Bool :=
  w.pend.any (fun q => q.op < op && (match q.late with
    | .region h' r' _ _ _ _ => regPblk r' = regPblk r || h' = h
    | _ => false))

/-- The next step of a region access: it waits behind pages of earlier entries of the log and for the unit's earlier requests to the
slices that it reaches, is performed, or sends a fault record and waits in the operand log, once that has room (R102, R189, R190, R388, R390,
R403). Where the block could not be read at issue, checks 3 and 6 of R242 are made now, and trap late (DESIGN CHOICE, log 68). -/
def regionStep (s : State) (key : Nat) (p : Pend) : State :=
  match p.late, s.warp key with
  | .region h r store els held slots, some w =>
    match (s.crew w.crew).map (fun c => c.at_ p) with
    | none => s
    | some c =>
      let unit := keyUnit key
      let e : Env := ⟨unit, c.cregs, .access key p.op⟩
      if s.net.any (fun q => q.unit = unit && q.op < p.op && (regionHomes e s r els).contains (lineHome q.line)) || regionBefore w p.op h r
        || (regionPages r).any (fun g => (parkedPages w p.op).contains g) then s
      else
        let late := fun (s : State) (cause : Nat) (info : Word) =>
          let p' := { p with regs := p.regs.map (fun g => { g with clob := g.mask }) }
          raiseLate (completePend s key (if cause = cFITFULL || cause = cRECINV then { p with regs := [] } else p')) key
            { cause := cause, stage := .late, late := true, info := info, pc := p.pc, act := p.act, exec := p.exec, word := p.word,
              slots := none, cycle := s.cycle } p.tm
        match regionTry e s c.ctx h r store els with
        | .error (.fault va reason pte need) =>
          if held.isEmpty && 4 ≤ logCount w then s
          else sendFault (modPend s key p.op (fun p => { p with late := .region h r store els (va / 65536 :: regionPages r) slots }))
            (faultOf c unit (keySlot key) reason (accessByte (if store then permR + permW else need)) va p.pc pte (.access key p.op))
        | .error v => v.waits e s
        | .ok (s1, .initClear) => late s1 cRECINV (BitVec.ofNat 64 h)
        | .ok (s1, .full) => late s1 cFITFULL (maskInfo p.exec)
        | .ok (s1, .boundsAt m) => late s1 cBOUNDS (maskInfo (pairLanes (w.prot && !w.tm) m))
        | .ok (s1, .sealedAt m) => late s1 cSEALW (maskInfo (pairLanes (w.prot && !w.tm) m))
        | .ok (s1, .done outs) =>
          modPend s1 key p.op (fun p => { outs.foldl (fun p o => putLane p (w.prot && !w.tm) o.1 o.2) p with late := .done, ready := max p.ready (s.cycle + 1) })
  | _, _ => s

/-- Issue of LD or ST through a class-3 record: the checks of R386 and R388, then the access is on its way, or in the operand log, behind
the pages of an earlier entry or with a fault of its own (R189, R190). -/
def regionIssue (c : Ctx) (s1 : State) (h : Nat) (r : Tensor) (ety : Nat) (disp : Int) (store : Bool) (vs va : Byte) : Res :=
  let lanes := lanesOf (performLanes c)
  if ety != tFmt r || c.acorn then .trap cRECINV (BitVec.ofNat 64 h)
  else if disp != 0 then .trap cILLOP 0
  else
    let n := fmtN r
    let poi := maskOf (fun l => c.exec.getLsbD l && ((c.val va l).poi != 0 || (store && (c.val vs l).poi.getLsbD 0)))
    if poi != 0 then .trap cPOISON (maskInfo poi)
    else if regionPast c.cregs r none then .trap cBOUNDS (maskInfo c.exec)
    else match c.s.crew c.w.crew with
      | none => .ok s1
      | some cr =>
        let e : Env := ⟨c.unit, cr.cregs, .fetch c.key c.cur.pc⟩
        let els := lanes.map (fun l =>
          ({ idx := l, va := (c.val va l).val.toNat, pa := 0, data := (c.val vs l).val.toNat % 2 ^ (8 * n), expect := 0 } : MemEl))
        -- the static fields are read with the block at issue; where it cannot be read yet, the access reads it once it can
        let blkv := match vmRdWords e 16 c.s (regPblk r) with
          | .ok (_, b, _) => some b
          | .error _ => none
        let bad := match blkv with
          | none => 0
          | some b => maskOf (fun l => c.exec.getLsbD l && regionKey b (tBmode r) (c.val va l).val.toNat = .out)
        let ro := match blkv with
          | none => 0
          | some b => if store then regionSealed e c.s r b els else 0
        if regionPast c.cregs r blkv then .trap cBOUNDS (maskInfo c.exec)
        else if bad != 0 then .trap cBOUNDS (maskInfo bad)
        else if ro != 0 then .trap cSEALW (maskInfo (pairLanes c.protected? ro))
        else
          let enter := fun (s : State) (held : List Nat) =>
            addLate c s (.region h r store els held (slotRows c.s c.key c.w c.cur.word))
              (if store then [] else regWr c.w vs c.exec (fun _ => Lane.zero)) []
          if (regionPages r).any (fun g => (parkedPages c.w c.op).contains g) then .ok (enter s1 (regionPages r))
          else if regionBefore c.w c.op h r then .ok (enter s1 [])
          else match regionTry e s1 cr.ctx h r store els with
            | .error (.fault va reason pte need) =>
              .ok (sendFault (enter s1 (va / 65536 :: regionPages r))
                (faultOf cr c.unit (keySlot c.key) reason (accessByte (if store then permR + permW else need)) va c.cur.pc pte (.access c.key c.op)))
            | _ => .ok (enter s1 [])

end Sys2Proof.Machine
end

