-- ==== Sys2Proof/Machine/MemOps.lean ====
section
/-! DEFINITION. Loads, stores, prefetch, records, atomics (09_core_memory.md R231-R248), the loads of the codebook and activation
tables (R144, R149, R150), the ordering instructions (10_core_ordering.md R265-R269), and the events of a slice's requests. -/

namespace Sys2Proof.Machine

/-! ## Records at issue -/

/-- The instruction is held at issue because its record's address does not translate: the unit reports the page, and the runs at its
PC wait for the answer. -/
def heldIssue (c : Ctx) (s : State) (va reason pte : Nat) : Res :=
  match s.crew c.w.crew with
  | none => .ok c.s
  | some cr =>
    .ok (sendFault c.s (faultOf cr c.unit (keySlot c.key) reason (accessByte permR) va c.cur.pc pte (.fetch c.key c.cur.pc)))

/-- The instruction is held at issue behind a locked line (R368): nothing of it has happened, and it takes its place there. -/
def lockedIssue (c : Ctx) (ln : Nat) : Res := .ok (engineWait c.s (.fetch c.key c.cur.pc) ln false)

/-- A lookup of a record at issue, or the wait for a locked line that it needs. -/
def lookupFor (c : Ctx) (s1 : State) (cr : CtxRegs) (h : Nat) : Except Res (State × Found) :=
  match lookupWait s1 (.fetch c.key c.cur.pc) c.unit cr h with
  | some ln => .error (lockedIssue c ln)
  | none => .ok (lookup (lookupGoes s1 (.fetch c.key c.cur.pc) c.unit cr h) c.unit cr h)

/-- The record of a handle, as an instruction looks it up once at issue (R236): an uncorrectable record is RECINV. A copy found stays
installed where the instruction then traps. -/
def withRecord (c : Ctx) (s1 : State) (h : Nat) (k : State → Tensor → Res) : Res :=
  match s1.crew c.w.crew with
  | none => .ok s1
  | some cr => match lookupFor c s1 cr.cregs h with
    | .error r => r
    | .ok (s2, .fault va r p) => heldIssue c s2 va r p
    | .ok (s2, .found r bad) => if bad != 0 then .trapIn cRECINV (BitVec.ofNat 64 h) s2 else Res.keeping s2 (k s2 r)

/-! ## Loads, stores and atomics -/

/-- How an instruction names its addresses: a record, raw VAs, the crew's own scratchpad. -/
inductive Names where
  | record (h : BitVec 12)
  | raw
  | own

/-- A scratchpad form names the own space with HND 0 (R240). -/
def spNames (h : BitVec 12) : Names := if h = 0 then .own else .record h

def kindWrites (k : MemKind) : Bool :=
  match k with
  | .load _ => false
  | .prefetch => false
  | _ => true

/-- The size in bytes of a type code. -/
def codeBytes (f : Byte) : Nat := codeWidth (f.toNat % 16) / 8

/-- The access of an instruction past its checks (R226, R277). -/
def mkOp (c : Ctx) (kind : MemKind) (n : Nat) (r : Option Tensor) (els : List MemEl) (space : Space) : MemOp :=
  let hint := c.h.hint
  let coh := match r with
    | some r => tCoh r
    | none => 0
  let home : Bool := match space with
    | .cached => c.acorn || hint = 3 || (kind = .store && (hint = 1 || coh = 3))
    | _ => false
  { kind := kind, ety := c.h.f.toNat % 16, size := n, space := if home then .home else space,
    fills := !c.acorn && hint != 1 && hint != 3 && coh != 3, keep := hint = 2, seals := coh = 2, pair := c.protected?,
    tensor := r, els := els, fail := none }

/-- The elements of an instruction's lanes: offset values, operands, expected values. -/
def laneEls (c : Ctx) (va : Byte) (data expect : Nat → Nat) : List MemEl :=
  (lanesOf (performLanes c)).map (fun l => { idx := l, va := (c.val va l).val.toNat, pa := 0, data := data l, expect := expect l })

/-- Issue of a lane-wise access (R237, R242): `poison` holds the lanes with a poisoned address or operand; `region` names the data
register of LD and ST, which alone accept class 3. -/
def memIssue (c : Ctx) (s1 : State) (kind : MemKind) (names : Names) (disp : Int) (n : Nat) (classes : List Nat) (poison : Mask)
    (els : List MemEl) (region : Option (Byte × Byte)) (regs : List RegWr) (preds : List PredWr) : Res :=
  match c.s.crew c.w.crew with
  | none => .ok s1
  | some cr =>
    let check := fun (s : State) (via : Via) => memCheck s c.w.crew cr c.w.tm c.protected? (keySlot c.key / 8) via disp n classes (kindWrites kind) poison els
    let go := fun (s : State) (r : Option Tensor) (ch : Checked) => match ch with
      | .trap cause info => Res.trap cause info
      | .ok es space => .ok (memStart c s (mkOp c kind n r es space) regs preds)
    match names with
    | .raw => go s1 none (check s1 .raw)
    | .own => go s1 none (check s1 .own)
    | .record h => withRecord c s1 h.toNat (fun s2 r =>
        match tensorValid r && tClass r = 3, region with
        | true, some (vs, va) => regionIssue c s2 h.toNat r (c.h.f.toNat % 16) disp (kindWrites kind) vs va
        | _, _ => go s2 (some r) (check s2 (.tensor h.toNat r)))

/-- Lanes with a poisoned address half (R74). -/
def vaPoison (c : Ctx) (va : Byte) : Mask := maskOf (fun l => c.exec.getLsbD l && (c.val va l).poi != 0)
/-- Lanes with a poisoned half among the n bytes of an operand. -/
def dataPoison (c : Ctx) (vs : Byte) (n : Nat) : Mask :=
  maskOf (fun l => c.exec.getLsbD l && (if n = 8 then (c.val vs l).poi != 0 else (c.val vs l).poi.getLsbD 0))
/-- The low n bytes of an operand. -/
def opVal (c : Ctx) (vs : Byte) (n : Nat) (l : Nat) : Nat := (c.val vs l).val.toNat % 2 ^ (8 * n)

/-- A scratchpad form whose address is its displacement alone, out of the own space: SPBOUND at check 10 (R41, R242). -/
def spEarly (c : Ctx) (own : Bool) (va : Byte) (disp : Int) : Option Nat :=
  if own && va = 240 then
    match c.s.crew c.w.crew with
    | some cr => if disp < 0 || spOut cr true c.w.tm (keySlot c.key / 8) disp.toNat 1 then some cSPBOUND else none
    | none => none
  else none

/-- A load into vd. -/
def loadBody (c : Ctx) (s1 : State) (names : Names) (o : OpM) (classes : List Nat) (region : Bool) : Res :=
  let n := codeBytes c.h.f
  protGuard c (fun l => [(c.val o.o2 l).val]) (
    memIssue c s1 (.load (.reg (c.h.f.toNat % 16 < 4) c.protected?)) names o.disp.toInt n classes (vaPoison c o.o2)
      (laneEls c o.o2 (fun _ => 0) (fun _ => 0)) (if region then some (o.o1, o.o2) else none)
      (regWr c.w o.o1 c.exec (fun _ => Lane.zero)) [])

/-- A store of vs. -/
def storeBody (c : Ctx) (s1 : State) (names : Names) (o : OpM) (classes : List Nat) (region : Bool) : Res :=
  let n := codeBytes c.h.f
  protGuard c (fun l => [(c.val o.o2 l).val, BitVec.ofNat 64 (opVal c o.o1 n l)]) (
    memIssue c s1 .store names o.disp.toInt n classes (vaPoison c o.o2 ||| dataPoison c o.o1 n)
      (laneEls c o.o2 (opVal c o.o1 n) (fun _ => 0)) (if region then some (o.o1, o.o2) else none) [] [])

/-- ATOM and ATOMS: vd holds the operand and takes the old value (R246, R247). -/
def atomBody (c : Ctx) (s1 : State) (names : Names) (o : OpM) (classes : List Nat) : Res :=
  let n := codeBytes c.h.f
  protGuard c (fun l => [(c.val o.o2 l).val, BitVec.ofNat 64 (opVal c o.o1 n l)]) (
    memIssue c s1 (.atom (.op (c.h.f.toNat / 16))) names o.disp.toInt n classes (vaPoison c o.o2 ||| dataPoison c o.o1 n)
      (laneEls c o.o2 (opVal c o.o1 n) (fun _ => 0)) none (regWr c.w o.o1 c.exec (fun _ => Lane.zero)) [])

/-- RED and REDS (R248). -/
def redBody (c : Ctx) (s1 : State) (names : Names) (o : OpM) (classes : List Nat) : Res :=
  let n := codeBytes c.h.f
  protGuard c (fun l => [(c.val o.o2 l).val, BitVec.ofNat 64 (opVal c o.o1 n l)]) (
    memIssue c s1 (.red (c.h.f.toNat / 16)) names o.disp.toInt n classes (vaPoison c o.o2 ||| dataPoison c o.o1 n)
      (laneEls c o.o2 (opVal c o.o1 n) (fun _ => 0)) none [] [])

/-- The displacement of CAS and CASS, DISP[15:0] (R245). -/
def casDisp (o : OpM) : Int := (o.disp.setWidth 16).toInt
/-- The predicate of CAS and CASS as an operand byte. -/
def casPred (o : OpM) : Byte := BitVec.ofNat 8 (248 + (o.disp.toNat / 2 ^ 16) % 8)

/-- CAS and CASS: expected in vd, new in vd + 1 (R245, R247). The expected value supplies no stored byte, so its poison does not trap, and
pd is written clean (R72, R74). -/
def casBody (c : Ctx) (s1 : State) (names : Names) (o : OpM) (classes : List Nat) : Res :=
  let n := codeBytes c.h.f
  protGuard c (fun l => [(c.val o.o2 l).val, BitVec.ofNat 64 (opVal c o.o1 n l), BitVec.ofNat 64 (opVal c (o.o1 + 1) n l)]) (
    memIssue c s1 (.atom .cas) names (casDisp o) n classes (vaPoison c o.o2 ||| dataPoison c (o.o1 + 1) n)
      (laneEls c o.o2 (opVal c (o.o1 + 1) n) (opVal c o.o1 n)) none (regWr c.w o.o1 c.exec (fun _ => Lane.zero))
      (predWr (casPred o) c.exec 0 0))

/-- LD (R240, R241). -/
def execLd (h : Hdr) (o : OpM) (s : State) : Host.Outcome State Fault Refusal :=
  issue (.ld h o) h s (fun c s1 => loadBody c s1 (.record o.hnd) o [1, 2, 4, 5] true)
/-- ST (R257). -/
def execSt (h : Hdr) (o : OpM) (s : State) : Host.Outcome State Fault Refusal :=
  issue (.st h o) h s (fun c s1 => storeBody c s1 (.record o.hnd) o [1, 2, 4, 5] true)
/-- LDA (R240). -/
def execLda (h : Hdr) (o : OpM) (s : State) : Host.Outcome State Fault Refusal :=
  issue (.lda h o) h s (fun c s1 => loadBody c s1 .raw o [] false)
/-- STA (R240). -/
def execSta (h : Hdr) (o : OpM) (s : State) : Host.Outcome State Fault Refusal :=
  issue (.sta h o) h s (fun c s1 => storeBody c s1 .raw o [] false)
/-- LDS (R240): on the Acorn only through a record (R276). -/
def execLds (h : Hdr) (o : OpM) (s : State) : Host.Outcome State Fault Refusal :=
  issueWith (.lds h o) h s (fun c => c.acorn && o.hnd = 0) (fun c => spEarly c (o.hnd = 0) o.o2 o.disp.toInt)
    (fun c s1 => loadBody c s1 (spNames o.hnd) o [5] false)
/-- STS (R240). -/
def execSts (h : Hdr) (o : OpM) (s : State) : Host.Outcome State Fault Refusal :=
  issueWith (.sts h o) h s (fun c => c.acorn && o.hnd = 0) (fun c => spEarly c (o.hnd = 0) o.o2 o.disp.toInt)
    (fun c s1 => storeBody c s1 (spNames o.hnd) o [5] false)
/-- ATOM (R247). -/
def execAtom (h : Hdr) (o : OpM) (s : State) : Host.Outcome State Fault Refusal :=
  issue (.atom h o) h s (fun c s1 => atomBody c s1 (.record o.hnd) o [1, 2, 4, 5])
/-- CAS (R247). -/
def execCas (h : Hdr) (o : OpM) (s : State) : Host.Outcome State Fault Refusal :=
  issue (.cas h o) h s (fun c s1 => casBody c s1 (.record o.hnd) o [1, 2, 4, 5])
/-- RED (R248). -/
def execRed (h : Hdr) (o : OpM) (s : State) : Host.Outcome State Fault Refusal :=
  issue (.red h o) h s (fun c s1 => redBody c s1 (.record o.hnd) o [1, 2, 4, 5])
/-- ATOMS (R247). -/
def execAtoms (h : Hdr) (o : OpM) (s : State) : Host.Outcome State Fault Refusal :=
  issueWith (.atoms h o) h s (fun c => c.acorn && o.hnd = 0) (fun c => spEarly c (o.hnd = 0) o.o2 o.disp.toInt)
    (fun c s1 => atomBody c s1 (spNames o.hnd) o [5])
/-- CASS (R247). -/
def execCass (h : Hdr) (o : OpM) (s : State) : Host.Outcome State Fault Refusal :=
  issueWith (.cass h o) h s (fun c => c.acorn && o.hnd = 0) (fun c => spEarly c (o.hnd = 0) o.o2 (casDisp o))
    (fun c s1 => casBody c s1 (spNames o.hnd) o [5])
/-- REDS (R248). -/
def execReds (h : Hdr) (o : OpM) (s : State) : Host.Outcome State Fault Refusal :=
  issueWith (.reds h o) h s (fun c => c.acorn && o.hnd = 0) (fun c => spEarly c (o.hnd = 0) o.o2 o.disp.toInt)
    (fun c s1 => redBody c s1 (spNames o.hnd) o [5])

/-- PREF (R244): an access of its type's size (R240); lanes whose checks or translations would fail drop out; nothing traps. -/
def execPref (h : Hdr) (o : OpM) (s : State) : Host.Outcome State Fault Refusal :=
  issue (.pref h o) h s (fun c s1 => protGuard c (fun l => [(c.val o.o2 l).val]) (
    match c.s.crew c.w.crew with
    | none => .ok s1
    | some cr => match lookupFor c s1 cr.cregs o.hnd.toNat with
      | .error r => r
      | .ok (s2, .fault _ _ _) => .ok (addDone c s2 [] [])
      | .ok (s2, .found r bad) =>
        let els := (laneEls c o.o2 (fun _ => 0) (fun _ => 0)).flatMap (fun e =>
          match memCheck s2 c.w.crew cr c.w.tm c.protected? (keySlot c.key / 8) (.tensor o.hnd.toNat r) o.disp.toInt (codeBytes h.f) [1, 2, 4] false
              (vaPoison c o.o2 &&& (1#32 <<< e.idx)) [e] with
          | .trap _ _ => []
          | .ok es _ => es.filterMap (fun e => match (translate s2 c.unit cr.cregs e.va permR).2 with
            | .ok pa => some { e with pa := pa }
            | .fault _ _ => none))
        if bad != 0 || els.isEmpty then .ok (addDone c s2 [] [])
        else
          let m := mkOp c .prefetch (codeBytes h.f) (some r) els .cached
          .ok (memPerform (addLate c s2 (.parked m []) [] []) c.unit c.key c.op c.w.crew cr.cregs cr.ctx m)))

/-! ## Records (R239) -/

/-- The lowest participating lane. -/
def Ctx.low (c : Ctx) : Nat := (lowestLane c.exec).getD 0
def Ctx.ctxId (c : Ctx) : Nat := match c.s.crew c.w.crew with
  | some cr => cr.ctx
  | none => 0

/-- RECSET (R239). -/
def execRecset (h : Hdr) (o : OpM) (s : State) : Host.Outcome State Fault Refusal :=
  issue (.recset h o) h s (fun c s1 =>
    let v := fun (k : Nat) => c.val (o.o2 + BitVec.ofNat 8 k) c.low
    if (List.range 4).any (fun k => (v k).poi != 0) then .trap cPOISON (laneInfo c.low)
    else
      let els := (List.range 4).map (fun k =>
        ({ idx := k, va := recVa c.cregs o.hnd.toNat, pa := 0, data := (v k).val.toNat, expect := o.hnd.toNat } : MemEl))
      .ok (memStart c s1 { mkOp c .recSet 32 none els .home with pair := false } [] []))

/-- RECGET (R239): it traps on no record. -/
def execRecget (h : Hdr) (o : OpM) (s : State) : Host.Outcome State Fault Refusal :=
  issue (.recget h o) h s (fun c s1 =>
    match lookupFor c s1 c.cregs o.hnd.toNat with
    | .error r => r
    | .ok (s2, .fault va r p) => heldIssue c s2 va r p
    | .ok (s2, .found r bad) =>
      .ok (addDone c s2 ((List.range 4).flatMap (fun k =>
        regWr c.w (o.o1 + BitVec.ofNat 8 k) c.exec (fun _ => ⟨r.extractLsb' (64 * k) 64, bothPoison (bad.getLsbD k)⟩))) []))

/-- RECINV (R239). -/
def execRecinv (h : Hdr) (o : OpM) (s : State) : Host.Outcome State Fault Refusal :=
  issue (.recinv h o) h s (fun c s1 => .ok (addDone c (dropRecord s1 c.ctxId o.hnd.toNat) [] []))

/-- RECGEN acts once, in lane L; every participating lane's vd receives the new GEN (R239; DESIGN CHOICE, log 80). -/
def execRecgen (h : Hdr) (o : OpM) (s : State) : Host.Outcome State Fault Refusal :=
  issue (.recgen h o) h s (fun c s1 =>
    let el : MemEl := { idx := c.low, va := recVa c.cregs o.hnd.toNat, pa := 0, data := 0, expect := o.hnd.toNat }
    .ok (memStart c s1 { mkOp c .recGen 32 none [el] .home with pair := false } (regWr c.w o.o1 c.exec (fun _ => Lane.zero)) []))

/-! ## The codebook and the activation tables (R144, R149, R150) -/

/-- The address of a table load through a class-1 record, after its checks (R144). `engine` for WLOAD.cb and CVTTAB, which test their bounds
first; WLOAD.cb asks its offset alone to be aligned (R287). A byte in the fabric window, or at or above 2^52, fails the bounds check, for CBLD
and ACTLD too, which R447 does not name (DESIGN CHOICE, log 85). -/
def tableAddr (c : Ctx) (r : Tensor) (h : Nat) (va : Byte) (disp : Int) (len align : Nat) (engine offset : Bool) : Except (Nat × Word) Nat :=
  let v := c.val va c.low
  let x : Int := (v.val.toNat : Int) + disp
  let a : Int := (tBase r : Int) + x
  let out := x < 0 || (tExtent r : Int) < x + len || vaOut c.cregs a.toNat len
  let mis := (if offset then x else a) % align != 0
  if !tensorValid r || tClass r != 1 then .error (cRECINV, BitVec.ofNat 64 h)
  else if v.poi != 0 then .error (cPOISON, laneInfo c.low)
  else if engine && out then .error (cBOUNDS, laneInfo c.low)
  else if mis then .error (cMISALIGN, laneInfo c.low)
  else if out then .error (cBOUNDS, laneInfo c.low)
  else .ok a.toNat

/-- A load of n words into a table of the core. -/
def tableBody (c : Ctx) (s1 : State) (o : OpM) (words : Nat) (sink : Sink) : Res :=
  withRecord c s1 o.hnd.toNat (fun s2 r =>
    match tableAddr c r o.hnd.toNat o.o2 o.disp.toInt (4 * words) 4 false false with
    | .error (cause, info) => .trap cause info
    | .ok a =>
      let els := (List.range words).map (fun j => ({ idx := j, va := a + 4 * j, pa := 0, data := 0, expect := 0 } : MemEl))
      .ok (memStart c s2 { mkOp c (.load sink) 4 (some r) els .cached with pair := false } [] []))

/-- CBLD (R144). -/
def execCbld (h : Hdr) (o : OpM) (s : State) : Host.Outcome State Fault Refusal :=
  issue (.cbld h o) h s (fun c s1 => tableBody c s1 o 256 .codebook)
/-- ACTLD (R149). -/
def execActld (h : Hdr) (o : OpM) (s : State) : Host.Outcome State Fault Refusal :=
  issue (.actld h o) h s (fun c s1 => tableBody c s1 o 514 (.actTable (h.f.toNat % 4)))
/-- ACTSW (R150). -/
def execActsw (h : Hdr) (o : OpR) (s : State) : Host.Outcome State Fault Refusal :=
  issue (.actsw h o) h s (fun c s1 => .ok (addLate c s1 (.actSwap (h.f.toNat % 4)) [] []))

/-- An ACTLD or ACTSW of a table on a core before an operation (R149, R150): one of a warp that is on the core, or of an ended warp of a crew there;
one that a saved crew has taken with it holds nothing (DESIGN CHOICE, log 89). -/
def actBefore (s : State) (core table op : Nat) (swaps : Bool) : Bool :=
  s.warps.any (fun kw => keyUnit kw.1 = core && kw.2.pend.any (fun p => p.op < op && (match p.late with
    | .load _ (.actTable n) => n = table
    | .parked m _ => m.kind = .load (.actTable table)
    | .held m => m.kind = .load (.actTable table)
    | .actSwap n => swaps && n = table
    | _ => false)))

/-- Words of a load as table entries: number, value, poison. -/
def elemWords (es : List Elem) : List (Nat × BitVec 32 × Bool) := es.map (fun e => (e.idx, (BitVec.ofNat 32 e.val, e.bad)))

/-- The table load whose words have all arrived is written whole: CBLD in any order, ACTLD in its turn and not while an ACT reads the
bank (R144, R149). -/
def tableLand (s : State) (key : Nat) (p : Pend) (es : List Elem) (sink : Sink) : State :=
  let core := keyUnit key
  match sink with
  | .codebook =>
    completePend (s.modCore core (fun c => { c with
      codebook := some ((elemWords es).map (fun e => (e.1, (e.2.1.setWidth 24, e.2.2)))) })) key p
  | .actTable n =>
    let t := (s.core core).act.getD n ActTable.start
    if actBefore s core n p.op true || s.cycle < t.busy || t.swapped = some s.cycle then s
    else completePend (s.modCore core (fun c => { c with act := c.act.set n { t with shadow := elemWords es } })) key p
  | .reg _ _ => s

/-- ACTSW at its table: it exchanges the banks at the end of a cycle, one exchange a cycle, once every earlier ACTLD of the table on the
core has completed (R150). The old current bank may be written only after the ACTs that read it (R149). -/
def actSwapStep (s : State) (key : Nat) (p : Pend) (n : Nat) : State :=
  let core := keyUnit key
  let t := (s.core core).act.getD n ActTable.start
  if actBefore s core n p.op true || t.swapped = some s.cycle then s
  else completePend (s.modCore core (fun c => { c with
    act := c.act.set n { t with cur := t.shadow, shadow := t.cur, busy := max t.busy t.read, read := 0, swapped := some s.cycle } })) key p

/-! ## SPALLOC, SPFREE, SPFENCE (R231-R233) -/

/-- No set of the core holds more than 11 pinned lines (R228). -/
def pinsFit (s : State) (core : Nat) : Bool := (List.range 512).all (fun st => pinnedIn s core st ≤ 11)
/-- Unpinned lines give way to pinned ones (R228). -/
def pinEvict (s : State) (core : Nat) : State :=
  (List.range 512).foldl (fun s st => l1Shrink core st (12 - pinnedIn s core st) 13 s) s

/-- An earlier access to a crew's scratchpad that has reached the core and has not completed: a scratchpad access, an arrival, queue or tile
operation; one that waits in its queue, or for the flip of its arrival word, is at its bank (R232). -/
def banksOut (s : State) (crew op : Nat) : Bool :=
  s.warps.any (fun e => e.2.pend.any (fun p => p.op < op && (match p.late with
    | .banks m => m.space = .scratch crew
    | .arrival cr _ _ => cr = crew
    | .await cr _ _ => cr = crew
    | .queueReq cr q _ _ => cr = crew && !queueHeld e.2 p.op cr q
    | .queueWait cr _ _ _ => cr = crew
    | .queueTry cr q _ _ => cr = crew && !queueHeld e.2 p.op cr q
    | .queueStat cr q => cr = crew && !queueHeld e.2 p.op cr q
    | .queuePut cr _ _ => cr = crew
    | .queueInit cr q _ => cr = crew && !queueHeld e.2 p.op cr q
    | .tilePark t _ => t.crew = crew
    | .tileHeld t => t.crew = crew
    | .tile id banks => banks && s.tiles.any (fun t => t.id = id && t.crew = crew)
    | _ => false)))

/-- An SPFREE of a crew before an operation waits. -/
def freeWaits (s : State) (crew op : Nat) : Bool :=
  s.warps.any (fun e => e.2.crew = crew && e.2.pend.any (fun p => p.op < op && (match p.late with
    | .spfree => true
    | _ => false)))

/-- SPALLOC's next step: behind an SPFREE of the crew it waits; then it pins and zeroes the new lines and raises the top, or changes
nothing (R232). -/
def spallocStep (s : State) (key : Nat) (p : Pend) (n : Nat) : State :=
  match s.warp key with
  | none => s
  | some w => match s.crew w.crew with
    | none => s
    | some cr =>
      let give := fun (s : State) (v : Word) => modPend s key p.op (fun p => { p with
        late := .done, ready := s.cycle + 1, regs := p.regs.map (fun r => { r with row := mkRow (fun _ => ⟨v, 0⟩) }) })
      let top := cr.top + n
      let s1 := s.setCrew w.crew { cr with
        top := top, pins := top, sp := cr.sp.filter (fun e => e.1 < cr.top), spBad := cr.spBad.filter (fun e => e.1 * 8 < cr.top) }
      if freeWaits s w.crew p.op then s
      else if top ≤ Config.spLimit && pinsFit s1 (keyUnit key) then give (pinEvict s1 (keyUnit key)) (BitVec.ofNat 64 cr.top)
      else give s (BitVec.allOnes 64)

/-- SPFREE's next step: once the accesses before it have reached their banks, the lines are unpinned and their contents are gone (R232). -/
def spfreeStep (s : State) (key : Nat) (p : Pend) : State :=
  match s.warp key with
  | none => s
  | some w =>
    if banksOut s w.crew p.op || freeWaits s w.crew p.op then s
    else modPend (s.modCrew w.crew (fun c => { c with
        pins := c.top, sp := c.sp.filter (fun e => e.1 < c.top), spBad := c.spBad.filter (fun e => e.1 * 8 < c.top) })) key p.op
      (fun p => { p with late := .done, ready := max p.ready (s.cycle + 1) })

/-- Leaves an instruction incomplete and lets it take its first step. -/
def addStep (c : Ctx) (s : State) (late : Late) (regs : List RegWr) (preds : List PredWr) (step : State → Pend → State) : State :=
  let s1 := addLate c s late regs preds
  match s1.warp c.key with
  | none => s1
  | some w => match findPend w c.op with
    | some p => step s1 p
    | none => s1

/-- SPALLOC (R232). -/
def execSpalloc (h : Hdr) (o : OpI) (s : State) : Host.Outcome State Fault Refusal :=
  issue (.spalloc h o) h s (fun c s1 =>
    .ok (addStep c s1 (.spalloc o.imm.toNat) (regWr c.w o.o1 c.exec (fun _ => Lane.zero)) []
      (fun s p => spallocStep s c.key p o.imm.toNat)))

/-- SPFREE (R232): the top falls at issue. -/
def execSpfree (h : Hdr) (o : OpI) (s : State) : Host.Outcome State Fault Refusal :=
  issue (.spfree h o) h s (fun c s1 =>
    match s1.crew c.w.crew with
    | none => .ok s1
    | some cr =>
      if cr.top < cr.spBytes + Config.trapArea + o.imm.toNat then .trap cSPBOUND (laneInfo c.low)
      else .ok (addStep c (s1.setCrew c.w.crew { cr with top := cr.top - o.imm.toNat }) .spfree [] [] (fun s p => spfreeStep s c.key p)))

/-- The slabs of a core's crew that a range of crew addresses overlaps (R233); an empty range overlaps none. -/
def slabHit (x : Slab) (core crew base len : Nat) : Bool :=
  x.core = core && x.crew = crew && 0 < len && (List.range x.rows.length).any (fun i =>
    let a := x.base + i * x.stride
    a < base + len && base < a + x.bytes)
/-- An earlier scratchpad write of the warp has not completed at its bank (R233): a PUSH that waits in its queue, or behind one, too. -/
def writesOut (s : State) (w : Warp) (op : Nat) : Bool :=
  w.pend.any (fun p => p.op < op && (match p.late with
    | .banks m => kindWrites m.kind
    | .arrival _ (.await _) _ => false
    | .arrival _ .test _ => false
    | .arrival _ _ _ => true
    | .queueReq _ _ k _ => k = .push || !scratchWaits w p.op
    | .queueWait _ _ k _ => k = .push
    | .queueTry _ _ k _ => k = .push || !scratchWaits w p.op
    | .queuePut _ _ _ => true
    | .queueInit _ _ _ => true
    | .tilePark t _ => !t.store
    | .tileHeld t => !t.store
    | .tile id _ => s.tiles.any (fun t => t.id = id && !t.store)
    | _ => false))
/-- SPFENCE at its end: the slabs of the range leave the operand cache (R233). -/
def spfenceStep (s : State) (key : Nat) (p : Pend) (base len : Nat) : State :=
  match s.warp key with
  | none => s
  | some w =>
    if writesOut s w p.op then s
    else completePend (s.modCluster (unitCluster (keyUnit key)) (fun k => { k with
      slabs := k.slabs.filter (fun x => !slabHit x (keyUnit key) w.crew base len) })) key p

/-- SPFENCE (R233). -/
def execSpfence (h : Hdr) (o : OpR) (s : State) : Host.Outcome State Fault Refusal :=
  issue (.spfence h o) h s (fun c s1 =>
    let a := c.val o.o2 c.low
    let b := c.val o.o3 c.low
    match s1.crew c.w.crew with
    | none => .ok s1
    | some cr =>
      if a.poi != 0 || b.poi != 0 then .trap cPOISON (laneInfo c.low)
      else if cr.top < a.val.toNat + b.val.toNat then .trap cSPBOUND (laneInfo c.low)
      else .ok (addLate c s1 (.spfence a.val.toNat b.val.toNat) [] []))

/-! ## Ordering (R265-R269) -/

/-- The warp issues no M-pipe instruction until this one has completed. -/
def blockM (c : Ctx) (s : State) : State := s.modWarp c.key (fun w => { w with blockM := w.blockM ++ [c.op] })

/-- ACQ (R266): it reaches the L1 at issue and completes 4 cycles later. The Acorn has nothing to discard (R277). -/
def execAcq (h : Hdr) (o : OpR) (s : State) : Host.Outcome State Fault Refusal :=
  issue (.acq h o) h s (fun c s1 => protGuard c (fun _ => []) (
    if c.acorn then .ok (addDone c s1 [] [])
    else
      let s2 := l1Acquire s1 c.unit
      .ok (blockM c (s2.modWarp c.key (fun w => addPend w (pendOf c (s2.cycle + 4) .done [] []))))))

/-- REL (R267). -/
def execRel (h : Hdr) (o : OpR) (s : State) : Host.Outcome State Fault Refusal :=
  issue (.rel h o) h s (fun c s1 => protGuard c (fun _ => []) (.ok (addLate c s1 (.rel (o.x = 1)) [] [])))

/-- ACQR (R268). -/
def execAcqr (h : Hdr) (o : OpR) (s : State) : Host.Outcome State Fault Refusal :=
  issue (.acqr h o) h s (fun c s1 => protGuard c (fun l => [(c.val o.o2 l).val]) (
    let v := c.val o.o2 c.low
    if v.poi != 0 then .trap cPOISON (laneInfo c.low)
    else if 1216 ≤ v.val.toNat then .trap cBOUNDS (laneInfo c.low)
    else .ok (blockM c (addLate c s1 (.acqr v.val.toNat) [] []))))

/-- FENCE (R269). -/
def execFence (h : Hdr) (o : OpR) (s : State) : Host.Outcome State Fault Refusal :=
  issue (.fence h o) h s (fun c s1 => protGuard c (fun _ => []) (.ok (blockM c (addLate c s1 .fence [] []))))

/-- Registrations of a unit that it sent before an operation, or of one warp's instructions before it, have not been acknowledged (R258,
R267, R268). -/
def regsOut (s : State) (unit : Nat) (key : Option Nat) (op : Nat) : Bool :=
  s.net.any (fun r => r.unit = unit && (match key with
    | some k => r.key = k && r.op < op
    | none => r.id < op) && (reqStore r.kind).isSome)

/-- An earlier ACQR has not been served at a core (R268). -/
def acqrBefore (s : State) (core op : Nat) : Bool :=
  s.warps.any (fun e => e.2.pend.any (fun p => p.op < op && p.late = .acqr core))

/-- ACQR at its target, in the order of arrival: registrations delivered, then both self-invalidations; a core with no crew replies at once
(R268). -/
def acqrStep (s : State) (key : Nat) (p : Pend) (t : Nat) : State :=
  if acqrBefore s t p.op then s
  else if !s.crews.any (fun e => e.2.unit = t) then completePend (l1Acquire s (keyUnit key)) key p
  else if regsOut s t none p.op then s
  else completePend (l1Acquire (l1Acquire s t) (keyUnit key)) key p

/-- An earlier access of the warp to its own core has not completed: a load, a store into L1, a scratchpad access (R243, R269). -/
def coreOut (w : Warp) (op : Nat) : Bool :=
  let near := fun (m : MemOp) => match m.kind with
    | .load _ => true
    | .store => m.space != .home
    | _ => match m.space with
      | .scratch _ => true
      | _ => false
  w.pend.any (fun p => p.op < op && p.mpipe && (match p.late with
    | .load _ _ => true
    | .banks _ => true
    | .parked m _ => near m
    | .held m => near m
    | .region _ _ store _ _ _ => !store
    | .arrival _ _ _ => true
    | .await _ _ _ => true
    | .queueReq _ _ _ _ => true
    | .queueWait _ _ _ _ => true
    | .queueTry _ _ _ _ => true
    | .queueStat _ _ => true
    | .queuePut _ _ _ => true
    | .queueInit _ _ _ => true
    | .tilePark _ _ => true
    | .tileHeld _ => true
    | .tile _ banks => banks
    | .done => true
    | _ => false))

/-- An earlier instruction of the warp still accesses memory or scratchpad (R204, R267). -/
def accessOut (w : Warp) (op : Nat) : Bool :=
  coreOut w op || w.pend.any (fun p => p.op < op && p.mpipe && (match p.late with
    | .parked _ _ => true
    | .held _ => true
    | .replies _ => true
    | .region _ _ _ _ _ _ => true
    | .tile _ _ => true
    | _ => false))

/-- FENCE completes (R269). -/
def fenceStep (s : State) (key : Nat) (p : Pend) : State :=
  match s.warp key with
  | some w => if coreOut w p.op then s else completePend s key p
  | none => s

/-- Copies of a warp accepted or waiting before an operation have not finished (R267, R322). -/
def copiesOut (s : State) (key op : Nat) : Bool :=
  (s.cluster (unitCluster (keyUnit key))).copies.any (fun c => c.key = key && c.op < op && c.table.isNone)
    || (match s.warp key with
      | some w => w.pend.any (fun p => p.op < op && (match p.late with
        | .cpyQueue c => c.table.isNone
        | _ => false))
      | none => false)

/-- Every access of the warp before an operation is released as REL releases it (R267). -/
def released (s : State) (key : Nat) (w : Warp) (op : Nat) : Bool := !accessOut w op && !regsOut s (keyUnit key) (some key) op

/-- An earlier REL of the warp has not performed (R99). -/
def relBefore (w : Warp) (op : Nat) : Bool :=
  w.pend.any (fun p => p.op < op && (match p.late with
    | .rel _ => true
    | _ => false))

/-- REL performs (R267). -/
def relStep (s : State) (key : Nat) (p : Pend) (eng : Bool) : State :=
  match s.warp key with
  | some w => if !released s key w p.op || relBefore w p.op || (eng && copiesOut s key p.op) then s else completePend s key p
  | none => s

/-! ## Events at a slice -/

/-- REGISTRATION (R258, R373). -/
def execRegistration (req : Nat) (s : State) : Host.Outcome State Fault Refusal :=
  .next (stepReq s req (fun k => match k with
    | .register _ => true
    | .registerObj _ _ _ => true
    | _ => false))
/-- HOME_READ (R259). -/
def execHomeRead (req : Nat) (s : State) : Host.Outcome State Fault Refusal :=
  .next (stepReq s req (fun k => match k with
    | .read _ _ _ _ => true
    | _ => false))
/-- WRITE_BACK (R259). -/
def execWriteBack (req : Nat) (s : State) : Host.Outcome State Fault Refusal :=
  .next (stepReq s req (fun k => match k with
    | .writeBack _ _ _ _ => true
    | _ => false))
/-- SLICE_WRITE (R333). -/
def execSliceWrite (req : Nat) (s : State) : Host.Outcome State Fault Refusal :=
  .next (stepReq s req (fun k => match k with
    | .write _ _ => true
    | .atoms _ _ _ _ => true
    | .recSet _ _ _ _ => true
    | .recGen _ _ _ => true
    | _ => false))
/-- LINE_FILL (R328): a line that a request on its way names is brought in from second-tier memory. -/
def execLineFill (line : Nat) (s : State) : Host.Outcome State Fault Refusal :=
  .next (if s.net.any (fun r => r.line = line) && (fmFind (s.slice (lineHome line)).lines line).isNone then (match slGet s line with
    | .ok (s1, _) => s1
    | .error v => evictFor s v) else s)

end Sys2Proof.Machine
end

