-- ==== Sys2Proof/Machine/CtlOps.lean ====
section
/-! DEFINITION. Fetch, branches, calls, exits, traps from the program and the warp's own CSRs (02_encoding.md R12-R18, R26;
07_thread_control_traps.md R162-R187). -/

namespace Sys2Proof.Machine

/-! ## Fetch lines (R12-R15) -/

/-- Fields of the line word (R13): TGT and PAIR, the version, the reserved bits. -/
def lineTgt (d : BitVec 512) (i : Nat) : Bool := (lineHead d).getLsbD i
def linePair (d : BitVec 512) (i : Nat) : Bool := i < 4 && (lineHead d).getLsbD (5 + i)

/-- The translation and read of a fetch line of 64 bytes at its home, with X (R410): its bytes with the marks of their words, or why it does not go
on. The walk and the read wait for a lock of an STT, with a place (R368), and the read for room (R330). -/
def readCode (e : Env) (s : State) (va : Nat) : Except VErr (State × BitVec 512 × Bool) :=
  match envTr e s va permX with
  | .error v => .error v
  | .ok (s1, pa) =>
    if readHeld s1 e.who (pa / 128) then .error (.held (pa / 128) false)
    else match homeRead (leavePlace s1 e.who (pa / 128)) (pa / 128) (wordMask (pa % 128) 64) with
      | .ok (s2, l) => .ok (s2, BitVec.ofNat 512 (lineTake l.data (pa % 128) 64), l.bad &&& touchedWords (wordMask (pa % 128) 64) != 0)
      | .error v => .error (.wait v)

/-- The line of a branch target that no fetch buffer holds and that a lock keeps from being read (R368). -/
def targetWait (c : Ctx) (t : Word) : Option Nat :=
  if !pcNamesSlot t || (lineAt c.w t).isSome then none
  else readWait c.s (.fetch c.key c.cur.pc) c.unit c.cregs (pcLine t) permX

/-- A branch target passes the checks of R18: it names a slot, and the slot's TGT bit is set. Where the target's line cannot be
translated, or is uncorrectable, its fetch faults or traps instead; the TGT bit of a line whose parity or version is wrong counts as it reads
(DESIGN CHOICE, log 22). -/
def targetOk (s : State) (key : Nat) (w : Warp) (t : Word) : Bool :=
  pcNamesSlot t && (match lineAt w t with
    | some d => lineTgt d (t.toNat % 8)
    | none => match s.crew w.crew with
      | none => false
      | some c => match (translate s (keyUnit key) c.cregs (pcLine t) permX).2 with
        | .ok pa =>
          let (d, bad) := homePeek s (pa / 128)
          bad &&& touchedWords (wordMask (pa % 128) 64) != 0 || lineTgt (BitVec.ofNat 512 (lineTake d (pa % 128) 64)) (t.toNat % 8)
        | .fault _ _ => true)

/-- Moves the participating threads to their targets. -/
def moveThreads (s : State) (key : Nat) (m : Mask) (f : Nat → Word) : State :=
  s.modWarp key (fun w => { w with pt := { w.pt with
    pcs := (List.range 32).map (fun l => if m.getLsbD l then f l else w.pt.pcs.getD l 0) }, pairNext := none })

/-- The link of a call: the next sequential PC in every participating lane (R164, R166). -/
def writeLink (c : Ctx) (s : State) (b : Byte) : State := writeClean c s b (fun _ => ⟨nextPc c.cur.pc, 0⟩)

/-! ## Branches (R164-R168) -/

/-- BRA and CALL. -/
def branchBody (c : Ctx) (s1 : State) (imm : BitVec 32) (link : Option Byte) : Res :=
  if c.exec = 0 then .ok s1
  else protGuard c (fun _ => []) (
    match pcOffset c.cur.pc imm with
    | none => .trap cBADTGT (maskInfo c.exec)
    | some t => match targetWait c t with
      | some ln => lockedIssue c ln
      | none =>
        if !targetOk c.s c.key c.w t then .trap cBADTGT (maskInfo c.exec)
        else
          let s2 := match link with
            | some b => writeLink c s1 b
            | none => s1
          .ok (moveThreads s2 c.key c.exec (fun _ => t)))

/-- BRA (R164). -/
def execBra (h : Hdr) (o : OpB) (s : State) : Host.Outcome State Fault Refusal :=
  issue (.bra h o) h s (fun c s1 => branchBody c s1 o.imm none)
/-- CALL (R164). -/
def execCall (h : Hdr) (o : OpB) (s : State) : Host.Outcome State Fault Refusal :=
  issue (.call h o) h s (fun c s1 => branchBody c s1 o.imm (some o.o1))

/-- BRX, CALLX and RET: the two passes of R167. -/
def indirectBody (c : Ctx) (s1 : State) (va : Byte) (link : Option Byte) : Res :=
  if c.exec = 0 then .ok s1
  else protGuard c (fun l => [(c.val va l).val]) (
    let poi := maskOf (fun l => c.exec.getLsbD l && (c.val va l).poi != 0)
    if poi != 0 then .trap cPOISON (maskInfo poi)
    else match (lanesOf c.exec).findSome? (fun l => targetWait c (c.val va l).val) with
    | some ln => lockedIssue c ln
    | none =>
      let bad := maskOf (fun l => c.exec.getLsbD l && !targetOk c.s c.key c.w (c.val va l).val)
      if bad != 0 then .trap cBADTGT (maskInfo bad)
      else
        let s2 := match link with
          | some b => writeLink c s1 b
          | none => s1
        .ok (moveThreads s2 c.key c.exec (fun l => (c.val va l).val)))

/-- BRX (R166). -/
def execBrx (h : Hdr) (o : OpR) (s : State) : Host.Outcome State Fault Refusal :=
  issue (.brx h o) h s (fun c s1 => indirectBody c s1 o.o2 none)
/-- CALLX (R166). -/
def execCallx (h : Hdr) (o : OpR) (s : State) : Host.Outcome State Fault Refusal :=
  issue (.callx h o) h s (fun c s1 => indirectBody c s1 o.o2 (some o.o1))
/-- RET (R166). -/
def execRet (h : Hdr) (o : OpR) (s : State) : Host.Outcome State Fault Refusal :=
  issue (.ret h o) h s (fun c s1 => indirectBody c s1 o.o2 none)

/-- EXIT (R168, R185, R201): the threads stop being live and leave every group, after the warp's earlier group requests; in trap
mode the crew ends once the counters are zero. -/
def execExit (h : Hdr) (o : OpR) (s : State) : Host.Outcome State Fault Refusal :=
  issue (.exit h o) h s (fun c s1 =>
    if c.exec = 0 then .ok s1
    else if c.w.tm then
      match s1.warp c.key with
      | some w =>
        if ctrsZero w then .ok (handlerEnds s1 c.key w w.tcause.toNat (Config.freeWord (s.draw * 65536 + 20602)))
        else .ok (addWait c s1 .handlerExit)
      | none => .ok s1
    else
      let s2 := s1.modWarp c.key (fun w => { w with pt := { w.pt with live := w.pt.live &&& ~~~c.exec } })
      match s2.warp c.key with
      | some w =>
        if grpEarlier w c.op then
          .ok (addWait c s2 (.group 0 .exit))
        else .ok (leaveGroups s2 c.w.crew c.w.widx (threadLanes c.w c.exec))
      | none => .ok s2)

/-- YIELD (R170): ineligible in the 32 cycles after its issue. -/
def execYield (h : Hdr) (o : OpR) (s : State) : Host.Outcome State Fault Refusal :=
  issue (.yield h o) h s (fun c s1 =>
    if c.exec = 0 then .ok s1
    else .ok (s1.modWarp c.key (fun w => { w with holdUntil := max w.holdUntil (s.cycle + 33), age := 0 })))

/-- YIELD_EXPIRY (R170): after the 32 cycles nothing holds the warp back. -/
def execYieldExpiry (unit slot : Nat) (s : State) : Host.Outcome State Fault Refusal :=
  .next (s.modWarp (unit * 32 + slot) (fun w => if w.holdUntil ≤ s.cycle then { w with holdUntil := 0 } else w))

/-- TRAP (R171). -/
def execTrap (h : Hdr) (o : OpI) (s : State) : Host.Outcome State Fault Refusal :=
  issue (.trap h o) h s (fun c s1 => if c.exec = 0 then .ok s1 else .trap cTRAPI (o.imm.setWidth 64))
/-- BRKPT (R171): no effect where BKEN is 0. -/
def execBrkpt (h : Hdr) (o : OpI) (s : State) : Host.Outcome State Fault Refusal :=
  issue (.brkpt h o) h s (fun c s1 => if c.exec = 0 || !c.w.bken then .ok s1 else .trap cBRKPT (o.imm.setWidth 64))

/-- TRET (R184): outside trap mode ILLOP; it acts once the counters are zero. -/
def execTret (h : Hdr) (o : OpR) (s : State) : Host.Outcome State Fault Refusal :=
  issueWith (.tret h o) h s (fun c => !c.w.tm) (fun _ => none) (fun c s1 =>
    if c.exec = 0 then .ok s1
    else match s1.warp c.key with
      | some w =>
        if ctrsZero w then .ok (leaveTrap s1 c.key)
        else .ok (addWait c s1 .tret)
      | none => .ok s1)

/-- TRAP_ENTRY (R179): a pending trap whose conditions hold is taken. -/
def execTrapEntry (unit slot : Nat) (s : State) : Host.Outcome State Fault Refusal :=
  .next (if trapReady s (unit * 32 + slot) then takeTrap s (unit * 32 + slot) else s)

/-- CLOCK (R176): cycles since core reset, or nanoseconds of the 1.05 GHz clock since package reset. -/
def execClock (h : Hdr) (o : OpR) (s : State) : Host.Outcome State Fault Refusal :=
  issue (.clock h o) h s (fun c s1 =>
    let v := if o.x = 0 then s.cycle else s.cycle * 20 / 21
    .ok (writeClean c s1 o.o1 (fun _ => ⟨BitVec.ofNat 64 v, 0⟩)))

/-! ## The CSRs that a warp holds (R26, R69, R70, R173, R187) -/

/-- CNTR of the counters from one number on (R26). -/
def cntrOf (w : Warp) (base : Nat) : Word :=
  BitVec.ofNat 64 ((List.range 12).foldl (fun a n =>
    let v := ctrGet w (base + n)
    a + min v 15 * 16 ^ n + (if v = 0 then 0 else 2 ^ (48 + n))) 0)

/-- A CSR from 0x000 to 0x0FF as a lane reads it (R172, R173). -/
def warpCsr (s : State) (key : Nat) (w : Warp) (csr : Nat) (l : Nat) : Word :=
  match csr with
  | 0x000 => BitVec.ofNat 64 (laneNumber key w l)
  | 0x001 => BitVec.ofNat 64 (warpNumber key w l)
  | 0x002 => BitVec.ofNat 64 (crewNumber s key w)
  | 0x003 => BitVec.ofNat 64 (keyUnit key)
  | 0x004 => BitVec.ofNat 64 (unitCluster (keyUnit key))
  | 0x005 => BitVec.ofNat 64 (clusterDie (unitCluster (keyUnit key)))
  | 0x010 => w.fpmode
  | 0x011 => statNow w s.cycle
  | 0x020 => w.tcause
  | 0x021 => w.tpc
  | 0x022 => w.tmask
  | 0x023 => w.tframe
  | 0x024 => (w.tinst.extractLsb' 0 32).setWidth 64
  | 0x025 => (w.tinst.extractLsb' 32 32).setWidth 64
  | 0x026 => (w.tinst.extractLsb' 64 32).setWidth 64
  | 0x027 => w.tvec
  | 0x028 => BitVec.ofNat 64 (keySlot key / 8 * 4 + (if w.bken then 2 else 0) + (if w.tm then 1 else 0))
  | 0x030 => cntrOf w (if w.c16 && !w.tm && 16 ≤ l then 12 else 0)
  | _ => 0

/-- The value that an operation of a CSR write gives to the writable bits of a register (R174). -/
def csrApply (op : Nat) (old src writable : Word) : Word :=
  let v := match op with
    | 0 => src
    | 1 => old ||| src
    | _ => old &&& ~~~src
  (old &&& ~~~writable) ||| (v &&& writable)

/-- A write to a CSR that the warp holds (R69, R70, R174, R187); a write to a read-only register changes nothing. -/
def warpCsrWrite (w : Warp) (csr op : Nat) (src : Word) : Warp :=
  match csr with
  | 0x010 => { w with fpmode := csrApply op w.fpmode src fpmodeMask }
  -- W1C: write and set clear the bits that are 1, clear leaves them (R5, R174); flags of instructions that complete in this cycle stay
  -- due, and so win (R70)
  | 0x011 => { w with fpstat := if op = 2 then w.fpstat else w.fpstat &&& ~~~src }
  | 0x021 => if w.tm then { w with tpc := csrApply op w.tpc src (BitVec.allOnes 64) } else w
  | 0x027 => { w with tvec := csrApply op w.tvec src (BitVec.allOnes 64) }
  | 0x028 => { w with bken := (csrApply op (if w.bken then 2 else 0) src 2).getLsbD 1 }
  | _ => w

/-- CSRR (R172): the warp's own CSRs at issue, any other when the request reaches its unit. -/
def execCsrr (h : Hdr) (o : OpS) (s : State) : Host.Outcome State Fault Refusal :=
  issue (.csrr h o) h s (fun c s1 =>
    if o.csr.toNat < 0x100 then
      let w := (s1.warp c.key).getD c.w
      .ok (addDone c s1 (regWr c.w o.o1 c.exec (fun l => ⟨warpCsr s1 c.key w o.csr.toNat l, 0⟩)) [])
    else .ok (addLate c s1 (.csrRead o.csr.toNat) (regWr c.w o.o1 c.exec (fun _ => Lane.zero)) []))

/-- A CSRW in the first slot of a pair writes a register of the warp that the second slot may read, FPMODE, TPC or TSTAT: both are one issue, which
reads before it writes (R20, R69, R174), so the write takes effect at the end of the cycle. -/
def csrLater (c : Ctx) (csr : Nat) : Bool := pairFirst c && (csr = 0x010 || csr = 0x021 || csr = 0x028)

/-- The end of a cycle for such a CSRW, in the mode in which it issued. -/
def settleCsr (w : Warp) (cycle : Nat) : Warp :=
  w.pend.foldl (fun v p => match p.late with
    | .csrWrite csr op srcs =>
      if csr < 0x100 && p.ready = cycle + 1 then { srcs.foldl (fun v x => warpCsrWrite v csr op x) { v with tm := p.tm } with tm := v.tm } else v
    | _ => v) w

/-- CSRW, CSRS and CSRC: once for each participating lane in ascending order (R174). -/
def csrBody (c : Ctx) (s1 : State) (o : OpS) : Res :=
  let imm := c.h.f.getLsbD 2
  let op := c.h.f.toNat % 4
  let src := fun l => if imm then (⟨o.imm.setWidth 64, 0⟩ : Lane) else c.val o.o2 l
  protGuard c (fun l => [(src l).val]) (
    let poi := maskOf (fun l => c.exec.getLsbD l && (src l).poi != 0)
    if poi != 0 then .trap cPOISON (maskInfo poi)
    else
      let vs := (lanesOf (performLanes c)).map (fun l => (src l).val)
      if o.csr.toNat < 0x100 && !csrLater c o.csr.toNat then
        .ok (addDone c (s1.modWarp c.key (fun w => vs.foldl (fun w v => warpCsrWrite w o.csr.toNat op v) w)) [] [])
      else .ok (addLate c s1 (.csrWrite o.csr.toNat op vs) [] []))

/-- CSRW (R174). -/
def execCsrw (h : Hdr) (o : OpS) (s : State) : Host.Outcome State Fault Refusal := issue (.csrw h o) h s (fun c s1 => csrBody c s1 o)
/-- CSRS (R174). -/
def execCsrs (h : Hdr) (o : OpS) (s : State) : Host.Outcome State Fault Refusal := issue (.csrs h o) h s (fun c s1 => csrBody c s1 o)
/-- CSRC (R174). -/
def execCsrc (h : Hdr) (o : OpS) (s : State) : Host.Outcome State Fault Refusal := issue (.csrc h o) h s (fun c s1 => csrBody c s1 o)

/-- NOP (R50): it reads no guard and does nothing but apply its scheduling fields. -/
def execNop (h : Hdr) (o : OpR) (s : State) : Host.Outcome State Fault Refusal := issue (.nop h o) h s (fun _ s1 => .ok s1)

end Sys2Proof.Machine
end

