-- ==== Sys2Proof/Machine/QueueOps.lean ====
section
/-! DEFINITION. Arrival words and queues as instructions (09_core_memory.md R249-R255, R494; 11_cluster_matrix.md R278). -/

namespace Sys2Proof.Machine

/-! ## Arrival words (R250, R251, R494) -/

/-- One lane's arrival operation on its word: an uncorrectable word stays as it is and poisons the result, but for AWINIT, which
rewrites it. -/
def arrLane (k : ArrKind) (a : Crew × List (Nat × LaneOut) × List Nat) (e : MemEl) : Crew × List (Nat × LaneOut) × List Nat :=
  let bad := spBadAt a.1 e.pa 8
  let old := spRead a.1 e.pa 8
  match k with
  | .init _ => (spWrite a.1 e.pa (awApply k old) 8, a.2.1 ++ [(e.idx, ⟨Lane.zero, false, false⟩)], a.2.2)
  | _ =>
    if bad then (a.1, a.2.1 ++ [(e.idx, ⟨⟨0, 3⟩, false, false⟩)], a.2.2 ++ [e.pa])
    else (match k with
      | .test => a.1
      | .await _ => a.1
      | _ => spWrite a.1 e.pa (awApply k old) 8, a.2.1 ++ [(e.idx, ⟨⟨BitVec.ofNat 64 old, 0⟩, false, false⟩)], a.2.2)

/-- An arrival instruction takes effect at its bank: the words, the results, the released waiters. -/
def arrivalApply (s : State) (key : Nat) (p : Pend) (crew : Nat) (k : ArrKind) (els : List MemEl) (pair : Bool) : State :=
  match s.crew crew with
  | none => modPend s key p.op (fun p => { p with late := .done })
  | some c =>
    match k with
    | .await g =>
      let s1 := modPend s key p.op (fun p => { p with late := .await crew g els, ready := s.cycle + 1 })
      releaseBad s1 crew ((els.filter (fun e => spBadAt c e.pa 8)).map (fun e => e.pa))
    | _ =>
      let (c1, outs, bads) := els.foldl (arrLane k) (c, [], [])
      let steps := afterEach (fun c e => (arrLane k (c, [], []) e).1) c els
      let s1 := modPend ((writeEach s crew steps).setCrew crew c1) key p.op (fun p =>
        { outs.foldl (fun p o => putLane p pair o.1 o.2) p with late := .done, ready := max p.ready (s.cycle + 1) })
      let s2 := releaseBad (afterScratch s1 crew) crew bads
      if !bads.isEmpty && p.regs.isEmpty && k != .test then poisonLate s2 key p else s2

/-- The next step of an arrival instruction: ARRIVE, ARRDROP and AWINIT wait until the warp's earlier scratchpad accesses have completed,
the others for their turn at the bank (R102, R251). -/
def arrivalStep (s : State) (key : Nat) (p : Pend) (crew : Nat) (k : ArrKind) (els : List MemEl) : State :=
  match s.warp key with
  | none => s
  | some w =>
    let busy := match k with
      | .await _ => scratchBusy w p.op
      | .test => scratchBusy w p.op
      | _ => scratchWaits w p.op
    if busy || !bankFree s key crew then s else arrivalApply s key p crew k els (w.prot && !w.tm)

/-- Issue of an arrival instruction: the checks of R242 for the crew's own scratchpad with 8 bytes. -/
def arrivalBody (c : Ctx) (s1 : State) (k : ArrKind) (va : Byte) (regs : List RegWr) : Res :=
  protGuard c (fun l => [(c.val va l).val]) (
    match c.s.crew c.w.crew with
    | none => .ok s1
    | some cr =>
      let els := (laneEls c va (fun _ => 0) (fun _ => if c.protected? then 1 else 0))
      match memCheck s1 c.w.crew cr c.w.tm c.protected? (keySlot c.key / 8) .own 0 8 [] false (vaPoison c va) els with
      | .trap cause info => .trap cause info
      | .ok es _ =>
        let s2 := addLate c s1 (.arrival c.w.crew k es) regs []
        match s2.warp c.key with
        | none => .ok s2
        | some w => match findPend w c.op with
          | some p => .ok (arrivalStep s2 c.key p c.w.crew k es)
          | none => .ok s2)

/-- AWINIT (R250). -/
def execAwinit (h : Hdr) (o : OpI) (s : State) : Host.Outcome State Fault Refusal :=
  issueWith (.awinit h o) h s (fun _ => false) (fun c => spEarly c true o.o2 0)
    (fun c s1 => arrivalBody c s1 (.init o.imm.toNat) o.o2 [])
/-- ARRIVE (R250). -/
def execArrive (h : Hdr) (o : OpI) (s : State) : Host.Outcome State Fault Refusal :=
  issueWith (.arrive h o) h s (fun _ => false) (fun c => spEarly c true o.o2 0)
    (fun c s1 => arrivalBody c s1 (.arrive o.imm.toNat) o.o2 (regWr c.w o.o1 c.exec (fun _ => Lane.zero)))
/-- ARRDROP (R250). -/
def execArrdrop (h : Hdr) (o : OpI) (s : State) : Host.Outcome State Fault Refusal :=
  issueWith (.arrdrop h o) h s (fun _ => false) (fun c => spEarly c true o.o2 0)
    (fun c s1 => arrivalBody c s1 (.drop o.imm.toNat) o.o2 (regWr c.w o.o1 c.exec (fun _ => Lane.zero)))
/-- AWAIT (R250). -/
def execAwait (h : Hdr) (o : OpI) (s : State) : Host.Outcome State Fault Refusal :=
  issueWith (.await h o) h s (fun _ => false) (fun c => spEarly c true o.o2 0)
    (fun c s1 => arrivalBody c s1 (.await (o.imm.toNat % 65536)) o.o2 (regWr c.w o.o1 c.exec (fun _ => Lane.zero)))
/-- AWTEST (R250). -/
def execAwtest (h : Hdr) (o : OpI) (s : State) : Host.Outcome State Fault Refusal :=
  issueWith (.awtest h o) h s (fun _ => false) (fun c => spEarly c true o.o2 0)
    (fun c s1 => arrivalBody c s1 .test o.o2 (regWr c.w o.o1 c.exec (fun _ => Lane.zero)))

/-! ## Queues (R252-R255, R278, R494) -/

/-- An entry of a crew's queue table that was set. -/
def crewQueue (s : State) (crew qn : Nat) : Option QueueEnt :=
  match s.crew crew with
  | some c => c.queues.getD qn none
  | none => none

/-- The queue that an Acorn's queue number reaches through its class-6 record (R278): the crew and the number of its entry. -/
def acornQueue (s : State) (c : Crew) (r : Tensor) : Option (Nat × Nat) :=
  if !tensorValid r || tClass r != 6 then none
  else match targetCrew s c.unit (issuingLaunch c) r with
    | none => none
    | some t => match s.crew t with
      | none => none
      | some tc => match (tc.queues.zipIdx).find? (fun e => match e.1 with
          | some q => q.qcw = tBase r % 2 ^ 20
          | none => false) with
        | some e => some (t, e.2)
        | none => none

/-- Number of registers of an element. -/
def QueueEnt.regs (q : QueueEnt) : Nat := q.size / 8

/-- A range of registers that reaches the allotment (R33, R41 check 8, R254): one that runs past v239 does. -/
def regRange (w : Warp) (b : Byte) (n : Nat) : Bool :=
  b.toNat < 240 && (List.range n).any (fun k => w.allot ≤ b.toNat + k && !(w.tm && b.toNat + k < 16))

/-- Checks 8 and 10 of a queue operation (R252, R254): on the Acorn only the queue number is known at decode (R278). -/
def queueExtra (c : Ctx) (qn : Nat) (regs : Option Byte) (counts : Bool) : Option Nat :=
  match c.s.crew c.w.crew with
  | none => none
  | some cr =>
    if c.acorn then (if cr.nqueues ≤ qn then some cQBOUND else none)
    else if cr.nqueues ≤ qn then some cQBOUND
    else match cr.queues.getD qn none with
      | none => some cQBOUND
      | some q =>
        if (match regs with
          | some b => regRange c.w b q.regs
          | none => false) then some cREGBOUND
        else if counts && 2 ^ q.d < (qLanes c.exec c.protected?).length then some cQBOUND
        else none

/-- The QCW or the element area of a queue lies above the top or in the trap area (R181, R255): QINIT's check. -/
def queueOut (c : Crew) (own tm : Bool) (quad : Nat) (q : QueueEnt) : Bool :=
  spOut c own tm quad q.qcw 16 || spOut c own tm quad q.base (q.size * 2 ^ q.d)

/-- An operation of n elements can be served at once as the QCW stands (R255). -/
def queueServes (s : State) (c : Crew) (crew qn : Nat) (q : QueueEnt) (k : QueueKind) (n : Nat) : Bool :=
  (qWaiting s crew qn k).isEmpty && (match k with
    | .push => n ≤ qRoom q (spRead c q.qcw 8) (spRead c (q.qcw + 8) 8)
    | .pop => n ≤ qCount (spRead c q.qcw 8))

/-- What a queue operation would reach lies above the top or in the trap area (R181, R232, R242): its QCW, and where it can be served at once the
elements that it moves. -/
def queuePast (c : Ctx) (s : State) (cr : Crew) (crew qn : Nat) (q : QueueEnt) (k : Option QueueKind) : Bool :=
  let out := spOut cr (!c.acorn) c.w.tm (keySlot c.key / 8)
  let n := (qLanes c.exec c.protected?).length
  out q.qcw 16 || (match k with
    | none => false
    | some k => !qcwBad cr q && queueServes s cr crew qn q k n && (qSpan cr q k n).any (fun a => out a q.size))

/-- The queue of an instruction: its crew and entry. An Acorn's record is looked up at issue (R278); an entry below QUEUES that the launch never set
names handle 0 (DESIGN CHOICE, log 82). -/
def withQueue (c : Ctx) (s1 : State) (qn : Nat) (regs : Option Byte) (kind : Option QueueKind) (k : State → Nat → Nat → QueueEnt → Res) : Res :=
  match s1.crew c.w.crew with
  | none => .ok s1
  | some cr =>
    if !c.acorn then (match cr.queues.getD qn none with
      | some q => if queuePast c s1 cr c.w.crew qn q kind then .trap cSPBOUND (maskInfo c.exec) else k s1 c.w.crew qn q
      | none => .ok s1)
    else
      let hd := cr.qhandles.getD qn 0
      withRecord c s1 hd (fun s2 r => match acornQueue s2 cr r with
        | none => .trap cRECINV (BitVec.ofNat 64 hd)
        | some (t, n) => match crewQueue s2 t n with
          | none => .trap cRECINV (BitVec.ofNat 64 hd)
          | some q =>
            if (match regs with
              | some b => regRange c.w b q.regs
              | none => false) then .trap cREGBOUND 0
            else if (s2.crew t).any (fun tc => queuePast c s2 tc t n q kind) then .trap cSPBOUND (maskInfo c.exec)
            else k s2 t n q)

/-- The registers of an element from a byte on; a special byte and those after it discard (DESIGN CHOICE, log 81). -/
def elemRegs (w : Warp) (b : Byte) (n : Nat) (m : Mask) : List RegWr :=
  (List.range n).flatMap (fun i => regWr w (b + BitVec.ofNat 8 i) m (fun _ => Lane.zero))

/-- The elements that a push offers, lane by lane: what each of the consecutive operand bytes reads, special ones too (DESIGN CHOICE, log
81). -/
def pushData (c : Ctx) (b : Byte) (n : Nat) : List (List Lane) :=
  (qLanes c.exec c.protected?).map (fun l => (List.range n).map (fun i => c.val (b + BitVec.ofNat 8 i) l))

/-- An earlier access that an Acorn's PUSH waits for (R278). -/
def acornBusy (w : Warp) (op : Nat) : Bool :=
  w.pend.any (fun p => p.op < op && (match p.late with
    | .load _ _ => true
    | .replies _ => true
    | .banks _ => true
    | .parked _ _ => true
    | _ => false))

/-- The operation may reach its queue: in the order of the warp's accesses to the banks (R102), not while the warp waits there, a push once
the warp's earlier scratchpad accesses have completed, an Acorn's also behind its other accesses (R251, R255, R278). -/
def queueReady (w : Warp) (key op crew qn : Nat) (push : Bool) : Bool :=
  !queueHeld w op crew qn && !(if push then scratchWaits w op else scratchBusy w op) && !(push && keyAcorn key && acornBusy w op)

/-- Every register of an instruction poisoned in both halves. -/
def poisonRegs (p : Pend) : Pend := { p with regs := p.regs.map (fun r => { r with row := mkRow (fun _ => ⟨0, 3⟩) }) }

/-- The operations that wait on a queue whose QCW was found uncorrectable are released as if issued then (R494). -/
def queueBad (s : State) (crew qn : Nat) : State :=
  let push := qWaiting s crew qn .push
  let pop := qWaiting s crew qn .pop
  let s1 := push.foldl (fun s e => poisonLate (modPend s e.2.1 e.2.2.op (fun p => { p with late := .done })) e.2.1 e.2.2) s
  pop.foldl (fun s e => modPend s e.2.1 e.2.2.op (fun p => { poisonRegs p with late := .done })) s1

/-- A push that has room is served: a core's writes its elements at once; an Acorn's reserves them in ALLOW first (R253, R278). `f` marks
the instruction as served. -/
def pushServed (s : State) (key : Nat) (p : Pend) (c : Crew) (q : QueueEnt) (crew qn : Nat) (data : List (List Lane)) (f : Pend → Pend) : State :=
  let c1 := if keyAcorn key then qReserve c q data.length else qPush c q (data.map (fun x => x.map (fun y => y.val)))
  modPend (s.setCrew crew c1) key p.op (fun p => { f p with
    late := if keyAcorn key then .queuePut crew qn data else .done, ready := max p.ready (s.cycle + 1) })

/-- PUSH or POP at its queue (R255, R494). -/
def queueApply (s : State) (key : Nat) (p : Pend) (crew qn : Nat) (k : QueueKind) (data : List (List Lane)) (prot : Bool) : State :=
  match s.crew crew, crewQueue s crew qn with
  | some c, some q =>
    let done := fun (s : State) (f : Pend → Pend) => modPend s key p.op (fun p => { f p with late := .done, ready := max p.ready (s.cycle + 1) })
    let wait := fun (s : State) =>
      qMarkWaiters (modPend s key p.op (fun p => { p with late := .queueWait crew qn k data, ready := s.cycle + 1 })) crew qn
    let lanes := qLanes p.exec prot
    if qcwBad c q then
      let s1 := queueBad s crew qn
      match k with
      | .push => poisonLate (done s1 id) key p
      | .pop => done s1 poisonRegs
    else match k with
      | .push =>
        if !queueServes s c crew qn q .push data.length then wait s
        else if qSpanOut s key p crew c q .push data.length then trapLate (done s dropResult) key p cSPBOUND
        else qServe crew qn 65 (pushServed s key p c q crew qn data id)
      | .pop =>
        if !queueServes s c crew qn q .pop lanes.length then wait s
        else if qSpanOut s key p crew c q .pop lanes.length then trapLate (done s dropResult) key p cSPBOUND
        else
          let (c1, els) := qPop c q lanes.length
          qServe crew qn 65 (done (s.setCrew crew c1) (fun p => { p with regs := qDeliver p.regs lanes prot els }))
  | _, _ => modPend s key p.op (fun p => { p with late := .done })

/-- An Acorn's reserved elements are written, tail advances and ALLOW falls in one step (R253, R278). -/
def queuePutStep (s : State) (key : Nat) (p : Pend) (crew qn : Nat) (data : List (List Lane)) : State :=
  match s.crew crew, crewQueue s crew qn with
  | some c, some q =>
    if qcwBad c q then
      -- found uncorrectable: as any operation that finds it so (R494)
      let s1 := modPend (queueBad s crew qn) key p.op (fun p =>
        { p with preds := p.preds.map (fun g => { g with val := 0, poi := g.mask }), late := .done, ready := max p.ready (s.cycle + 1) })
      if p.preds.isEmpty then poisonLate s1 key p else s1
    else
      let c1 := qPush (qRelease c q data.length) q (data.map (fun x => x.map (fun y => y.val)))
      qServe crew qn 65 (modPend (s.setCrew crew c1) key p.op (fun p => { p with late := .done, ready := max p.ready (s.cycle + 1) }))
  | _, _ => modPend s key p.op (fun p => { p with late := .done })

/-- TRYPUSH or TRYPOP at its queue (R255, R494): the predicate says whether it was served. -/
def queueTryApply (s : State) (key : Nat) (p : Pend) (crew qn : Nat) (k : QueueKind) (data : List (List Lane)) (prot : Bool) : State :=
  match s.crew crew, crewQueue s crew qn with
  | some c, some q =>
    let done := fun (s : State) (ok bad : Bool) (f : Pend → Pend) => modPend s key p.op (fun p =>
      { f p with
        preds := p.preds.map (fun g => { g with val := if ok then g.mask else 0, poi := if bad then g.mask else 0 })
        late := .done, ready := max p.ready (s.cycle + 1) })
    let keepRegs := fun (p : Pend) => { p with regs := [] }
    let lanes := qLanes p.exec prot
    if qcwBad c q then
      let s1 := queueBad s crew qn
      match k with
      | .push => if p.preds.isEmpty then poisonLate (done s1 false true id) key p else done s1 false true id
      | .pop => done s1 false true poisonRegs
    else match k with
      | .push =>
        if !queueServes s c crew qn q .push data.length then done s false false id
        else if qSpanOut s key p crew c q .push data.length then trapLate (done s false false dropResult) key p cSPBOUND
        else qServe crew qn 65 (pushServed s key p c q crew qn data
          (fun p => { p with preds := p.preds.map (fun g => { g with val := g.mask, poi := 0 }) }))
      | .pop =>
        if !queueServes s c crew qn q .pop lanes.length then done s false false keepRegs
        else if qSpanOut s key p crew c q .pop lanes.length then trapLate (done s false false dropResult) key p cSPBOUND
        else
          let (c1, els) := qPop c q lanes.length
          qServe crew qn 65 (done (s.setCrew crew c1) true false (fun p => { p with regs := qDeliver p.regs lanes prot els }))
  | _, _ => modPend s key p.op (fun p => { p with late := .done })

/-- QINIT at its bank (R255): the entry, the QCW written whole, and the operations that wait on the queue follow it. -/
def queueInitApply (s : State) (key : Nat) (p : Pend) (crew qn : Nat) (e : QueueEnt) : State :=
  let done := fun (s : State) => modPend s key p.op (fun p => { p with late := .done, ready := max p.ready (s.cycle + 1) })
  match s.crew crew with
  | none => done s
  | some cr =>
    let code := if e.size = 8 then 0 else if e.size = 16 then 1 else if e.size = 32 then 2 else 3
    let qs := (List.range (max cr.queues.length (qn + 1))).map (fun i => if i = qn then some e else cr.queues.getD i none)
    let c1 := spWrite (spWrite { cr with queues := qs } e.qcw (code * 2 ^ 24 + e.d * 2 ^ 20 + e.base) 8) (e.qcw + 8) 0 8
    qServe crew qn 65 (afterScratch (done (s.setCrew crew c1)) crew)

/-- The next step of a queue operation on its way. -/
def queueStep (s : State) (key : Nat) (p : Pend) : State :=
  match s.warp key with
  | none => s
  | some w =>
    let prot := w.prot && !w.tm
    match p.late with
    | .queueReq crew qn k data => if queueReady w key p.op crew qn (k = .push) then queueApply s key p crew qn k data prot else s
    | .queueTry crew qn k data => if queueReady w key p.op crew qn (k = .push) then queueTryApply s key p crew qn k data prot else s
    | .queuePut crew qn data => queuePutStep s key p crew qn data
    | .queueInit crew qn e => if queueReady w key p.op crew qn false then queueInitApply s key p crew qn e else s
    | .queueStat crew qn =>
      if !queueReady w key p.op crew qn false then s
      else match s.crew crew, crewQueue s crew qn with
        | some c, some q =>
          let bad := qcwBad c q
          let s1 := if bad then queueBad s crew qn else s
          modPend s1 key p.op (fun p => { p with
            late := .done, ready := max p.ready (s.cycle + 1)
            regs := p.regs.map (fun r => { r with row := mkRow (fun _ => if bad then ⟨0, 3⟩ else ⟨BitVec.ofNat 64 (spRead c q.qcw 8), 0⟩) }) })
        | _, _ => modPend s key p.op (fun p => { p with late := .done })
    | _ => s

/-- Leaves a queue operation incomplete and lets it reach its queue where nothing stands before it; an Acorn's goes to another unit's
banks (R230). -/
def queueStart (c : Ctx) (s : State) (late : Late) (regs : List RegWr) (preds : List PredWr) : Res :=
  if keyAcorn c.key || !bankFree s c.key c.w.crew then .ok (addLate c s late regs preds)
  else .ok (addStep c s late regs preds (fun s p => queueStep s c.key p))

/-- Lanes that offer a poisoned half. -/
def pushPoison (c : Ctx) (b : Byte) (n : Nat) : Mask :=
  maskOf (fun l => c.exec.getLsbD l && (List.range n).any (fun i => (c.val (b + BitVec.ofNat 8 i) l).poi != 0))

/-- PUSH and TRYPUSH past their decode checks. -/
def pushBody (c : Ctx) (s1 : State) (qn : Nat) (b : Byte) (late : Nat → Nat → List (List Lane) → Late) (preds : List PredWr) : Res :=
  let size := match crewQueue c.s c.w.crew qn with
    | some q => q.regs
    | none => 1
  protGuard c (fun l => (List.range size).map (fun i => (c.val (b + BitVec.ofNat 8 i) l).val)) (
    withQueue c s1 qn (some b) (some .push) (fun s2 crew n q =>
      if pushPoison c b q.regs != 0 then .trap cPOISON (maskInfo (pushPoison c b q.regs))
      else queueStart c s2 (late crew n (pushData c b q.regs)) [] preds))

/-- PUSH (R255). -/
def execPush (h : Hdr) (o : OpR) (s : State) : Host.Outcome State Fault Refusal :=
  let qn := o.x.toNat % 32
  issueWith (.push h o) h s (fun _ => false) (fun c => queueExtra c qn (some o.o2) true)
    (fun c s1 => pushBody c s1 qn o.o2 (fun cr n d => .queueReq cr n .push d) [])
/-- POP (R255). -/
def execPop (h : Hdr) (o : OpR) (s : State) : Host.Outcome State Fault Refusal :=
  let qn := o.x.toNat % 32
  issueWith (.pop h o) h s (fun _ => false) (fun c => queueExtra c qn (some o.o1) true)
    (fun c s1 => protGuard c (fun _ => []) (withQueue c s1 qn (some o.o1) (some .pop) (fun s2 crew n q =>
      queueStart c s2 (.queueReq crew n .pop []) (elemRegs c.w o.o1 q.regs c.exec) [])))
/-- TRYPUSH (R255). -/
def execTrypush (h : Hdr) (o : OpR) (s : State) : Host.Outcome State Fault Refusal :=
  let qn := o.x.toNat % 32
  issueWith (.trypush h o) h s (fun _ => false) (fun c => queueExtra c qn (some o.o2) true)
    (fun c s1 => pushBody c s1 qn o.o2 (fun cr n d => .queueTry cr n .push d) (predWr o.o3 c.exec 0 0))
/-- TRYPOP (R255). -/
def execTrypop (h : Hdr) (o : OpR) (s : State) : Host.Outcome State Fault Refusal :=
  let qn := o.x.toNat % 32
  issueWith (.trypop h o) h s (fun _ => false) (fun c => queueExtra c qn (some o.o1) true)
    (fun c s1 => protGuard c (fun _ => []) (withQueue c s1 qn (some o.o1) (some .pop) (fun s2 crew n q =>
      queueStart c s2 (.queueTry crew n .pop []) (elemRegs c.w o.o1 q.regs c.exec) (predWr o.o3 c.exec 0 0))))
/-- QSTAT (R255). -/
def execQstat (h : Hdr) (o : OpR) (s : State) : Host.Outcome State Fault Refusal :=
  let qn := o.x.toNat % 32
  issueWith (.qstat h o) h s (fun _ => false) (fun c => queueExtra c qn none false)
    (fun c s1 => withQueue c s1 qn none none (fun s2 crew n _ =>
      queueStart c s2 (.queueStat crew n) (regWr c.w o.o1 c.exec (fun _ => Lane.zero)) []))

/-- QINIT (R255): its checks; it reaches its bank in the order of the warp's accesses. -/
def execQinit (h : Hdr) (o : OpI) (s : State) : Host.Outcome State Fault Refusal :=
  let qn := o.imm.toNat / 2 ^ 27
  let code := o.imm.toNat / 2 ^ 24 % 8
  let d := o.imm.toNat / 2 ^ 20 % 16
  let base := o.imm.toNat % 2 ^ 20
  issueWith (.qinit h o) h s (fun _ => false)
    (fun c => match c.s.crew c.w.crew with
      | some cr => if cr.nqueues ≤ qn then some cQBOUND else none
      | none => none)
    (fun c s1 =>
      match s1.crew c.w.crew with
      | none => .ok s1
      | some cr =>
        let v := c.val o.o2 c.low
        let q : QueueEnt := { qcw := v.val.toNat, base := base, d := d, size := 8 * 2 ^ code }
        if v.poi != 0 then .trap cPOISON (laneInfo c.low)
        else if queueOut cr true c.w.tm (keySlot c.key / 8) q then .trap cSPBOUND (laneInfo c.low)
        else if q.qcw % 16 != 0 then .trap cMISALIGN (laneInfo c.low)
        else queueStart c s1 (.queueInit c.w.crew qn q) [] [])

end Sys2Proof.Machine
end

