-- ==== Sys2Proof/Machine/Matrix.lean ====
section
/-! DEFINITION. The sequencer, the matrix array and their instructions (11_cluster_matrix.md R280-R306, 03_numbers.md R78). -/

namespace Sys2Proof.Machine

/-- The key of a cluster's Acorn. -/
def acornKey (cl : Nat) : Nat := (1216 + cl) * 32

/-- A fault record of an engine (R413): types 1, 3, 4, 5, 6. -/
def engineFault (ftype reason access : Nat) (cr : CtxRegs) (ctx va unit wslot : Nat) (info : Word) (w : Waiter) : FaultRec :=
  { ftype := ftype, reason := reason, access := access, asid := cr.asid.toNat % 65536, ctxid := ctx, va := va, tag := 0, unit := unit,
    wslot := wslot, ring := 0, launchid := 0, vcrew := 0, pc := 0, info := info, waiter := w, written := false, counted := false }

/-- The launch that a record names: that of the issuing crew, while it is resident. -/
def ofCrew (s : State) (crew : Nat) (f : FaultRec) : FaultRec :=
  match s.crew crew with
  | some c => { f with ring := c.ring, launchid := c.lid, vcrew := c.vcrew }
  | none => match fmFind s.pkg.crewNames crew with
    | some n => { f with ring := n.1, launchid := n.2.1, vcrew := n.2.2 }
    | none => f

/-- The launch that a record names: that of the crew of a warp, or of the Acorn's program. -/
def ofIssuer (s : State) (key : Nat) (f : FaultRec) : FaultRec :=
  match s.warp key with
  | none => f
  | some w => ofCrew s w.crew f

/-! ## Slots, entries, conditions of a start (R284) -/

/-- The accumulator slots that a command names. -/
def mxSlots (k : MxKind) : Nat :=
  match k with
  | .mma _ slot _ _ _ _ _ _ _ _ _ => 2 ^ slot
  | .mzero m => m
  | .mdrain slot _ _ _ _ _ _ _ => 2 ^ slot
  | _ => 0
/-- WLOAD and WINV. -/
def mxLoads (k : MxKind) : Bool :=
  match k with
  | .wload _ _ _ _ => true
  | .wcb _ _ => true
  | .winv _ => true
  | _ => false
def mxArray (k : MxKind) : Bool :=
  match k with
  | .mma _ _ _ _ _ _ _ _ _ _ _ => true
  | .mzero _ => true
  | _ => false
def mxDrains (k : MxKind) : Bool :=
  match k with
  | .mdrain _ _ _ _ _ _ _ _ => true
  | _ => false

/-- Bytes of a row of B (R281). -/
def rowBytesB (fmt n : Nat) : Nat := if fmt = 0x10 then n / 4 else (n * fmtWidth fmt + 7) / 8
/-- Bytes of an entry: the rows, and 256 scale bytes for each K-block. -/
def entryLen (fmt k n : Nat) (scales : Bool) : Nat := k * rowBytesB fmt n + (if scales then k / 32 * 256 else 0)

/-- The entry that a WLOAD installs. -/
def wloadEnt (h : Nat) (r : Tensor) (off : Nat) (scales : Bool) : WeightEnt :=
  { handle := h, gen := tGen r, off := off, len := entryLen (tFmt r) (tDim1 r) (tDim0 r) scales, fmt := tFmt r, k := tDim1 r,
    n := tDim0 r, scales := scales }

/-- Two ranges of the weight buffer overlap. -/
def wOverlap (a b : WeightEnt) : Bool := a.off < b.off + b.len && b.off < a.off + a.len

/-- The directory without the entries that a WLOAD removes when it starts: that of its handle, and those that overlap its range (R287). -/
def dirClear (d : List WeightEnt) (k : MxKind) : List WeightEnt :=
  match k with
  | .wload h r off rs => d.filter (fun x => x.handle != h && !wOverlap x (wloadEnt h r off rs.isSome))
  | _ => d

/-- The directory after a command has started (R287, R288). -/
def dirStep (d : List WeightEnt) (k : MxKind) : List WeightEnt :=
  match k with
  | .wload h r off rs => dirClear d k ++ [wloadEnt h r off rs.isSome]
  | .winv (some h) => d.filter (fun x => x.handle != h)
  | .winv none => []
  | _ => d

/-- Commands of the Acorn that wait at issue for room, in issue order. -/
def mxWaiting (s : State) (cl : Nat) : List MxKind :=
  match s.warp (acornKey cl) with
  | none => []
  | some w => w.pend.filterMap (fun p => match p.late with
    | .mxQueue k => some k
    | _ => none)

/-- The directory as it will stand once every command accepted before has started (R287, R290). -/
def dirAhead (s : State) (cl : Nat) : List WeightEnt :=
  let k := s.cluster cl
  (mxWaiting s cl).foldl dirStep (((k.cmds.filter (fun c => !c.started || mxLoads c.kind)).map (fun c => c.kind)).foldl dirStep k.wdir)

/-- An MMA reads an entry that a WLOAD or WINV removes or overwrites (R284). -/
def readsEntry (d : List WeightEnt) (mma load : MxKind) : Bool :=
  match mma with
  | .mma _ _ _ _ _ _ _ hb _ _ _ =>
    match load with
    | .wload h r off rs => hb = h || (d.any (fun x => x.handle = hb && wOverlap x (wloadEnt h r off rs.isSome)))
    | .winv (some h) => hb = h
    | .winv none => true
    | .wcb _ _ => d.any (fun x => x.handle = hb && x.fmt = 0x10)
    | _ => false
  | _ => false

/-- A WLOAD loads the entry that an MMA names (R284). -/
def loadsEntry (load mma : MxKind) : Bool :=
  match load, mma with
  | .wload h _ _ _, .mma _ _ _ _ _ _ _ hb _ _ _ => h = hb
  | _, _ => false

/-- A command may start (R284): the earlier ones have started, its path is free, the commands that it waits for have finished. -/
def mxMayStart (k : Cluster) (c : MxCmd) : Bool :=
  let before := k.cmds.filter (fun x => x.id < c.id)
  !c.started && before.all (fun x => x.started)
    && (!mxArray c.kind || (!k.halted && !k.cmds.any (fun x => x.started && mxArray x.kind)))
    && (!mxDrains c.kind || !k.cmds.any (fun x => x.started && mxDrains x.kind))
    && (!mxLoads c.kind || !k.cmds.any (fun x => x.started && mxLoads x.kind))
    && !before.any (fun x => mxSlots x.kind &&& mxSlots c.kind != 0)
    && !before.any (fun x => readsEntry k.wdir x.kind c.kind || loadsEntry x.kind c.kind)

/-! ## Accepting a command -/

/-- Commands accepted and not started. -/
def mxQueued (k : Cluster) : Nat := (k.cmds.filter (fun c => !c.started)).length

/-- The queue of 8 takes a command, whose instruction then completes (R284). -/
def mxAccept (s : State) (key : Nat) (p : Pend) (k : MxKind) : State :=
  match s.warp key with
  | none => s
  | some w => match s.crew w.crew with
    | none => s
    | some cr =>
      let cl := unitCluster (keyUnit key)
      completePend (s.modCluster cl (fun c => { c with
        cmds := c.cmds ++ [{ id := p.op, kind := k, word := p.word, pc := p.pc, cregs := p.cregs, ctx := cr.ctx, started := false, kb := 0, rg := 0, left := 0, tm := p.tm }] })) key p

/-- The next step of a command at issue: it is accepted when there is room and no earlier one waits. -/
def mxQueueStep (s : State) (key : Nat) (p : Pend) (k : MxKind) : State :=
  match s.warp key with
  | none => s
  | some w =>
    if 8 ≤ mxQueued (s.cluster (unitCluster (keyUnit key))) || w.pend.any (fun q => q.op < p.op && (match q.late with
      | .mxQueue _ => true
      | _ => false)) then s
    else mxAccept s key p k

/-- Issue of a command past its checks. -/
def mxIssue (c : Ctx) (s1 : State) (k : MxKind) : Res := .ok (addLate c s1 (.mxQueue k) [] [])

/-! ## Checks at issue -/

/-- A class-5 record of the cluster with STRIDE1 0: its target crew (R235, R289). -/
def tileCrew (s : State) (c : Crew) (r : Tensor) : Option Nat :=
  if tensorValid r && tClass r = 5 && tStride1 r = 0 then crewVia s c r else none

/-- Rows of bytes stay inside a record's extent. -/
def rowsFit (r : Tensor) (rows rowBytes : Nat) : Bool := rows = 0 || (rows - 1) * tStride0 r + rowBytes ≤ tExtent r

/-- A byte of some row of a record in global memory lies at or above 2^52 or in the fabric window (R408, R447; log 85). -/
def rowsVaOut (cr : CtxRegs) (r : Tensor) (rows rowBytes : Nat) : Bool :=
  (List.range rows).any (fun i => vaOut cr (tBase r + i * tStride0 r) rowBytes)

/-- The formats of MCFG (R286). -/
def mxFormat (f : Nat) : Bool := f = 3 || (0xA ≤ f && f ≤ 0xE)

/-- A byte of some row of a tile in a crew's scratchpad lies at or above the top or in the trap area (R181). -/
def tileOut (s : State) (crew : Nat) (r : Tensor) (rows rowBytes : Nat) : Bool :=
  (s.crew crew).any (fun t => (List.range rows).any (fun i => spOut t false false 0 (tBase r % 2 ^ 20 + i * tStride0 r) rowBytes))

/-- MMA and MMAS (R289, R290). A byte of A or its scales at or above the top or in the trap area gives SPBOUND, after the checks of R290 (R181; DEDUCED,
log 72). -/
def mmaBody (c : Ctx) (s1 : State) (o : OpT) (scaled : Bool) : Res :=
  match s1.crew c.w.crew with
  | none => .ok s1
  | some cr =>
    let cl := unitCluster c.unit
    let ha := o.hnda.toNat
    let hb := o.hndb.toNat
    withRecord c s1 ha (fun s2 ra => withRecord c s2 hb (fun s3 rb =>
      let ent := (dirAhead s3 cl).find? (fun e => e.handle = hb)
      match tileCrew s3 cr ra, ent with
      | none, _ => .trap cRECINV (BitVec.ofNat 64 ha)
      | _, none => .trap cRECINV (BitVec.ofNat 64 hb)
      | some crew, some e =>
        if e.gen != tGen rb || (scaled && !e.scales) then .trap cRECINV (BitVec.ofNat 64 hb)
        else
          let go := fun (s : State) (rs : Tensor) (screw : Nat) =>
            let f := (s.cluster cl).fmt
            let v := c.val o.o2 0
            let kn := o.x.toNat / 4 % 32 + 1
            let m := tDim1 ra
            let kb0 := v.val.toNat % 32
            if tFmt ra != f || !(e.fmt = f || (e.fmt = 0x10 && (f = 0xC || f = 0xD))) then Res.trap cILLOP 0
            else if v.poi != 0 then .trap cPOISON (laneInfo 0)
            else if v.val.toNat / 32 != 0 || m = 0 || 256 < m || tDim0 ra < 32 * kn || e.k < 32 * (kb0 + kn)
                || !rowsFit ra m (32 * kn * fmtWidth f / 8) || (scaled && !rowsFit rs m kn) then .trap cBOUNDS 1
            else if tileOut s crew ra m (32 * kn * fmtWidth f / 8) || (scaled && tileOut s screw rs m kn) then .trap cSPBOUND 1
            else mxIssue c s (.mma scaled (o.x.toNat % 4) kb0 kn ra crew ha hb rs screw f)
          if !scaled then go s3 0 0
          else withRecord c s3 (tScale ra) (fun s4 rs => match crewVia s4 cr rs with
            | some t => if tensorValid rs && tClass rs = 5 && tFmt rs = 7 then go s4 rs t else .trap cRECINV (BitVec.ofNat 64 (tScale ra))
            | none => .trap cRECINV (BitVec.ofNat 64 (tScale ra)))))

/-- MMA (R289). -/
def execMma (h : Hdr) (o : OpT) (s : State) : Host.Outcome State Fault Refusal :=
  issue (.mma h o) h s (fun c s1 => mmaBody c s1 o false)
/-- MMAS (R289). -/
def execMmas (h : Hdr) (o : OpT) (s : State) : Host.Outcome State Fault Refusal :=
  issue (.mmas h o) h s (fun c s1 => mmaBody c s1 o true)
/-- MZERO (R292). -/
def execMzero (h : Hdr) (o : OpR) (s : State) : Host.Outcome State Fault Refusal :=
  issue (.mzero h o) h s (fun c s1 => mxIssue c s1 (.mzero (o.x.toNat % 16)))

/-- MDRAIN (R293). A byte that it writes, or its arrival word, at or above the top or in the trap area gives SPBOUND (R181; DEDUCED,
log 72). -/
def execMdrain (h : Hdr) (o : OpT) (s : State) : Host.Outcome State Fault Refusal :=
  issue (.mdrain h o) h s (fun c s1 =>
    match s1.crew c.w.crew with
    | none => .ok s1
    | some cr =>
      let bs := o.x.getLsbD 2
      let hd := o.hnda.toNat
      let hs := o.hndb.toNat
      let v := c.val o.o2 0
      let arr := v.val.toNat % 2 ^ 20
      let row0 := v.val.toNat / 2 ^ 20 % 256
      withRecord c s1 hd (fun s2 rd =>
        let go := fun (s : State) (rs : Tensor) (screw : Nat) (crew : Nat) =>
          let f := tFmt rd
          let cols := tDim0 rd
          let rows := tDim1 rd
          let spFault := (s.crew crew).any (fun t => spOut t false false 0 arr 1) || tileOut s crew rd rows (cols * fmtBytes f)
            || (bs && tileOut s screw rs rows (cols / 32))
          if !(f = 9 || f = 0xB || f = 0xC) || (bs && (f != 0xC || cols % 32 != 0 || tFmt rs != 7)) || (!bs && hs != 0) then Res.trap cILLOP 0
          else if v.poi != 0 then .trap cPOISON (laneInfo 0)
          else if v.val.toNat / 2 ^ 28 != 0 || cols = 0 || 256 < cols || rows = 0 || 256 < rows || 256 < row0 + rows
              || !rowsFit rd rows (cols * fmtBytes f) || (bs && !rowsFit rs rows (cols / 32)) then .trap cBOUNDS 1
          else if spFault then .trap cSPBOUND 1
          else if arr % 8 != 0 then .trap cMISALIGN 1
          else mxIssue c s (.mdrain (o.x.toNat % 4) o.x.toNat row0 arr rd crew rs screw)
        match tileCrew s2 cr rd with
        | none => .trap cRECINV (BitVec.ofNat 64 hd)
        | some crew =>
          if !bs then go s2 0 crew crew
          else withRecord c s2 hs (fun s3 rs => match tileCrew s3 cr rs with
            | some t => go s3 rs t crew
            | none => .trap cRECINV (BitVec.ofNat 64 hs))))

/-- The records of a WLOAD of weights are of the classes and formats of R287. -/
def weightRec (r : Tensor) : Bool :=
  tensorValid r && ((tClass r = 2 && mxFormat (tFmt r) && (tStride1 r = 0 || (tFmt r != 0xE && tStride1 r = fmtBytes (tFmt r))))
    || (tClass r = 4 && tFmt r = 0x10 && (tStride1 r = 0 || tStride1 r = 2)))

/-- WLOAD (R287). -/
def execWload (h : Hdr) (o : OpT) (s : State) : Host.Outcome State Fault Refusal :=
  issue (.wload h o) h s (fun c s1 =>
    let cl := unitCluster c.unit
    let hd := o.hnda.toNat
    let v := c.val o.o2 0
    withRecord c s1 hd (fun s2 r =>
      if o.x.getLsbD 1 then
        match tableAddr c r hd o.o2 0 1024 4 true true with
        | .error (cause, info) => .trap cause info
        | .ok a => mxIssue c s2 (.wcb hd a)
      else
        let go := fun (s : State) (rs : Option Tensor) =>
          let k := tDim1 r
          let n := tDim0 r
          let off := v.val.toNat % 2 ^ 23
          let e := wloadEnt hd r off rs.isSome
          let scOut := match rs with
            | some q => k / 32 != 0 && (tExtent q < (k / 32 - 1) * tStride0 q + n || rowsVaOut c.cregs q (k / 32) n)
            | none => false
          if v.poi != 0 then Res.trap cPOISON (laneInfo 0)
          else if v.val.toNat / 2 ^ 23 != 0 || k % 32 != 0 || k < 32 || 1024 < k || n = 0 || 256 < n || (tFmt r = 0x10 && n % 8 != 0)
              || !rowsFit r k (rowBytesB (tFmt r) n) || rowsVaOut c.cregs r k (rowBytesB (tFmt r) n) || scOut || 2 ^ 23 < off + e.len
              || 32 < (dirStep (dirAhead s cl) (.wload hd r off rs)).length then .trap cBOUNDS 1
          else if off % 256 != 0 then .trap cMISALIGN 1
          else mxIssue c s (.wload hd r off rs)
        if !weightRec r then .trap cRECINV (BitVec.ofNat 64 hd)
        else if !o.x.getLsbD 0 then go s2 none
        else withRecord c s2 (tScale r) (fun s3 rs =>
          if tensorValid rs && tClass rs = 1 && tFmt rs = 7 then go s3 (some rs) else .trap cRECINV (BitVec.ofNat 64 (tScale r)))))

/-- WINV (R288). -/
def execWinv (h : Hdr) (o : OpM) (s : State) : Host.Outcome State Fault Refusal :=
  issue (.winv h o) h s (fun c s1 => mxIssue c s1 (.winv (if h.f.getLsbD 0 then none else some o.hnd.toNat)))

/-- MCFG (R286). -/
def execMcfg (h : Hdr) (o : OpI) (s : State) : Host.Outcome State Fault Refusal :=
  issue (.mcfg h o) h s (fun c s1 =>
    .ok (addDone c (s1.modCluster (unitCluster c.unit) (fun k => { k with fmt := o.imm.toNat % 16 })) [] []))

/-- MSTAT (R294): read when the request arrives. -/
def execMstat (h : Hdr) (o : OpR) (s : State) : Host.Outcome State Fault Refusal :=
  issue (.mstat h o) h s (fun c s1 => .ok (addLate c s1 .mxStat (regWr c.w o.o1 c.exec (fun _ => Lane.zero)) []))

/-- MWAIT (R295). -/
def execMwait (h : Hdr) (o : OpR) (s : State) : Host.Outcome State Fault Refusal :=
  issue (.mwait h o) h s (fun c s1 =>
    let named := fun (k : MxKind) => mxSlots k &&& (o.x.toNat % 16) != 0 || (o.x.getLsbD 4 && mxLoads k)
    let ids := ((s1.cluster (unitCluster c.unit)).cmds.filter (fun x => named x.kind)).map (fun x => x.id)
    let more := c.w.pend.filterMap (fun p => match p.late with
      | .mxQueue k => if named k then some p.op else none
      | _ => none)
    .ok (addLate c s1 (.mxWait (ids ++ more)) [] []))

/-- MSTEP.rd (R296). -/
def execMstepRd (h : Hdr) (o : OpR) (s : State) : Host.Outcome State Fault Refusal :=
  issue (.mstepRd h o) h s (fun c s1 => .ok (addLate c s1 .mxRead (regWr c.w o.o1 c.exec (fun _ => Lane.zero)) []))
/-- MSTEP.halt (R296). -/
def execMstepHalt (h : Hdr) (o : OpR) (s : State) : Host.Outcome State Fault Refusal :=
  issue (.mstepHalt h o) h s (fun c s1 => .ok (addLate c s1 .mxHalt (regWr c.w o.o1 c.exec (fun _ => Lane.zero)) []))
/-- MSTEP.go (R296). -/
def execMstepGo (h : Hdr) (o : OpR) (s : State) : Host.Outcome State Fault Refusal :=
  issue (.mstepGo h o) h s (fun c s1 =>
    .ok (addDone c (s1.modCluster (unitCluster c.unit) (fun k => { k with halted := false })) [] []))

/-! ## Reports (R294, R297, R302) -/

/-- The MMA in progress. -/
def mxActive (k : Cluster) : Option MxCmd := k.cmds.find? (fun c => c.started && mxArray c.kind)

/-- A slot holds a poisoned element. -/
def slotPoisoned (k : Cluster) (n : Nat) : Bool := (k.acc.getD n []).any (fun e => e.2.2)

/-- MSTAT's value. -/
def mstatOf (k : Cluster) : Word :=
  let slots := k.cmds.foldl (fun a c => a ||| mxSlots c.kind) 0
  let pois := (List.range 4).foldl (fun a n => if slotPoisoned k n then a + 2 ^ n else a) 0
  BitVec.ofNat 64 (slots + pois * 16 + mxQueued k * 256 + (if k.cmds.any (fun c => mxLoads c.kind) then 4096 else 0)
    + k.mxerr.toNat / 2 ^ 48 * 2 ^ 32 + k.wdir.length % 64 * 2 ^ 48)

/-- MSEQ (R297), of a sequencer that has halted or not. -/
def mseqOf (k : Cluster) (halted : Bool) : Word :=
  let cmd := match mxActive k with
    | some c => (match c.kind with
      | .mma _ slot _ kn _ _ _ _ _ _ _ => 2 ^ 62 + slot * 2 ^ 60 + (kn - 1) * 2 ^ 35 + c.kb * 2 ^ 30 + c.rg * 2 ^ 25
      | _ => 2 ^ 62)
    | none => 0
  BitVec.ofNat 64 ((if halted then 2 ^ 63 else 0) + cmd + mxQueued k * 2 ^ 52 + k.fmt * 2 ^ 40 + k.steps % 2 ^ 25)

/-- An error of the array (R301, R302): its flag, the slot's POIS bit where the slot is poisoned, the place and the count. -/
def mxError (k : Cluster) (flag slot kb rg : Nat) (pois : Bool) : Word :=
  let e := k.mxerr.toNat
  let n := min (e / 2 ^ 48 + 1) 65535
  let low := (e ||| 2 ^ flag ||| (if pois then 2 ^ slot else 0)) % 2 ^ 32
  BitVec.ofNat 64 (n * 2 ^ 48 + slot * 2 ^ 42 + rg * 2 ^ 37 + kb * 2 ^ 32 + low)

/-- The Acorn's SDC trap, and the record of type 3 (R301). The trap's PC is that of its entry. It ends the program where its handler issued the
command (R185). -/
def mxSdc (s : State) (cl : Nat) (cregs : CtxRegs) (ctx slot kb rg : Nat) (handlers : Bool) : State :=
  let key := acornKey cl
  let info := BitVec.ofNat 64 (slot + kb * 4 + rg * 128)
  let s1 := sendFault s (ofIssuer s key (engineFault 3 0 0 cregs ctx 0 (1216 + cl) 0 info .nobody))
  match s1.warp key with
  | none => s1
  | some w =>
    let t : TrapRec := { cause := cSDC, stage := .late, late := true, info := info, pc := w.pt.pcs.getD 0 0, act := 1, exec := 1,
                         word := freeInst s1, slots := none, cycle := s1.cycle }
    raiseLate { s1 with draw := s1.draw + 1 } key t handlers

/-! ## Operand reads -/

/-- n bytes of a crew's scratchpad as a number with the poison of each of `count` elements of w bits; a crew that has ended gives
undefined values (R7). -/
def readTile (s : State) (crew a count w : Nat) : Nat × BitVec 32 :=
  match s.crew crew with
  | some c =>
    let n := count * w / 8
    (spRead c a n, (List.range count).foldl (fun (m : BitVec 32) t =>
      if spBadAt c (a + t * w / 8) (max 1 (w / 8)) then m ||| (1#32 <<< t) else m) 0)
  | none => ((List.range 16).foldl (fun x i => x + (Config.freeWord (s.draw * 65536 + 20700 + i)).toNat * 2 ^ (64 * i)) 0 % 2 ^ (count * w), 0)

/-- The slab of a row group of an MMA, its 8 rows whatever the record's DIM1: from the operand cache, or read from the banks and put
there (R282). -/
def slabFor (s : State) (cl : Nat) (ra : Tensor) (crew ha w b g : Nat) : State × List (Nat × BitVec 32) :=
  let core := tBase ra / 2 ^ 20 % 2 ^ 11
  let k := s.cluster cl
  match k.slabs.find? (fun x => x.core = core && x.crew = crew && x.handle = ha && x.gen = tGen ra && x.g = g && x.b = b) with
  | some x => (s.modCluster cl (fun k => { k with slabs := k.slabs.filter (fun y => y != x) ++ [x] }), x.rows)
  | none =>
    let base := tBase ra % 2 ^ 20 + 8 * g * tStride0 ra + 32 * b * w / 8
    let rows := (List.range 8).map (fun i => readTile s crew (base + i * tStride0 ra) 32 w)
    let x : Slab := { core := core, crew := crew, handle := ha, gen := tGen ra, g := g, b := b, base := base, stride := tStride0 ra,
                      bytes := 32 * w / 8, rows := rows }
    (s.modCluster cl (fun k => { k with slabs := (k.slabs ++ [x]).drop (k.slabs.length + 1 - 64) }), rows)

/-- The slabs of a crew that has ended leave the operand caches (R282). -/
def dropCrewSlabs (s : State) (crew : Nat) : State :=
  { s with clusters := s.clusters.map (fun e => (e.1, { e.2 with slabs := e.2.slabs.filter (fun x => x.crew != crew) })) }

/-- A byte range of the weight buffer has a poisoned word. -/
def wPoison (k : Cluster) (a n : Nat) : Bool := (List.range ((a + n + 7) / 8 - a / 8)).any (fun i => fmGet false k.wbad (a / 8 + i))

/-- Element (row, column) of a B entry as a value in the multiplier format, with its poison (R61, R281, R283). -/
def wElem (k : Cluster) (e : WeightEnt) (f row col : Nat) : Nat × Bool :=
  let base := e.off + row * rowBytesB e.fmt e.n
  if e.fmt = 0x10 then
    let a := base + col / 8 * 2
    let code := memRead k.wbuf a 2
    let ent := cbEntry k.decoder (code / 256)
    (cbElem ((etyOf f).getD .e4m3) ent.1 (code % 256) (col % 8), wPoison k a 2 || ent.2)
  else
    let w := fmtWidth e.fmt
    let a := base + col * w / 8
    let n := max 1 (w / 8)
    ((memRead k.wbuf a n >>> (col * w % 8)) % 2 ^ w, wPoison k a n)

/-- A scale code of a B entry: byte per column after the rows (R281). -/
def wScale (k : Cluster) (e : WeightEnt) (b col : Nat) : Nat × Bool :=
  let a := e.off + e.k * rowBytesB e.fmt e.n + 256 * b + col
  (memRead k.wbuf a 1, wPoison k a 1)

/-! ## The fold (R78) -/

/-- floor(log2 |v|) of a nonzero finite value. -/
def valExp (v : FVal) : Option Int :=
  match v with
  | .fin _ m e => if m = 0 then none else some (e + Nat.log2 m)
  | _ => none

/-- A product truncated toward zero to a multiple of 2^q. -/
def truncTo (q : Int) (v : FVal) : FVal :=
  match v with
  | .fin n m e => if q ≤ e then v else .fin n (m >>> (q - e).toNat) q
  | v => v

/-- The block sum S of 32 products (R78). -/
def blockSum (f : Nat) (ps : List FVal) : FVal :=
  let ps := if f = 0xA || f = 0xB then
      match ps.filterMap valExp with
      | [] => ps
      | x :: xs => ps.map (truncTo (xs.foldl max x - 48))
    else ps
  match fSum .rne ps with
  | (.fin n m e, _) => if m = 0 then .fin false 0 0 else .fin n m e
  | (v, _) => v

/-- An operand element as a value: integers of I8 exactly. -/
def mxVal (f bits : Nat) : FVal :=
  if f = 3 then (let x := intOf true 8 bits; .fin (x < 0) x.natAbs 0)
  else fDecode ((etyOf f).getD .f32) bits

/-- The new accumulator value. -/
def mxFold (acc : BitVec 32) (f : Nat) (ps : List FVal) (sa sb : Option Nat) : BitVec 32 :=
  let s := blockSum f ps
  let nan := sa = some 0xFF || sb = some 0xFF
  let sh : Int := (match sa with
    | some e => (e : Int) - 127
    | none => 0) + (match sb with
    | some e => (e : Int) - 127
    | none => 0)
  if nan then BitVec.ofNat 32 (etyNan .f32)
  else BitVec.ofNat 32 (fSumRound .f32 rcNear [fDecode .f32 acc.toNat, fShift s sh]).bits

/-- One engine step: K-block b of an MMA for row group g (R289). An MMA whose entry's WLOAD was abandoned after its check runs its steps and leaves
the accumulator as it is (R290; DESIGN CHOICE, log 29). -/
def foldStep (s : State) (cl : Nat) (scaled : Bool) (slot kb0 : Nat) (ra : Tensor) (crew ha hb : Nat) (rs : Tensor) (screw f b g : Nat) : State :=
  let w := fmtWidth f
  let m := tDim1 ra
  let (s1, slab) := slabFor s cl ra crew ha w b g
  let rows := slab.take (m - 8 * g)
  let k := s1.cluster cl
  match k.wdir.find? (fun e => e.handle = hb) with
  | none => s1
  | some e =>
    let cols := (List.range e.n).map (fun j => (List.range 32).map (fun t => wElem k e f (32 * (kb0 + b) + t) j))
    let acc' := (rows.zipIdx).foldl (fun (acc : FMap (BitVec 32 × Bool)) row =>
      let i := 8 * g + row.2
      let av := (List.range 32).map (fun t => mxVal f ((row.1.1 >>> (t * w)) % 2 ^ w))
      let sa := if scaled then some (readTile s screw (tBase rs % 2 ^ 20 + i * tStride0 rs + b) 1 8) else none
      (cols.zipIdx).foldl (fun (acc : FMap (BitVec 32 × Bool)) col =>
        let sb := if scaled then some (wScale k e (kb0 + b) col.2) else none
        let ps := (av.zip col.1).map (fun x => fMul x.1 (mxVal f x.2.1))
        let old := fmGet (0, false) acc (256 * i + col.2)
        let pois := old.2 || row.1.2 != 0#32 || col.1.any (fun x => x.2) || (match sa with
          | some x => x.2 != 0#32
          | none => false) || (match sb with
          | some x => x.2
          | none => false)
        fmSet (0, false) acc (256 * i + col.2) (mxFold old.1 f ps (sa.map (fun x => x.1)) (sb.map (fun x => x.1)), pois)) acc) (k.acc.getD slot [])
    { s1.modCluster cl (fun k => { k with acc := k.acc.set slot acc' }) with draw := s1.draw + 1 }

/-- The Acorn has stopped at a safe point for a pre-emption and its counters are zero (R298, steps 1 and 2). -/
def acornStopped (c : Crew) (w : Warp) : Bool := c.preempt.isSome && !w.tm && w.traps.isEmpty && atSafe c w && ctrsZero w

/-- A pre-emption past its first two steps stops the sequencer between K-blocks, until the save or its withdrawal (R298, R432). -/
def mxPaused (s : State) (cl : Nat) : Bool :=
  match s.warp (acornKey cl) with
  | none => false
  | some w => match s.crew w.crew with
    | some c => acornStopped c w
    | none => false
/-- The sequencer has halted, by MSTEP.halt or by a pre-emption, which stops it between K-blocks (R297, R298). -/
def mxStopped (s : State) (cl : Nat) : Bool :=
  let k := s.cluster cl
  k.halted || (mxPaused s cl && (match mxActive k with
    | none => true
    | some c => c.rg = 0))
/-- MSEQ as it reads now. -/
def mseqNow (s : State) (cl : Nat) : Word := mseqOf (s.cluster cl) (mxStopped s cl)
/-- An MSTEP.halt asks the sequencer to stop (R296). -/
def haltAsked (s : State) (cl : Nat) : Bool :=
  match s.warp (acornKey cl) with
  | none => false
  | some w => w.pend.any (fun p => match p.late with
      | .mxHalt => true
      | _ => false)

/-- Every element of a slot is poisoned (R301). -/
def poisonSlot (k : Cluster) (slot : Nat) : Cluster :=
  let old := k.acc.getD slot []
  { k with acc := k.acc.set slot ((List.range 65536).map (fun i => (i, ((fmGet (0, false) old i).1, true)))) }

/-- ENGINE_STEP (R291, R300, R301). Only F16 and BF16 have shifters that are checked. -/
def engineStep (s : State) (cl : Nat) (check : MatrixCheck) : State :=
  let k := s.cluster cl
  match mxActive k with
  | none => s
  | some c =>
    if k.halted || (c.rg = 0 && mxPaused s cl) then s
    else match c.kind with
    | .mma scaled slot kb0 kn ra crew ha hb rs screw f =>
      let g := c.rg
      let b := c.kb
      let check := if check = .shifter && !(f = 0xA || f = 0xB) then MatrixCheck.clean else check
      let s0 := match check with
        | .ecc i => s.modCluster cl (fun k =>
            let old := fmGet (0, false) (k.acc.getD slot []) i
            { k with acc := k.acc.set slot (fmSet (0, false) (k.acc.getD slot []) i (old.1, true)), mxerr := mxError k 11 slot b g true })
        | _ => s
      let s1 := foldStep s0 cl scaled slot kb0 ra crew ha hb rs screw f b g
      let flag := match check with
        | .residue => some 8
        | .shifter => some 9
        | .fold => some 10
        | _ => none
      let s2 := match flag with
        | some n => s1.modCluster cl (fun k => { poisonSlot k slot with mxerr := mxError k n slot b g true })
        | none => s1
      let s3 := if check = .clean then s2 else mxSdc s2 cl c.cregs c.ctx slot b g c.tm
      let last := g + 1 = (tDim1 ra + 7) / 8
      let c' := if last then { c with kb := b + 1, rg := 0 } else { c with rg := g + 1 }
      let fin := last && b + 1 = kn
      s3.modCluster cl (fun k => { k with
        steps := k.steps + 1
        cmds := if fin then k.cmds.filter (fun x => x.id != c.id) else k.cmds.map (fun x => if x.id = c.id then c' else x)
        halted := last && haltAsked s cl })
    | _ => s

/-- ENGINE_STEP (R291). -/
def execEngineStep (cluster : Nat) (check : MatrixCheck) (s : State) : Host.Outcome State Fault Refusal :=
  .next (engineStep s cluster check)

/-! ## Draining (R293) -/

/-- The FP32 magnitude of the largest element, or none where one is a NaN. -/
def blockMax (vs : List FVal) : Option FVal :=
  if vs.any FVal.isNan then none
  else some (vs.foldl (fun a v =>
    let x := if v.neg? then v.flip else v
    if fLess a x then x else a) (.fin false 0 0))

/-- The elements of one row as destination codes, and its scale bytes. -/
def drainRow (x f : Nat) (vs : List (BitVec 32)) : List Nat × List Nat :=
  let ctl : RCtl := ⟨.rne, x.testBit 3, false⟩
  let ty : Ety := (etyOf f).getD .f32
  if f = 9 then (vs.map (fun v => v.toNat), [])
  else if !x.testBit 2 then (vs.map (fun v => (fRoundVal ty ctl (fDecode .f32 v.toNat)).bits), [])
  else
    let blocks := (List.range (vs.length / 32)).map (fun c => (vs.drop (32 * c)).take 32)
    let out := blocks.map (fun bl =>
      let fv := bl.map (fun v => fDecode .f32 v.toNat)
      let e : Nat := match blockMax fv with
        | some m => (bscaleRes .e4m3 m).bits
        | none => 0xFF
      (if e = 0xFF then fv.map (fun _ => 0x7F) else fv.map (fun v => (fRoundVal .e4m3 ctl (fShift v (127 - (e : Int)))).bits), e))
    (out.flatMap (fun o => o.1), out.map (fun o => o.2))

/-- Bytes of a list of codes of n bytes. -/
def codeBytesLE (n : Nat) (vs : List Nat) : List Byte := vs.flatMap (fun v => bytesLE v n)

/-- Marks the words that receive bytes of poisoned elements of n bytes as uncorrectable (R293). -/
def markWords (c : Crew) (n : Nat) (as : List Nat) : Crew := as.foldl (fun c a => spMark (spMark c a true) (a + n - 1) true) c

/-- The rows of an MDRAIN go into the target crews. -/
def drainWrite (s : State) (cl slot x row0 : Nat) (rd : Tensor) (crew : Nat) (rs : Tensor) (screw : Nat) : State :=
  let acc := (s.cluster cl).acc.getD slot []
  let es := fmtBytes (tFmt rd)
  let s1 := (List.range (tDim1 rd)).foldl (fun s i =>
    let els := (List.range (tDim0 rd)).map (fun j => fmGet (0, false) acc (256 * (row0 + i) + j))
    let (codes, scales) := drainRow x (tFmt rd) (els.map (fun e => e.1))
    let a := tBase rd % 2 ^ 20 + i * tStride0 rd
    let bad := (els.zipIdx.filter (fun e => e.1.2)).map (fun e => e.2)
    let s1 := s.modCrew crew (fun c => markWords (spBlock c a (codeBytesLE es codes)) es (bad.map (fun j => a + j * es)))
    if x.testBit 2 then
      let b := tBase rs % 2 ^ 20 + i * tStride0 rs
      s1.modCrew screw (fun c => markWords (spBlock c b (codeBytesLE 1 scales)) 1 (bad.map (fun j => b + j / 32)))
    else s1) s
  let s2 := if x.testBit 4 then s1.modCluster cl (fun k => { k with
      acc := k.acc.set slot (acc.filter (fun e =>
        !(row0 ≤ e.1 / 256 && e.1 / 256 < row0 + tDim1 rd && e.1 % 256 < tDim0 rd))) }) else s1
  [crew, screw].foldl (fun s c => if (s.crew c).isSome then afterScratch s c else s) s2

/-- The byte count of an MDRAIN. -/
def drainBytes (x : Nat) (rd : Tensor) : Nat :=
  tDim1 rd * tDim0 rd * fmtBytes (tFmt rd) + (if x.testBit 2 then tDim1 rd * (tDim0 rd / 32) else 0)

/-- DRAIN_PIECE_COUNT (R293): bytes that have reached the banks are counted; the command finishes with its last piece. -/
def execDrainPieceCount (cluster bytes : Nat) (s : State) : Host.Outcome State Fault Refusal :=
  .next (match (s.cluster cluster).cmds.find? (fun c => c.started && mxDrains c.kind) with
    | none => s
    | some c => match c.kind with
      | .mdrain _ _ _ arr _ crew _ _ =>
        let n := min bytes c.left
        if n = 0 then s
        else (countInto s crew arr n).1.modCluster cluster (fun k => { k with cmds :=
            (if n = c.left then k.cmds.filter (fun x => x.id != c.id)
            else k.cmds.map (fun x => if x.id = c.id then { x with left := c.left - n } else x)) })
      | _ => s)

/-! ## Loading (R287) -/

/-- Reads n bytes at a VA as an engine does, with marks per byte; translation faults stop it. -/
def vmRdBytes (e : Env) : Nat → State → Nat → Except VErr (State × List (Byte × Bool))
  | 0, s, _ => .ok (s, [])
  | n + 1, s, va => do
    let (s1, v, b) ← vmRd e s va 1
    let (s2, t) ← vmRdBytes e n s1 (va + 1)
    return (s2, (BitVec.ofNat 8 v, b) :: t)

/-- Rows of bytes, one after another: row k from base + k * stride. -/
def vmRdRows (e : Env) (base stride n : Nat) : List Nat → State → Except VErr (State × List (Byte × Bool))
  | [], s => .ok (s, [])
  | k :: t, s => do
    let (s1, r) ← vmRdBytes e n s (base + k * stride)
    let (s2, rs) ← vmRdRows e base stride n t s1
    return (s2, r ++ rs)

/-- Puts bytes with their marks into the weight buffer. -/
def wPut (k : Cluster) (a : Nat) (bs : List (Byte × Bool)) : Cluster :=
  let marks := (bs.zipIdx a).filterMap (fun e => if e.1.2 then some (e.2 / 8) else none)
  let clear := (List.range ((a + bs.length + 7) / 8 - a / 8)).foldl (fun m i => fmSet false m (a / 8 + i) false) k.wbad
  { k with wbuf := memBlock k.wbuf a (bs.map (fun b => b.1)), wbad := marks.foldl (fun m w => fmSet false m w true) clear }

/-- Entries of a codebook image (R144). -/
def codebookOf (bs : List (Byte × Bool)) : FMap (BitVec 24 × Bool) :=
  (List.range 256).map (fun j =>
    let w := (bs.drop (4 * j)).take 4
    (j, (BitVec.ofNat 24 (w.zipIdx.foldl (fun a b => a + b.1.1.toNat * 256 ^ b.2) 0), w.any (fun b => b.2))))

/-- The effect of a WLOAD: what it reads and what it installs. -/
def wloadRun (s : State) (cl : Nat) (e : Env) (k : MxKind) : Except VErr State := do
  match k with
  | .wload h r off rs =>
    let rb := rowBytesB (tFmt r) (tDim0 r)
    let (s1, bs) ← vmRdRows e (tBase r) (tStride0 r) rb (List.range (tDim1 r)) s
    let (s2, sc) ← match rs with
      | some q => vmRdRows e (tBase q) (tStride0 q) (tDim0 r) (List.range (tDim1 r / 32)) s1
      | none => .ok (s1, [])
    let n := tDim0 r
    let s3 := s2.modCluster cl (fun k =>
      let k1 := wPut { k with wdir := dirStep k.wdir (.wload h r off rs) } off bs
      match rs with
      | some _ => (List.range (tDim1 r / 32)).foldl (fun k b =>
          wPut k (off + tDim1 r * rb + 256 * b) ((sc.drop (n * b)).take n ++ List.replicate (256 - n) (127#8, false))) k1
      | none => k1)
    return s3
  | .wcb _ va =>
    let (s1, bs) ← vmRdBytes e 1024 s va
    return s1.modCluster cl (fun k => { k with decoder := some (codebookOf bs) })
  | _ => return s

/-- A command starts (R284): MZERO, WINV and WLOAD run to their end at once, MDRAIN writes its bytes, an MMA begins. A WLOAD removes the
entries that it replaces when it starts. One whose translation fails reports it, and one that waits for a line or a slice waits; it
goes on from there (R287). -/
def mxStart (s : State) (cl id : Nat) : State :=
  let k := s.cluster cl
  match k.cmds.find? (fun c => c.id = id) with
  | none => s
  | some c =>
    if !(mxMayStart k c || (c.started && mxLoads c.kind)) || (mxArray c.kind && mxPaused s cl)
        || (mxLoads c.kind && s.faults.any (fun f => f.waiter = .matrix cl)) then s
    else
      let gone := fun (s : State) => s.modCluster cl (fun k => { k with cmds := k.cmds.filter (fun x => x.id != id) })
      let run := fun (s : State) (left : Nat) => s.modCluster cl (fun k => { k with
        cmds := k.cmds.map (fun x => if x.id = id then { x with started := true, left := left } else x) })
      let load := fun (_ : Unit) =>
        let s := (run s 0).modCluster cl (fun k => { k with wdir := dirClear k.wdir c.kind })
        let e : Env := ⟨1216 + cl, c.cregs, .matrix cl⟩
        match wloadRun s cl e c.kind with
        | .ok s1 => gone s1
        | .error (.fault va reason pte need) =>
          sendFault s (ofIssuer s (acornKey cl) (engineFault 1 reason (accessByte need + 8) c.cregs c.ctx va (1216 + cl) 0 (BitVec.ofNat 64 pte) (.matrix cl)))
        | .error v => v.waits e s
      match c.kind with
      | .mma _ _ _ _ _ _ _ _ _ _ _ => run s 0
      | .mzero m => gone (s.modCluster cl (fun k => { k with
          acc := (List.range 4).map (fun n => if m.testBit n then [] else k.acc.getD n [])
          mxerr := k.mxerr &&& ~~~BitVec.ofNat 64 (m % 16) }))
      | .mdrain slot x row0 _ rd crew rs screw => run (drainWrite s cl slot x row0 rd crew rs screw) (drainBytes x rd)
      | .wload _ _ _ _ => load ()
      | .wcb _ _ => load ()
      | .winv h => gone (s.modCluster cl (fun k => { k with wdir := dirStep k.wdir (.winv h) }))

/-- SEQUENCER_COMMAND_START (R284). -/
def execSequencerCommandStart (cluster cmd : Nat) (s : State) : Host.Outcome State Fault Refusal := .next (mxStart s cluster cmd)

/-- An unrecoverable translation fault abandons the WLOAD that waits for it: the Acorn takes ENGFAULT (R287) at the WLOAD's PC with its word (R177,
R187), which ends the program where its handler issued the WLOAD (R185). -/
def mxAbandon (s : State) (cl : Nat) : State :=
  let k := s.cluster cl
  match k.cmds.find? (fun c => c.started && mxLoads c.kind) with
  | none => s
  | some c =>
    let h := match c.kind with
      | .wload h _ _ _ => h
      | .wcb h _ => h
      | _ => 0
    let s1 := s.modCluster cl (fun k => { k with cmds := k.cmds.filter (fun x => x.id != c.id) })
    raiseLate s1 (acornKey cl)
      { cause := cENGFAULT, stage := .late, late := true, info := BitVec.ofNat 64 h, pc := c.pc, act := 1, exec := 1, word := c.word,
        slots := none, cycle := s1.cycle } c.tm

/-! ## What waits on the sequencer -/

/-- A lane's value into the registers of an instruction, which completes. -/
def completeLane (s : State) (key : Nat) (p : Pend) (v : Lane) : State :=
  completePend s key { p with regs := p.regs.map (fun r => { r with row := mkRow (fun _ => v) }) }
/-- A value without poison into them. -/
def completeWith (s : State) (key : Nat) (p : Pend) (v : Word) : State := completeLane s key p ⟨v, 0⟩

/-- MWAIT completes when the commands that it names have finished (R295). -/
def mxWaitStep (s : State) (key : Nat) (p : Pend) (ids : List Nat) : State :=
  let k := s.cluster (unitCluster (keyUnit key))
  let queued := match s.warp key with
    | some w => w.pend.any (fun q => ids.contains q.op)
    | none => false
  if queued || k.cmds.any (fun c => ids.contains c.id) then s else completePend s key p

/-- MSTEP.halt completes when the sequencer has stopped; without an array command it stops at once (R296). -/
def mxHaltStep (s : State) (key : Nat) (p : Pend) : State :=
  let cl := unitCluster (keyUnit key)
  let k := s.cluster cl
  let stop := match mxActive k with
    | none => true
    | some c => c.rg = 0
  if k.halted then completeWith s key p (mseqNow s cl)
  else if stop then
    let s1 := s.modCluster cl (fun k => { k with halted := true })
    completeWith s1 key p (mseqNow s1 cl)
  else s

end Sys2Proof.Machine
end

