-- ==== Sys2Proof/Machine/Copy.lean ====
section
/-! DEFINITION. The copy engine (12_cluster_copy_gemm.md R307-R325). -/

namespace Sys2Proof.Machine

/-! ## Geometry (R310-R312) -/

/-- The conversion mode X[1:0]. -/
def cpyMode (c : CpyCmd) : Nat := c.x.toNat % 4
/-- Sizes of a source and a destination element. -/
def cpyWs (c : CpyCmd) : Nat :=
  match cpyMode c with
  | 1 => 1
  | 2 => codeWidth (c.x.toNat / 16) / 8
  | _ => if c.rect then fmtBytes (tFmt c.rs) else 1
def cpyWd (c : CpyCmd) : Nat :=
  match cpyMode c with
  | 1 => 2
  | 2 => codeWidth (c.f.toNat % 16) / 8
  | _ => if c.rect then fmtBytes (tFmt c.rd) else 1

/-- Offset of element k in a record, from its origin or byte offset. -/
def cpyOff (c : CpyCmd) (r : Tensor) (o : Nat × Nat) (w k : Nat) : Nat :=
  if c.rect then (o.1 + k / c.cols) * tStride0 r + (o.2 + k % c.cols) * tStep r else o.2 + k * w

/-- Base of a record's bytes: a VA, or a crew address (R235). -/
def cpyBase (r : Tensor) : Nat := if tClass r = 5 then tBase r % 2 ^ 20 else tBase r

def cpySrc (c : CpyCmd) (k : Nat) : Nat := cpyBase c.rs + cpyOff c c.rs c.so (cpyWs c) k
def cpyDst (c : CpyCmd) (k : Nat) : Nat := cpyBase c.rd + cpyOff c c.rd c.dst (cpyWd c) k
def cpyTotal (c : CpyCmd) : Nat := c.rows * c.cols

/-- The mode's limits on the formats of a CPYT (R312). -/
def cpyFormats (c : CpyCmd) : Bool :=
  let s := tFmt c.rs
  let d := tFmt c.rd
  !c.rect || (s != 0xE && s != 0x10 && d != 0xE && d != 0x10 && (match cpyMode c with
    | 1 => fmtBytes s = 1 && fmtBytes d = 2
    | 2 => s = c.x.toNat / 16 && d = c.f.toNat % 16
    | _ => fmtBytes s = fmtBytes d))

/-- Every row and column of a rectangle, and every byte of it, lies inside a record. -/
def rectFits (r : Tensor) (o : Nat × Nat) (rows cols w : Nat) : Bool :=
  o.1 + rows ≤ tDim1 r && o.2 + cols ≤ tDim0 r && (o.1 + rows - 1) * tStride0 r + (o.2 + cols - 1) * tStep r + w ≤ tExtent r

/-- A byte of some row of a side in global memory lies at or above 2^52 or in the fabric window (R408, R447; log 85). -/
def cpyVaOut (c : CpyCmd) (r : Tensor) (addr : Nat → Nat) (w : Nat) : Bool :=
  tClass r != 5 && (List.range c.rows).any (fun i =>
    vaOut c.cregs (addr (i * c.cols)) (addr (i * c.cols + c.cols - 1) + w - addr (i * c.cols)))

/-- Everything of the command lies inside its records, and at VAs that may be translated (R314 check 4, R447); an empty
rectangle of a CPYT does not (DESIGN CHOICE, log 92). -/
def cpyFits (c : CpyCmd) (len : Nat) : Bool :=
  let n := cpyTotal c
  n != 0 && !cpyVaOut c c.rs (cpySrc c) (cpyWs c) && !cpyVaOut c c.rd (cpyDst c) (cpyWd c)
    && (if c.rect then rectFits c.rs c.so c.rows c.cols (cpyWs c) && rectFits c.rd c.dst c.rows c.cols (cpyWd c)
    else len % cpyWs c = 0 && c.so.2 + n * cpyWs c ≤ tExtent c.rs && c.dst.2 + n * cpyWd c ≤ tExtent c.rd)

/-! ## CPY, CPYT and CVTTAB at issue (R307-R314, R321) -/

/-- A copy command at issue waits for room in the queue; the issuer's later M-pipe instructions wait behind it (R307). -/
def cpyIssue (c : Ctx) (s : State) (k : CpyCmd) : Res := .ok (blockM c (addLate c s (.cpyQueue k) [] []))

/-- The class of a record is accepted, and a class-5 target crew is on the cluster (R314 check 1). -/
def cpyRec (s : State) (cr : Crew) (r : Tensor) (classes : List Nat) : Bool :=
  tensorValid r && classes.contains (tClass r) && (tClass r != 5 || (crewVia s cr r).isSome)

/-- Some byte of a command in a scratchpad lies at or above its crew's top, or in the trap area (R181; DEDUCED, log 72). -/
def cpySpOut (s : State) (crew : Option Nat) (n w : Nat) (addr : Nat → Nat) : Bool :=
  match crew with
  | none => false
  | some k => match s.crew k with
    | none => false
    | some t => (List.range n).any (fun i => spOut t false false 0 (addr i) w)

/-- CPY and CPYT. Where both records fail check 1, RECINV names hD (DESIGN CHOICE, log 92). -/
def cpyBody (c : Ctx) (s1 : State) (o : OpT) (rect : Bool) : Res :=
  match s1.crew c.w.crew with
  | none => .ok s1
  | some cr =>
    let vb := fun (i : Nat) (l : Nat) => if o.o1 = 240 then Lane.zero else c.val (o.o1 + BitVec.ofNat 8 i) l
    protGuard c (fun l => [(c.val o.o2 l).val, (vb 0 l).val, (vb 1 l).val]) (
      let hd := o.hnda.toNat
      let hs := o.hndb.toNat
      let classes := if rect then [2, 5] else [1, 2, 4, 5]
      withRecord c s1 hd (fun s2 rd => withRecord c s2 hs (fun s3 rs =>
        let l := c.low
        let va := c.val o.o2 l
        let a := va.val.toNat
        let b0 := (vb 0 l).val.toNat
        let b1 := (vb 1 l).val.toNat
        let noarr := a.testBit 20
        let acr := a.testBit 21
        let so := if rect then (b0 / 2 ^ 32, b0 % 2 ^ 32) else (0, b0)
        let dst := if rect then (b1 / 2 ^ 32, b1 % 2 ^ 32) else (0, b1)
        let dcrew := crewVia s3 cr rd
        let acrew := if acr then dcrew else some c.w.crew
        let cmd : CpyCmd := { id := c.op, key := c.key, op := c.op, crew := c.w.crew, word := c.cur.word, pc := c.cur.pc, act := c.cur.act,
                              exec := c.exec, tm := c.w.tm, cregs := cr.cregs, ctx := cr.ctx, table := none, rect := rect, hd := hd, hs := hs, rd := rd,
                              rs := rs, dcrew := dcrew, screw := crewVia s3 cr rs, f := c.h.f, x := o.x, cols := 0, rows := 1, so := so,
                              dst := dst, arr := none, started := false, moved := 0, seen := [], held := [], due := 0, flags := 0 }
        let len := a / 2 ^ 32
        let cmd := if rect then { cmd with
              cols := if len % 65536 = 0 then tDim0 rd - dst.2 else len % 65536
              rows := if len / 65536 = 0 then tDim1 rd - dst.1 else len / 65536 }
            else { cmd with cols := if len = 0 then (tExtent rd - dst.2) / cpyWd cmd else len / cpyWs cmd }
        let cmd := { cmd with arr := if noarr then none else acrew.map (fun k => (k, a % 2 ^ 20)) }
        if !cpyRec s3 cr rd classes then .trap cRECINV (BitVec.ofNat 64 hd)
        else if !cpyRec s3 cr rs classes then .trap cRECINV (BitVec.ofNat 64 hs)
        else if !cpyFormats cmd || (acr && tClass rd != 5) || (!acr && c.acorn && !noarr) || a / 2 ^ 22 % 2 ^ 10 != 0
            || (noarr && a % 2 ^ 20 != 0) then .trap cILLOP 0
        else if va.poi != 0 || (vb 0 l).poi != 0 || (vb 1 l).poi != 0 then .trap cPOISON (laneInfo l)
        else if !cpyFits cmd len then .trap cBOUNDS (laneInfo l)
        else if (match cmd.arr with
            | some (k, x) => (match s3.crew k with
              | some t => spOut t false false 0 x 1
              | none => true)
            | none => false) || cpySpOut s3 cmd.dcrew (cpyTotal cmd) (cpyWd cmd) (cpyDst cmd)
            || cpySpOut s3 cmd.screw (cpyTotal cmd) (cpyWs cmd) (cpySrc cmd) then .trap cSPBOUND (laneInfo l)
        else if a % 2 ^ 20 % 8 != 0 || (!rect && (so.2 % cpyWs cmd != 0 || dst.2 % cpyWd cmd != 0)) then .trap cMISALIGN (laneInfo l)
        else if tCoh rd = 2 then .trap cSEALW (laneInfo l)
        else cpyIssue c s3 cmd)))

/-- CPY (R310). -/
def execCpy (h : Hdr) (o : OpT) (s : State) : Host.Outcome State Fault Refusal :=
  issue (.cpy h o) h s (fun c s1 => cpyBody c s1 o false)
/-- CPYT (R311). -/
def execCpyt (h : Hdr) (o : OpT) (s : State) : Host.Outcome State Fault Refusal :=
  issue (.cpyt h o) h s (fun c s1 => cpyBody c s1 o true)

/-- CVTTAB (R321). -/
def execCvttab (h : Hdr) (o : OpM) (s : State) : Host.Outcome State Fault Refusal :=
  issue (.cvttab h o) h s (fun c s1 => withRecord c s1 o.hnd.toNat (fun s2 r =>
    match s2.crew c.w.crew, tableAddr c r o.hnd.toNat o.o2 o.disp.toInt 512 2 true false with
    | none, _ => .ok s2
    | _, .error (cause, info) => .trap cause info
    | some cr, .ok a =>
      cpyIssue c s2 { id := c.op, key := c.key, op := c.op, crew := c.w.crew, word := c.cur.word, pc := c.cur.pc, act := c.cur.act,
                      exec := c.exec, tm := c.w.tm, cregs := cr.cregs, ctx := cr.ctx, table := some (h.f.toNat % 4, a), rect := false,
                      hd := o.hnd.toNat, hs := o.hnd.toNat, rd := r, rs := r, dcrew := none, screw := none, f := h.f, x := 0, cols := 0,
                      rows := 0, so := (0, 0), dst := (0, 0), arr := none, started := false, moved := 0, seen := [],
                      held := [], due := 0, flags := 0 }))

/-- Commands accepted and not started. -/
def cpyQueued (k : Cluster) : Nat := (k.copies.filter (fun c => !c.started)).length

/-- A copy command is accepted when there is room and no earlier one of the issuer waits (R307). -/
def cpyQueueStep (s : State) (key : Nat) (p : Pend) (c : CpyCmd) : State :=
  let cl := unitCluster (keyUnit key)
  match s.warp key with
  | none => s
  | some w =>
    if 16 ≤ cpyQueued (s.cluster cl) || w.pend.any (fun q => q.op < p.op && (match q.late with
      | .cpyQueue _ => true
      | _ => false)) then s
    else completePend (s.modCluster cl (fun k => { k with copies := k.copies ++ [c] })) key p

/-! ## Order (R319) -/

/-- The bytes that a command writes, as ranges of VAs or of a crew's addresses. -/
def cpyWrites (c : CpyCmd) : List (Nat × Nat) :=
  if c.table.isSome then []
  else if !c.rect then [(cpyDst c 0, cpyTotal c * cpyWd c)]
  else (List.range c.rows).map (fun i => (cpyDst c (i * c.cols), (c.cols - 1) * tStep c.rd + cpyWd c))

/-- The pages of the bytes that a command writes in global memory, each with the physical base that it translates to now. -/
def cpyPages (s : State) (c : CpyCmd) : List (Nat × Nat) :=
  if c.dcrew.isSome then []
  else (((cpyWrites c).flatMap (fun x => (List.range ((x.1 + x.2 + 65535) / 65536 - x.1 / 65536)).map (fun i => x.1 / 65536 + i))).eraseDups).filterMap
    (fun p => match (translate s (1368 + unitCluster (keyUnit c.key)) c.cregs (p * 65536) permW).2 with
      | .ok pa => some (p, pa / 65536)
      | .fault _ _ => none)

/-- Two commands of one issuer write one byte: at one address, or through two VAs of one page. -/
def cpyClash (s : State) (a b : CpyCmd) : Bool :=
  let meets := fun (d : Int) (x y : Nat × Nat) => (x.1 : Int) + d < (y.1 + y.2 : Nat) && (y.1 : Int) < (x.1 + x.2 : Nat) + d
  a.key = b.key && a.crew = b.crew && a.dcrew = b.dcrew
    && ((cpyWrites a).any (fun x => (cpyWrites b).any (meets 0 x))
      || (cpyPages s a).any (fun p => (cpyPages s b).any (fun q => p.2 = q.2 && p.1 != q.1
        && (cpyWrites a).any (fun x => (cpyWrites b).any (fun y =>
          -- what both write of that page, b's moved to a's VA
          let lo := max (p.1 * 65536) x.1
          let hi := min (p.1 * 65536 + 65536) (x.1 + x.2)
          lo < hi && meets ((q.1 : Int) * 65536 - p.1 * 65536) (lo, hi - lo) y)))))

/-- The table that a command uses or loads. -/
def cpyTable (c : CpyCmd) : Option Nat :=
  match c.table with
  | some (n, _) => some n
  | none => if cpyMode c = 1 then some (c.x.toNat / 4 % 4) else none

/-- A command waits to start for an earlier one that has not: the same byte of one issuer, or a table that one of them loads. -/
def cpyAfter (s : State) (e c : CpyCmd) : Bool :=
  cpyClash s e c || (cpyTable e = cpyTable c && (cpyTable c).isSome && (e.table.isSome || c.table.isSome))

/-- The commands that the engine accepted before a command. -/
def cpyEarlier (k : Cluster) (c : CpyCmd) : List CpyCmd := k.copies.takeWhile (fun x => x.id != c.id)

/-- A command may start: a place is free, and what it waits for has started. -/
def cpyMayStart (s : State) (k : Cluster) (c : CpyCmd) : Bool :=
  !c.started && (k.copies.filter (fun x => x.started)).length < 4 && !(cpyEarlier k c).any (fun e => !e.started && cpyAfter s e c)

/-- A command has a byte at an address still to write. -/
def cpyRemains (e : CpyCmd) (a : Nat) : Bool :=
  e.held.any (fun b => b.1 = a) || (e.table.isNone && (if e.rect then
      (List.range (cpyTotal e - e.moved)).any (fun i => cpyDst e (e.moved + i) ≤ a && a < cpyDst e (e.moved + i) + cpyWd e)
    else cpyDst e e.moved ≤ a && a < cpyDst e (cpyTotal e)))

/-- Bytes that a command would write next are still to be written by an earlier one of its issuer, at their VA or at another one of their
page. -/
def cpyBehind (s : State) (k : Cluster) (c : CpyCmd) (as : List Nat) : Bool :=
  (cpyEarlier k c).any (fun e => cpyClash s e c && as.any (fun a => cpyRemains e a
    || (cpyPages s c).any (fun q => q.1 = a / 65536 && (cpyPages s e).any (fun p => p.2 = q.2 && cpyRemains e (p.1 * 65536 + a % 65536)))))

/-- A command waits for a table: one that uses it waits for earlier loads of it, one that loads it for every earlier command of it. -/
def cpyTableWaits (k : Cluster) (c : CpyCmd) : Bool :=
  (cpyTable c).isSome && (cpyEarlier k c).any (fun e => cpyTable e = cpyTable c && (e.table.isSome || c.table.isSome))

/-! ## Faults (R323, R324) -/

/-- CPYERR takes a fault. -/
def cpyErr (k : Cluster) (h reason issuer wslot : Nat) : Word :=
  let e := k.cpyerr.toNat
  let n := min (e / 2 ^ 16 % 2 ^ 16 + 1) 65535 * 2 ^ 16
  if e.testBit 0 then BitVec.ofNat 64 (e / 2 ^ 32 * 2 ^ 32 + n + (e ||| 2) % 16)
  else BitVec.ofNat 64 (h * 2 ^ 52 + reason * 2 ^ 48 + issuer * 2 ^ 37 + wslot * 2 ^ 32 + n + (e ||| 1) % 16)

/-- A command of a copy engine is abandoned (R323): CPYERR, FLT, the record of type 4, the issuer's trap. For a
datapath miscompare, where no record's access failed, the handle is hD (DESIGN CHOICE, log 92). -/
def cpyGiveUp (s : State) (cl id reason : Nat) : State :=
  match (s.cluster cl).copies.find? (fun c => c.id = id) with
  | none => s
  | some c =>
    let h := if reason = 1 then c.hs else if reason = 4 && (match c.dcrew with
        | some k => (s.crew k).isSome
        | none => true) then c.hs else c.hd
    let wslot := if keyAcorn c.key then 0 else keySlot c.key
    let info := BitVec.ofNat 64 (h + reason * 4096)
    let s1 := s.modCluster cl (fun k => { k with
      copies := k.copies.filter (fun x => x.id != id), cpyerr := cpyErr k h reason (keyUnit c.key) wslot })
    let s2 := sendFault (orphanFaults s1 (.copy cl id))
      (ofCrew s c.crew (engineFault 4 reason
        (if reason = 6 then 8 else if reason = 1 || reason = 5 || (reason = 4 && h = c.hs) then 9 else 10) c.cregs c.ctx 0 (1368 + cl) wslot info .nobody))
    match s2.warp c.key with
    | none => s2
    | some w =>
      if w.crew != c.crew then s2
      else raiseLate (s2.setWarp c.key { w with cpyFlt := true }) c.key
        { cause := cENGFAULT, stage := .late, late := true, info := info, pc := c.pc, act := c.act, exec := c.exec, word := c.word,
          slots := none, cycle := s2.cycle } c.tm

/-- A translation of the engine failed: it reports the page and waits (R323). -/
def cpyFault (s : State) (cl : Nat) (c : CpyCmd) (write : Bool) (va reason pte : Nat) : State :=
  sendFault s (ofCrew s c.crew (engineFault 1 reason (if write then 10 else 9) c.cregs c.ctx va (1368 + cl)
    (if keyAcorn c.key then 0 else keySlot c.key) (BitVec.ofNat 64 pte) (.copy cl c.id)))

/-! ## Moving bytes (R313, R315, R316) -/

/-- Translations of the pages of a list of VAs, whose walks wait for a locked line of a table (R368): page and its physical base, or the fault of
the lowest VA. -/
def pagesOf (e : Env) (s : State) (need : Nat) (vas : List Nat) : Except VErr (State × FMap Nat) :=
  let els := (vas.map (fun v => v / 65536)).eraseDups.map (fun p =>
    ({ idx := 0, va := (vas.filter (fun v => v / 65536 = p)).foldl min (p * 65536 + 65535), pa := 0, data := 0, expect := 0 } : MemEl))
  match walksWait s e.who e.unit e.cr vas with
  | some ln => .error (.held ln false)
  | none => match translateEls (walksGo s e.who e.unit e.cr vas) e.unit e.cr need els with
    | (s1, es, none) => .ok (s1, es.map (fun e => (e.va / 65536, e.pa / 65536 * 65536)))
    | (_, _, some (va, r, p)) => .error (.fault va r p need)

/-- The physical address of a VA whose page was translated. -/
def physOf (m : FMap Nat) (va : Nat) : Nat := ((m.find? (fun e => e.1 = va / 65536)).elim 0 (fun e => e.2)) + va % 65536

/-- At most 8 bytes with the marks of their words as an engine reads them: from a crew's banks, or at home, word by word. -/
def engineRead (who : Waiter) (unit : Nat) (s : State) (crew : Option Nat) (m : FMap Nat) (a n : Nat) : Except VErr (State × Nat × Bool) :=
  match crew with
  | some k => match s.crew k with
    | some c => .ok (s, spRead c a n, spBadAt c a n)
    | none => .error (.wait [])
  | none =>
    let word := fun (s : State) (a n : Nat) =>
      let pa := physOf m a
      if lineHeld s who unit (pa / 128) false then Except.error (VErr.held (pa / 128) false)
      else roomed (homeBytes (engineGoes s who unit (pa / 128)) pa n)
    let first := min n (8 - a % 8)
    match word s a first with
    | .error v => .error v
    | .ok (s1, x, b1) =>
      if first = n then .ok (s1, x, b1)
      else match word s1 (a + first) (n - first) with
        | .error v => .error v
        | .ok (s2, y, b2) => .ok (s2, x + y * 256 ^ first, b1 || b2)

/-- One converted element: bits, flags, and whether a poisoned table entry was used (R312, R313). -/
def cpyConv (k : Cluster) (c : CpyCmd) (v : Nat) : Nat × Flags × Bool :=
  match cpyMode c with
  | 1 =>
    let e := fmGet (BitVec.ofNat 16 v, false) (k.tables.getD (c.x.toNat / 4 % 4) []) v
    (e.1.toNat, 0, e.2)
  | 2 =>
    let r := fRoundVal ((etyOf (c.f.toNat % 16)).getD .f32) (ctlNear c.f) (fInput (c.f.getLsbD 7) ((etyOf (c.x.toNat / 16)).getD .f32) v)
    (r.bits, r.flags, false)
  | _ => (v, 0, false)

/-- What a piece has read: destination bytes with their marks, flags, conditions. -/
structure Moved where
  bytes : List (Nat × Byte × Bool)
  flags : Flags
  unc   : Bool
  tpoi  : Bool

/-- An address lies among the destination's bytes, in the same scratchpad or at the same VA. -/
def cpyOverlaps (c : CpyCmd) (a : Nat) : Bool :=
  let st := if c.rect then tStep c.rd else cpyWd c
  c.dcrew = c.screw && (List.range c.rows).any (fun i =>
    let a0 := cpyDst c (i * c.cols)
    a0 ≤ a && (a - a0) / st < c.cols && (a - a0) % st < cpyWd c)
/-- A byte of the source lies among the destination's bytes, at its own address or through another VA of its page: what is read there is open, for
the command may have written it (R315). -/
def cpyShares (s : State) (c : CpyCmd) (m : FMap Nat) (a : Nat) : Bool :=
  cpyOverlaps c a || (c.dcrew.isNone && c.screw.isNone && (cpyPages s c).any (fun q =>
    q.2 = physOf m a / 65536 && cpyOverlaps c (q.1 * 65536 + a % 65536)))
/-- The bits that an element of the source gives: as read, or open (log 3). -/
def cpySource (s : State) (cl : Nat) (c : CpyCmd) (m : FMap Nat) (k v : Nat) : Nat :=
  if (List.range (cpyWs c)).any (fun i => cpyShares s c m (cpySrc c k + i)) then
    (Config.freeWord ((s.draw + 1) * 2 ^ 200 + cl * 2 ^ 128 + c.id * 2 ^ 64 + k)).toNat % 2 ^ (8 * cpyWs c)
  else v

/-- A source word of a command: as it was read before, or read now (R315). -/
def cpyWord (cl : Nat) (c : CpyCmd) (m : FMap Nat) (s : State) (seen : FMap (Nat × Bool)) (w : Nat) :
    Except VErr (State × FMap (Nat × Bool) × Nat × Bool) :=
  match fmFind seen w with
  | some v => .ok (s, seen, v)
  | none => match engineRead (.copy cl c.id) (1368 + cl) s c.screw m (8 * w) 8 with
    | .error v => .error v
    | .ok (s1, v) => .ok (s1, fmPut seen w v, v)

/-- An element of the source: its bits, and whether one of its words is uncorrectable. -/
def cpyElem (cl : Nat) (c : CpyCmd) (m : FMap Nat) (s : State) (seen : FMap (Nat × Bool)) (a n : Nat) :
    Except VErr (State × FMap (Nat × Bool) × Nat × Bool) :=
  match cpyWord cl c m s seen (a / 8) with
  | .error v => .error v
  | .ok (s1, seen1, x, b1) =>
    if a % 8 + n ≤ 8 then .ok (s1, seen1, x / 256 ^ (a % 8) % 256 ^ n, b1)
    else match cpyWord cl c m s1 seen1 (a / 8 + 1) with
      | .error v => .error v
      | .ok (s2, seen2, y, b2) => .ok (s2, seen2, (x + y * 2 ^ 64) / 256 ^ (a % 8) % 256 ^ n, b1 || b2)

/-- Reads and converts elements, in order. -/
def cpyGather (cl : Nat) (c : CpyCmd) (m : FMap Nat) : List Nat → State → FMap (Nat × Bool) → Except VErr (State × FMap (Nat × Bool) × Moved)
  | [], s, seen => .ok (s, seen, ⟨[], 0, false, false⟩)
  | k :: t, s, seen =>
    match cpyElem cl c m s seen (cpySrc c k) (cpyWs c) with
    | .error v => .error v
    | .ok (s1, seen1, v, bad) =>
      let (x, fl, tp) := cpyConv (s1.cluster cl) c (cpySource s1 cl c m k v)
      match cpyGather cl c m t s1 seen1 with
      | .error v => .error v
      | .ok (s2, seen2, r) =>
        .ok (s2, seen2, ⟨(bytesLE x (cpyWd c)).zipIdx.map (fun b => (cpyDst c k + b.2, b.1, bad || tp)) ++ r.bytes, fl ||| r.flags,
          bad || r.unc, tp || r.tpoi⟩)

/-- Bytes into a crew's banks, each word whole, with its mark (R313, R316). -/
def spPut (c : Crew) (bs : List (Nat × Byte × Bool)) : Crew :=
  let c1 := bs.foldl (fun c b => { c with sp := memSet c.sp b.1 b.2.1 }) c
  ((bs.map (fun b => b.1 / 8)).eraseDups).foldl (fun c w =>
    let mine := bs.filter (fun b => b.1 / 8 = w)
    if mine.any (fun b => b.2.2) then { c with spBad := fmSet false c.spBad w true }
    else if (mine.map (fun b => b.1)).eraseDups.length = 8 then { c with spBad := fmSet false c.spBad w false } else c) c1

/-- Bytes to their homes, line by line, as an engine writes them (R316). -/
def homePut (who : Waiter) (unit : Nat) (bs : List (Nat × Byte × Bool)) : List Nat → State → Except VErr State
  | [], s => .ok s
  | ln :: t, s =>
    let mine := bs.filter (fun b => b.1 / 128 = ln)
    let mask := mine.foldl (fun (m : BitVec 128) b => m ||| (1#128 <<< (b.1 % 128))) 0
    let d := mine.foldl (fun (d : Line) b => mergeLine d (BitVec.setWidth 1024 b.2.1 <<< (8 * (b.1 % 128))) (0xFF#1024 <<< (8 * (b.1 % 128)))) 0
    let bad := mine.foldl (fun (m : BitVec 16) b => if b.2.2 then m ||| (1#16 <<< (b.1 % 128 / 8)) else m) 0
    if lineHeld s who unit ln true then .error (.held ln true)
    else match homeWrite (engineGoes s who unit ln) ln mask d bad true with
      | .error v => .error (.wait v)
      | .ok s1 => homePut who unit bs t (noteWrites s1 [ln])

/-- The words of a line that bytes touch. -/
def bytesWords (bs : List (Nat × Byte × Bool)) (ln : Nat) : BitVec 32 :=
  bs.foldl (fun m b => if b.1 / 128 = ln then m ||| (1#32 <<< (b.1 % 128 / 4)) else m) 0

/-- Elements of the next piece: at most 4,096 destination bytes (R317). -/
def cpyPieceLen (c : CpyCmd) (bytes : Nat) : Nat := min (min bytes 4096 / cpyWd c) (cpyTotal c - c.moved)

/-- An element from number n on touches an 8-byte word of the source or the destination: the word is kept until it is not (R315, R316). -/
def cpyLater (c : CpyCmd) (addr : Nat → Nat) (size n w : Nat) : Bool :=
  if c.rect then (List.range (cpyTotal c - n)).any (fun i => addr (n + i) / 8 ≤ w && w ≤ (addr (n + i) + size - 1) / 8)
  else n < cpyTotal c && addr n / 8 ≤ w

/-- The warp has scratchpad accesses, arrival and queue operations before an operation that have not taken effect (R317). -/
def bankWaits (w : Warp) (op : Nat) : Bool :=
  w.pend.any (fun p => p.op < op && (match p.late with
    | .banks _ => true
    | .arrival _ _ _ => true
    | .await _ _ _ => true
    | .queueReq _ _ _ _ => true
    | .queueWait _ _ _ _ => true
    | .queueTry _ _ _ _ => true
    | .queueStat _ _ => true
    | .queuePut _ _ _ => true
    | .queueInit _ _ _ => true
    | .tilePark _ _ => true
    | .tileHeld _ => true
    | .tile _ banks => banks
    | _ => false))

/-- What a warp of a crew issued to the scratchpad before an operation has not all taken effect; a warp that has ended since left it to its ghost
(R317). -/
def issuedWaits (s : State) (crew key op : Nat) : Bool :=
  s.warps.any (fun e => e.1 % 65536 = key && e.2.crew = crew && bankWaits e.2 op)

/-- A count into the issuing crew waits for the warp's scratchpad accesses before the command (R317). -/
def countHeld (s : State) (c : CpyCmd) : Bool := c.arr.any (fun a => a.1 = c.crew && issuedWaits s c.crew c.key c.op)

/-- Before global bytes are counted, the Copy words of them become Invalid in the L1 of the core that holds the arrival word (R318). -/
def countClears (s : State) (c : CpyCmd) (bs : List (Nat × Byte × Bool)) : State :=
  match c.arr with
  | none => s
  | some (k, _) => match s.crew k with
    | none => s
    | some t =>
      if c.dcrew.isSome then s
      else ((bs.map (fun b => b.1 / 128)).eraseDups).foldl (fun s ln => l1Invalidate s t.unit ln (bytesWords bs ln)) s

/-- The command finishes: its flags go to the issuer (R313). -/
def cpyFinish (s : State) (cl : Nat) (c : CpyCmd) : State :=
  (s.modCluster cl (fun k => { k with copies := k.copies.filter (fun x => x.id != c.id) })).modWarp c.key (fun w =>
    if w.crew = c.crew then { w with cpyFlags := w.cpyFlags ||| c.flags } else w)

/-- A command as it stands now. -/
def setCopy (s : State) (cl : Nat) (c : CpyCmd) : State :=
  s.modCluster cl (fun k => { k with copies := k.copies.map (fun x => if x.id = c.id then c else x) })

/-- A piece of what a command has written is counted; the command finishes once everything is written and counted (R317). -/
def cpyCount (s : State) (cl : Nat) (c : CpyCmd) : State :=
  let fin := fun (s : State) (c : CpyCmd) => if c.moved = cpyTotal c && c.due = 0 then cpyFinish s cl c else setCopy s cl c
  match c.arr with
  | none => fin s { c with due := 0 }
  | some (k, a) =>
    let n := min c.due 4096
    if n = 0 || countHeld s c then fin s c
    else
      let (s1, unc) := countInto s k a n
      fin (if unc then s1.modCluster cl (fun k => { k with cpyerr := k.cpyerr ||| 8 }) else s1) { c with due := c.due - n }

/-- The next n elements of a command: read, converted, and the words that they complete written (R315, R316); none while it waits. -/
def cpyMove (s : State) (cl n : Nat) (c : CpyCmd) : State ⊕ (State × CpyCmd) :=
  let unit := 1368 + cl
  let who : Waiter := .copy cl c.id
  let e : Env := ⟨unit, c.cregs, who⟩
  let ks := (List.range n).map (fun i => c.moved + i)
  let next := c.moved + n
  let ready := fun (b : Nat × Byte × Bool) => !cpyLater c (cpyDst c) (cpyWd c) next (b.1 / 8)
  let vas := ((c.held.map (fun b => b.1)) ++ ks.flatMap (fun k => (List.range (cpyWd c)).map (fun i => cpyDst c k + i))).filter (fun a => ready (a, 0, false))
  let dstVas := if c.dcrew.isSome then [] else vas
  let srcVas := if c.screw.isSome then [] else ks.flatMap (fun k => [cpySrc c k, cpySrc c k + cpyWs c - 1])
  if cpyBehind s (s.cluster cl) c vas || cpyTableWaits (s.cluster cl) c then .inl s
  else match pagesOf e s permR srcVas with
    | .error (.fault va r p _) => .inl (cpyFault s cl c false va r p)
    | .error v => .inl (v.waits e s)
    | .ok (s1, sm) => match pagesOf e s1 permW dstVas with
      | .error (.fault va r p _) => .inl (cpyFault s1 cl c true va r p)
      | .error v => .inl (v.waits e s)
      | .ok (s2, dm) =>
        if dstVas.any (fun v => sealHit s2 (c.cregs.asid.toNat % 65536) v 1) then .inl (cpyGiveUp s cl c.id 3)
        else match cpyGather cl c sm ks s2 c.seen with
          | .error v => .inl (v.waits e s)
          | .ok (s3, seen, mv) =>
            let all := c.held ++ mv.bytes
            let out := all.filter ready
            let bs : List (Nat × Byte × Bool) := if c.dcrew.isSome then out else out.map (fun b => (physOf dm b.1, b.2))
            let wr : Except VErr State := match c.dcrew with
              | some k => .ok (if bs.isEmpty then s3 else afterScratch (s3.modCrew k (fun t => spPut t bs)) k)
              | none => homePut who unit bs ((bs.map (fun (b : Nat × Byte × Bool) => b.1 / 128)).eraseDups) s3
            match wr with
            | .error v => .inl (v.waits e s)
            | .ok s4 =>
              let c' : CpyCmd := { c with
                moved := next, flags := c.flags ||| mv.flags, held := all.filter (fun b => !ready b), due := c.due + out.length
                seen := seen.filter (fun e => cpyLater c (cpySrc c) (cpyWs c) next e.1) }
              .inr (countClears (s4.modCluster cl (fun k => { k with
                cpyerr := k.cpyerr ||| (if mv.unc then 8 else 0) ||| (if mv.tpoi then 4 else 0) })) c' bs, c')

/-- A CVTTAB that has started reads its table once the earlier commands of the table have finished (R319, R321). -/
def cpyLoad (s : State) (cl : Nat) (c : CpyCmd) (n va : Nat) : State :=
  let e : Env := ⟨1368 + cl, c.cregs, .copy cl c.id⟩
  if cpyTableWaits (s.cluster cl) c then s
  else match vmRdBytes e 512 s va with
    | .error (.fault va r p _) => cpyFault s cl c false va r p
    | .error v => v.waits e s
    | .ok (s1, bs) =>
      let t := (List.range 256).map (fun j =>
        let w := (bs.drop (2 * j)).take 2
        (j, (BitVec.ofNat 16 (w.zipIdx.foldl (fun a b => a + b.1.1.toNat * 256 ^ b.2) 0), w.any (fun b => b.2))))
      cpyFinish (s1.modCluster cl (fun k => { k with tables := k.tables.set n t })) cl c

/-- One piece of a command: moved and counted (R315-R318). -/
def cpyPiece (s : State) (cl id bytes : Nat) : State :=
  match (s.cluster cl).copies.find? (fun c => c.id = id) with
  | none => s
  | some c =>
    let gone := fun (o : Option Nat) => match o with
      | some k => (s.crew k).isNone
      | none => false
    let n := cpyPieceLen c bytes
    if !c.started || s.faults.any (fun f => f.waiter = .copy cl id) then s
    else match c.table with
      | some (t, va) => cpyLoad s cl c t va
      | none =>
        if gone c.screw || gone c.dcrew then cpyGiveUp s cl id 4
        else if n = 0 then cpyCount s cl c
        else match cpyMove s cl n c with
          | .inl s1 => s1
          | .inr (s1, c1) => cpyCount s1 cl c1

/-- A command starts, the oldest of those that may first (R319). -/
def cpyStart (s : State) (cl id : Nat) : State :=
  let k := s.cluster cl
  match k.copies.find? (fun c => c.id = id) with
  | none => s
  | some c =>
    if !cpyMayStart s k c || (cpyEarlier k c).any (cpyMayStart s k) then s
    else cpyPiece (setCopy s cl { c with started := true }) cl id 0

/-- COPY_COMMAND_START (R319). -/
def execCopyCommandStart (cluster cmd : Nat) (s : State) : Host.Outcome State Fault Refusal := .next (cpyStart s cluster cmd)
/-- COPY_PIECE_COUNT (R317). -/
def execCopyPieceCount (cluster cmd bytes : Nat) (s : State) : Host.Outcome State Fault Refusal := .next (cpyPiece s cluster cmd bytes)

/-- COPY_ABANDON (R323): a datapath miscompare, a target crew that has ended, a sealed destination; a fault that became
unrecoverable is abandoned with its answer (FRESP_ABORT). -/
def execCopyAbandon (cluster cmd reason : Nat) (s : State) : Host.Outcome State Fault Refusal :=
  .next (match (s.cluster cluster).copies.find? (fun c => c.id = cmd) with
    | none => s
    | some c =>
      let gone := fun (o : Option Nat) => match o with
        | some k => (s.crew k).isNone
        | none => false
      let sealed_ := c.dcrew.isNone && (cpyWrites c).any (fun r => sealHit s (c.cregs.asid.toNat % 65536) r.1 r.2)
      if reason = 6 || (reason = 4 && (gone c.screw || gone c.dcrew)) || (reason = 3 && sealed_) then cpyGiveUp s cluster cmd reason else s)

/-! ## CPYSTAT (R322) -/

/-- The commands of an issuer: accepted, or waiting for room. -/
def issuerCopies (s : State) (key crew : Nat) : List Nat :=
  let acc := ((s.cluster (unitCluster (keyUnit key))).copies.filter (fun c => c.key = key && c.crew = crew)).map (fun c => c.id)
  acc ++ (match s.warp key with
    | some w => w.pend.filterMap (fun p => match p.late with
      | .cpyQueue _ => some p.op
      | _ => none)
    | none => [])

/-- CPYSTAT (R322). -/
def execCpystat (h : Hdr) (o : OpR) (s : State) : Host.Outcome State Fault Refusal :=
  issue (.cpystat h o) h s (fun c s1 =>
    let ids := if o.x.getLsbD 1 then issuerCopies s1 c.key c.w.crew else []
    .ok (addLate c s1 (.cpyStat ids (o.x.getLsbD 0)) (regWr c.w o.o1 c.exec (fun _ => Lane.zero)) []))

/-- CPYSTAT reads the status once the commands that it waits for have finished. -/
def cpyStatStep (s : State) (key : Nat) (p : Pend) (ids : List Nat) (clr : Bool) : State :=
  match s.warp key with
  | none => s
  | some w =>
    let k := s.cluster (unitCluster (keyUnit key))
    let open_ := issuerCopies s key w.crew
    if ids.any (fun i => open_.contains i) then s
    else
      let mine := (k.copies.filter (fun c => c.key = key && c.crew = w.crew)).length
      let v := w.cpyFlags.toNat + (if w.cpyFlt then 128 else 0) + mine % 256 * 256 + min 16 (cpyQueued k) * 65536
      let s1 := completeWith s key p (BitVec.ofNat 64 v)
      if clr then s1.modWarp key (fun w => { w with cpyFlags := 0, cpyFlt := false }) else s1

end Sys2Proof.Machine
end

