-- ==== Sys2Proof/Machine/DieCache.lean ====
section
/-! DEFINITION. Counters, sealed regions and snapshots of the slices (13_die_cache.md R338-R353). -/

namespace Sys2Proof.Machine

/-! ## Counters (R338-R340) -/

/-- The eight words of a slice's counters. -/
def sliceWords (sl : Slice) : List Nat :=
  let es := sl.lines.map (fun e => encodeLine e.2.data e.2.bad)
  let n := fun (k : Enc) => (es.filter (fun e => e.1 = k)).length
  let two := fun (hi lo : Nat) => hi % 2 ^ 32 * 2 ^ 32 + lo % 2 ^ 32
  [two (n .rep) (n .zero), two (n .bd16) (n .bd8), two (n .raw) (n .zrun), two sl.copied (es.foldl (fun a e => a + e.2) 0),
   sl.expev % 2 ^ 64, sl.recomp % 2 ^ 64, sl.lockw % 2 ^ 64, sl.recalls % 2 ^ 64]

/-- Two counter words added field by field: two halves in words 0 to 3, 64 bits in the others. -/
def addWords (a b : List Nat) : List Nat :=
  (List.range 8).map (fun i =>
    let x := a.getD i 0
    let y := b.getD i 0
    if i < 4 then (x / 2 ^ 32 + y / 2 ^ 32) % 2 ^ 32 * 2 ^ 32 + (x % 2 ^ 32 + y % 2 ^ 32) % 2 ^ 32 else (x + y) % 2 ^ 64)

/-- The sum over slices. -/
def slicesSum (s : State) (ns : List Nat) : List Nat := ns.foldl (fun a n => addWords a (sliceWords (s.slice n))) (List.replicate 8 0)
/-- The slices of a die: 96 of them (R326). -/
def dieSlices (d : Nat) : List Nat := (List.range 96).map (fun i => 96 * d + i)

/-- LLCSTAT reads one slice a cycle; it completes when the sum is written (R339). -/
def llcStep (s : State) (key : Nat) (p : Pend) (todo acc : List Nat) : State :=
  match todo with
  | [] => completePend s key { p with regs := (p.regs.zipIdx).map (fun r =>
      { r.1 with row := mkRow (fun _ => ⟨BitVec.ofNat 64 (acc.getD r.2 0), 0⟩) }) }
  | n :: rest => modPend s key p.op (fun p => { p with late := .llcstat rest (addWords acc (sliceWords (s.slice n))), ready := s.cycle + 1 })

/-- LLCSTAT (R339). -/
def execLlcstat (h : Hdr) (o : OpR) (s : State) : Host.Outcome State Fault Refusal :=
  issue (.llcstat h o) h s (fun c s1 => protGuard c (fun l => if o.x.toNat % 4 = 2 then [] else [(c.val o.o2 l).val]) (
    let v := c.val o.o2 c.low
    let scope := o.x.toNat % 4
    let n := v.val.toNat
    if scope != 2 && v.poi != 0 then .trap cPOISON (laneInfo c.low)
    else if (scope = 0 && 384 ≤ n) || (scope = 1 && 4 ≤ n) then .trap cBOUNDS (laneInfo c.low)
    else
      let todo := if scope = 0 then [n] else if scope = 1 then dieSlices n else List.range 384
      .ok (addLate c s1 (.llcstat todo (List.replicate 8 0)) ((List.range 8).flatMap (fun i =>
        regWr c.w (o.o1 + BitVec.ofNat 8 i) c.exec (fun _ => Lane.zero))) [])))

/-! ## Ranges -/

/-- The physical lines of a range of VAs that the context maps, whatever their permissions; a page without a translation holds none. -/
def mappedLines (s : State) (unit : Nat) (cr : CtxRegs) (base len : Nat) : List Nat :=
  ((List.range ((base + len + 65535) / 65536 - base / 65536)).map (fun i => base / 65536 + i)).flatMap (fun p =>
    match (translate s unit cr (p * 65536) 0).2 with
    | .ok pa =>
      let lo := max base (p * 65536)
      let hi := min (base + len) (p * 65536 + 65536)
      (List.range ((hi + 127) / 128 - lo / 128)).map (fun k => (pa + lo % 65536) / 128 + k)
    | .fault _ _ => [])

/-- Recalls every registered word and object-table entry of lines. -/
def recallLines (s : State) (lns : List Nat) : Room State :=
  lns.foldlM (fun s ln => if (dirEnt s ln).isNone && (objEnt s ln).isNone then .ok s else recallAll s ln) s

/-! ## SEAL and UNSEAL (R342-R345) -/

/-- The record of SEAL and UNSEAL: a trap, or its base and length. -/
def sealRec (c : Ctx) (r : Tensor) (h : Nat) : Except (Nat × Word) (Nat × Nat) :=
  if !tensorValid r || !(tClass r = 1 || tClass r = 2 || tClass r = 4) || tCoh r = 1 then .error (cRECINV, BitVec.ofNat 64 h)
  else if tBase r % 128 != 0 || tExtent r % 128 != 0 then .error (cMISALIGN, laneInfo c.low)
  else .ok (tBase r, tExtent r)

/-- SEAL (R343). -/
def execSeal (h : Hdr) (o : OpM) (s : State) : Host.Outcome State Fault Refusal :=
  issue (.seal h o) h s (fun c s1 => protGuard c (fun _ => []) (withRecord c s1 o.hnd.toNat (fun s2 r =>
    match sealRec c r o.hnd.toNat with
    | .error (cause, info) => .trap cause info
    | .ok (base, len) => .ok (addLate c s2 (.sealing base len o.hnd.toNat (tCoh r != 2) none) (regWr c.w o.o1 c.exec (fun _ => Lane.zero)) []))))

/-- A store or another write to one of the lines, sent before an operation number or waiting then for its turn at L1, has not been applied. -/
def lineWrites (s : State) (lns : List Nat) (mark : Nat) : Bool :=
  s.net.any (fun r => r.id < mark && reqWrites r.kind && (reqLines r).any (fun l => lns.contains l))
    || s.warps.any (fun e => e.2.pend.any (fun p => p.op < mark && (match p.late with
      | .held m => m.kind = .store && m.els.any (fun x => lns.contains (x.pa / 128))
      | _ => false)))

/-- SEAL past the warp's earlier accesses: the table; then, once every write before it has been applied, the recalls (R343). -/
def sealStep (s : State) (key : Nat) (p : Pend) (base len h : Nat) (entry : Bool) (mark : Option Nat) : State :=
  match s.warp key with
  | none => s
  | some w => match s.crew w.crew with
    | none => s
    | some c =>
      let c := c.at_ p
      let lns := mappedLines s (keyUnit key) c.cregs base len
      match mark with
      | none =>
        let asid := c.cregs.asid.toNat % 65536
        let have_ := s.seals.any (fun e => e.asid = asid && e.base = base && e.len = len)
        if !released s key w p.op then s
        else if entry && !have_ && 32 ≤ s.seals.length then completeWith s key p 1
        else
          let s1 := if entry && !have_ then { s with seals := s.seals ++ [{ asid := asid, base := base, len := len, handle := h, closing := false }] } else s
          modPend s1 key p.op (fun p => { p with late := .sealing base len h entry (some s.nextOp), ready := s.cycle + 1 })
      | some n =>
        if lineWrites s lns n || sttHeld s lns then s
        else match recallLines s lns with
        | .error v => evictFor s v
        | .ok s1 => completeWith s1 key p 0

/-- Every core makes its Sealed words of some lines Invalid, and reads on their way fill no Sealed word of them. -/
def unsealLines (s : State) (lns : List Nat) : State :=
  let s1 := s.cores.foldl (fun s e => e.2.l1.foldl (fun s l =>
    if lns.contains l.1 && l.2.sealed != 0 then l1Put s e.1 l.1 { l.2 with sealed := 0 } else s) s) s
  { s1 with net := s1.net.map (fun r => match r.kind with
    | .read i k _ c => if lns.contains r.line then { r with kind := .read i k false c } else r
    | _ => r) }

/-- UNSEAL (R344): its first step closes the entry. -/
def execUnseal (h : Hdr) (o : OpM) (s : State) : Host.Outcome State Fault Refusal :=
  issue (.unseal h o) h s (fun c s1 => protGuard c (fun _ => []) (withRecord c s1 o.hnd.toNat (fun s2 r =>
    match sealRec c r o.hnd.toNat with
    | .error (cause, info) => .trap cause info
    | .ok (base, len) =>
      let asid := c.cregs.asid.toNat % 65536
      .ok (addLate c { s2 with seals := s2.seals.map (fun e =>
        if e.asid = asid && e.base = base && e.len = len then { e with closing := true } else e) } (.unsealing base len) [] []))))

/-- The other steps of UNSEAL: the Sealed words, then the entry (R344). -/
def unsealStep (s : State) (key : Nat) (p : Pend) (base len : Nat) : State :=
  match s.warp key with
  | none => s
  | some w => match s.crew w.crew with
    | none => s
    | some c =>
      let c := c.at_ p
      let asid := c.cregs.asid.toNat % 65536
      let s1 := unsealLines s (mappedLines s (keyUnit key) c.cregs base len)
      completePend { s1 with seals := s1.seals.filter (fun e => !(e.asid = asid && e.base = base && e.len = len)) } key p

/-- The entries of a context's ASID leave the table when the context ends (R342). -/
def endSeals (s : State) (asid : Nat) : State := { s with seals := s.seals.filter (fun e => e.asid != asid) }

/-! ## Snapshots (R346-R352) -/

/-- A free snapshot id. -/
def Snap.free : Snap :=
  { active := false, abandoned := false, key := 0, op := 0, crew := 0, ctx := 0,
    cregs := { heapb := 0, heapl := 0, heapo := 0, ptbr := 0, asid := 0, trtb := 0, trtn := 0, ctxpri := 0, dring := 0, fabric := 0 },
    handle := 0, dstHandle := 0, word := 0, pc := 0, act := 0, exec := 0, tm := false, base := 0, len := 0, src := [], dst := 0, fabric := false,
    arr := none, sent := [], unacked := [] }
def State.snap (s : State) (id : Nat) : Snap := s.snaps.getD id Snap.free
def State.setSnap (s : State) (id : Nat) (v : Snap) : State :=
  { s with snaps := (List.range 16).map (fun i => if i = id then v else s.snap i) }

/-- SNAP (R347). -/
def execSnap (h : Hdr) (o : OpM) (s : State) : Host.Outcome State Fault Refusal :=
  issue (.snap h o) h s (fun c s1 => protGuard c (fun l => [(c.val o.o2 l).val]) (
    let l := c.low
    let v := c.val o.o2 l
    let a := v.val.toNat
    let hs := o.hnd.toNat
    let hd := a % 4096
    let arr := a / 4096 % 2 ^ 20
    let noarr := a.testBit 32
    match s1.crew c.w.crew with
    | none => .ok s1
    | some cr => withRecord c s1 hs (fun s2 r =>
      if !tensorValid r || !(tClass r = 1 || tClass r = 2 || tClass r = 4) || 2 ≤ tCoh r || !tSnap r then .trap cRECINV (BitVec.ofNat 64 hs)
      else if cr.cregs.trtn.toNat ≤ hd then .trap cRECINV (BitVec.ofNat 64 hd)
      else withRecord c s2 hd (fun s3 d =>
        let overlap := tBase r < tBase d + tExtent d && tBase d < tBase r + tExtent r
        if !tensorValid d || tClass d != 1 then .trap cRECINV (BitVec.ofNat 64 hd)
        else if a / 2 ^ 33 != 0 || (noarr && arr != 0) || overlap then .trap cILLOP 0
        else if v.poi != 0 then .trap cPOISON (laneInfo l)
        else if tExtent d < tExtent r || vaOut cr.cregs (tBase r) (tExtent r) || 2 ^ 52 < tBase d + tExtent r then .trap cBOUNDS (laneInfo l)
        else if !noarr && spOut cr false false 0 arr 1 then .trap cSPBOUND (laneInfo l)
        else if tBase r % 128 != 0 || tExtent r % 128 != 0 || tBase d % 128 != 0 || arr % 8 != 0 then .trap cMISALIGN (laneInfo l)
        else if tCoh d = 2 || sealHit s3 (cr.cregs.asid.toNat % 65536) (tBase d) (tExtent d) then .trap cSEALW (laneInfo l)
        else
          let x : Snap := { Snap.free with
            active := true, key := c.key, op := c.op, crew := c.w.crew, ctx := cr.ctx, cregs := cr.cregs, handle := hs, dstHandle := hd,
            word := c.cur.word, pc := c.cur.pc, act := c.cur.act, exec := c.exec, tm := c.w.tm, base := tBase r, len := tExtent r, dst := tBase d,
            fabric := fabricVa cr.cregs (tBase d), arr := if noarr then none else some arr }
          .ok (addLate c s3 (.snapStart x none) (regWr c.w o.o1 c.exec (fun _ => Lane.zero)) [])))))

/-- The drain engine of the issuer's die, which translates the source range; that of the die that homes a line sends it (R350). -/
def drainUnit (x : Snap) : Nat := 1520 + clusterDie (unitCluster (keyUnit x.key))
def lineDrain (ln : Nat) : Nat := 1520 + lineHome ln / 96

/-- A snapshot is abandoned (R352): its copies are dropped, the record of type 5 of the engine that met the failure, the issuer's trap. -/
def snapGiveUp (s : State) (id unit reason : Nat) : State :=
  let x := s.snap id
  if !x.active then s
  else
    let h := if reason = 8 then x.handle else x.dstHandle
    let info := BitVec.ofNat 64 (h + reason * 4096 + id * 65536)
    let s1 := s.setSnap id { x with active := false, abandoned := true }
    let s2 := orphanFaults { s1 with
      slices := s1.slices.map (fun e => (e.1, { e.2 with drain := e.2.drain.filter (fun d => d.snap != id) })) } (.snap id)
    let s3 := sendFault s2 (ofCrew s x.crew (engineFault 5 reason (if reason = 8 then 9 else if reason = 11 then 8 else 10) x.cregs x.ctx 0 unit 0 info .nobody))
    match s3.warp x.key with
    | none => s3
    | some w =>
      if w.crew != x.crew then s3
      else
        let s4 := match w.pend.find? (fun p => match p.late with
            | .snapStart _ (some i) => i = id
            | _ => false) with
          | some p => completeWith s3 x.key p (BitVec.ofNat 64 id)
          | none => s3
        raiseLate s4 x.key { cause := cENGFAULT, stage := .late, late := true, info := info, pc := x.pc, act := x.act, exec := x.exec,
                             word := x.word, slots := none, cycle := s4.cycle } x.tm

/-- A translation of a drain engine failed (R352): it reports the page and waits. -/
def snapFault (s : State) (id unit : Nat) (x : Snap) (write : Bool) (va reason pte : Nat) : State :=
  sendFault s (ofCrew s x.crew (engineFault 1 reason (if write then 10 else 9) x.cregs x.ctx va unit 0 (BitVec.ofNat 64 pte) (.snap id)))

/-- SNAP's next step: it takes the lowest free id, waits for the warp's earlier accesses, and is entered at every slice of the range with
its recalls (R347). -/
def snapStartStep (s : State) (key : Nat) (p : Pend) (x : Snap) (id : Option Nat) : State :=
  match id with
  | none => match (List.range 16).find? (fun i => !(s.snap i).active && !(s.snap i).abandoned) with
    | none => s
    | some i => modPend (s.setSnap i x) key p.op (fun p => { p with late := .snapStart x (some i) })
  | some i =>
    match s.warp key with
    | none => s
    | some w =>
      if !released s key w p.op || s.faults.any (fun f => f.waiter = .snap i) then s
      else
        let n := x.len / 128
        let e : Env := ⟨drainUnit x, x.cregs, .snap i⟩
        match pagesOf e s permR ((List.range n).map (fun k => x.base + 128 * k)) with
        | .error (.fault va r pte _) => snapFault s i (drainUnit x) x false va r pte
        | .error v => v.waits e s
        | .ok (s1, m) =>
          let lns := (List.range n).map (fun k => physOf m (x.base + 128 * k) / 128)
          if sttHeld s1 lns then s
          else match recallLines s1 lns with
          | .error v => evictFor s v
          | .ok s2 => completeWith (s2.setSnap i { x with src := lns }) key p (BitVec.ofNat 64 i)

/-- A snapshot whose SNAP has entered it everywhere: it is in the drain's hands. -/
def snapEntered (s : State) (id : Nat) : Bool :=
  let x := s.snap id
  x.active && !(match s.warp x.key with
    | some w => w.pend.any (fun p => match p.late with
      | .snapStart _ (some i) => i = id && w.crew = x.crew
      | _ => false)
    | none => false)

/-- The line that the drain sends, line k of the range: the copy of the buffer, else the slice's current value, which waits for a lock of an
STT (R350, R368) and whose page is translated again (R416 condition 5). -/
def snapLine (s : State) (id k ln : Nat) : Except VErr (State × Line × BitVec 16) :=
  let h := lineHome ln
  match (s.slice h).drain.find? (fun d => d.snap = id && d.line = ln) with
  | some d => .ok (s.modSlice h (fun sl => { sl with drain := sl.drain.filter (fun e => !(e.snap = id && e.line = ln)) }), d.data, d.bad)
  | none =>
    let x := s.snap id
    let va := x.base + 128 * k
    match envTr ⟨drainUnit x, x.cregs, .snap id⟩ s va permR with
    | .error v => .error v
    | .ok (s1, pa) =>
      let ln := pa / 128
      if lineHeld s1 (.snap id) (lineDrain ln) ln false then .error (.held ln false)
      else match slGet (engineGoes s1 (.snap id) (lineDrain ln) ln) ln with
        | .error v => .error (.wait v)
        | .ok (s2, l) => .ok (s2, l.data, l.bad)

/-- The warp's scratchpad accesses before the SNAP have not reached their banks (R317, R350). -/
def snapCountHeld (s : State) (x : Snap) : Bool := x.arr.isSome && issuedWaits s x.crew x.key x.op

/-- Bytes of a destination line are counted, its Copy words in the core of the arrival word made Invalid first (R318, R350). -/
def snapCount (s : State) (x : Snap) (dstLine : Option Nat) : State :=
  match x.arr, s.crew x.crew with
  | some a, some c =>
    let s1 := match dstLine with
      | some ln => l1Invalidate s c.unit ln (BitVec.allOnes 32)
      | none => s
    (countInto s1 x.crew a 128).1
  | _, _ => s

/-- The drain sends one line of a snapshot to its destination in memory and counts it (R350). -/
def drainSend (s : State) (id k : Nat) : State :=
  let x := s.snap id
  match x.src[k]? with
  | none => s
  | some ln =>
    if !snapEntered s id || x.fabric || x.sent.contains k || s.faults.any (fun f => f.waiter = .snap id) || snapCountHeld s x then s
    else
      let va := x.dst + 128 * k
      let unit := lineDrain ln
      if sealHit s (x.cregs.asid.toNat % 65536) va 128 then snapGiveUp s id unit 10
      else match envTr ⟨unit, x.cregs, .snap id⟩ s va permW with
        | .error (.fault va r p _) => snapFault s id unit x true va r p
        | .error v => v.waits ⟨unit, x.cregs, .snap id⟩ s
        | .ok (s1, pa) => match snapLine s1 id k ln with
          | .error (.fault va r p _) => snapFault s1 id (drainUnit x) x false va r p
          | .error v => v.waits ⟨unit, x.cregs, .snap id⟩ s
          | .ok (s2, d, bad) =>
            -- the line counts as sent from here on
            let s3 := s2.setSnap id { x with sent := x.sent ++ [k] }
            if lineHeld s3 (.snap id) unit (pa / 128) true then engineWait s (.snap id) (pa / 128) true
            else match homeWrite (engineGoes s3 (.snap id) unit (pa / 128)) (pa / 128) (BitVec.allOnes 128) d bad true with
            | .error v => evictFor s v
            | .ok s4 => snapCount (slLow (noteWrites s4 [pa / 128]) [pa / 128]) x (some (pa / 128))

/-- SNAPSHOT_FINISH (R350). -/
def execSnapshotFinish (snap : Nat) (s : State) : Host.Outcome State Fault Refusal :=
  .next (let x := s.snap snap
    if snapEntered s snap && x.sent.length = x.src.length && x.unacked.isEmpty then s.setSnap snap Snap.free else s)

/-- The value of SNAPWAIT (R351). -/
def snapWord (x : Snap) : Word :=
  BitVec.ofNat 64 (if x.active then 4 + x.sent.length % 2 ^ 32 * 2 ^ 32 else if x.abandoned then 2 + x.sent.length % 2 ^ 32 * 2 ^ 32 else 1)

/-- SNAPWAIT (R351). -/
def execSnapwait (h : Hdr) (o : OpI) (s : State) : Host.Outcome State Fault Refusal :=
  issue (.snapwait h o) h s (fun c s1 => protGuard c (fun l => [(c.val o.o2 l).val]) (
    let v := c.val o.o2 c.low
    if v.poi != 0 then .trap cPOISON (laneInfo c.low)
    else if 16 ≤ v.val.toNat then .trap cBOUNDS (laneInfo c.low)
    else
      let id := v.val.toNat
      let x := s1.snap id
      let regs := regWr c.w o.o1 c.exec (fun _ => Lane.zero)
      if o.imm = 1 then
        .ok (addDone c (if x.abandoned then s1.setSnap id Snap.free else s1)
          (regs.map (fun r => { r with row := mkRow (fun _ => ⟨snapWord x, 0⟩) })) [])
      else .ok (addLate c s1 (.snapWait id (if x.active || x.abandoned then some x.op else none)) regs [])))

/-- SNAPWAIT completes once the snapshot that held the id at its issue is over; reading an abandonment frees the id (R351). Where another
snapshot has taken the id, the one waited for has finished: DONE, with the lines of the current one (DESIGN CHOICE, log 88). -/
def snapWaitStep (s : State) (key : Nat) (p : Pend) (id : Nat) (op : Option Nat) : State :=
  let x := s.snap id
  if (x.active || x.abandoned) && op = some x.op then
    if x.active then s else completeWith (s.setSnap id Snap.free) key p (snapWord x)
  else completeWith s key p (BitVec.ofNat 64 (1 + (if x.active || x.abandoned then x.sent.length % 2 ^ 32 * 2 ^ 32 else 0)))

end Sys2Proof.Machine
end

