-- ==== Sys2Proof/Machine/Tiles.lean ====
section
/-! DEFINITION. Tile loads and stores, their locks and their commits (14_die_tiles.md R354-R377), and the replay of a warp's operand log
(07_thread_control_traps.md R190, R191). -/

namespace Sys2Proof.Machine

/-! ## The tile (R354) -/

/-- The physical lines of a tile. -/
def tileLines (t : Tile) : List Nat := (t.els.map (fun e => e.pa / 128)).eraseDups
/-- The lines of a tile at a slice. -/
def tileAt (t : Tile) (h : Nat) : List Nat := (tileLines t).filter (fun l => lineHome l = h)
/-- The home slices of a tile, ascending. -/
def tileSlices (t : Tile) : List Nat := (List.range Config.slices).filter (fun h => (tileLines t).any (fun l => lineHome l = h))
/-- More than 8 lines of the tile in one set of one slice (R360 check 10). -/
def tileCrowded (t : Tile) : Bool :=
  let ls := tileLines t
  ls.any (fun l => 8 < (ls.filter (fun k => lineHome k = lineHome l && lineSet k = lineSet l)).length)

/-- The pages of a tile as accesses of one byte, each at the lowest byte of the tile in it. -/
def tilePages (t : Tile) : List MemEl :=
  ((t.els.map (fun e => e.va / 65536)).eraseDups).map (fun p =>
    { idx := 0, va := t.els.foldl (fun a e => if e.va / 65536 = p then min a e.va else a) (p * 65536 + 65535), pa := 0, data := 0, expect := 0 })

/-- Translates every page of a tile (R370), whose walks wait for a locked line of a table (R368): the tile with its addresses, or the fault at its
lowest failing VA (R413). -/
def tileTranslate (s : State) (cr : CtxRegs) (t : Tile) : Except VErr (State × Tile) :=
  let need := if t.store then permW else permR
  let who : Waiter := .access t.key t.op
  match walksWait s who t.unit cr (t.els.map (fun e => e.va)) with
  | some ln => .error (.held ln false)
  | none =>
    let (s1, ps, f) := translateEls (walksGo s who t.unit cr (t.els.map (fun e => e.va))) t.unit cr need (tilePages t)
    match f with
    | some (va, r, pte) => .error (.fault va r pte need)
    | none => .ok (s1, { t with els := t.els.map (fun e =>
        match ps.find? (fun p => p.va / 65536 = e.va / 65536) with
        | some p => { e with pa := p.pa / 65536 * 65536 + e.va % 65536 }
        | none => e) })

/-! ## The flush (R359) -/

/-- The issuing core writes back its Owned words of a line; they become Copy for an LDT, and every word Invalid for an STT. Reads on their way
install nothing of the line, and a later load finds none of its Copy words: each is ordered after the tile at the home (R99, R359, R378,
log 65). An LDT that reads L1 leaves them as they are (R375). -/
def tileFlush (s : State) (t : Tile) (ln : Nat) : State :=
  let s := if t.sealed then s else { s with net := s.net.map (fun r => if r.unit = t.unit && r.line = ln then (match r.kind with
      | .read _ k se c => { r with kind := .read false k se c }
      | _ => r) else r) }
  match fmFind (s.core t.unit).l1 ln with
  | none => s
  | some l =>
    let s1 := if l.owned != 0 || l.obj then sendReq s t.unit 0 0 ln (.writeBack l.owned l.known l.data l.bad) else s
    l1Put s1 t.unit ln (if t.store then { l with owned := 0, copy := 0, sealed := 0, obj := false }
      else { l with owned := 0, copy := l.copy ||| l.owned, obj := false, stale := if t.sealed then l.stale else l.copy ||| l.owned })

/-- The tile is an LDT that reads L1 and takes no lock: through a record of COH 2, or of bytes that are all sealed now (R361, R375). -/
def tileSealed (s : State) (t : Tile) : Bool :=
  t.seals && (t.coh2 || (!t.els.isEmpty && t.els.all (fun e => sealFills s t.asid e.va t.es)))

/-- A tile past its translation: it waits for the warp's earlier accesses that wait at L1 (R102), then the flush, and the first step of its
locks. -/
def tileEnter (s : State) (t : Tile) : State :=
  let turn := match s.warp t.key with
    | some w => turnTaken w t.op
    | none => false
  if turn then modPend s t.key t.op (fun p => { p with late := .tileHeld t, ready := s.cycle + 1 })
  else
    let t := { t with sealed := tileSealed s t }
    let s1 := (tileLines t).foldl (fun s ln => tileFlush s t ln) s
    let t' := { t with id := s1.nextOp, todo := if t.sealed then [] else tileSlices t }
    modPend { s1 with tiles := s1.tiles ++ [t'], nextOp := s1.nextOp + 1 } t.key t.op
      (fun p => { p with late := .tile t'.id true, ready := s1.cycle + 1 })

/-! ## LDT and STT at issue (R356, R360) -/

/-- One quantity of every element: row and column. -/
def tileGrid (rows cols : Nat) : List (Nat × Nat) := (List.range rows).flatMap (fun i => (List.range cols).map (fun j => (i, j)))

/-- LDT and STT: the checks of R360 in their order, then the park or the entry. Scratchpad bytes in the trap area give SPBOUND, in the warp's own
frame too (DESIGN CHOICE, log 72), and check 8 is made of the in-range elements (DESIGN CHOICE, log 99). -/
def tileBody (c : Ctx) (s1 : State) (o : OpT) (store : Bool) : Res :=
  match s1.crew c.w.crew with
  | none => .ok s1
  | some cr =>
    let vb := fun (l : Nat) => if o.o1 = 240 then Lane.zero else c.val o.o1 l
    protGuard c (fun l => [(c.val o.o2 l).val, (vb l).val]) (
      let hm := o.hnda.toNat
      let hs := o.hndb.toNat
      withRecord c s1 hm (fun s2 rm => withRecord c s2 hs (fun s3 rs =>
        let l := c.low
        let es := fmtBytes (tFmt rm)
        let a := (c.val o.o2 l).val.toNat
        let b := (vb l).val.toNat
        let j0 := a % 2 ^ 32
        let i0 := a / 2 ^ 32
        let q0 := b % 2 ^ 32
        let p0 := b / 2 ^ 32
        let rows := 2 ^ tTrows rm
        let cols := 2 ^ tTcols rm
        let target := crewVia s3 cr rs
        if !tensorValid rm || !(tClass rm = 2 || tClass rm = 4) || !(tStride1 rm = 0 || tStride1 rm = es) then .trap cRECINV (BitVec.ofNat 64 hm)
        else if !tensorValid rs || tClass rs != 5 || target.isNone then .trap cRECINV (BitVec.ofNat 64 hs)
        else if tFmt rs != tFmt rm || tFmt rm = 0xE then .trap cILLOP 0
        else if (c.val o.o2 l).poi != 0 || (vb l).poi != 0 then .trap cPOISON (laneInfo l)
        else if 8 < tTrows rm || 16384 < rows * cols * es then .trap cBOUNDS (laneInfo l)
        else
          let off := fun (i j : Nat) => (i0 + i) * tStride0 rm + (j0 + j) * es
          let spOff := fun (i j : Nat) => (p0 + i) * tStride0 rs + (q0 + j) * es
          let inside := fun (i j : Nat) => decide (i0 + i < tDim1 rm) && decide (j0 + j < tDim0 rm)
          let g := tileGrid rows cols
          let real := g.filter (fun e => inside e.1 e.2)
          let outs := g.filter (fun e => !inside e.1 e.2)
          let spBase := tBase rs % 2 ^ 20
          let va0 := tBase rm + off 0 0
          let els := real.map (fun e => ({ va := tBase rm + off e.1 e.2, pa := 0, sp := spBase + spOff e.1 e.2 } : TileEl))
          let asid := cr.cregs.asid.toNat % 65536
          if (tBmode rm != 2 && !outs.isEmpty) || real.any (fun e => tExtent rm < off e.1 e.2 + es || 2 ^ 52 ≤ tBase rm + off e.1 e.2)
              || g.any (fun e => tExtent rs < spOff e.1 e.2 + es) then .trap cBOUNDS (laneInfo l)
          else if (match s3.crew (target.getD 0) with
              | some k => g.any (fun e => spOut k false false 0 (spBase + spOff e.1 e.2) es)
              | none => false) then .trap cSPBOUND (laneInfo l)
          else if va0 % es != 0 || tStride0 rm % es != 0 || (spBase + spOff 0 0) % es != 0 then .trap cMISALIGN (laneInfo l)
          else if store && (tCoh rm = 2 || els.any (fun e => sealHit s3 asid e.va es)) then .trap cSEALW (laneInfo l)
          else if els.any (fun e => fabricVa cr.cregs e.va) then .trap cTILEFAULT (BitVec.ofNat 64 va0)
          else
            let hint := c.h.hint
            let t : Tile := { id := 0, unit := c.unit, key := c.key, op := c.op, store := store, low := (hint = 1), sealed := false,
                              seals := !store && (hint = 0 || hint = 2), coh2 := tCoh rm = 2,
                              keep := hint = 2, asid := asid, va0 := va0, lane := l, crew := target.getD 0, es := es, els := els,
                              zeros := if store then [] else outs.map (fun e => spBase + spOff e.1 e.2), data := [], todo := [] }
            let slots := slotRows c.s c.key c.w c.cur.word
            let park := fun (s : State) => addLate c s (.tilePark t slots) [] []
            if (tilePages t).any (fun p => (parkedPages c.w c.op).contains (p.va / 65536)) then .ok (park s3)
            else match tileTranslate s3 cr.cregs t with
              | .error (.fault va r pte _) => .ok (park (sendFault s3
                  (faultOf cr c.unit (keySlot c.key) r (accessByte (if store then permW else permR)) va c.cur.pc pte (.access c.key c.op))))
              | .error v => .ok (v.waits ⟨c.unit, cr.cregs, .access c.key c.op⟩ (park s3))
              | .ok (s4, t') =>
                if tileCrowded t' then .trap cTILEFAULT (BitVec.ofNat 64 va0)
                else .ok (tileEnter (addLate c s4 (.tile 0 true) [] []) t'))))

/-- LDT (R355). -/
def execLdt (h : Hdr) (o : OpT) (s : State) : Host.Outcome State Fault Refusal :=
  issue (.ldt h o) h s (fun c s1 => tileBody c s1 o false)
/-- STT (R355). -/
def execStt (h : Hdr) (o : OpT) (s : State) : Host.Outcome State Fault Refusal :=
  issue (.stt h o) h s (fun c s1 => tileBody c s1 o true)

/-! ## Late traps (R371, R376) -/

/-- A tile instruction is abandoned with no effect: its counter falls and a late trap follows. -/
def tileGiveUp (s : State) (key : Nat) (p : Pend) (cause : Nat) (info : Word) (slots : Option (List Row)) : State :=
  let t : TrapRec := { cause := cause, stage := .late, late := true, info := info, pc := p.pc, act := p.act, exec := p.exec,
                       word := p.word, slots := slots, cycle := s.cycle }
  raiseLate (completePend s key p) key t p.tm

/-- A parked tile instruction becomes unrecoverable: TILEFAULT (R371). -/
def abandonTile (s : State) (key : Nat) (p : Pend) : State :=
  match p.late with
  | .tilePark t slots => tileGiveUp s key p cTILEFAULT (BitVec.ofNat 64 t.va0) (some slots)
  | _ => s

/-! ## Replay (R190, R191, R370) -/

/-- A parked tile instruction translates its pages again and goes on from the flush, or parks again. -/
def tileTry (s : State) (key : Nat) (p : Pend) (t : Tile) (slots : List Row) : State :=
  match s.warp key with
  | none => s
  | some w => match s.crew w.crew with
    | none => s
    | some cr => match tileTranslate s p.cregs t with
      | .error (.fault va r pte _) => sendFault s
          (faultOf (cr.at_ p) t.unit (keySlot key) r (accessByte (if t.store then permW else permR)) va p.pc pte (.access key p.op))
      | .error v => v.waits ⟨t.unit, p.cregs, .access key p.op⟩ s
      | .ok (s1, t') =>
        if tileCrowded t' then tileGiveUp s1 key p cTILEFAULT (BitVec.ofNat 64 t.va0) (some slots) else tileEnter s1 t'

/-- The pages that a parked entry waits for. -/
def logPages (p : Pend) : List Nat :=
  match p.late with
  | .parked m _ => memPages m
  | .tilePark t _ => t.els.map (fun e => e.va / 65536)
  | _ => []

/-- The core replays the parked entries of a warp in their issue order; one whose pages an earlier entry still holds, or which
waits for an answer, stays. -/
def replayWarp (s : State) (key : Nat) : State :=
  match s.warp key with
  | none => s
  | some w => (w.pend.map (fun p => p.op)).foldl (fun s op => match s.warp key with
    | none => s
    | some w => match findPend w op with
      | none => s
      | some p =>
        if w.restoring.contains op || (logPages p).any (fun g => (parkedPages w op).contains g) || s.faults.any (fun f => f.waiter = .access key op) then s
        else match p.late with
          | .parked _ _ => memTry s key op
          | .tilePark t slots => tileTry s key p t slots
          | _ => s) s

/-! ## The locks (R366-R369, R376) -/

/-- STT reads its source once the warp's earlier scratchpad accesses have completed (R357). -/
def tileRead (s : State) (key : Nat) (p : Pend) (id : Nat) : State :=
  match s.warp key, s.tiles.find? (fun t => t.id = id) with
  | some w, some t =>
    if !t.store || scratchWaits w p.op then s
    else
      let data := match s.crew t.crew with
        | some k => t.els.map (fun e => (spRead k e.sp t.es, spBadAt k e.sp t.es))
        | none => t.els.map (fun _ => (0, false))
      modPend { s with tiles := s.tiles.map (fun x => if x.id = id then { x with data := data } else x) } key p.op
        (fun p => { p with late := .tile id false })
  | _, _ => s

/-- The instruction of a tile, unless its warp is gone. -/
def tilePend (s : State) (t : Tile) : Option Pend :=
  match s.warp t.key with
  | some w => match findPend w t.op with
    | some p => match p.late with
      | .tile id _ => if id = t.id then some p else none
      | _ => none
    | none => none
  | none => none

/-- An STT that has not read its source. -/
def tileUnread (s : State) (t : Tile) : Bool :=
  t.store && (match tilePend s t with
    | some p => match p.late with
      | .tile _ banks => banks
      | _ => false
    | none => false)

/-- An LDT whose warp has an earlier scratchpad access that has not reached its bank: its elements wait (R99). -/
def tileWaits (s : State) (t : Tile) : Bool :=
  !t.store && (match s.warp t.key with
    | some w => (tilePend s t).isSome && scratchBusy w t.op
    | none => false)

/-- Releases every lock of a tile and forgets it. -/
def tileRelease (s : State) (id : Nat) : State :=
  { s with tiles := s.tiles.filter (fun t => t.id != id)
           slices := s.slices.map (fun e => (e.1, { e.2 with locks := e.2.locks.filter (fun k => k.tile != id) })) }

/-- A slice can grant a lock (R368): no conflicting lock is held, no earlier conflicting request waits, fewer than 8 tiles hold locks
there, and no set gets more than 8 locked lines. -/
def lockFree (s : State) (h : Nat) (k : TileLock) : Bool :=
  let sl := s.slice h
  let others := sl.locks.filter (fun x => x.tile != k.tile)
  let held := others.filter (fun x => x.granted)
  let locked := (held.flatMap (fun x => x.lines) ++ k.lines).eraseDups
  !others.any (fun x => locksConflict x k && (x.granted || x.place < k.place))
    && !s.net.any (fun r => (reqLines r).any (fun ln => k.lines.contains ln) && (k.store || reqWrites r.kind) && (match r.place with
        | some p => p < k.place
        | none => false))
    && !sl.waits.any (fun x => k.lines.contains x.line && (k.store || x.write) && x.place < k.place && waiterLives s x.who)
    && decide (held.length < 8)
    && k.lines.all (fun l => (locked.filter (fun x => lineSet x = lineSet l)).length ≤ 8)

/-- Earlier tiles of the core that hold or will ask for a lock on lines of a tile at a slice (R359). -/
def tilesBefore (s : State) (t : Tile) (h : Nat) : List Tile :=
  s.tiles.filter (fun x => x.id < t.id && x.unit = t.unit && !x.sealed && (tileAt x h).any (fun ln => (tileAt t h).contains ln))

/-- The lock request of a tile at its next slice: it arrives after the core's earlier requests there, those of its earlier tiles included, and
waits until earlier tiles of the core on the same lines have released their locks (R359); it is refused under a seal, waits with a place, which
counts (R368), or is granted with its recalls. -/
def lockStep (s : State) (t : Tile) : State :=
  match t.todo with
  | [] => s
  | h :: rest =>
    if tileUnread s t || s.net.any (fun r => r.unit = t.unit && r.id < t.id && lineHome r.line = h)
      || (tilesBefore s t h).any (fun x => !(s.slice h).locks.any (fun k => k.tile = x.id))
      || (tileAt t h).any (fun ln => servedLater s ln t.unit) then s
    else if t.store && (t.els.any (fun e => lineHome (e.pa / 128) = h && sealHit s t.asid e.va t.es)) then
      let s1 := tileRelease s t.id
      match tilePend s t with
      | some p => tileGiveUp s1 t.key p cSEALW (BitVec.ofNat 64 t.va0) none
      | none => s1
    else
      let sl := s.slice h
      let waiting := sl.locks.find? (fun k => k.tile = t.id)
      let k : TileLock := waiting.getD { tile := t.id, lines := tileAt t h, store := t.store, granted := false, place := sl.clock }
      let free := lockFree s h k && (tilesBefore s t h).isEmpty
      if !free then
        if waiting.isSome then s
        else s.setSlice h { sl with locks := sl.locks ++ [k], clock := sl.clock + 1, lockw := sl.lockw + 1 }
      else match recallLines s k.lines with
      | .error v => evictFor s v
      | .ok s1 =>
        let s2 := s1.modSlice h (fun sl => { sl with
          locks := (sl.locks.filter (fun x => x.tile != t.id)) ++ [{ k with granted := true }], clock := sl.clock + 1 })
        markAll { s2 with tiles := s2.tiles.map (fun x => if x.id = t.id then { x with todo := rest } else x) } k.lines t.unit

/-- TILE_LOCK_GRANT (R367, R368). -/
def execTileLockGrant (tile : Nat) (s : State) : Host.Outcome State Fault Refusal :=
  .next (match s.tiles.find? (fun t => t.id = tile) with
    | some t => lockStep s t
    | none => s)

/-! ## The commit (R363-R365) -/

/-- The write of one line of a tile: its bytes, its data and its marks. Where elements overlap, the last one in row-major order stays (DESIGN
CHOICE, log 98). -/
def tileLineWrite (t : Tile) (ln : Nat) : BitVec 128 × Line × BitVec 16 :=
  (t.els.zip t.data).foldl (fun (a : BitVec 128 × Line × BitVec 16) e =>
    if e.1.pa / 128 = ln then
      let off := e.1.pa % 128
      (a.1 ||| byteMask off t.es, mergeLine a.2.1 (BitVec.ofNat 1024 (e.2.1 <<< (8 * off))) (byteSpan off t.es),
        if e.2.2 then a.2.2 ||| touchedWords (wordMask off t.es) else if t.es = 8 then a.2.2 &&& ~~~(touchedWords (wordMask off t.es)) else a.2.2)
    else a) (0, 0, 0)

/-- An element of a sealed LDT: from L1 where its line is present there, else from the slice, which fills L1 (R361, R375). The slice's
value waits for a lock of an STT (R368). -/
def sealedElem (s : State) (t : Tile) (e : TileEl) : Except VErr (State × Nat × Bool) :=
  let ln := e.pa / 128
  let l := s.l1 t.unit ln
  let who : Waiter := .access t.key t.op
  if l1Has l (e.pa % 128) t.es then
    .ok (s, lineTake l.data (e.pa % 128) t.es, l.bad &&& touchedWords (wordMask (e.pa % 128) t.es) != 0)
  else if lineHeld s who t.unit ln false then .error (.held ln false)
  else match homeBytes (engineGoes s who t.unit ln) e.pa t.es with
    | .error v => .error (.wait v)
    | .ok (s1, v, b) => .ok (match slGet s1 ln with
      | .ok (s2, x) => l1Fill s2 t.unit ln x.data x.bad t.keep true
      | .error _ => s1, v, b)

/-- Every element of an LDT: the values and marks, none while it waits. -/
def tileFetch (t : Tile) : List TileEl → State → Except VErr (State × List (Nat × Nat × Bool))
  | [], s => .ok (s, [])
  | e :: rest, s => do
    let (s1, v, b) ← if t.sealed then sealedElem s t e else roomed (homeBytes s e.pa t.es)
    let (s2, vs) ← tileFetch t rest s1
    return (s2, (e.sp, v, b) :: vs)

/-- The elements of an LDT reach the banks, those in range in row-major order and then the zeros; where they overlap, the last one stays (DESIGN
CHOICE, log 98). An uncorrectable one leaves its words uncorrectable. -/
def tileLand (c : Crew) (es : Nat) (vs : List (Nat × Nat × Bool)) (zeros : List Nat) : Crew :=
  let c1 := vs.foldl (fun c v =>
    let c' := spWrite c v.1 v.2.1 es
    if v.2.2 then spMark c' v.1 true else c') c
  zeros.foldl (fun c a => spWrite c a 0 es) c1

/-- What a tile moves: every line of an STT is written, or every element of an LDT is read into the banks; none while it waits. What an
STT writes overtakes Copy words that an earlier read of its own core has filled meanwhile (log 65). -/
def tileMove (s : State) (t : Tile) : Except VErr State :=
  if t.store then (tileLines t).foldlM (fun s ln =>
      let (m, d, b) := tileLineWrite t ln
      match homeWrite (noteWrites s [ln]) ln m d b with
      | .ok s1 => .ok (l1Overtake s1 t.unit ln (wordsOfBytes m))
      | .error v => .error (.wait v)) s
  else match tileFetch t t.els s with
    | .error v => .error v
    | .ok (s1, vs) => match s1.crew t.crew with
      | none => .ok s1
      | some k => .ok (afterScratch (s1.setCrew t.crew (tileLand k t.es vs t.zeros)) t.crew)

/-- The commit, in one step; then the locks are released and the instruction completes. An LDT whose bytes are sealed no more first takes its
locks (R375). -/
def tileCommit (s : State) (t : Tile) : State :=
  if !t.todo.isEmpty || tileUnread s t || tileWaits s t || (!t.sealed && (tileLines t).any (fun ln => servedLater s ln t.unit)) then s
  else if t.sealed && !tileSealed s t then
    { s with tiles := s.tiles.map (fun x => if x.id = t.id then { x with sealed := false, todo := tileSlices t } else x) }
  else match tileMove s t with
    | .error v => v.waitsAs (.access t.key t.op) s
    | .ok s1 =>
      let s2 := markAll (tileRelease (if t.low then slLow s1 (tileLines t) else s1) t.id) (if t.sealed then [] else tileLines t) t.unit
      match tilePend s t with
      | some p => completePend s2 t.key p
      | none => s2

/-- A tile instruction that waits for its turn at L1. -/
def tileTurn (s : State) (key : Nat) (p : Pend) (t : Tile) : State :=
  match s.warp key with
  | some w => if turnTaken w p.op then s else tileEnter s t
  | none => s

/-- TILE_COMMIT (R363). -/
def execTileCommit (tile : Nat) (s : State) : Host.Outcome State Fault Refusal :=
  .next (match s.tiles.find? (fun t => t.id = tile) with
    | some t => tileCommit s t
    | none => s)

end Sys2Proof.Machine
end

