-- ==== Sys2Proof/Machine/Sprout.lean ====
section
/-! DEFINITION. FRFIT, FRSTAT, FRINIT and Sprout's jobs (15_die_fitted.md R391-R402). -/

namespace Sys2Proof.Machine

/-! ## The status word (R399) -/

/-- The record of a region at its home, and whether it is uncorrectable. -/
def homeRecord (e : Env) (s : State) (h : Nat) : Except VErr (State × Tensor × Bool) := do
  let (s1, v, bad) ← vmRdWords e 4 s (recVa e.cr h)
  return (s1, BitVec.ofNat 256 v, !bad.isEmpty)

/-- RSTATE of a region: its job is queued, or has started and waits in one of its stages. -/
def regionState (s : State) (ctx h : Nat) : Nat :=
  match (s.dies.flatMap (fun d => d.2.queue)).find? (fun j => j.ctx = ctx && j.handle = h) with
  | some j => if j.stage = 0 then 1 else j.stage
  | none => 0

/-- OUT of a region. -/
def regionOut (s : State) (ctx h : Nat) : Nat := (s.outs.find? (fun o => o.1 = ctx && o.2.1 = h)).elim 0 (fun o => o.2.2)
def setOut (s : State) (ctx h out : Nat) : State :=
  { s with outs := s.outs.filter (fun o => !(o.1 = ctx && o.2.1 = h)) ++ [(ctx, h, out)] }

/-- The status word from the record and the block in force, with an outcome; uncorrectable words that it is read from poison it (R72, R473). -/
def regionStatusOf (e : Env) (s : State) (ctx h out : Nat) : Except VErr (State × Lane) := do
  let (s1, r, badR) ← homeRecord e s h
  let (s2, x, badX) ← vmRd e s1 (regPblk r + 0x600) 4
  let (s3, o, badO) ← vmRd e s2 (regPblk r + 0x604) 4
  return (s3, ⟨BitVec.ofNat 64 (tGen r + min x 0xFFFFFF * 2 ^ 16 + regionState s ctx h * 2 ^ 40 + out * 2 ^ 44
    + min o 255 * 2 ^ 48), if badR || badX || badO then 3 else 0⟩)
/-- The status word of a region. -/
def regionStatus (e : Env) (s : State) (ctx h : Nat) : Except VErr (State × Lane) := regionStatusOf e s ctx h (regionOut s ctx h)

/-! ## The instructions (R398-R401) -/

/-- Reads a region's block at issue, with the mark of its first word, which holds INIT; where a page does not
translate the instruction is held, and where a slice lacks room it waits. -/
def withBlock (c : Ctx) (s : State) (cr : CtxRegs) (r : Tensor) (k : State → Nat → Bool → Res) : Res :=
  let e : Env := ⟨c.unit, cr, .fetch c.key c.cur.pc⟩
  match vmRdWords e 256 s (regPblk r) with
  | .ok (s1, b, bad) => k s1 b (bad.contains 0)
  | .error (.fault va reason pte _) => heldIssue c s va reason pte
  | .error v => .ok (v.waits e c.s)

/-- The record of FRFIT and FRSTAT: class 3, with INIT set in its block, whose mark goes on. -/
def fittedRec (c : Ctx) (s1 : State) (h : Nat) (k : State → Tensor → Bool → Res) : Res :=
  withRecord c s1 h (fun s2 r =>
    if tClass r != 3 || !tensorValid r then .trap cRECINV (BitVec.ofNat 64 h)
    else withBlock c s2 c.cregs r (fun s3 b bad =>
      if blk b 6 1 % 2 = 0 then .trap cRECINV (BitVec.ofNat 64 h) else k s3 r bad))

/-- FRFIT (R401). -/
def execFrfit (h : Hdr) (o : OpM) (s : State) : Host.Outcome State Fault Refusal :=
  issue (.frfit h o) h s (fun c s1 => fittedRec c s1 o.hnd.toNat (fun s2 r _ =>
    .ok (addLate c s2 (.fitQueue o.hnd.toNat (regPblk r) none (h.f.toNat % 2 = 0)) (regWr c.w o.o1 c.exec (fun _ => Lane.zero)) [])))

/-- FRSTAT (R401): the status is read once the request reaches the anchor. -/
def execFrstat (h : Hdr) (o : OpM) (s : State) : Host.Outcome State Fault Refusal :=
  issue (.frstat h o) h s (fun c s1 => fittedRec c s1 o.hnd.toNat (fun s2 _ bad =>
    let e : Env := ⟨c.unit, c.cregs, .fetch c.key c.cur.pc⟩
    match regionStatus e s2 c.ctxId o.hnd.toNat with
    | .error (.fault va reason pte _) => heldIssue c s2 va reason pte
    | .error v => .ok (v.waits e c.s)
    | .ok (s3, v) => .ok (addDone c s3 (regWr c.w o.o1 c.exec (fun _ => if bad then { v with poi := 3 } else v)) [])))

/-- Number of in-domain points of a block. -/
def blkPoints (b : Nat) : Nat := (List.range (blkNd b)).foldl (fun a i => a * blkExtent b i) 1
/-- The limits of R382 on the static fields of a block (R400). -/
def blkLegal (b xsz : Nat) : Bool :=
  let nd := blkNd b
  1 ≤ nd && nd ≤ 4 && 1 ≤ blkH1 b && blkH1 b ≤ 16 && blkH2 b ≤ 16 && blk b 3 1 ≤ 2 && blk b 4 1 ≤ 2
    && (blkH2 b != 0 || blk b 4 1 = 0) && blk b 5 1 = xsz && xsz ≤ 12 && 1 ≤ blkRsvn b && blkRsvn b ≤ 4096
    && (List.range 4).all (fun i => if i < nd then 1 ≤ blkExtent b i && blkExtent b i ≤ 65536 else blkExtent b i = 0)
    && blk b 0x18 4 < 0x7F800000

/-- FRINIT (R400). -/
def execFrinit (h : Hdr) (o : OpM) (s : State) : Host.Outcome State Fault Refusal :=
  issue (.frinit h o) h s (fun c s1 =>
    let hr := o.hnd.toNat
    let l := c.low
    let v := c.val o.o2 l
    let src := v.val.toNat % 4096
    withRecord c s1 hr (fun s2 r =>
      if tClass r != 3 || !tensorValid r then .trap cRECINV (BitVec.ofNat 64 hr)
      else if v.val.toNat / 4096 != 0 then .trap cILLOP 0
      else if c.cregs.trtn.toNat ≤ src then .trap cRECINV (BitVec.ofNat 64 src)
      else withRecord c s2 src (fun s3 q =>
        let fits := tClass q = 1 && tFmt q = tFmt r
        if fits && !tensorValid q then .trap cRECINV (BitVec.ofNat 64 src)
        else withBlock c s3 c.cregs r (fun s4 b _ =>
        let arena := blk b 0x40 8
        let hsz := halfBytes (regXsz r) (blkRsvn b)
        if !fits || (blk b 0x4C 4 / 2 ^ 31 = 1 && blk b 0x4C 4 % 4096 != src) then .trap cILLOP 0
        else if v.poi != 0 then .trap cPOISON (laneInfo l)
        else if !blkLegal b (regXsz r) || tExtent q < blkPoints b * fmtN r
            || !(regPblk r = arena || regPblk r = arena + hsz) then .trap cBOUNDS (laneInfo l)
        else if arena % 4096 != 0 || regPblk r % 4096 != 0 then .trap cMISALIGN (laneInfo l)
        else .ok (addLate c s4 (.fitQueue hr (regPblk r) (some src) true) (regWr c.w o.o1 c.exec (fun _ => Lane.zero)) [])))))

/-- The anchor changes the STATE word of a block, with a write of its own; in a sealed range the word stays (R342; DESIGN CHOICE, log 25). -/
def stateWr (e : Env) (s : State) (pblk : Nat) (f : Nat → Nat) : Except VErr State := do
  let (s1, st, _) ← vmRd e s (pblk + 0x608) 4
  if sealHit s1 (e.cr.asid.toNat % 65536) (pblk + 0x608) 4 then return s1 else vmWr e s1 (pblk + 0x608) 4 (f st)

/-- A job asked for by FRFIT or FRINIT: QUEUED is set in the block of its record copy and the job joins the queue, once there is room
(R391, R401). -/
def fitJoin (e : Env) (s : State) (die ctx h pblk : Nat) (j : SproutJob) (wait : Bool) : Except VErr (State × Lane) := do
  let s2 ← stateWr e s pblk (fun st => st ||| 2)
  match askSprout s2 die j with
  | none => .error (.wait [])
  | some s3 => if wait then return (s3, Lane.zero) else regionStatus e s3 ctx h

/-- The step of FRFIT or FRINIT that waits for room. A fault is reported, and the instruction waits for its answer. -/
def fitQueueStep (s : State) (key : Nat) (p : Pend) (h pblk : Nat) (src : Option Nat) (wait : Bool) : State :=
  match s.warp key with
  | none => s
  | some w => match s.crew w.crew with
    | none => s
    | some c =>
      let c := c.at_ p
      let e : Env := ⟨keyUnit key, c.cregs, .access key p.op⟩
      let j : SproutJob := { ctx := c.ctx, cregs := c.cregs, handle := h, source := src, pblk := pblk,
                             waiters := if wait then [(key, p.op)] else [], more := [], stage := 0, crew := w.crew }
      match fitJoin e s (anchorDie e s pblk) c.ctx h pblk j wait with
      | .ok (s1, v) => if wait then modPend s1 key p.op (fun p => { p with late := .fitWait h }) else completeLane s1 key p v
      | .error (.fault va reason pte need) =>
        sendFault s (faultOf c e.unit (keySlot key) reason (accessByte need) va p.pc pte (.access key p.op))
      | .error v => v.waits e s

/-- The job of FRINIT or FRFIT has ended: the status shows its outcome (R400, R401). -/
def fitDoneStep (s : State) (key : Nat) (p : Pend) (h out : Nat) : State :=
  match s.warp key with
  | none => s
  | some w => match s.crew w.crew with
    | none => s
    | some c =>
      let c := c.at_ p
      let e : Env := ⟨keyUnit key, c.cregs, .access key p.op⟩
      match regionStatusOf e s c.ctx h out with
      | .ok (s1, v) => completeLane s1 key p v
      | .error (.fault va reason pte need) =>
        sendFault s (faultOf c e.unit (keySlot key) reason (accessByte need) va p.pc pte (.access key p.op))
      | .error v => v.waits e s

/-! ## A job (R392-R396) -/

/-- Every in-domain point, coordinate 0 fastest: its index and key. -/
def allPoints (b : Nat) : List (Nat × Nat) :=
  (List.range (blkPoints b)).map (fun n =>
    (n, ((List.range (blkNd b)).foldl (fun (a : Nat × Nat × Nat) i =>
      (a.1 / blkExtent b i, a.2.1 + a.1 % blkExtent b i * 2 ^ (16 * i), 0)) (n, 0, 0)).2.1))

/-- |v - r| ≤ eps in exact arithmetic; with a NaN or an infinity only equals are within, and two NaNs (R393). -/
def withinEps (v r eps : FVal) : Bool :=
  if v.isNan || r.isNan then v.isNan && r.isNan
  else if v.isInf || r.isInf then fEqual v r
  else
    let d := (fSum .rne [v, r.flip]).1
    !fLess eps d && !fLess eps d.flip

/-- The element of a class-1 record at an index, with its mark. -/
def recElem (e : Env) (s : State) (q : Tensor) (n w : Nat) : Except VErr (State × Nat × Bool) := vmRdSpan e s (tBase q + n * w) w

/-- The reference value of a point in a refit (R392): its exception's, else the reference record's, else the network's; whether the
point has an exception; and whether an uncorrectable word was read. -/
def refValue (e : Env) (s : State) (g : Gen) (fmt : Ety) (ref : Option Tensor) (n k w : Nat) : Except VErr (State × Nat × Bool × Bool) := do
  let (s1, x, bad) ← findException e s g k
  match x with
  | some v => return (s1, v, true, bad)
  | none => match ref with
    | some q =>
      let (s2, v, badE) ← recElem e s1 q n w
      return (s2, v, false, bad || badE)
    | none =>
      let y := regionEval g.b fmt g.table ((Config.freeWord (s.draw * 65536 + 20501)).toNat % 256) k
      return (s1, y.1, false, bad || y.2)

/-- The reference values of all points: index, key, value, whether an exception held it; and whether an uncorrectable word was read for one. -/
def refValues (e : Env) (g : Gen) (fmt : Ety) (src ref : Option Tensor) (w : Nat) :
    List (Nat × Nat) → State → Except VErr (State × List (Nat × Nat × Nat × Bool) × Bool)
  | [], s => .ok (s, [], false)
  | (n, k) :: t, s => do
    let (s1, v, x, bad) ← match src with
      | some q => do
        let (s1, v, bad) ← recElem e s q n w
        pure (s1, v, false, bad)
      | none => refValue e s g fmt ref n k w
    let (s2, rs, badT) ← refValues e g fmt src ref w t s1
    return (s2, (n, k, v, x) :: rs, bad || badT)

/-- The new block before its entries: the static fields with INIT, the parameters, everything else zero (R382, R395). -/
def newBlock (b : Nat) (params : List (BitVec 16)) : Nat :=
  let static := b % 2 ^ (8 * 0x80)
  let static := static - blk static 6 1 * 2 ^ 48 + 2 ^ 48
  (List.range (blkParams b)).foldl (fun a i => a + (params.getD i 0).toNat * 2 ^ (8 * 0x80 + 16 * i)) static

/-- Entries of the new generation that do not fit: more keys than a bucket and the reserve hold (R395). -/
def entriesFit (xsz rsvn : Nat) (ks : List Nat) : Bool :=
  let bs := (ks.map (fun k => bucketOf k xsz)).eraseDups
  let over_ := bs.foldl (fun a b => a + ((ks.filter (fun k => bucketOf k xsz = b)).length - 16)) 0
  over_ ≤ 16 * rsvn

/-- How a job ends: installed, with an outcome of R399, or abandoned with a record where a slice rejects one of its writes (R342, log 94) or a word that
it reads is uncorrectable (R473, log 100). -/
inductive JobEnd where
  | installed (s : State)
  | stopped (s : State) (out : Nat)
  | dropped (s : State)

/-- Where a job waits, and in which stage. -/
def atStage {α : Type} (n : Nat) (x : Except VErr α) : Except (Nat × VErr) α :=
  match x with
  | .ok a => .ok a
  | .error v => .error (n, v)

/-- Some region access in the package holds a record copy that names a half (R396). -/
def halfInUse (s : State) (ctx half : Nat) : Bool :=
  s.warps.any (fun kw => (s.crew kw.2.crew).elim false (fun c => c.ctx = ctx) && kw.2.pend.any (fun p => match p.late with
    | .region _ q _ _ _ _ => regPblk q = half
    | _ => false))

/-- The words of the record of a region after an install (R395 step 5). -/
def nextRecord (r : Tensor) (half xsz : Nat) : Nat :=
  let gen := (tGen r + 1) % 65536
  let w0 := half + 3 * 2 ^ 57
  let w1 := (half + 4096) / 4096 % 2 ^ 40 + xsz * 2 ^ 40
  let w2 := (r.extractLsb' 128 64).toNat % 2 ^ 56 + gen % 256 * 2 ^ 56
  let w3 := (r.extractLsb' 192 64).toNat / 256 * 256 + gen / 256
  w0 + w1 * 2 ^ 64 + w2 * 2 ^ 128 + w3 * 2 ^ 192

/-- The whole job of a Sprout in one step (R395, R396, R400), or the stage in which it waits. -/
def runJob (e : Env) (s : State) (j : SproutJob) (params : List (BitVec 16)) : Except (Nat × VErr) JobEnd := do
  let (s1, r, badR) ← atStage 2 (homeRecord e s j.handle)
  let (s2, st, badSt) ← atStage 2 (vmRd e s1 (j.pblk + 0x608) 4)
  if badR || badSt then return .dropped s2
  else if st % 2 = 1 || regPblk r != j.pblk || tClass r != 3 then return .stopped s 4
  else
    let (s3, g) ← atStage 2 (readGen e s2 r)
    let b := g.b
    let w := fmtN r
    let fmt := (etyOf (tFmt r)).getD .f32
    let hsz := halfBytes g.xsz (blkRsvn b)
    let arena := blk b 0x40 8
    let half := if j.pblk < arena + hsz then arena + hsz else arena
    let refH := blk b 0x4C 4
    let (s4, ref, badRef) ← if refH / 2 ^ 31 = 1 then do
        let (s4, q, bad) ← atStage 2 (homeRecord e s3 (refH % 4096))
        pure (s4, some q, bad)
      else pure (s3, none, false)
    let (s5, src, badSrc) ← match j.source with
      | some h => do
        let (s5, q, bad) ← atStage 2 (homeRecord e s4 h)
        pure (s5, some q, bad)
      | none => pure (s4, none, false)
    if !g.badB.isEmpty || g.table.any (fun x => x.2.2) || badRef || badSrc then return .dropped s5
    else
    let (s6, vs, bad) ← atStage 3 (refValues e g fmt src ref w (allPoints b) s5)
    let nb := newBlock b params
    let eps := blkF32 b 0x18
    let free := (Config.freeWord (s.draw * 65536 + 20502)).toNat % 256
    let miss := vs.filter (fun x => !withinEps (fDecode fmt (regionEval nb fmt g.table free x.2.1).1) (fDecode fmt x.2.2.1) eps)
    if bad then return .dropped s6
    else if !entriesFit g.xsz (blkRsvn b) (miss.map (fun x => x.2.1)) then
      return .stopped s6 2
    else if halfInUse s5 j.ctx half then .error (3, .wait [])
    else
      let dropped := (vs.filter (fun x => x.2.2.2 && !miss.any (fun m => m.1 = x.1))).map (fun x => (x.1, x.2.2.1))
      let hit := sealHit s6 (e.cr.asid.toNat % 65536)
      let refs : List (Tensor × Nat × Nat) := match ref, j.source with
        | some q, none => dropped.map (fun x => (q, x))
        | _, _ => []
      let open_ := refs.takeWhile (fun x => !hit (tBase x.1 + x.2.1 * w) w)
      let s7 ← atStage 3 (open_.foldlM (fun s x => vmWrSpan e s (tBase x.1 + x.2.1 * w) w x.2.2) s6)
      if open_.length < refs.length then return .dropped s7
      else
      let lines := ((List.range (hsz / 128)).takeWhile (fun i => !hit (half + 128 * i) 128)).length
      let s8 ← atStage 3 (vmWrLines e lines s7 half nb)
      if lines < hsz / 128 then return .dropped s8
      else
      let (s9, made, ov) ← atStage 3 (insertPoints e false half (half + 4096) g.xsz (miss.map (fun x => (x.2.1, x.2.2.1))) s8 0 0)
      let s10 ← atStage 3 (vmWr e s9 (half + 0x600) 4 made)
      let s11 ← atStage 3 (vmWr e s10 (half + 0x604) 4 ov)
      if hit (j.pblk + 0x608) 4 || hit (recVa e.cr j.handle) 32 then return .dropped s11
      else
      let s12 ← atStage 4 (vmWr e s11 (j.pblk + 0x608) 4 1)
      let s13 ← atStage 4 (vmWrWords e 4 s12 (recVa e.cr j.handle) (nextRecord r half g.xsz))
      return .installed (dropSlabs (dropRecord s13 j.ctx j.handle) j.ctx j.handle)

/-- A line of a block as it stands at its home, whatever waits there; none where the page is not mapped. -/
def peekBlock (e : Env) (s : State) (va : Nat) : Option (Nat × Line) :=
  match (translate s e.unit e.cr va permR).2 with
  | .ok pa => some (pa / 128, (homePeek s (pa / 128)).1)
  | .fault _ _ => none

/-- The blocks whose QUEUED bit a job leaves behind: its own, unless it has written it anew, and those of the requests that merged with it, where no
other queued job of the region stands for them (R382, R394). -/
def queuedBlocks (s : State) (die : Nat) (j : SproutJob) (done : Bool) : List Nat :=
  ((if done then [] else [j.pblk]) ++ j.more.filter (fun b => b != j.pblk)).filter (fun b =>
    !((s.die die).queue.erase j).any (fun q => q.ctx = j.ctx && q.handle = j.handle && (q.pblk = b || q.more.contains b)))

/-- QUEUED goes from blocks whose job ends: a write of the anchor, which waits at their lines; where a page is not mapped any more, the bit stays
(DESIGN CHOICE, log 25). -/
def clearBits (e : Env) (s : State) (blocks : List Nat) : Except VErr State :=
  blocks.foldlM (fun s b => match stateWr e s b (fun st => st &&& 0xFFFFFFFD) with
    | .error (.fault _ _ _ _) => .ok s
    | r => r) s

/-- QUEUED goes from blocks whose job is abandoned from outside: the anchor writes the word at once, whatever waits at the line, with the recalls and
copies of any write, and without them only for want of room (DESIGN CHOICE, log 25). -/
def clearQueued (e : Env) (s : State) (blocks : List Nat) : State :=
  blocks.foldl (fun s b => match peekBlock e s (b + 0x608) with
    | none => s
    | some (ln, d) =>
      if sealHit s (e.cr.asid.toNat % 65536) (b + 0x608) 4 then s
      else
        let d' := d &&& ~~~(2#1024 <<< 64)
        match homeWrite s ln (bytesOfWords 4) d' 0 true with
        | .ok s1 => s1
        | .error _ => forceWords (recallEverywhere s [ln]) ln ((OwnerView.mk 0 0 0 0).put 4 (bytesOfWords 4) d' 0)) s

/-- An FRINIT that has ended, with whatever outcome, ends the marks of writes to its arena (R397, R400). -/
def endForeign (e : Env) (s : State) (j : SproutJob) : State :=
  if j.source.isNone then s
  else match peekBlock e s j.pblk with
    | none => s
    | some (_, d) => { s with foreign := s.foreign.filter (fun ln => !lineInArena e s j.pblk d.toNat (blk d.toNat 5 1) ln) }

/-- A job has ended: the outcome, the count, and the word to every instruction that waits for it (R394, R399, R402). -/
def jobEnd (s : State) (die : Nat) (j : SproutJob) (out : Nat) : State :=
  let d := s.die die
  let e : Env := ⟨1520 + die, j.cregs, .nobody⟩
  let s1 := setOut (s.setDie die { d with queue := d.queue.erase j, jobs := (d.jobs + 1) % 65536 }) j.ctx j.handle out
  j.waiters.foldl (fun s kw => modPend s kw.1 kw.2 (fun p => match p.late with
    | .fitWait h => { p with late := .fitDone h out, ready := s.cycle + 1 }
    | _ => p)) (endForeign e s1 j)

/-- A job is abandoned from outside without install (R394). -/
def jobDropped (s : State) (die : Nat) (j : SproutJob) : State :=
  jobEnd (clearQueued ⟨1520 + die, j.cregs, .nobody⟩ s (queuedBlocks s die j false)) die j 3

/-- The record of type 6 of a job that is abandoned (R394). -/
def jobFault (die : Nat) (j : SproutJob) : FaultRec :=
  engineFault 6 3 8 j.cregs j.ctx 0 (1520 + die) 0 (BitVec.ofNat 64 (j.handle + 3 * 4096)) .nobody

/-- SPROUT_JOB (R395): the parameters are the firmware's. A fault is reported and the job waits (R394). -/
def execSproutJob (die : Nat) (params : List (BitVec 16)) (s : State) : Host.Outcome State Fault Refusal :=
  .next (match (s.die die).queue with
    | [] => s
    | j :: rest =>
      if s.faults.any (fun f => f.waiter = .sprout die) then s
      else
        let e : Env := ⟨1520 + die, j.cregs, .sprout die⟩
        let ended : State → Bool → (State → State) → Except (Nat × VErr) State := fun s1 done f =>
          (atStage 4 (clearBits e s1 (queuedBlocks s die j done))).map (fun s2 => { f s2 with draw := s.draw + 1 })
        let t : Except (Nat × VErr) State := match runJob e s j params with
            | .error x => .error x
            | .ok (.stopped s1 out) => ended s1 false (fun s => jobEnd s die j out)
            | .ok (.dropped s1) => ended s1 false (fun s => sendFault (jobEnd s die j 3) (ofCrew s j.crew (jobFault die j)))
            | .ok (.installed s1) => ended s1 true (fun s => jobEnd s die j 1)
        match t with
        | .ok t => t
        | .error (n, v) =>
          let s1 := s.setDie die { s.die die with queue := { j with stage := n } :: rest }
          match v with
          | .fault va reason pte need =>
            sendFault s1 (ofCrew s1 j.crew
              (engineFault 1 reason (accessByte need + 8) j.cregs j.ctx va (1520 + die) 0 (BitVec.ofNat 64 pte) (.sprout die)))
          | _ => v.waits e s1)

/-- A Sprout job becomes unrecoverable: it is abandoned without install (R394, R399). -/
def sproutGiveUp (s : State) (die : Nat) : State :=
  match (s.die die).queue with
  | [] => s
  | j :: _ => sendFault (jobDropped s die j) (ofCrew s j.crew (jobFault die j))

/-- A context has ended: its jobs are abandoned without install (R394). -/
def endJobs (s : State) (ctx : Nat) : State :=
  s.dies.foldl (fun s e =>
    let s1 := match (s.die e.1).queue with
      | j :: _ => if j.ctx = ctx then orphanFaults s (.sprout e.1) else s
      | [] => s
    (e.2.queue.filter (fun j => j.ctx = ctx)).foldl (fun s j => jobDropped s e.1 j) s1) s

/-- SPROUTST (R402). -/
def sproutStatus (s : State) (die : Nat) : Word :=
  let d := s.die die
  let run := d.queue.filter (fun j => j.stage != 0)
  BitVec.ofNat 64 (d.jobs % 65536 * 2 ^ 48 + min 65535 d.drops * 2 ^ 32 + (d.queue.filter (fun j => j.stage = 0)).length % 32 * 2 ^ 19
    + run.head?.elim 0 (fun j => j.stage % 16) * 2 ^ 12 + (run.head?.elim 0 (fun j => j.handle % 4096)))

end Sys2Proof.Machine
end

