-- ==== Sys2Proof/Machine/Fabric.lean ====
section
/-! DEFINITION. The fabric: connections and packets (17_fabric.md R442-R448), FSTORE and FLOAD (R449-R452), FREL (R453-R456), plans and
FRED (R457-R461), FSTAT (R462), and the lines that a snapshot sends to a peer (13_die_cache.md R350). -/

namespace Sys2Proof.Machine

/-! ## Connections (R444, R445) -/

def Conn.start : Conn :=
  { next := 0, unacked := [], flying := [], heard := 0, seen := [], nacked := [], markers := [], gathered := [], released := [],
    timeouts := [], dead := [], failed := false }
/-- The connection of a context to a peer slot. -/
def connOf (ctx slot : Nat) : Nat := 4096 * ctx + slot
def State.conn (s : State) (c : Nat) : Conn := fmGet Conn.start s.pkg.conns c
def State.modConn (s : State) (c : Nat) (f : Conn → Conn) : State :=
  s.modPkg (fun p => { p with conns := fmMod Conn.start p.conns c f })

/-- A word of a descriptor or of a peer table that the port engines or a dispatcher find uncorrectable ends in a record, as a table entry does, and they
go on with its bits (R473; DESIGN CHOICE, log 100). -/
def tableMark (s : State) (unit ctx : Nat) (cr : CtxRegs) (word : Nat) (bad : Bool) : State :=
  if bad then sendFault s (engineFault 1 8 9 cr ctx 0 unit 0 (BitVec.ofNat 64 word) .nobody) else s
/-- The entry of the peer table (R445): valid, and the number of paths. -/
def peerEntry (s : State) (cr : CtxRegs) (slot : Nat) : State × Bool × Nat :=
  let pa := cr.fabric.toNat / 2 ^ 32 * 65536 + 16 * slot
  let (s1, hi, bad) := walkRead s (pa + 8)
  (s1, !bad && (hi / 256).testBit 0, hi % 256)
/-- The unit number of the port engines of an I/O die (R413). -/
def portsOf (die : Nat) : Nat := 1526 + die
/-- The number of paths to the peer of a connection. -/
def peerPaths (s : State) (cr : CtxRegs) (conn : Nat) : State × Nat :=
  let pa := cr.fabric.toNat / 2 ^ 32 * 65536 + 16 * (conn % 4096) + 8
  let (s1, hi, bad) := walkRead s pa
  (tableMark s1 (portsOf 0) (conn / 4096) cr hi bad, hi % 256)
/-- The peer of a connection: the package and its context (R445). -/
def peerName (s : State) (cr : CtxRegs) (conn : Nat) : State × Nat × Nat :=
  let (s1, lo, bad) := walkRead s (cr.fabric.toNat / 2 ^ 32 * 65536 + 16 * (conn % 4096))
  (tableMark s1 (portsOf 0) (conn / 4096) cr lo bad, lo % 2 ^ 32, lo / 2 ^ 32 % 2 ^ 16)
/-- The job of a context (R445). -/
def jobOf (cr : CtxRegs) : Nat := cr.fabric.toNat / 2 ^ 16 % 2 ^ 16

/-- The peer slot and the offset of a fabric VA (R446). -/
def fabSlot (va : Nat) : Nat := va / 2 ^ 36 % 4096
def fabOff (va : Nat) : Nat := va % 2 ^ 36

/-- The paths of a connection that have not failed. -/
def livePaths (k : Conn) (npath : Nat) : List Nat := (List.range npath).filter (fun p => !k.dead.contains p)

/-- Something waits for the peer of a connection: a packet or marker that is not acknowledged, an FLOAD whose bytes have not come back, or an FREL
whose limit is not gathered, though no path may have been left to carry its markers (R444, R450, R453; log 93). -/
def connWaits (s : State) (conn : Nat) : Bool :=
  let k := s.conn conn
  !(k.unacked.isEmpty && k.flying.isEmpty)
    || s.pkg.fabric.any (fun c => c.conn = some conn && c.kind = .load && c.req.isSome && c.moved < c.len)
    || s.warps.any (fun e => e.2.pend.any (fun p => match p.late with
      | .frel _ _ (some ms) => ms.any (fun m => m.1 = conn && !k.released.any (fun n => m.2 ≤ n))
      | _ => false))

/-- Sends a packet on a live path; the sender's choice goes round them (R442). It names the peer and the job (R445). -/
def sendPacket (s : State) (cr : CtxRegs) (conn : Nat) (cmd : Option Nat) (snap : Option (Nat × Nat)) (body : PacketBody) : State :=
  let (s0, fid, pctx) := peerName s cr conn
  let (s1, n) := peerPaths s0 cr conn
  let k := s1.conn conn
  let live := livePaths k n
  let path := if live.isEmpty then 0 else live.getD (k.next % live.length) 0
  s1.modConn conn (fun k => { k with
    next := k.next + 1, heard := if connWaits s conn then k.heard else s.cycle
    unacked := k.unacked ++ [{ psn := k.next, path := path, fid := fid, pctx := pctx, job := jobOf cr, cmd := cmd, snap := snap, body := body }] })

/-- The pieces of a run of words that packets carry, at most 4,096 bytes each, with their offsets (R442). -/
def packetPieces (ws : List (BitVec 64 × Bool)) : List (Nat × List (BitVec 64 × Bool)) :=
  (List.range ((ws.length + 511) / 512)).map (fun i => (4096 * i, (ws.drop (512 * i)).take 512))

/-- Flush markers of a limit go out on every live path of a connection (R453). -/
def sendMarkers (s : State) (cr : CtxRegs) (conn : Nat) : State :=
  let (s1, n) := peerPaths s cr conn
  s1.modConn conn (fun k =>
    let live := livePaths k n
    let mask := live.foldl (fun a p => a + 2 ^ p) 0
    { k with heard := if connWaits s conn then k.heard else s.cycle
             flying := k.flying ++ live.map (fun p => { path := p, limit := k.next, paths := mask, via := p }) })

/-- The unit number of the port engines that serve a unit: those of the I/O die next to its compute die (R413). -/
def portUnit (unit : Nat) : Nat := portsOf (clusterDie (unitCluster unit) / 2)

/-- 8-byte words of a packet. -/
def bodyWords (b : PacketBody) : Nat :=
  match b with
  | .write _ ws => ws.length
  | .readReply _ _ ws => ws.length
  | .chunk _ _ _ _ _ _ _ _ ws => ws.length
  | .result _ _ _ _ _ _ _ _ ws => ws.length
  | _ => 0

/-! ## Words of the local side (R315, R316, R450) -/

/-- Reads 8-byte words with their marks, from a crew's banks or from the homes. -/
def fabRd (who : Waiter) (unit : Nat) (crew : Option Nat) (m : FMap Nat) : List Nat → State → Except VErr (State × List (BitVec 64 × Bool))
  | [], s => .ok (s, [])
  | a :: t, s => match engineRead who unit s crew m a 8 with
    | .error v => .error v
    | .ok (s1, v, b) => match fabRd who unit crew m t s1 with
      | .error v => .error v
      | .ok (s2, ws) => .ok (s2, (BitVec.ofNat 64 v, b) :: ws)

/-- Words as marked bytes from an address on. -/
def wordBytes (a : Nat) (ws : List (BitVec 64 × Bool)) : List (Nat × Byte × Bool) :=
  (ws.zipIdx).flatMap (fun w => ((bytesLE w.1.1.toNat 8).zipIdx).map (fun b => (a + 8 * w.2 + b.2, b.1, w.1.2)))

/-- Translates and writes words at addresses of a context, or puts them into a crew's banks. -/
inductive Put where
  | done (s : State) (pas : List (Nat × Byte × Bool))
  | wait (v : VErr)
  | fault (va reason pte : Nat)

def fabPut (s : State) (who : Waiter) (unit : Nat) (cr : CtxRegs) (crew : Option Nat) (a : Nat) (ws : List (BitVec 64 × Bool)) : Put :=
  let bs := wordBytes a ws
  match crew with
  | some k => .done (afterScratch (s.modCrew k (fun t => spPut t bs)) k) []
  | none => match pagesOf ⟨unit, cr, who⟩ s permW ((List.range ws.length).map (fun i => a + 8 * i)) with
    | .error (.fault va r p _) => .fault va r p
    | .error v => .wait v
    | .ok (s1, m) =>
      let pas := bs.map (fun b => (physOf m b.1, b.2))
      match homePut who unit pas ((pas.map (fun (b : Nat × Byte × Bool) => b.1 / 128)).eraseDups) s1 with
      | .error v => .wait v
      | .ok s2 => .done s2 pas

/-- Copy words of global bytes that are about to be counted become Invalid in the core of the arrival word (R318). -/
def fabClears (s : State) (crew : Nat) (pas : List (Nat × Byte × Bool)) : State :=
  match s.crew crew with
  | none => s
  | some t => ((pas.map (fun b => b.1 / 128)).eraseDups).foldl (fun s ln => l1Invalidate s t.unit ln (bytesWords pas ln)) s

/-- A count into a crew waits for what a warp of that crew issued to the scratchpad before an operation (R317). -/
def fabHeld (s : State) (crew key op : Nat) : Bool := issuedWaits s crew key op

/-! ## Abandonment (R452) -/

/-- Marks the warp of a command: FLUSHW.FAIL and the ENGFAULT trap. -/
def fabTrap (s : State) (key crew : Nat) (t : TrapRec) (tm : Bool) : State :=
  match s.warp key with
  | none => s
  | some w => if w.crew != crew then s else raiseLate (s.setWarp key { w with fabFail := true }) key t tm

/-- A fabric command is abandoned: the rest is not sent, a record of type 4, the issuer's trap; its instruction completes. -/
def fabGiveUp (s : State) (id reason : Nat) : State :=
  match s.pkg.fabric.find? (fun c => c.id = id) with
  | none => s
  | some c =>
    let info := BitVec.ofNat 64 (c.hr + reason * 4096)
    let s1 := s.modPkg (fun p => { p with
      fabric := p.fabric.filter (fun x => x.id != id)
      conns := p.conns.map (fun e => (e.1, { e.2 with unacked := e.2.unacked.filter (fun k => k.cmd != some id) })) })
    let s2 := sendFault (orphanFaults s1 (.fabric id))
      (ofCrew s c.crew (engineFault 4 reason (if reason = 1 then 9 else if reason = 2 then 10 else 8) c.cregs c.ctx 0 (portUnit (keyUnit c.key)) (keySlot c.key) info .nobody))
    let s3 := match s2.warp c.key with
      | some w => (match findPend w c.op with
        | some p => if w.crew = c.crew then completePend s2 c.key p else s2
        | none => s2)
      | none => s2
    fabTrap s3 c.key c.crew { cause := cENGFAULT, stage := .late, late := true, info := info, pc := c.pc, act := c.act, exec := c.exec,
                              word := c.word, slots := none, cycle := s3.cycle } c.tm

/-- A local translation of a fabric command failed: it reports the page and waits (R323, R450). -/
def fabFault (s : State) (c : FabCmd) (write : Bool) (va reason pte : Nat) : State :=
  sendFault s (ofCrew s c.crew (engineFault 1 reason (if write then 10 else 9) c.cregs c.ctx va (portUnit (keyUnit c.key)) (keySlot c.key)
    (BitVec.ofNat 64 pte) (.fabric c.id)))

/-! ## FSTORE, FLOAD and FRED at issue (R449, R451, R459) -/

/-- A local record of a fabric command is legal (R449). -/
def fabLocal (s : State) (cr : Crew) (r : Tensor) : Bool :=
  tensorValid r && (tClass r = 1 || tClass r = 2 || tClass r = 4 || tClass r = 5)
    && (if tClass r = 5 then (crewVia s cr r).isSome else !fabricVa cr.cregs (tBase r))

/-- Some byte of a local run lies at or above 2^52 or in the fabric window (R408, R446; log 85). -/
def fabVaOut (cr : CtxRegs) (r : Tensor) (lo len : Nat) : Bool := tClass r != 5 && vaOut cr (tBase r + lo) len

/-- The first byte of a local run: a VA, or a crew address. -/
def fabBase (r : Tensor) : Nat := if tClass r = 5 then tBase r % 2 ^ 20 else tBase r

/-- A command of the issuing instruction. -/
def fabCmd (c : Ctx) (cr : Crew) (kind : FabKind) (conn : Option Nat) (hr : Nat) (rl : Tensor) (lcrew : Option Nat) (ro lo len : Nat)
    (arr : Option Nat) : FabCmd :=
  { id := c.op, key := c.key, op := c.op, crew := c.w.crew, word := c.cur.word, pc := c.cur.pc, act := c.cur.act, exec := c.exec,
    tm := c.w.tm, cregs := cr.cregs, ctx := cr.ctx, kind := kind, conn := conn, hr := hr, rl := rl, lcrew := lcrew, ro := ro, lo := lo, len := len,
    arr := arr, moved := 0, req := none, due := 0, refused := false, data := [] }

/-- FSTORE and FLOAD. -/
def fabBody (c : Ctx) (s1 : State) (o : OpT) (load : Bool) : Res :=
  match s1.crew c.w.crew with
  | none => .ok s1
  | some cr =>
    let vb := fun (i : Nat) (l : Nat) => if o.o1 = 240 then Lane.zero else c.val (o.o1 + BitVec.ofNat 8 i) l
    protGuard c (fun l => [(c.val o.o2 l).val, (vb 0 l).val, (vb 1 l).val]) (
      let hr := (if load then o.hndb else o.hnda).toNat
      let hl := (if load then o.hnda else o.hndb).toNat
      withRecord c s1 hr (fun s2 rr => withRecord c s2 hl (fun s3 rl =>
        let l := c.low
        let va := c.val o.o2 l
        let a := va.val.toNat
        let len := a / 2 ^ 32
        let arr := a % 2 ^ 20
        let noarr := a.testBit 20
        let so := (vb 0 l).val.toNat
        let dO := (vb 1 l).val.toNat
        let ro := if load then so else dO
        let lo := if load then dO else so
        let rva := tBase rr + ro
        let lcrew := crewVia s3 cr rl
        let (s4, valid, _) := peerEntry s3 cr.cregs (fabSlot rva)
        if !tensorValid rr || tClass rr != 1 || tCoh rr != 0 || !fabricVa cr.cregs (tBase rr) then .trap cRECINV (BitVec.ofNat 64 hr)
        else if !fabLocal s3 cr rl then .trap cRECINV (BitVec.ofNat 64 hl)
        else if (if load then a / 2 ^ 21 % 2 ^ 11 != 0 || (noarr && arr != 0) else a % 2 ^ 32 != 0) then .trap cILLOP 0
        else if va.poi != 0 || (vb 0 l).poi != 0 || (vb 1 l).poi != 0 then .trap cPOISON (laneInfo l)
        else if len < 8 || 16777216 < len || len % 8 != 0 || tExtent rr < ro + len || tExtent rl < lo + len
            || 2 ^ 36 < fabOff rva + len || !valid || fabVaOut cr.cregs rl lo len then .trap cBOUNDS (laneInfo l)
        else if (load && !noarr && spOut cr false false 0 arr 1) || cpySpOut s4 lcrew (len / 8) 8 (fun i => fabBase rl + lo + 8 * i) then
          .trap cSPBOUND (laneInfo l)
        else if so % 8 != 0 || dO % 8 != 0 || tBase rr % 8 != 0 || tBase rl % 8 != 0 || (load && arr % 8 != 0) then .trap cMISALIGN (laneInfo l)
        else if load && (tCoh rl = 2 || (tClass rl != 5 && sealHit s4 (cr.cregs.asid.toNat % 65536) (tBase rl + lo) len)) then
          .trap cSEALW (laneInfo l)
        else .ok (addLate c s4 (.fabQueue (fabCmd c cr (if load then .load else .store) (some (connOf cr.ctx (fabSlot rva))) hr rl lcrew
          (fabOff rva) lo len (if load && !noarr then some arr else none))) [] []))))

/-- FSTORE (R449). -/
def execFstore (h : Hdr) (o : OpT) (s : State) : Host.Outcome State Fault Refusal :=
  issue (.fstore h o) h s (fun c s1 => fabBody c s1 o false)
/-- FLOAD (R449). -/
def execFload (h : Hdr) (o : OpT) (s : State) : Host.Outcome State Fault Refusal :=
  issue (.fload h o) h s (fun c s1 => fabBody c s1 o true)

/-- What a contribution says of its FRED. -/
def FabCmd.source (c : FabCmd) : ChunkSource :=
  { key := c.key, crew := c.crew, op := c.op, word := c.word, pc := c.pc, act := c.act, exec := c.exec, tm := c.tm }

/-- A plan slot. -/
def State.plan? (s : State) (slot : Nat) : Option Plan := fmFind s.pkg.plans slot
def State.setPlan (s : State) (slot : Nat) (p : Plan) : State := s.modPkg (fun k => { k with plans := fmPut k.plans slot p })

/-- FRED (R459). A byte that it reads at or above a crew's top or in its trap area gives SPBOUND, after the bounds (R181; DEDUCED,
log 72). -/
def execFred (h : Hdr) (o : OpT) (s : State) : Host.Outcome State Fault Refusal :=
  issue (.fred h o) h s (fun c s1 => match s1.crew c.w.crew with
    | none => .ok s1
    | some cr => protGuard c (fun l => [(c.val o.o2 l).val]) (
      let hs := o.hnda.toNat
      withRecord c s1 hs (fun s2 r =>
        let l := c.low
        let va := c.val o.o2 l
        let a := va.val.toNat
        let slot := a % 64
        let ch := a / 2 ^ 16 % 4096
        let off := a / 2 ^ 32
        if !fabLocal s2 cr r then .trap cRECINV (BitVec.ofNat 64 hs)
        else if a / 64 % 1024 != 0 || a / 2 ^ 28 % 16 != 0 then .trap cILLOP 0
        else if va.poi != 0 then .trap cPOISON (laneInfo l)
        else match s2.plan? slot with
          | none => .trap cBOUNDS (laneInfo l)
          | some p =>
            if p.ctx != cr.ctx || p.nch ≤ ch || p.given.contains ch || tExtent r < off + p.chb || fabVaOut cr.cregs r off p.chb then
              .trap cBOUNDS (laneInfo l)
            else if cpySpOut s2 (crewVia s2 cr r) (p.chb / 8) 8 (fun i => fabBase r + off + 8 * i) then .trap cSPBOUND (laneInfo l)
            else if off % 8 != 0 || tBase r % 8 != 0 then .trap cMISALIGN (laneInfo l)
            else
              let s3 := s2.setPlan slot { p with given := p.given ++ [ch] }
              .ok (addLate c s3 (.fabQueue (fabCmd c cr (.reduce slot ch p.epoch) none hs r (crewVia s2 cr r) 0 off p.chb none)) [] []))))

/-! ## Acceptance and reading (R450) -/

/-- Commands that the port engines hold and have not read or asked for. -/
def fabQueued (s : State) : Nat := (s.pkg.fabric.filter (fun c => c.kind != .load && c.moved < c.len)).length

/-- A command is accepted when there is room and no earlier one of the warp waits (R450): an FLOAD sends its request and completes. -/
def fabQueueStep (s : State) (key : Nat) (p : Pend) (c : FabCmd) : State :=
  match s.warp key with
  | none => s
  | some w =>
    if 256 ≤ fabQueued s || w.pend.any (fun q => q.op < p.op && (match q.late with
      | .fabQueue _ => true
      | _ => false)) then s
    else
      let s1 := s.modPkg (fun k => { k with fabric := k.fabric ++ [c] })
      match c.kind, c.conn with
      | .load, some cn =>
        if (s1.conn cn).failed then fabGiveUp s1 c.id 12
        else
          let s2 := sendPacket s1 c.cregs cn (some c.id) none (.readRequest c.ro c.len)
          completePend (s2.modPkg (fun k => { k with fabric := k.fabric.map (fun x =>
            if x.id = c.id then { x with req := some (s1.conn cn).next } else x) })) key p
      | .store, some cn =>
        if (s1.conn cn).failed then fabGiveUp s1 c.id 12
        else
          let s2 := s1.modWarp key (fun w => { w with fabPeers := (w.fabPeers ++ [cn % 4096]).eraseDups })
          modPend s2 key p.op (fun p => { p with late := .fabRead c.id })
      | _, _ => modPend s1 key p.op (fun p => { p with late := .fabRead c.id })

/-- A command whose words are all read and acknowledged, none of them rejected, is over. -/
def fabClean (s : State) (id : Nat) : State :=
  if s.pkg.conns.any (fun e => e.2.unacked.any (fun k => k.cmd = some id)) then s
  else s.modPkg (fun k => { k with fabric := k.fabric.filter (fun c => !(c.id = id && c.kind != .load && c.len ≤ c.moved && !c.refused)) })

/-- The next words of an FSTORE or FRED are read, at most a packet of them, and sent, or kept as the contribution (R450, R459). -/
def fabReadStep (s : State) (key : Nat) (p : Pend) (id : Nat) : State :=
  match s.pkg.fabric.find? (fun c => c.id = id) with
  | none => completePend s key p
  | some c =>
    let n := min 4096 (c.len - c.moved)
    let as := (List.range (n / 8)).map (fun i => fabBase c.rl + c.lo + c.moved + 8 * i)
    if s.faults.any (fun f => f.waiter = .fabric id) then s
    else if (match c.lcrew with
        | some k => (s.crew k).isNone
        | none => false) then fabGiveUp s id 4
    else
      let e : Env := ⟨portUnit (keyUnit key), c.cregs, .fabric id⟩
      match (if c.lcrew.isSome then .ok (s, []) else pagesOf e s permR as) with
      | .error (.fault va r pte _) => fabFault s c false va r pte
      | .error v => v.waits e s
      | .ok (s1, m) => match fabRd e.who e.unit c.lcrew m as s1 with
        | .error v => v.waits e s
        | .ok (s2, ws) =>
          let c' : FabCmd := { c with moved := c.moved + n, data := if c.kind = .store then [] else c.data ++ ws }
          let s3 := s2.modPkg (fun k => { k with fabric := k.fabric.map (fun x => if x.id = id then c' else x) })
          let s4 := match c.kind, c.conn with
            | .store, some cn => sendPacket s3 c.cregs cn (some id) none (.write (c.ro + c.moved) ws)
            | _, _ => s3
          if c'.moved < c.len then s4
          else match c.kind with
            | .reduce slot ch ep =>
              let s5 := match s4.plan? slot with
                | some q => if q.aborted || q.ctx != c.ctx then s4
                    else s4.setPlan slot { q with mine := q.mine ++
                      [({ epoch := ep, index := ch, off := 0, child := 0, src := some c.source, words := c'.data } : Chunk)] }
                | none => s4
              completePend (s5.modPkg (fun k => { k with fabric := k.fabric.filter (fun x => x.id != id) })) key p
            | _ => completePend s4 key p

/-! ## FREL (R453) -/

/-- FREL. -/
def execFrel (h : Hdr) (o : OpR) (s : State) : Host.Outcome State Fault Refusal :=
  issue (.frel h o) h s (fun c s1 => protGuard c (fun l => if o.x = 1 then [] else [(c.val o.o2 l).val]) (
    let v := c.val o.o2 c.low
    let a := v.val.toNat
    if o.x = 1 then .ok (addLate c s1 (.frel true 0 none) [] [])
    else if v.poi != 0 then .trap cPOISON (laneInfo c.low)
    else
      let (s2, valid, _) := peerEntry s1 c.cregs (a % 4096)
      if a / 4096 != 0 || !valid then .trap cBOUNDS (laneInfo c.low)
      else .ok (addLate c s2 (.frel false (a % 4096) none) [] [])))

/-- The warp has a fabric load or store before an operation that is not read or sent. An FLOAD has read its remote bytes once the peer, which
reads them when the request arrives (R450), has acknowledged the request, or all of them have come back. -/
def fabOut (s : State) (w : Warp) (key op : Nat) : Bool :=
  w.pend.any (fun q => q.op < op && (match q.late with
    | .fabQueue c => c.conn.isSome
    | .fabRead id => s.pkg.fabric.any (fun c => c.id = id && c.conn.isSome)
    | _ => false))
  || s.pkg.fabric.any (fun c => c.key = key && c.crew = w.crew && c.op < op && c.kind = .load
      && s.pkg.conns.any (fun e => e.2.unacked.any (fun k => k.cmd = some c.id)))

/-- FREL's next step: it waits as REL does, for earlier RELs too, and for the warp's fabric loads, sends its markers, and completes when every peer has
acknowledged that it gathered them, or its connection has failed. -/
def frelStep (s : State) (key : Nat) (p : Pend) (all : Bool) (slot : Nat) (sent : Option (List (Nat × Nat))) : State :=
  match s.warp key with
  | none => s
  | some w => match s.crew w.crew with
    | none => s
    | some cr => match sent with
      | none =>
        if accessOut w p.op || regsOut s (keyUnit key) (some key) p.op || relBefore w p.op || fabOut s w key p.op then s
        else
          let slots := if all then w.fabPeers else [slot]
          let ms := slots.map (fun k => (connOf cr.ctx k, (s.conn (connOf cr.ctx k)).next))
          let s0 := slots.foldl (fun s k => sendMarkers s p.cregs (connOf cr.ctx k)) s
          let s1 := s0.setWarp key { w with fabPeers := if all then [] else w.fabPeers.filter (fun k => k != slot) }
          modPend s1 key p.op (fun p => { p with late := .frel all slot (some ms) })
      | some ms =>
        let failed := ms.filter (fun m => (s.conn m.1).failed)
        if ms.all (fun m => (s.conn m.1).failed || (s.conn m.1).released.any (fun n => m.2 ≤ n)) then
          failed.foldl (fun s _ =>
            let info := BitVec.ofNat 64 (12 * 4096)
            let s1 := sendFault s (ofCrew s w.crew (engineFault 4 12 8 p.cregs cr.ctx 0 (portUnit (keyUnit key)) (keySlot key) info .nobody))
            fabTrap s1 key w.crew { cause := cENGFAULT, stage := .late, late := true, info := info, pc := p.pc, act := p.act, exec := p.exec,
                                    word := p.word, slots := none, cycle := s1.cycle } p.tm) (completePend s key p)
        else s

/-- A FREL of some warp on a connection has sent markers with a limit. -/
def markersOut (s : State) (conn limit : Nat) : Bool :=
  s.warps.any (fun kw => kw.2.pend.any (fun p => match p.late with
    | .frel _ _ (some ms) => ms.any (fun m => m.1 = conn && m.2 ≤ limit)
    | _ => false))

/-! ## Status (R462, R464) -/

/-- FLUSHW of a warp. -/
def flushw (s : State) (key : Nat) (w : Warp) : Word :=
  let mine := (s.pkg.fabric.filter (fun c => c.key = key && c.crew = w.crew)).map (fun c => c.id)
  let un := s.pkg.conns.foldl (fun a e => a + e.2.unacked.foldl (fun a k => match k.body, k.cmd with
    | .write _ ws, some id => if mine.contains id then a + ws.length else a
    | _, _ => a) 0) 0
  BitVec.ofNat 64 ((if w.fabFail then 2 ^ 45 else 0) + w.fabPeers.length * 2 ^ 32 + min un (2 ^ 32 - 1))

/-- FSTAT (R462). -/
def execFstat (h : Hdr) (o : OpR) (s : State) : Host.Outcome State Fault Refusal :=
  issue (.fstat h o) h s (fun c s1 => protGuard c (fun l => if o.x = 1 then [(c.val o.o2 l).val] else []) (
    let v := c.val o.o2 c.low
    let slot := v.val.toNat % 64
    let regs := regWr c.w o.o1 c.exec (fun _ => Lane.zero)
    if o.x = 0 then .ok (addLate c s1 (.fabStat none) regs [])
    else if v.poi != 0 then .trap cPOISON (laneInfo c.low)
    else if (match s1.plan? slot with
        | some p => p.ctx != c.ctxId
        | none => false) then .trap cBOUNDS (laneInfo c.low)
    else .ok (addLate c s1 (.fabStat (some slot)) regs [])))

/-- FSTAT reads the port engines' status. -/
def fabStatStep (s : State) (key : Nat) (p : Pend) (slot : Option Nat) : State :=
  match s.warp key, slot with
  | some w, none => completeWith s key p (flushw s key w)
  | _, some n => completeWith s key p (match s.plan? n with
    | some q => BitVec.ofNat 64 (q.epoch % 65536 + (if q.aborted then 2 ^ 16 else 0) + 2 ^ 17 + q.counted.length * 2 ^ 18)
    | none => 0)
  | none, _ => s

/-! ## Plans (R457-R460) -/

/-- COLL.open (R458): the address of the block, as CBLD forms it. An arrival word or result at or above a crew's top or in its trap area gives
SPBOUND, after the bounds (R181; DEDUCED, log 72). -/
def execCollOpen (h : Hdr) (o : OpM) (s : State) : Host.Outcome State Fault Refusal :=
  issue (.collOpen h o) h s (fun c s1 => protGuard c (fun l => [(c.val o.o2 l).val]) (withRecord c s1 o.hnd.toNat (fun s2 r =>
    match s2.crew c.w.crew, tableAddr c r o.hnd.toNat o.o2 o.disp.toInt 64 8 false false with
    | none, _ => .ok s2
    | _, .error (cause, info) => .trap cause info
    | some cr, .ok a => match vmRdWords ⟨c.unit, cr.cregs, .fetch c.key c.cur.pc⟩ 8 s2 a with
      | .error (.fault va reason pte _) => heldIssue c s2 va reason pte
      | .error v => .ok (v.waits ⟨c.unit, cr.cregs, .fetch c.key c.cur.pc⟩ c.s)
      | .ok (s3, b, bad) =>
        let op := blk b 0 1
        let fmt := blk b 1 1
        let nch := blk b 4 4
        let chb := blk b 8 4
        let parent := blk b 0xC 2
        let nk := blk b 0xE 1
        let kids := (List.range 4).map (fun i => blk b (0x10 + 2 * i) 2)
        let resh := blk b 0x18 2
        let arrh := blk b 0x1A 2
        let shape := (op = 1 || op = 2) && (fmt = 9 || fmt = 11) && 1 ≤ nch && nch ≤ 4096 && 256 ≤ chb && chb ≤ 1048576 && chb % 256 = 0
          && (parent = 0xFFFF || parent < 4096) && nk ≤ 4 && (kids.zipIdx).all (fun k => if k.2 < nk then k.1 < 4096 else k.1 = 0)
          && resh < 4096 && arrh < 4096 && blk b 0xF 1 = 0 && blk b 0x1C 4 = 0 && blk b 0x20 32 = 0
        let hasRes := op = 2 || parent = 0xFFFF
        if !shape || !bad.isEmpty then .trap cBOUNDS (laneInfo c.low)
        else if cr.cregs.trtn.toNat ≤ arrh then .trap cRECINV (BitVec.ofNat 64 arrh)
        else if hasRes && cr.cregs.trtn.toNat ≤ resh then .trap cRECINV (BitVec.ofNat 64 resh)
        else withRecord c s3 arrh (fun s4 ra => withRecord c s4 (if hasRes then resh else arrh) (fun s5 rr =>
          if !tensorValid ra || tClass ra != 5 || (crewVia s5 cr ra).isNone then .trap cRECINV (BitVec.ofNat 64 arrh)
          else if hasRes && !fabLocal s5 cr rr then .trap cRECINV (BitVec.ofNat 64 resh)
          else if hasRes && tExtent rr < nch * chb then .trap cBOUNDS (laneInfo c.low)
          else if cpySpOut s5 (crewVia s5 cr ra) 1 8 (fun _ => tBase ra % 2 ^ 20)
              || (hasRes && cpySpOut s5 (crewVia s5 cr rr) (nch * chb / 8) 8 (fun i => fabBase rr + 8 * i)) then .trap cSPBOUND (laneInfo c.low)
          else
            let free := (List.range 64).find? (fun i => (s5.plan? i).isNone)
            let v := match free with
              | some i => BitVec.ofNat 64 i
              | none => BitVec.allOnes 64
            let p : Plan := { ctx := cr.ctx, cregs := cr.cregs, crew := c.w.crew, key := c.key, op := op, fmt := fmt, planId := blk b 2 2,
                              nch := nch, chb := chb, parent := if parent = 0xFFFF then none else some parent, kids := kids.take nk,
                              resh := rr, rescrew := crewVia s5 cr rr, arrcrew := crewVia s5 cr ra, arr := tBase ra % 2 ^ 20, epoch := 0,
                              mine := [], theirs := [], combined := [], awaiting := [], results := [], due := [], tally := [], counted := [], given := [],
                              aborted := false }
            let s6 := match free with
              | some i => s5.setPlan i p
              | none => s5
            .ok (addDone c s6 (regWr c.w o.o1 c.exec (fun _ => ⟨v, 0⟩)) []))))))

/-- The slot operand of COLL.next and COLL.close: a trap, or the slot. -/
def collSlot (c : Ctx) (va : Byte) : Except (Nat × Word) Nat :=
  let v := c.val va c.low
  let n := v.val.toNat
  if v.poi != 0 then .error (cPOISON, laneInfo c.low)
  else match (if n < 64 then c.s.plan? n else none) with
    | some p => if p.ctx = c.ctxId then .ok n else .error (cBOUNDS, laneInfo c.low)
    | none => .error (cBOUNDS, laneInfo c.low)

/-- COLL.next (R458). -/
def execCollNext (h : Hdr) (o : OpM) (s : State) : Host.Outcome State Fault Refusal :=
  issue (.collNext h o) h s (fun c s1 => protGuard c (fun l => [(c.val o.o2 l).val]) (match collSlot c o.o2 with
    | .error (cause, info) => .trap cause info
    | .ok n => .ok (addLate c s1 (.collNext n) (regWr c.w o.o1 c.exec (fun _ => Lane.zero)) [])))
/-- COLL.close (R458). -/
def execCollClose (h : Hdr) (o : OpM) (s : State) : Host.Outcome State Fault Refusal :=
  issue (.collClose h o) h s (fun c s1 => protGuard c (fun l => [(c.val o.o2 l).val]) (match collSlot c o.o2 with
    | .error (cause, info) => .trap cause info
    | .ok n => .ok (addLate c s1 (.collClose n) [] [])))

/-- The slot's epoch is complete locally, or the slot is aborted (R459, R458). -/
def planOver (p : Plan) : Bool := p.aborted || p.nch ≤ p.counted.length

/-- COLL.next completes: the chunk bits are cleared and the next epoch begins. -/
def collNextStep (s : State) (key : Nat) (p : Pend) (n : Nat) : State :=
  match s.plan? n with
  | none => completeWith s key p (BitVec.ofNat 64 (2 ^ 16))
  | some q =>
    if !planOver q then s
    else
      let e := (q.epoch + 1) % 65536
      let q' := { q with epoch := e, mine := q.mine.filter (fun c => c.epoch != q.epoch), theirs := q.theirs.filter (fun c => c.epoch != q.epoch),
                         combined := [], awaiting := [], results := [], due := [], tally := [], counted := [], given := [] }
      completeWith (s.setPlan n q') key p (BitVec.ofNat 64 (e + if q.aborted then 2 ^ 16 else 0))

/-- COLL.close completes: the slot is free. -/
def collCloseStep (s : State) (key : Nat) (p : Pend) (n : Nat) : State :=
  match s.plan? n with
  | none => completePend s key p
  | some q => if planOver q then completePend (s.modPkg (fun k => { k with plans := fmErase k.plans n })) key p else s

/-- A plan slot is aborted (R460): a record of type 4, with reason 15 or, where the slices reject the result's write, with reason 3 (R342, R323; log
94), and ENGFAULT in each warp of the context that holds a contribution not yet combined, at the PC of its FRED. -/
def abortPlanFor (s : State) (n reason : Nat) : State :=
  match s.plan? n with
  | none => s
  | some q =>
    if q.aborted then s
    else
      let info := BitVec.ofNat 64 n
      let s1 := sendFault (orphanFaults s (.plan n))
        (ofIssuer s q.key (engineFault 4 reason 8 q.cregs q.ctx 0 (portUnit (keyUnit q.key)) 0 info .nobody))
      let s2 := s1.setPlan n { q with aborted := true }
      let reading := s2.pkg.fabric.filter (fun c => match c.kind with
        | .reduce slot _ _ => slot = n && c.ctx = q.ctx
        | _ => false)
      let waiting := q.mine.filter (fun c => !(c.epoch = q.epoch && q.combined.contains c.index))
      let held := waiting.filterMap (fun c => c.src) ++ reading.map FabCmd.source
      let same := fun (x y : ChunkSource) => x.key = y.key && x.crew = y.crew
      -- one trap a warp: of its first contribution, and a handler's where any of them is
      ((held.zipIdx).filter (fun x => !(held.take x.2).any (same x.1))).foldl (fun s x =>
        match s.warp x.1.key with
        | none => s
        | some w =>
          if w.crew != x.1.crew then s
          else raiseLate s x.1.key { cause := cENGFAULT, stage := .late, late := true, info := info, pc := x.1.pc, act := x.1.act, exec := x.1.exec,
                                     word := x.1.word, slots := none, cycle := s.cycle } (held.any (fun y => same x.1 y && y.tm))) s2
def abortPlan (s : State) (n : Nat) : State := abortPlanFor s n 15

/-- PLAN_ABORT (R460). -/
def execPlanAbort (slot : Nat) (s : State) : Host.Outcome State Fault Refusal := .next (abortPlan s slot)

/-- One element-wise sum of a node (R459). -/
def chunkAdd (fmt : Nat) (a b : List (BitVec 64 × Bool)) : List (BitVec 64 × Bool) :=
  let t : Ety := if fmt = 9 then .f32 else .bf16
  let w := etyWidth t
  (a.zip b).map (fun x =>
    (BitVec.ofNat 64 (packElems w (fun i => (fSumRound t rcNear [fDecode t (elemAt w i x.1.1), fDecode t (elemAt w i x.2.1)]).bits) (64 / w)),
      x.1.2 || x.2.2))

/-- Bytes of a chunk have landed, or its parent has acknowledged them: they are to be counted (R459). -/
def planDue (s : State) (n ch bytes : Nat) : State :=
  match s.plan? n with
  | none => s
  | some q => s.setPlan n { q with due := fmSet 0 q.due ch (fmGet 0 q.due ch + bytes) }

/-- The count of a chunk is held: the contributing warp has earlier scratchpad accesses of the crew to apply (R317). -/
def dueHeld (s : State) (q : Plan) (ch : Nat) : Bool :=
  match q.arrcrew, q.mine.find? (fun c => c.epoch = q.epoch && c.index = ch) with
  | some k, some m => m.src.any (fun x => fabHeld s k x.key x.op)
  | _, _ => false

/-- Counts what is due of a plan's chunks into its arrival word, in pieces of at most 4,096 bytes, each behind the scratchpad accesses that the
contributing warp issued before its FRED (R317, R459). A chunk whose bytes are all counted is a counted one. -/
def planCount (s : State) (n : Nat) : State :=
  match s.plan? n with
  | none => s
  | some q =>
    if q.aborted then s
    else q.due.foldl (fun s e =>
      let ch := e.1
      if dueHeld s q ch then s
      else match s.plan? n with
        | none => s
        | some p =>
          let s1 := match p.arrcrew with
            | some k => (List.range ((e.2 + 4095) / 4096)).foldl (fun s i => (countInto s k p.arr (min 4096 (e.2 - 4096 * i))).1) s
            | none => s
          let done := fmGet 0 p.tally ch + e.2
          s1.setPlan n { p with due := fmErase p.due ch, tally := fmSet 0 p.tally ch done
                                counted := if p.chb ≤ done then (p.counted ++ [ch]).eraseDups else p.counted }) s

/-- The oldest piece of a result is written at RESH, and its bytes become due (R459, R318); nothing where it waits; a fault is reported and
waits; the slices reject one to a sealed range, and the plan is aborted (R342; DESIGN CHOICE, log 94). -/
def planWrite (s : State) (n : Nat) : State × Bool :=
  match s.plan? n with
  | none => (s, false)
  | some q =>
    match q.results with
    | [] => (s, false)
    | r :: rest =>
      let a := fabBase q.resh + r.index * q.chb + r.off
      if q.aborted || s.faults.any (fun f => f.waiter = .plan n) then (s, false)
      else if q.rescrew.isNone && sealHit s (q.cregs.asid.toNat % 65536) a (8 * r.words.length) then (abortPlanFor s n 3, false)
      else match fabPut s (.plan n) (portUnit (keyUnit q.key)) q.cregs q.rescrew a r.words with
        | .wait v => (v.waits ⟨portUnit (keyUnit q.key), q.cregs, .plan n⟩ s, false)
        | .fault va r p => (sendFault s (ofIssuer s q.key (engineFault 1 r 10 q.cregs q.ctx va (portUnit (keyUnit q.key)) 0
            (BitVec.ofNat 64 p) (.plan n))), false)
        | .done s1 pas =>
          let s2 := match q.arrcrew with
            | some k => fabClears s1 k pas
            | none => s1
          (planDue (s2.setPlan n { q with results := rest }) n r.index (8 * r.words.length), true)

/-- The pieces of a plan's results, as many as can be written now, and what is due of its chunks. -/
def planStep (n : Nat) : Nat → State → State
  | 0, s => planCount s n
  | fuel + 1, s =>
    let (s1, more) := planWrite s n
    if more then planStep n fuel s1 else planCount s1 n
/-- As many steps as a plan has pieces to write. -/
def planRun (s : State) (n : Nat) : State := planStep n ((s.plan? n).elim 0 (fun q => q.results.length)) s

/-- A whole chunk of a child: its pieces in order, once all of them have arrived. -/
def childChunk (q : Plan) (ch i : Nat) : Option (List (BitVec 64 × Bool)) :=
  let ps := q.theirs.filter (fun c => c.epoch = q.epoch && c.index = ch && c.child = i)
  let ws := (List.range ((q.chb + 4095) / 4096)).flatMap (fun k => (ps.find? (fun c => c.off = 4096 * k)).elim [] (fun c => c.words))
  if ws.length * 8 = q.chb then some ws else none

/-- REDUCTION_CHUNK_COMBINE (R459). Chunks and results go out in packets of at most 4,096 bytes (R442). -/
def combineChunk (s : State) (n ch : Nat) : State :=
  match s.plan? n with
  | none => s
  | some q =>
    let kids := (List.range q.kids.length).map (fun i => childChunk q ch i)
    match q.mine.find? (fun c => c.epoch = q.epoch && c.index = ch) with
    | none => s
    | some m =>
      if q.aborted || q.combined.contains ch || kids.any (fun k => k.isNone) then s
      else
        let acc := kids.foldl (fun a k => match k with
          | some ws => chunkAdd q.fmt a ws
          | none => a) m.words
        let pieces := packetPieces acc
        match q.parent with
        | some up =>
          pieces.foldl (fun s p =>
            sendPacket s q.cregs (connOf q.ctx up) none none (.chunk q.planId q.op q.fmt q.nch q.chb q.epoch ch p.1 p.2))
            (s.setPlan n { q with combined := q.combined ++ [ch], awaiting := q.awaiting ++ [ch] })
        | none =>
          let s1 := s.setPlan n { q with combined := q.combined ++ [ch], results := q.results ++ pieces.map (fun p =>
            { epoch := q.epoch, index := ch, off := p.1, child := 0, src := m.src, words := p.2 }) }
          let s2 := if q.op = 2 then q.kids.foldl (fun s k => pieces.foldl (fun s p =>
              sendPacket s q.cregs (connOf q.ctx k) none none (.result q.planId q.op q.fmt q.nch q.chb q.epoch ch p.1 p.2)) s) s1 else s1
          planRun s2 n

/-- REDUCTION_CHUNK_COMBINE (R459). -/
def execReductionChunkCombine (slot chunk : Nat) (s : State) : Host.Outcome State Fault Refusal := .next (combineChunk s slot chunk)

/-- The parent has acknowledged every packet of a chunk: at a node of a plan of OP 1 its bytes are counted (R459). -/
def chunkAcked (s : State) (ctx planId epoch ch : Nat) : State :=
  match s.pkg.plans.find? (fun e => e.2.ctx = ctx && e.2.planId = planId) with
  | none => s
  | some (n, q) =>
    let open_ := q.parent.any (fun up => (s.conn (connOf q.ctx up)).unacked.any (fun k => match k.body with
      | .chunk p _ _ _ _ e i _ _ => p = planId && e = epoch && i = ch
      | _ => false))
    if q.op != 1 || q.aborted || q.epoch != epoch || !q.awaiting.contains ch || open_ then s
    else planCount (planDue (s.setPlan n { q with awaiting := q.awaiting.filter (fun c => c != ch) }) n ch q.chb) n

/-! ## Receiving (R448, R450, R459) -/

/-- The bits of context CSR 0x400 + i that its layout names (R407). -/
def ctxMask (i : Nat) : Word :=
  match i with
  | 0 => 0x000FFFFFFFFF0000
  | 1 => 0x000FFFFFFFFF0007
  | 2 => 0x0000FFFFFFFF0000
  | 3 => 0x0000FFFFFFFF8000
  | 4 => 0xFFFF
  | 5 => 0x000FFFFFFFFFF000
  | 6 => 0x1FFF
  | _ => 0xF

/-- The words of a context's descriptor (R406), and whether one is uncorrectable. -/
def descWords (s : State) (ctx : Nat) : State × List Nat × Bool :=
  let pa := s.pkg.ctxtab + 64 * ctx
  let rd := fun (a : State × List Nat × Bool) (i : Nat) =>
    let (s1, v, bad) := walkRead a.1 (pa + 8 * i)
    (s1, a.2.1 ++ [v], a.2.2 || bad)
  (List.range 8).foldl rd (s, [], false)
/-- A descriptor's fields (R406). -/
def descOf (ws : List Nat) : CtxRegs :=
  let w := fun (i : Nat) => ws.getD i 0
  let m := fun (i : Nat) => BitVec.ofNat 64 (w i) &&& ctxMask i
  { heapb := m 0, heapl := m 1, heapo := m 2, ptbr := m 3, asid := m 4, trtb := m 5, trtn := BitVec.ofNat 64 (w 6 % 8192)
    ctxpri := BitVec.ofNat 64 (w 6 / 65536 % 16), dring := w 4 / 65536 % 32, fabric := BitVec.ofNat 64 (w 7) }
/-- A context's descriptor as a unit reads it. -/
def readDesc (s : State) (unit ctx : Nat) : State × CtxRegs :=
  let (s1, ws, bad) := descWords s ctx
  (tableMark s1 unit ctx (descOf ws) (ws.getD 0 0) bad, descOf ws)

/-- A record of COH 2 that a record cache of the context holds covers an address (R448). -/
def knownSealed (s : State) (ctx va n : Nat) : Bool :=
  s.clusters.any (fun e => e.2.ctx = some ctx && e.2.recs.any (fun r => tCoh r.data = 2 && (tClass r.data = 1 || tClass r.data = 2 || tClass r.data = 4)
    && va < tBase r.data + tExtent r.data && tBase r.data < va + n))

/-- What an arriving operation does: it is applied, rejected, refused for now, so that the transport resends it, or it waits at the port. -/
inductive Recv where
  | applied (s : State)
  | rejected
  | refused
  | wait (v : VErr)
  | fault (va reason pte write : Nat)

/-- The physical addresses of words of the receiver's heap window (R448). -/
def recvPas (cr : CtxRegs) (va n need : Nat) : Except Recv (List Nat) :=
  if !(List.range n).all (fun i => heapHit cr (va + 8 * i) && heapHit cr (va + 8 * i + 7)) then .error .rejected
  else match permFault (cr.heapl.toNat % 8) need with
    | some r => .error (.fault va r 0 need)
    | none =>
      let pas := (List.range n).map (fun i => (va + 8 * i + cr.heapo.toNat) % 2 ^ 48)
      if pas.any (fun p => Config.memTop ≤ p) then .error (.fault va 7 0 need) else .ok pas

/-- Writes words at their homes, one by one (R316). -/
def recvWrite (who : Waiter) (unit : Nat) : List (Nat × BitVec 64 × Bool) → State → Except VErr State
  | [], s => .ok s
  | (pa, v, b) :: t, s =>
    if lineHeld s who unit (pa / 128) true then .error (.held (pa / 128) true)
    else match homeStore (engineGoes s who unit (pa / 128)) pa 8 v.toNat b true with
      | .error v => .error (.wait v)
      | .ok s1 => recvWrite who unit t (noteWrites s1 [pa / 128])

/-- Reads words at their homes. -/
def recvRead (who : Waiter) (unit : Nat) : List Nat → State → Except VErr (State × List (BitVec 64 × Bool))
  | [], s => .ok (s, [])
  | pa :: t, s =>
    if lineHeld s who unit (pa / 128) false then .error (.held (pa / 128) false)
    else match homeBytes (engineGoes s who unit (pa / 128)) pa 8 with
      | .error v => .error (.wait v)
      | .ok (s1, v, b) => match recvRead who unit t s1 with
        | .error v => .error v
        | .ok (s2, ws) => .ok (s2, (BitVec.ofNat 64 v, b) :: ws)

/-- What is due of an FLOAD is counted, in pieces of at most 4,096 bytes, behind the warp's earlier scratchpad accesses; the command is over
once everything is written and counted (R317, R450). -/
def loadCount (s : State) (id : Nat) : State :=
  match s.pkg.fabric.find? (fun c => c.id = id) with
  | none => s
  | some c =>
    let held := c.arr.isSome && fabHeld s c.crew c.key c.op
    if held then s
    else
      let s1 := match c.arr with
        | some a => (List.range ((c.due + 4095) / 4096)).foldl (fun s i => (countInto s c.crew a (min 4096 (c.due - 4096 * i))).1) s
        | none => s
      s1.modPkg (fun k => { k with fabric :=
        if c.len ≤ c.moved then k.fabric.filter (fun x => x.id != id) else k.fabric.map (fun x => if x.id = id then { c with due := 0 } else x) })

/-- The bytes of an FLOAD come back under the PSN of its request: written at their addresses, then counted (R450). -/
def recvReply (s : State) (conn psn off : Nat) (ws : List (BitVec 64 × Bool)) : Recv :=
  match s.pkg.fabric.find? (fun c => c.kind = .load && c.conn = some conn && c.req = some psn) with
  | none => .applied s
  | some c =>
    let a := fabBase c.rl + c.lo + (off - c.ro)
    if s.faults.any (fun f => f.waiter = .fabric c.id) then .wait (.wait [])
    else if (match c.lcrew with
        | some k => (s.crew k).isNone
        | none => false) then .applied (fabGiveUp s c.id 4)
    else if c.lcrew.isNone && sealHit s (c.cregs.asid.toNat % 65536) a (8 * ws.length) then .applied (fabGiveUp s c.id 3)
    else match fabPut s (.fabric c.id) (portUnit (keyUnit c.key)) c.cregs c.lcrew a ws with
      | .wait v => .wait v
      | .fault va r p => .fault va r p 2
      | .done s1 pas =>
        let s2 := if c.arr.isSome then fabClears s1 c.crew pas else s1
        let c' := { c with moved := c.moved + 8 * ws.length, due := c.due + 8 * ws.length }
        .applied (loadCount (s2.modPkg (fun k => { k with fabric := k.fabric.map (fun x => if x.id = c.id then c' else x) })) c.id)

/-- A plan of a context by its number, and whether a neighbour's parameters are its own. -/
def planOf (s : State) (ctx planId : Nat) : Option (Nat × Plan) := s.pkg.plans.find? (fun e => e.2.ctx = ctx && e.2.planId = planId)

/-- Aborts the slots of a context in which a neighbour has a part (R460). -/
def abortWith (s : State) (ctx : Nat) (part : Plan → Bool) : State :=
  ((s.pkg.plans.filter (fun e => e.2.ctx = ctx && part e.2)).map (fun e => e.1)).foldl abortPlan s

/-- The parameters of a neighbour's plan are this node's own (R460). -/
def planAgrees (q : Plan) (op fmt nch chb : Nat) : Bool := op = q.op && fmt = q.fmt && nch = q.nch && chb = q.chb

/-- The body of a packet in its receiving context (R448, R450, R459, R460). A chunk or result of a plan number that no slot of the context has
mismatches the slots in which its sender is a child or the parent, and aborts them; where there is none, the plan is not open here yet, and the
packet is resent (DESIGN CHOICE, log 34). -/
def recvBody (s : State) (cr : CtxRegs) (pk : Packet) : Recv :=
  let asid := cr.asid.toNat % 65536
  let peer := pk.conn % 4096
  match pk.body with
  | .write off ws =>
    let va := cr.heapb.toNat + off
    match recvPas cr va ws.length permW with
    | .error r => r
    | .ok pas =>
      if sealHit s asid va (8 * ws.length) || knownSealed s pk.ctx va (8 * ws.length) then .rejected
      else match recvWrite (.receive pk.conn pk.psn) (portUnit 0) (pas.zip ws) s with
        | .error v => .wait v
        | .ok s1 => .applied s1
  | .readRequest off len =>
    let va := cr.heapb.toNat + off
    match recvPas cr va (len / 8) permR with
    | .error r => r
    | .ok pas => match recvRead (.receive pk.conn pk.psn) (portUnit 0) pas s with
      | .error v => .wait v
      | .ok (s1, ws) => .applied ((packetPieces ws).foldl (fun s p =>
          sendPacket s cr pk.conn none none (.readReply pk.psn (off + p.1) p.2)) s1)
  | .readReply psn off ws => recvReply s pk.conn psn off ws
  | .chunk planId op fmt nch chb epoch ch off ws => match planOf s pk.ctx planId with
    | none => if s.pkg.plans.any (fun e => e.2.ctx = pk.ctx && e.2.kids.contains peer)
        then .applied (abortWith s pk.ctx (fun q => q.kids.contains peer)) else .refused
    | some (n, q) =>
      match q.kids.findIdx? (fun k => k = peer) with
      | none => .applied (abortPlan s n)
      | some i =>
        if q.aborted then .applied s
        else if !planAgrees q op fmt nch chb then .applied (abortPlan s n)
        else if epoch = q.epoch || epoch = (q.epoch + 1) % 65536 then
          .applied (s.setPlan n { q with theirs := q.theirs ++
            [{ epoch := epoch, index := ch, off := off, child := i, src := none, words := ws }] })
        else .refused
  | .result planId op fmt nch chb epoch ch off ws => match planOf s pk.ctx planId with
    | none => if s.pkg.plans.any (fun e => e.2.ctx = pk.ctx && e.2.parent = some peer)
        then .applied (abortWith s pk.ctx (fun q => q.parent = some peer)) else .refused
    | some (n, q) =>
      if q.aborted then .applied s
      else if q.parent != some peer || !planAgrees q op fmt nch chb then .applied (abortPlan s n)
      else if epoch != q.epoch then .refused
      else
        let s1 := s.setPlan n { q with awaiting := q.awaiting.filter (fun c => c != ch), results := q.results ++
          [{ epoch := epoch, index := ch, off := off, child := 0, src := none, words := ws }] }
        let s2 := q.kids.foldl (fun s k => sendPacket s q.cregs (connOf q.ctx k) none none (.result planId op fmt nch chb epoch ch off ws)) s1
        .applied (planRun s2 n)

/-- The limits whose markers have all arrived, one for every path that was live when they were formed, and below which every packet has
been received, are gathered (R454). -/
def gatherMarkers (k : Conn) : Conn :=
  let done := fun (m : Marker) => (List.range 64).all (fun p => !m.paths.testBit p || k.markers.any (fun x => x.path = p && x.limit = m.limit))
    && (List.range m.limit).all (fun i => k.seen.contains i)
  { k with markers := k.markers.filter (fun m => !done m)
           gathered := (k.gathered ++ (k.markers.filter done).map (fun m => m.limit)).eraseDups }

/-- A packet is acknowledged or rejected (R442, R448); it may be the last one that some markers waited for (R454). -/
def answerPacket (s : State) (conn psn : Nat) (ok : Bool) : State :=
  s.modConn conn (fun k => gatherMarkers { k with
    seen := k.seen ++ [psn], nacked := if ok then k.nacked else k.nacked ++ [psn] })

/-- PACKET_RECEIVE (R448): a duplicate is discarded, a packet of a closed context or another job is rejected, a fault leaves it
unacknowledged. One that has to wait stays at the port. -/
def receivePacket (s : State) (pk : Packet) : State :=
  let k := s.conn pk.conn
  let keep := fun (s : State) => s.modPkg (fun p => { p with inbox := p.inbox ++ [pk] })
  if k.failed || k.seen.contains pk.psn || s.pkg.inbox.any (fun x => x.conn = pk.conn && x.psn = pk.psn) then s
  else if s.faults.any (fun f => f.waiter = .receive pk.conn pk.psn) then keep s
  else if s.pkg.boot.stage < 6 || s.pkg.ctxn ≤ pk.ctx || pk.conn / 4096 != pk.ctx then answerPacket s pk.conn pk.psn false
  else
    let (s1, cr) := readDesc s (portsOf 0) pk.ctx
    if jobOf cr != pk.job || (descWords s pk.ctx).2.2 then answerPacket s1 pk.conn pk.psn false
    else match recvBody s1 cr pk with
      | .applied s2 => answerPacket s2 pk.conn pk.psn true
      | .rejected => answerPacket s1 pk.conn pk.psn false
      | .refused => s
      | .wait v => v.waits ⟨portUnit 0, cr, .receive pk.conn pk.psn⟩ (keep s)
      | .fault va r pte w => match pk.body with
        | .readReply psn _ _ => match s1.pkg.fabric.find? (fun c => c.kind = .load && c.conn = some pk.conn && c.req = some psn) with
          | some c => keep (fabFault s1 c true va r pte)
          | none => s
        | _ => keep (sendFault s1 (engineFault 1 r (8 + accessByte w) cr pk.ctx va (portUnit 0) 0 (BitVec.ofNat 64 pte) (.receive pk.conn pk.psn)))

/-- PACKET_RECEIVE (R448). -/
def execPacketReceive (packet : Packet) (s : State) : Host.Outcome State Fault Refusal := .next (receivePacket s packet)

/-- A packet whose receiver fault is unrecoverable is rejected (R448). -/
def rejectPacket (s : State) (conn psn : Nat) : State :=
  answerPacket (s.modPkg (fun p => { p with inbox := p.inbox.filter (fun x => !(x.conn = conn && x.psn = psn)) })) conn psn false

/-- What waits at the ports at the end of a cycle: packets in the order of their arrival, results to be written, bytes to be counted. -/
def portStep (s : State) : State :=
  let s1 := s.pkg.inbox.foldl (fun s pk =>
    receivePacket (s.modPkg (fun p => { p with inbox := p.inbox.filter (fun x => x != pk) })) pk) s
  let s2 := (s1.pkg.plans.filter (fun e => !(e.2.results.isEmpty && e.2.due.isEmpty))).foldl (fun s e => planRun s e.1) s1
  (s2.pkg.fabric.filter (fun c => c.kind = .load && (c.due != 0 || c.len ≤ c.moved))).foldl (fun s c => loadCount s c.id) s2

/-! ## Markers, acknowledgements, failures (R444, R453, R454) -/

/-- MARKER_GATHER (R454): a marker arrives, for the path that it was formed for, whichever path has carried it (R444). -/
def execMarkerGather (conn path : Nat) (limit : MarkerLimit) (s : State) : Host.Outcome State Fault Refusal :=
  .next (s.modConn conn (fun k =>
    if k.gathered.contains limit.psn then k
    else gatherMarkers { k with
      markers := (k.markers ++ [({ path := path, limit := limit.psn, paths := limit.paths, via := path } : Marker)]).eraseDups }))

/-- A packet is acknowledged: a snapshot's line is written at the peer and counted, a chunk of OP 1 is counted. -/
def packetAcked (s : State) (conn : Nat) (k : FPacket) : State :=
  let s1 := match k.snap with
    | some (id, i) =>
      let x := s.snap id
      if x.active && x.unacked.contains i then snapCount (s.setSnap id { x with unacked := x.unacked.filter (fun j => j != i) }) x none else s
    | none => s
  match k.body with
  | .chunk planId _ _ _ _ epoch ch _ _ => chunkAcked s1 (conn / 4096) planId epoch ch
  | _ => s1

/-- ACKNOWLEDGEMENT_ARRIVAL (R450, R453): acknowledged packets leave, gaps are resent on another live path, rejected ones mark their
command, gathered limits release. -/
def execAcknowledgementArrival (ack : Ack) (s : State) : Host.Outcome State Fault Refusal :=
  .next (
    let k := s.conn ack.conn
    if k.failed then s
    else
      let done := k.unacked.filter (fun p => ack.psns.contains p.psn)
      let refused := (k.unacked.filter (fun p => ack.rejected.contains p.psn)).filterMap (fun p => p.cmd)
      let snaps := (k.unacked.filter (fun p => ack.rejected.contains p.psn)).filterMap (fun p => p.snap)
      let (s0, cr) := readDesc s (portsOf 0) (ack.conn / 4096)
      let (s0, n) := peerPaths s0 cr ack.conn
      let live := livePaths k n
      let s1 := s0.modConn ack.conn (fun k => { k with
        unacked := (k.unacked.filter (fun p => !(ack.psns.contains p.psn || ack.rejected.contains p.psn))).map (fun p =>
          if ack.gaps.contains p.psn && !live.isEmpty then { p with path := live.getD ((p.path + 1) % live.length) 0 } else p)
        timeouts := k.timeouts.filter (fun t => t.1 != ack.path)
        heard := s.cycle
        flying := k.flying.filter (fun m => !ack.gathered.any (fun l => m.limit ≤ l))
        released := match ack.gathered with
          | some l => (k.released ++ [l]).eraseDups
          | none => k.released })
      let s2 := done.foldl (fun s p => packetAcked s ack.conn p) s1
      let s3 := s2.modPkg (fun p => { p with fabric := p.fabric.map (fun c => if refused.contains c.id then { c with refused := true } else c) })
      let s4 := (done.filterMap (fun p => p.cmd)).eraseDups.foldl fabClean s3
      (snaps.map (fun x => x.1)).eraseDups.foldl (fun s id => snapGiveUp s id (drainUnit (s.snap id)) 10) s4)

/-- RETRANSMISSION_TIMEOUT (R444): the path's packets and markers are resent on live paths; eight timeouts in a row fail the path. -/
def execRetransmissionTimeout (conn path : Nat) (s : State) : Host.Outcome State Fault Refusal :=
  .next (
    let (s0, cr) := readDesc s (portsOf 0) (conn / 4096)
    let (s1, n) := peerPaths s0 cr conn
    s1.modConn conn (fun k =>
      let t := (k.timeouts.find? (fun t => t.1 = path)).elim 0 (fun t => t.2) + 1
      let dead := if 8 ≤ t then (k.dead ++ [path]).eraseDups else k.dead
      let live := (List.range n).filter (fun p => !dead.contains p)
      { k with timeouts := k.timeouts.filter (fun t => t.1 != path) ++ [(path, t)], dead := dead,
               flying := k.flying.map (fun m => if m.via = path && !live.isEmpty then { m with via := live.getD ((path + 1) % live.length) 0 } else m),
               unacked := k.unacked.map (fun p => if p.path = path && !live.isEmpty then { p with path := live.getD ((path + 1) % live.length) 0 } else p) }))

/-- CONNECTION_FAILURE (R444, R452, R460): its commands, snapshots and plans are abandoned. -/
def failConn (s : State) (conn : Nat) : State :=
  if (s.conn conn).failed then s
  else
    let s1 := s.modConn conn (fun k => { k with failed := true })
    let snaps := ((s.conn conn).unacked.filterMap (fun p => p.snap)).map (fun x => x.1)
    let more := (List.range 16).filter (fun i => (s.snap i).active && (s.snap i).fabric
      && connOf (s.snap i).ctx (fabSlot (s.snap i).dst) = conn)
    let s2 := ((s1.pkg.fabric.filter (fun c => c.conn = some conn)).map (fun c => c.id)).foldl (fun s id => fabGiveUp s id 12) s1
    let s3 := (snaps ++ more).eraseDups.foldl (fun s id => snapGiveUp s id (drainUnit (s.snap id)) 11) s2
    ((s3.pkg.plans.filter (fun e => e.2.ctx = conn / 4096 && (e.2.parent = some (conn % 4096) || e.2.kids.contains (conn % 4096)))).map
      (fun e => e.1)).foldl abortPlan s3
/-- CONNECTION_FAILURE (R444): no path has acknowledged anything for 100 ms while something waited for that (DEDUCED, log 93). -/
def execConnectionFailure (conn : Nat) (s : State) : Host.Outcome State Fault Refusal :=
  .next (if !connWaits s conn || s.cycle < (s.conn conn).heard + Config.silenceCycles then s else failConn s conn)

/-- FABRIC_ABANDON (R452): a rejection of the peer (13, or 14 for its translation), a failed connection (12), a destination sealed (3), a
target crew gone (4). -/
def execFabricAbandon (cmd reason : Nat) (s : State) : Host.Outcome State Fault Refusal :=
  .next (match s.pkg.fabric.find? (fun c => c.id = cmd) with
    | none => s
    | some c =>
      let gone := match c.lcrew with
        | some k => (s.crew k).isNone
        | none => false
      let sealed_ := c.kind = .load && c.lcrew.isNone && sealHit s (c.cregs.asid.toNat % 65536) (fabBase c.rl + c.lo) c.len
      let failed := match c.conn with
        | some n => (s.conn n).failed
        | none => false
      if (c.refused && (reason = 13 || reason = 14)) || (reason = 12 && failed) || (reason = 3 && sealed_) || (reason = 4 && gone)
      then fabGiveUp s cmd reason else s)

/-! ## Snapshots to a peer (R347, R350, R352) -/

/-- A line of a snapshot goes to the peer as a packet. -/
def drainPeer (s : State) (id k : Nat) : State :=
  let x := s.snap id
  match x.src[k]? with
  | none => s
  | some ln =>
    let va := x.dst + 128 * k
    let conn := connOf x.ctx (fabSlot va)
    if !snapEntered s id || !x.fabric || x.sent.contains k || s.faults.any (fun f => f.waiter = .snap id) || snapCountHeld s x then s
    else if (s.conn conn).failed then snapGiveUp s id (lineDrain ln) 11
    else match snapLine s id k ln with
      | .error (.fault va r p _) => snapFault s id (drainUnit x) x false va r p
      | .error v => v.waits ⟨lineDrain ln, x.cregs, .snap id⟩ s
      | .ok (s1, d, bad) =>
        let ws := (List.range 16).map (fun i => (d.extractLsb' (64 * i) 64, bad.getLsbD i))
        let s2 := s1.setSnap id { x with sent := x.sent ++ [k], unacked := x.unacked ++ [k] }
        sendPacket s2 x.cregs conn none (some (id, k)) (.write (fabOff va) ws)

/-- DRAIN_LINE_SEND (R350). -/
def execDrainLineSend (snap index : Nat) (s : State) : Host.Outcome State Fault Refusal :=
  .next (if (s.snap snap).fabric then drainPeer s snap index else drainSend s snap index)

/-- SNAPSHOT_ABANDON (R352): the destination is sealed (10), the peer has failed (11), or the snapshot table is damaged (12). -/
def execSnapshotAbandon (snap reason : Nat) (s : State) : Host.Outcome State Fault Refusal :=
  .next (
    let x := s.snap snap
    let sealed_ := !x.fabric && sealHit s (x.cregs.asid.toNat % 65536) x.dst x.len
    let failed := x.fabric && (s.conn (connOf x.ctx (fabSlot x.dst))).failed
    if x.active && ((reason = 10 && sealed_) || (reason = 11 && failed) || reason = 12) then snapGiveUp s snap (drainUnit x) reason else s)

end Sys2Proof.Machine
end

