-- ==== Sys2Proof/Machine/Launch.lean ====
section
/-! DEFINITION. Launch rings, dispatch and rejection (16_package.md R421-R423), kernel headers with role and side tables
(08_core_groups.md R195-R197, R206, 16_package.md R429-R431), placement and start (R424-R426, R194, 11_cluster_matrix.md R275),
completion (R427) and LAUNCH (R428). -/

namespace Sys2Proof.Machine

/-! ## Rings (R405, R421) -/

/-- An interrupt: to the host with an MSI-X vector, or to a Chestnut core. -/
def raiseIrq (s : State) (host : Bool) (target : Nat) : State := s.modPkg (fun p => { p with irqs := p.irqs ++ [(host, target)] })
/-- The interrupt of a launch ring (R405). -/
def ringIrq (s : State) (g : Ring) : State :=
  let t := g.cfg / 2 ^ 20 % 32
  if ringClass g = 1 then raiseIrq s true t else raiseIrq s false (t % 16)

/-! ## Launch records (R422) -/

/-- The fields of a launch record. -/
structure LaunchRec where
  kind : Nat
  len : Nat
  sys : Bool
  after : Bool
  notify : Bool
  gang : Bool
  ctx : Nat
  lid : Nat
  kernel : Nat
  crews : Nat
  warps : Nat
  cls : Nat
  place : Nat
  nq : Nat
  narg : Nat
  tvec : Nat
  done : Nat
  afterRing : Nat
  afterId : Nat
  slots : List Nat

def recOf (ws : List Nat) : LaunchRec :=
  let w := fun i => ws.getD i 0
  { kind := w 0 % 256, len := w 0 / 256 % 4, sys := (w 0).testBit 16, after := (w 0).testBit 17, notify := (w 0).testBit 18
    gang := (w 0).testBit 19, ctx := w 0 / 2 ^ 32 % 65536, lid := w 0 / 2 ^ 48 % 65536, kernel := w 1
    crews := w 2 % 65536, warps := w 2 / 2 ^ 16 % 32 + 1, cls := w 2 / 2 ^ 21 % 4, place := w 2 / 2 ^ 24 % 4, nq := w 2 / 2 ^ 26 % 64
    narg := w 2 / 2 ^ 32 % 16, tvec := w 3, done := w 4, afterRing := w 5 % 32, afterId := w 5 / 2 ^ 16 % 65536, slots := ws.drop 8 }

/-- Slots that the placement list takes, and slots that the record needs. -/
def recPlaceSlots (r : LaunchRec) : Nat := if r.place = 0 then 0 else (r.crews + 3) / 4
def recNeed (r : LaunchRec) : Nat := r.nq + r.narg + recPlaceSlots r
/-- The placement id of a crew. -/
def recPlace (r : LaunchRec) (c : Nat) : Nat := r.slots.getD (r.nq + r.narg + c / 4) 0 / 2 ^ (16 * (c % 4)) % 65536

/-- A queue entry of a crew launch. -/
def slotQueue (e : Nat) : QueueEnt :=
  { qcw := e % 2 ^ 20, base := e / 2 ^ 20 % 2 ^ 20, d := e / 2 ^ 40 % 16, size := 8 * 2 ^ (e / 2 ^ 44 % 4) }

/-- A reserved bit of the record is set (R422, reason 1). -/
def recReserved (ws : List Nat) (r : LaunchRec) : Bool :=
  let w := fun i => ws.getD i 0
  let tail := r.slots.drop (recNeed r)
  let last := if r.place = 0 || r.crews % 4 = 0 then 0
    else r.slots.getD (recNeed r - 1) 0 / 2 ^ (16 * (r.crews % 4))
  w 0 / 2 ^ 10 % 64 != 0 || w 0 / 2 ^ 20 % 2 ^ 12 != 0 || (w 2).testBit 23 || w 2 / 2 ^ 36 != 0 || w 5 / 32 % 2 ^ 11 != 0
    || w 5 / 2 ^ 32 != 0 || w 6 != 0 || w 7 != 0
    || (r.slots.take r.nq).any (fun e => if r.kind = 2 then e / 2 ^ 12 != 0 else e / 2 ^ 46 != 0)
    || tail.any (fun e => e != 0) || last != 0

/-- A field lies outside the limits of R422 (reason 1); a no-op names no crew. -/
def recLimits (r : LaunchRec) : Bool :=
  r.kind < 1 || 3 < r.kind || r.kernel % 64 != 0 || r.done % 8 != 0 || 32 < r.nq || 8 < r.narg || r.place = 3
    || (r.kind = 1 && r.crews = 0) || (r.kind = 2 && (r.crews != 1 || r.warps != 1)) || (r.gang && r.kind != 1)
    || (r.kind = 1 && (r.slots.take r.nq).any (fun e => 10 < (slotQueue e).d || (slotQueue e).qcw % 16 != 0))

/-! ## The kernel header (R195, R196, R206, R429, R431) -/

/-- An offset in PC form (R195). -/
def pcForm (x : Nat) : Bool := x % 8 ≤ 4 && x / 8 % 8 = 0

/-- What reading a header gives. -/
inductive HeaderRead where
  | unreadable (va reason pte : Nat)
  | malformed
  | ok (k : Kernel)

/-- Reads 8-byte words at a VA of a context, as an engine (R423): the words, or where it fails. -/
def readVa (unit : Nat) (cr : CtxRegs) : Nat → State → Nat → State × Except (Nat × Nat × Nat) (List Nat)
  | 0, s, _ => (s, .ok [])
  | n + 1, s, va =>
    if 2 ^ 52 ≤ va || fabricVa cr va then (s, .error (va, 0, 0))
    else match translate s unit cr va permR with
      | (s1, .fault r p) => (s1, .error (va, r, p))
      | (s1, .ok pa) =>
        let (s2, v, bad) := walkRead s1 pa
        if bad then (s2, .error (va, 8, v))
        else match readVa unit cr n s2 (va + 8) with
          | (s3, .error f) => (s3, .error f)
          | (s3, .ok t) => (s3, .ok (v :: t))

/-- The entries of a role table at a VA; none where one is malformed. -/
def readRoles (unit : Nat) (cr : CtxRegs) (base : Nat) :
    Nat → State → Nat → State × Except (Option (Nat × Nat × Nat)) (List RoleEnt)
  | 0, s, _ => (s, .ok [])
  | n + 1, s, va => match readVa unit cr 2 s va with
    | (s1, .error f) => (s1, .error (some f))
    | (s1, .ok ws) =>
      let a := ws.getD 0 0
      let regs := a / 2 ^ 32 % 256
      if !pcForm (a % 2 ^ 32) || 2 ^ 52 ≤ base + a % 2 ^ 32 || regs % 8 != 0 || regs < 8 || 240 < regs || a / 2 ^ 42 != 0 || ws.getD 1 0 != 0 then (s1, .error none)
      else match readRoles unit cr base n s1 (va + 16) with
        | (s2, .error f) => (s2, .error f)
        | (s2, .ok t) => (s2, .ok ({ entry := BitVec.ofNat 64 (base + a % 2 ^ 32), regs := regs, cls := a / 2 ^ 40 % 4 } :: t))

/-- The entries of a side table at a VA, whose OFF must rise (R429, R431). -/
def readSide (unit : Nat) (cr : CtxRegs) (base : Nat) :
    Nat → State → Nat → Option Nat → State × Except (Option (Nat × Nat × Nat)) (List SafePoint)
  | 0, s, _, _ => (s, .ok [])
  | n + 1, s, va, last => match readVa unit cr 5 s va with
    | (s1, .error f) => (s1, .error (some f))
    | (s1, .ok ws) =>
      let v := (List.range 5).foldl (fun a i => a + ws.getD i 0 * 2 ^ (64 * i)) 0
      let off := v % 2 ^ 32
      let low := match last with
        | some l => off ≤ l
        | none => false
      if low || v.testBit 279 || v / 2 ^ 281 != 0 then (s1, .error none)
      else match readSide unit cr base n s1 (va + 40) (some off) with
        | (s2, .error f) => (s2, .error f)
        | (s2, .ok t) =>
          (s2, .ok ({ pc := base + off, live := BitVec.ofNat 240 (v / 2 ^ 32), plive := BitVec.ofNat 7 (v / 2 ^ 272) } :: t))

/-- The fields of a header are legal (R195, R196), and those of an Acorn program those of R275. -/
def headerLegal (w0 w1 w2 w3 : Nat) (acorn : Bool) : Bool :=
  let regs := w0 / 2 ^ 32 % 256
  let groups := w0 / 2 ^ 40 % 32
  let sp := w1 % 2 ^ 20
  let roles := w1 / 2 ^ 32 % 8
  w0 % 65536 = 0x4E4C && w0 / 2 ^ 16 % 256 = 1 && !(w0.testBit 24 && w0.testBit 25) && w0 / 2 ^ 26 % 64 = 0
    && regs % 8 = 0 && 8 ≤ regs && regs ≤ 240 && 1 ≤ groups && groups ≤ 16 && w0 / 2 ^ 45 = 0
    && sp % 128 = 0 && sp + Config.trapArea ≤ Config.spLimit && w1 / 2 ^ 20 % 16 = 0 && w1 / 2 ^ 24 % 64 ≤ 32 && w1 / 2 ^ 30 % 4 = 0
    && roles ≤ 4 && w1 / 2 ^ 35 % 32 = 0 && w1 / 2 ^ 40 % 8192 ≤ 4096 && w1 / 2 ^ 53 = 0
    && pcForm (w2 % 2 ^ 32) && w2 / 2 ^ 32 % 8 = 0
    && w3 % 2 ^ 32 % 16 = 0 && (roles != 0 || w3 % 2 ^ 32 = 0) && w3 / 2 ^ 33 = 0
    && (!acorn || (regs = 64 && groups = 1 && sp = 0 && roles = 0 && !w0.testBit 24 && !w0.testBit 25))

/-- Reads and checks a kernel header with its role table and its side table. -/
def readHeader (s : State) (unit : Nat) (cr : CtxRegs) (va : Nat) (acorn : Bool) : State × HeaderRead :=
  match readVa unit cr 4 s va with
  | (s1, .error (a, r, p)) => (s1, .unreadable a r p)
  | (s1, .ok ws) =>
    let w := fun i => ws.getD i 0
    -- an entry at which no thread may start (R493) makes the header malformed (log 78)
    if !headerLegal (w 0) (w 1) (w 2) (w 3) acorn || 2 ^ 52 ≤ va + w 2 % 2 ^ 32 then (s1, .malformed)
    else match readRoles unit cr va (w 1 / 2 ^ 32 % 8) s1 (va + w 3 % 2 ^ 32) with
      | (s2, .error (some (a, r, p))) => (s2, .unreadable a r p)
      | (s2, .error none) => (s2, .malformed)
      | (s2, .ok roles) =>
        let side := va + w 2 / 2 ^ 32
        match readVa unit cr 2 s2 side with
        | (s3, .error (a, r, p)) => (s3, .unreadable a r p)
        | (s3, .ok hd) =>
          if hd.getD 0 0 = 0 || hd.getD 0 0 / 2 ^ 32 != 0 || hd.getD 1 0 != 40 then (s3, .malformed)
          else match readSide unit cr va (hd.getD 0 0) s3 (side + 16) none with
            | (s4, .error (some (a, r, p))) => (s4, .unreadable a r p)
            | (s4, .error none) => (s4, .malformed)
            | (s4, .ok safe) =>
              (s4, .ok { c16 := (w 0).testBit 24, prot := (w 0).testBit 25, regs := w 0 / 2 ^ 32 % 256, groups := w 0 / 2 ^ 40 % 32
                         spBytes := w 1 % 2 ^ 20, nqueues := w 1 / 2 ^ 24 % 64, records := w 1 / 2 ^ 40 % 8192
                         entry := BitVec.ofNat 64 (va + w 2 % 2 ^ 32), dlx := (w 3).testBit 32, headVa := va, roleTab := w 3 % 2 ^ 32, roles := roles, safe := safe })

/-! ## Room for a crew (R209, R228, R424) -/

/-- Lines that a crew of n lines at a base pins in a set (R228). -/
def pinsOf (base n st : Nat) : Nat :=
  let d := (st + 512 - base) % 512
  if d < n then (n - d + 511) / 512 else 0
/-- The smallest base at which no set holds more than 11 pinned lines (R228). -/
def firstBase (counts : List Nat) (n : Nat) : Option Nat :=
  ((List.range 32).map (fun i => 16 * i)).find? (fun b => (counts.zipIdx).all (fun e => e.1 + pinsOf b n e.2 ≤ 11))
/-- Lines of a crew at its start: the static region and the trap area. -/
def crewLines (k : Kernel) : Nat := (k.spBytes + Config.trapArea) / 128

/-- Crews of a kernel that fit an empty core's scratchpad, at most `fuel`. -/
def spCapacity (n : Nat) : Nat → List Nat → Nat
  | 0, _ => 0
  | fuel + 1, counts => match firstBase counts n with
    | none => 0
    | some b => 1 + spCapacity n fuel ((counts.zipIdx).map (fun e => e.1 + pinsOf b n e.2))
/-- Crews of a launch that an empty core holds. -/
def coreCapacity (k : Kernel) (warps : Nat) : Nat :=
  min (min (32 / warps) (Config.poolRows / (warps * k.regs))) (spCapacity (crewLines k) 32 (List.replicate 512 0))

/-- The crews of a launch can all be placed at once on empty cores (reason 7): each core, or each cluster, that the list names holds
its crews. -/
def gangCan (r : LaunchRec) (cap : Nat) : Bool :=
  let ids := (List.range r.crews).map (recPlace r)
  if r.place = 0 then r.crews ≤ cap * Config.cores
  else ids.eraseDups.all (fun i => (ids.filter (fun j => j = i)).length ≤ (if r.place = 1 then cap else 8 * cap))

/-! ## Dispatch (R423) -/

/-- The dispatcher that takes a ring's records: that of I/O die 0 for rings 0 to 15, of I/O die 1 for the others (log 38). -/
def dispUnit (ring : Nat) : Nat := 1524 + ring / 16

/-- The fault record of a header that cannot be read (R423, reason 9). -/
def headerFault (ring lid ctx : Nat) (cr : CtxRegs) (va pte : Nat) : FaultRec :=
  { engineFault 7 9 9 cr ctx va (dispUnit ring) 0 (BitVec.ofNat 64 pte) .nobody with ring := ring, launchid := lid }

/-- A queue entry of a crew launch lies wholly in the static region (reason 5). -/
def queueFits (k : Kernel) (e : Nat) : Bool :=
  let q := slotQueue e
  q.qcw + 16 ≤ k.spBytes && q.base + q.size * 2 ^ q.d ≤ k.spBytes

/-- The lowest reason that holds. -/
def lowestReason (l : List (Nat × Bool)) : Option Nat := (l.find? (fun e => e.2)).map (fun e => e.1)

/-- The named launch has been placed, or has completed (R425). -/
def afterHolds (s : State) (ring lid : Nat) : Bool :=
  match s.pkg.launches.find? (fun l => l.ring = ring && l.lid = lid) with
  | some l => l.waiting.isEmpty
  | none => s.pkg.finished.contains (ring, lid)

/-- The words of a record in its ring's slots, those that lie in the ring, and whether one is uncorrectable. -/
def recordWords (s : State) (g : Ring) (first slots : Nat) : State × List Nat × Bool :=
  (List.range (16 * slots)).foldl (fun (a : State × List Nat × Bool) i =>
    let (s1, v, bad) := walkRead a.1 (g.base + 128 * first + 8 * i)
    (s1, a.2.1 ++ [v], a.2.2 || bad)) (s, [], false)

/-- A ring stops without its record being taken (R423). -/
def rejectRecord (s : State) (ring : Nat) (g : Ring) (first lid reason : Nat) : State :=
  ringIrq (s.setRing ring { g with rej := reason + first * 2 ^ 16 + lid * 2 ^ 32 + 2 ^ 63 }) g

/-- The launch that a record starts. -/
def launchOf (s : State) (ring : Nat) (r : LaunchRec) (k : Kernel) : Launch :=
  { id := s.pkg.nextLaunch, ring := ring, lid := r.lid, acorn := r.kind = 2, sys := r.sys, notify := r.notify, gang := r.gang
    after := if r.after then some (r.afterRing, r.afterId) else none
    ctx := r.ctx, kernel := k, tvec := BitVec.ofNat 64 r.tvec, done := r.done, crews := r.crews, warps := r.warps, cls := r.cls
    place := r.place, queues := r.slots.take r.nq
    args := (List.range r.narg).map (fun i => BitVec.ofNat 64 (r.slots.getD (r.nq + i) 0))
    places := if r.place = 0 then [] else (List.range r.crews).map (recPlace r)
    waiting := List.range r.crews, placed := [], ended := 0, faulted := 0, gone := [] }

/-- The record at RHEAD of a ring is taken, rejected, or waits for the launch that it follows (R421-R425). -/
def dispatchRing (s : State) (ring : Nat) : State :=
  let g := s.ring ring
  let first := g.head % ringSlots g
  let (s0, w0, _) := walkRead s (g.base + 128 * first)
  let len := w0 / 256 % 4
  let past := ringSlots g ≤ first + len
  let (s1, ws, unc) := recordWords s0 g first (if past then ringSlots g - first else len + 1)
  let r := recOf ws
  let tag := g.tags.find? (fun t => t.1 = first)
  let wrongTag := ringClass g = 2 && (match tag with
    | some t => t.2 != r.ctx
    | none => true)
  let early := lowestReason [(1, recReserved ws r || recLimits r), (2, past), (3, r.sys && ringClass g != 0),
    (4, s.pkg.ctxn ≤ r.ctx || wrongTag)]
  let next := { g with head := (first + r.len + 1) % ringSlots g, tags := g.tags.filter (fun t => t.1 != first) }
  -- a record with an uncorrectable word ends in a record of type 7 and reason 9 (R473; DESIGN CHOICE, log 38)
  if unc then
    let (s2, ws, _) := descWords s1 r.ctx
    rejectRecord (sendFault s2 (headerFault ring r.lid r.ctx (descOf ws) 0 0)) ring g first r.lid 9
  else match early with
  | some k => rejectRecord s1 ring g first r.lid k
  | none =>
    let crowded := 8 + 16 * r.len < recNeed r
    if r.kind = 3 then
      if crowded then rejectRecord s1 ring g first r.lid 6
      else if r.after && !afterHolds s1 r.afterRing r.afterId then s
      else if r.notify then ringIrq (s1.setRing ring next) g else s1.setRing ring next
    else
      let ids := (List.range r.crews).map (recPlace r)
      let badId := (r.place = 1 && ids.any (fun i => Config.cores ≤ i)) || (r.place = 2 && ids.any (fun i => Config.clusters ≤ i))
      let twin := s1.pkg.launches.any (fun l => l.ring = ring && l.lid = r.lid)
      let (s2, ws, marked) := descWords s1 r.ctx
      let cr := descOf ws
      -- so does one whose context's descriptor is uncorrectable (log 100)
      if marked then
        rejectRecord (sendFault s2 (headerFault ring r.lid r.ctx cr 0 0)) ring g first r.lid ((lowestReason [(6, crowded), (7, badId), (8, twin)]).getD 9)
      else match readHeader s2 (dispUnit ring) cr r.kernel (r.kind = 2) with
      | (s3, .unreadable va _ pte) =>
        rejectRecord (sendFault s3 (headerFault ring r.lid r.ctx cr va pte)) ring g first r.lid
          ((lowestReason [(6, crowded), (7, badId), (8, twin)]).getD 9)
      | (s3, .malformed) => rejectRecord s3 ring g first r.lid 5
      | (s3, .ok k) =>
        let cap := if r.kind = 2 then 1 else coreCapacity k r.warps
        match lowestReason [
            (5, k.nqueues < r.nq || k.regs ≤ r.narg || (r.kind = 1 && (r.slots.take r.nq).any (fun e => !queueFits k e))),
            (6, crowded), (7, badId || cap = 0 || (r.gang && !gangCan r cap)), (8, twin)] with
        | some n => rejectRecord s3 ring g first r.lid n
        | none =>
          if r.after && !afterHolds s3 r.afterRing r.afterId then s
          else (s3.setRing ring next).modPkg (fun p => { p with
            launches := p.launches ++ [launchOf s3 ring r k], nextLaunch := p.nextLaunch + 1
            finished := p.finished.filter (fun e => e != (ring, r.lid)) })

/-- The whole record at RHEAD has been written. -/
def recordReady (s : State) (ring : Nat) : Bool :=
  let g := s.ring ring
  let first := g.head % ringSlots g
  let len := (walkRead s (g.base + 128 * first)).2.1 / 256 % 4
  ringSlots g ≤ first + len || len + 1 ≤ ringUsed g

/-- The line that holds up the dispatcher at the record of a ring (R368, R423): a slot of the record, the descriptor of its context, or the kernel
header; other reads that it makes for the record stand as log 86 says. -/
def dispatchWait (s : State) (ring : Nat) : Option Nat :=
  let g := s.ring ring
  let who : Waiter := .dispatch ring
  let first := g.head % ringSlots g
  let len := peekWord s (g.base + 128 * first) / 256 % 4
  let slots := (List.range (min (len + 1) (ringSlots g - first))).map (fun i => (g.base + 128 * (first + i)) / 128)
  let r := recOf (recordWords s g first slots.length).2.1
  let cr := descOf (descWords s r.ctx).2.1
  ((slots ++ [(s.pkg.ctxtab + 64 * r.ctx) / 128]).find? (readHeld s who)).orElse (fun _ =>
    if r.kind = 3 then none else readWait s who (dispUnit ring) cr r.kernel permR)

/-- DISPATCH (R421-R423): nothing is taken before boot is complete or after it failed (R466), nor from a ring that is disabled,
stopped or empty. -/
def execDispatch (ring : Nat) (s : State) : Host.Outcome State Fault Refusal :=
  let g := s.ring ring
  .next (if 32 ≤ ring || s.pkg.boot.stage != 7 || s.pkg.boot.fail != 0 || s.pkg.frozen || !ringEnabled g || !ringLegal g
      || ringClass g = 3 || ringStopped g || ringUsed g = 0 || !recordReady s ring then s
    else match dispatchWait s ring with
      | some ln => engineWait s (.dispatch ring) ln false
      | none => dispatchRing (leavePlaces s (.dispatch ring)) ring)

/-- RREJ_CLEAR (R423): STOP and the reject record are cleared. -/
def execRrejClear (ring : Nat) (s : State) : Host.Outcome State Fault Refusal :=
  .next (if ring < 32 then s.setRing ring { s.ring ring with rej := 0 } else s)

/-! ## The context of a cluster (R194) -/

/-- A copy, drain, snapshot or fabric command of a context is accepted and unfinished. -/
def commandsOf (s : State) (ctx : Nat) : Bool :=
  s.clusters.any (fun e => e.2.copies.any (fun c => c.ctx = ctx) || e.2.cmds.any (fun c => c.ctx = ctx && (match c.kind with
      | .mdrain _ _ _ _ _ _ _ _ => true
      | _ => false)))
    || s.snaps.any (fun x => x.active && x.ctx = ctx) || s.pkg.fabric.any (fun c => c.ctx = ctx)

/-- A cluster is of a context, or can change to it. -/
def clusterTakes (s : State) (cl ctx : Nat) : Bool :=
  match (s.cluster cl).ctx with
  | none => true
  | some old => old = ctx
    || (!s.crews.any (fun e => unitCluster e.2.unit = cl) && (s.cluster cl).cmds.isEmpty && !commandsOf s old)

/-- The cluster enters a context; at a change, what its cores and it share is reset. -/
def enterContext (s : State) (cl ctx : Nat) : State :=
  if (s.cluster cl).ctx = some ctx then s
  else
    let s1 := s.modCluster cl (fun k => { k with
      ctx := some ctx, recs := [], slabs := [], tables := [[], [], [], []], decoder := none, wdir := [] })
    (List.range 8).foldl (fun s i => s.modCore (8 * cl + i) (fun c => { c with
      recs := [], codebook := none, act := [ActTable.start, ActTable.start, ActTable.start, ActTable.start] })) s1

/-! ## Placement (R424-R426) -/

/-- Free warp slots of a core, ascending. -/
def freeSlots (s : State) (core : Nat) : List Nat := (List.range 32).filter (fun i => (s.warp (32 * core + i)).isNone)

/-- The base at which a crew fits a core now, with its warps and its rows. -/
def crewBase (s : State) (core : Nat) (k : Kernel) (warps : Nat) : Option Nat :=
  if (freeSlots s core).length < warps || (s.core core).poolFree < warps * k.regs then none
  else firstBase ((List.range 512).map (pinnedIn s core)) (crewLines k)

/-- PLACE lets a crew of a launch go on a core. -/
def placeAllows (l : Launch) (v core : Nat) : Bool :=
  l.place = 0 || (l.place = 1 && l.places.getD v 0 = core) || (l.place = 2 && l.places.getD v 0 = core / 8)

/-- A warp at its start (R197, R426). -/
def startWarp (crew widx : Nat) (k : Kernel) (cls : Nat) (tvec : Word) (tframe : Nat) (live : Mask) (args : List Word) : Warp :=
  { crew := crew, widx := widx, c16 := k.c16, prot := k.prot
    pt := { pcs := List.replicate 32 k.entry, live := live, skips := List.replicate 32 0 }
    regs := (args.zipIdx).map (fun a => (a.2, mkRow (fun l => if live.getLsbD l then ⟨a.1, 0⟩ else Lane.zero)))
    preds := List.replicate 7 ⟨0, 0⟩, gens := List.replicate 32 0, genPoi := 0, ctrs := List.replicate 24 0, zeroFrom := List.replicate 24 0, allot := k.regs
    fpmode := 0, fpstat := 0, flagsDue := [], seen := none, prio := cls, lastIssue := none, lastFloor := 0, stopLo := false, stopHi := false, drainAt := 0
    holdUntil := 0, age := 0, tm := false, bken := true, tvec := tvec, tcause := 0, tpc := 0, tmask := 0
    tframe := BitVec.ofNat 64 tframe, tinst := 0
    saved := { pcs := List.replicate 32 0, live := 0, skips := List.replicate 32 0 }
    traps := [], sleepLo := Sleep.awake, sleepHi := Sleep.awake, role := 7, pend := [], fetch := none, fetchAsid := 0, pairNext := none, tried := none
    blockM := [], restoring := [], granted := 0, switching := none, cpyFlags := 0, cpyFlt := false, fabFail := false, fabPeers := [] }

/-- The generators of a warp's threads (R67). -/
def seedWarp (key : Nat) (w : Warp) : Warp := { w with gens := (List.range 32).map (fun l => genStart (threadNumber key w l)) }

/-- Placing a crew on a gated core wakes it and leaves WAKER.REASON (R218). -/
def wakePlaced (s : State) (core : Nat) : State :=
  s.modCore core (fun c => if c.gated then { c with
      gated := false, wakeAt := s.cycle + Config.wakeCycles
      waker := BitVec.ofNat 64 ((c.waker.toNat / 2 ^ 32 + 1) % 2 ^ 32 * 2 ^ 32 + c.waker.toNat % 2 ^ 32) }
    else c)

/-- A crew record of a launch on a unit, without its queues. -/
def startCrew (l : Launch) (cr : CtxRegs) (unit v place : Nat) (slots : List Nat) (roles : List RoleEnt) : Crew :=
  { unit := unit, launch := l.id, ring := l.ring, lid := l.lid, after := l.after, vcrew := v, sys := l.sys, ctx := l.ctx, cregs := cr
    dlx := l.kernel.dlx, regs0 := l.kernel.regs, ngroups := l.kernel.groups, spBytes := l.kernel.spBytes
    nqueues := l.kernel.nqueues, nroles := l.kernel.roles.length, slots := slots
    groups := (List.range l.kernel.groups).map (fun g =>
      { members := List.replicate l.warps (if g = 0 then BitVec.allOnes 32 else 0), arrived := [] })
    roles := roles, queues := [], qhandles := [], sp := [], spBad := [], top := l.kernel.spBytes + Config.trapArea, pins := l.kernel.spBytes + Config.trapArea
    place := place, blocked := none, safe := l.kernel.safe, preempt := none, ending := none }

/-- The role table as a crew copies it at its start (R206). A table that cannot be read then, or that is no longer legal, ends in a record of type 7
(R473), and leaves the crew with the entries that the dispatcher read (DESIGN CHOICE, log 74: the spec does not say). -/
def startRoles (s : State) (unit : Nat) (cr : CtxRegs) (l : Launch) : State × List RoleEnt :=
  let k := l.kernel
  match readRoles unit cr k.headVa k.roles.length s (k.headVa + k.roleTab) with
  | (s1, .ok t) => (s1, t)
  | (s1, .error f) =>
    (sendFault s1 (headerFault l.ring l.lid l.ctx cr (f.elim (k.headVa + k.roleTab) (fun x => x.1)) (f.elim 0 (fun x => x.2.2))), k.roles)

/-- Queue entries of the launch record with their QCWs (R426 step 2). -/
def startQueues (c : Crew) (es : List Nat) : Crew :=
  (es.zipIdx).foldl (fun c e =>
    let q := slotQueue e.1
    let code := e.1 / 2 ^ 44 % 4
    spWrite (spWrite { c with queues := c.queues ++ [some q] } q.qcw (code * 2 ^ 24 + q.d * 2 ^ 20 + q.base) 8) (q.qcw + 8) 0 8) c

/-- Crew start on a core that has room (R426). -/
def placeCrew (s : State) (l : Launch) (v core base : Nat) : State :=
  let s1 := enterContext s (core / 8) l.ctx
  let (s2, cr) := readDesc s1 (dispUnit l.ring) l.ctx
  let (s2, roles) := startRoles s2 core cr l
  let slots := (freeSlots s2 core).take l.warps
  let id := s2.nextOp
  let crew := startQueues (startCrew l cr core v base slots roles) l.queues
  let s3 := (slots.zipIdx).foldl (fun s e =>
    let w := startWarp id e.2 l.kernel l.cls l.tvec (l.kernel.spBytes + e.1 / 8 * 0x620) (BitVec.allOnes 32) l.args
    s.setWarp (32 * core + e.1) (seedWarp (32 * core + e.1) w)) ({ s2 with nextOp := id + 1 }.setCrew id crew)
  let s4 := s3.modCore core (fun c => { c with poolFree := c.poolFree - l.warps * l.kernel.regs })
  let s5 := l1Acquire (pinEvict s4 core) core
  (wakePlaced s5 core).modPkg (fun p => { p with crewNames := fmPut p.crewNames id (l.ring, l.lid, v), launches := p.launches.map (fun x => if x.id = l.id then
    { x with waiting := x.waiting.filter (fun u => u != v), placed := x.placed ++ [(id, core)] } else x) })

/-- Crews of the earlier records of a launch's ring have all been placed (R425). -/
def ringTurn (s : State) (l : Launch) : Bool :=
  !s.pkg.launches.any (fun x => x.ring = l.ring && x.id < l.id && !x.waiting.isEmpty)

/-- Places every crew of a GANG launch, each on the first core from `start` on that takes it and that `free` allows; none where one finds
no place (R424). -/
def placeAll (free : Nat → Bool) (start : Nat) (l : Launch) : List Nat → State → Option State
  | [], s => some s
  | v :: t, s =>
    match ((List.range Config.cores).map (fun i => (start + i) % Config.cores)).find? (fun c =>
        free c && placeAllows l v c && clusterTakes s (c / 8) l.ctx && (crewBase s c l.kernel l.warps).isSome) with
    | none => none
    | some c => match crewBase s c l.kernel l.warps with
      | none => none
      | some b => placeAll free start l t (placeCrew s l v c b)

/-- The first waiting crew of a launch that may go on a core now, with its base. -/
def crewFor (s : State) (l : Launch) (core : Nat) : Option (Nat × Nat) :=
  match l.waiting.find? (fun v => placeAllows l v core) with
  | none => none
  | some v => if !clusterTakes s (core / 8) l.ctx then none else (crewBase s core l.kernel l.warps).map (fun b => (v, b))

/-- A crew of another ring's launch, of higher CTXPRI or of equal CTXPRI on a lower ring, could be placed on the core now (R425). -/
def outranked (s : State) (l : Launch) (core : Nat) : Bool :=
  let pri := fun (x : Launch) => (descOf (descWords s x.ctx).2.1).ctxpri.toNat
  s.pkg.launches.any (fun x => x.ring != l.ring && !x.acorn && !x.waiting.isEmpty && ringTurn s x
    && (pri l < pri x || (pri l = pri x && x.ring < l.ring)) && (crewFor s x core).isSome
    && (!x.gang || (placeAll (fun _ => true) core x x.waiting s).isSome))

/-- CREW_PLACEMENT (R424-R426): the next waiting crew of a launch goes on a core; a GANG launch goes whole. -/
def execCrewPlacement (launch core : Nat) (s : State) : Host.Outcome State Fault Refusal :=
  .next (match s.pkg.launches.find? (fun l => l.id = launch) with
    | none => s
    | some l =>
      if l.acorn || Config.cores ≤ core || l.waiting.isEmpty || !ringTurn s l || s.pkg.frozen then s
      else match crewFor s l core with
        | none => s
        | some (v, b) =>
          if outranked s l core then s
          else if l.gang then (placeAll (fun c => !outranked s l c) core l l.waiting s).getD s
          else placeCrew s l v core b)

/-- PLACE lets an Acorn launch go on a cluster (R424). -/
def acornAllows (l : Launch) (cl : Nat) : Bool :=
  l.place = 0 || (l.place = 1 && l.places.getD 0 0 / 8 = cl) || (l.place = 2 && l.places.getD 0 0 = cl)

/-- A cluster at the start of an Acorn program (R275). -/
def startAcorn (k : Cluster) : Cluster :=
  { k with acc := [[], [], [], []], wdir := [], decoder := none, slabs := [], fmt := 0x0B, halted := false, steps := 0, mxerr := k.mxerr &&& 0x0000FFFFFFFFFFFF }

/-- The cluster takes the program of an Acorn launch now (R424, R425). -/
def acornFor (s : State) (l : Launch) (cl : Nat) : Bool :=
  l.acorn && !l.waiting.isEmpty && ringTurn s l && acornAllows l cl && clusterTakes s cl l.ctx && !s.crews.any (fun e => e.2.unit = 1216 + cl)
    && (s.cluster cl).cmds.isEmpty

/-- Another ring's Acorn launch, of higher CTXPRI or of equal CTXPRI on a lower ring, could be placed on the cluster now: R425's order for a
core, kept for the Acorn's place too (DEDUCED, log 38). -/
def acornOutranked (s : State) (l : Launch) (cl : Nat) : Bool :=
  let pri := fun (x : Launch) => (descOf (descWords s x.ctx).2.1).ctxpri.toNat
  s.pkg.launches.any (fun x => x.ring != l.ring && acornFor s x cl && (pri l < pri x || (pri l = pri x && x.ring < l.ring)))

/-- ACORN_PLACEMENT (R424, R426, R275). -/
def execAcornPlacement (launch cluster : Nat) (s : State) : Host.Outcome State Fault Refusal :=
  .next (match s.pkg.launches.find? (fun l => l.id = launch) with
    | none => s
    | some l =>
      if Config.clusters ≤ cluster || s.pkg.frozen || !acornFor s l cluster || acornOutranked s l cluster then s
      else
        let s1 := (enterContext s cluster l.ctx).modCluster cluster startAcorn
        let (s2, cr) := readDesc s1 (dispUnit l.ring) l.ctx
        let id := s2.nextOp
        let crew := { startCrew l cr (1216 + cluster) 0 0 [0] [] with
          groups := [{ members := [1], arrived := [] }], qhandles := l.queues.map (fun e => e % 4096), top := 0, pins := 0 }
        let w := startWarp id 0 l.kernel l.cls l.tvec 0 1 l.args
        let s3 := ({ s2 with nextOp := id + 1 }.setCrew id crew).setWarp (acornKey cluster) (seedWarp (acornKey cluster) w)
        s3.modPkg (fun p => { p with crewNames := fmPut p.crewNames id (l.ring, l.lid, 0), launches := p.launches.map (fun x => if x.id = l.id then
          { x with waiting := [], placed := x.placed ++ [(id, 1216 + cluster)] } else x) }))

/-! ## Completion (R427) -/

/-- The crews of a launch have ended, and their copies and fabric stores have finished. -/
def launchOver (s : State) (l : Launch) : Bool :=
  l.waiting.isEmpty && l.ended = l.crews
    && !s.clusters.any (fun e => e.2.copies.any (fun c => l.placed.any (fun p => p.1 = c.crew)))
    && !s.pkg.fabric.any (fun c => c.kind = .store && l.placed.any (fun p => p.1 = c.crew))
/-- The stores of a launch's crews are at their homes. -/
def storesHome (s : State) (l : Launch) : Bool := !s.net.any (fun r => l.gone.any (fun g => g.1 = r.unit && r.id < g.2))

/-- The completion word (R427). -/
def doneWord (l : Launch) : Nat := l.lid + 2 ^ 16 + (if l.faulted = 0 then 0 else 2 ^ 17) + l.faulted * 2 ^ 32

/-- The launch leaves the dispatcher: its interrupt, and what AFTER knows of it. -/
def launchLeaves (s : State) (l : Launch) : State :=
  let s1 := s.modPkg (fun p => { p with
    launches := p.launches.filter (fun x => x.id != l.id)
    finished := p.finished.filter (fun e => e != (l.ring, l.lid)) ++ [(l.ring, l.lid)] })
  if l.notify then ringIrq s1 (s1.ring l.ring) else s1

/-- LAUNCH_COMPLETION (R427): the word is written at its home slice; a translation that fails is reported, and the dispatcher waits. -/
def execLaunchCompletion (launch : Nat) (s : State) : Host.Outcome State Fault Refusal :=
  .next (match s.pkg.launches.find? (fun l => l.id = launch) with
    | none => s
    | some l =>
      if !launchOver s l || s.pkg.frozen || s.faults.any (fun f => f.waiter = .done launch) then s
      else if l.done = 0 then launchLeaves s l
      else if !storesHome s l then s
      else
        let (s1, cr) := readDesc s (dispUnit l.ring) l.ctx
        if 2 ^ 52 ≤ l.done || fabricVa cr l.done then launchLeaves s1 l
        else match envTr ⟨dispUnit l.ring, cr, .done launch⟩ s1 l.done permW with
          | .error (.fault _ r pte _) => sendFault s1
            { ftype := 1, reason := r, access := 10, asid := cr.asid.toNat % 65536, ctxid := l.ctx, va := l.done, tag := 0
              unit := dispUnit l.ring, wslot := 0, ring := l.ring, launchid := l.lid, vcrew := 0, pc := 0
              info := BitVec.ofNat 64 pte, waiter := .done launch, written := false, counted := false }
          | .error v => v.waits ⟨dispUnit l.ring, cr, .done launch⟩ s
          | .ok (s2, pa) =>
            if lineHeld s2 (.done launch) (dispUnit l.ring) (pa / 128) true then engineWait s (.done launch) (pa / 128) true
            else match homeStore (engineGoes s2 (.done launch) (dispUnit l.ring) (pa / 128)) pa 8 (doneWord l) false true with
            | .error v => evictFor s v
            | .ok s3 => launchLeaves s3 l)

/-! ## LAUNCH (R428) -/

/-- The record at an address, as it stands at issue, runs past EXTENT (R428). Where stores or copies of the issuer are still on their way, or its
length changes before it is read, the trap is late (log 38). -/
def launchPast (s : State) (c : Ctx) (a limit : Nat) : Bool :=
  match (translate s c.unit c.cregs a permR).2 with
  | .fault _ _ => false
  | .ok pa => limit < a + 128 * ((homePeek s (pa / 128)).1.toNat / 2 ^ (8 * (pa % 128)) / 256 % 4 + 1)

/-- LAUNCH. -/
def execLaunch (h : Hdr) (o : OpM) (s : State) : Host.Outcome State Fault Refusal :=
  issue (.launch h o) h s (fun c s1 => protGuard c (fun l => [(c.val o.o2 l).val]) (
    withRecord c s1 o.hnd.toNat (fun s2 r =>
      match tableAddr c r o.hnd.toNat o.o2 o.disp.toInt 128 128 false false with
      | .error (cause, info) => .trap cause info
      | .ok a =>
        if released s2 c.key c.w c.op && !copiesOut s2 c.key c.op && launchPast s2 c a (tBase r + tExtent r) then .trap cBOUNDS (laneInfo c.low)
        else .ok (addLate c s2 (.launch a (tBase r + tExtent r) (h.f.getLsbD 0) (slotRows c.s c.key c.w c.cur.word) none [])
          (regWr c.w o.o1 c.exec (fun _ => Lane.zero)) []))))

/-- The padding that a record needs before it, and all its slots (R421). -/
def launchPad (g : Ring) (n : Nat) : Nat := if ringSlots g < g.tail % ringSlots g + n then ringSlots g - g.tail % ringSlots g else 0

/-- Writes a whole slot of a ring. -/
def writeSlot (e : Env) (s : State) (g : Ring) (slot : Nat) (ws : List Nat) : Except VErr State :=
  let ln := (g.base + 128 * slot) / 128
  let d := (List.range 16).foldl (fun a i => a + ws.getD i 0 % 2 ^ 64 * 2 ^ (64 * i)) 0
  if lineHeld s e.who e.unit ln true then .error (.held ln true)
  else roomed (homeWrite (engineGoes s e.who e.unit ln) ln (BitVec.allOnes 128) (BitVec.ofNat 1024 d) 0)
def writeSlots (e : Env) (g : Ring) : List (Nat × List Nat) → State → Except VErr State
  | [], s => .ok s
  | x :: t, s => match writeSlot e s g x.1 x.2 with
    | .error v => .error v
    | .ok s1 => writeSlots e g t s1

/-- Appends a record with its padding and its tag (R428 step 5). -/
def appendRecord (e : Env) (s : State) (ring ctx : Nat) (ws : List Nat) : Except VErr State :=
  let g := s.ring ring
  let n := ws.length / 16
  let pad := launchPad g n
  let at_ := g.tail % ringSlots g
  let pads := (List.range pad).map (fun i => (at_ + i, [3 + ctx * 2 ^ 32]))
  let first := (at_ + pad) % ringSlots g
  let recs := (List.range n).map (fun i => (first + i, (ws.drop (16 * i)).take 16))
  match writeSlots e g (pads ++ recs) s with
  | .error v => .error v
  | .ok s1 => .ok (s1.setRing ring { g with
      tail := (first + n) % ringSlots g
      tags := g.tags.filter (fun t => !(pads.any (fun p => p.1 = t.1) || t.1 = first)) ++ pads.map (fun p => (p.1, ctx)) ++ [(first, ctx)] })

/-- Bytes of a launch record by its first word (R421). -/
def recBytes (ws : List Nat) : Nat := 128 * (ws.getD 0 0 / 256 % 4 + 1)

/-- Reads the lines of a launch record at a VA, the second and later ones as LEN says, where they lie inside EXTENT. -/
def launchRead (e : Env) (s : State) (va limit : Nat) : Nat → Except VErr (State × List Nat)
  | 0 => .ok (s, [])
  | n + 1 =>
    match launchRead e s va limit n with
    | .error v => .error v
    | .ok (s1, ws) =>
      if 0 < n && (recBytes ws ≤ 128 * n || limit < va + recBytes ws) then .ok (s1, ws)
      else match vmRdWords e 16 s1 (va + 128 * n) with
        | .error v => .error v
        | .ok (s2, x, _) => .ok (s2, ws ++ (List.range 16).map (fun i => x / 2 ^ (64 * i) % 2 ^ 64))

/-- A late trap of LAUNCH: its record runs past EXTENT (R428). -/
def launchLate (s : State) (key : Nat) (p : Pend) (cause : Nat) (info : Word) (slots : Option (List Row)) : State :=
  let p' := { p with regs := p.regs.map (fun g => { g with clob := g.mask }) }
  let t : TrapRec := { cause := cause, stage := .late, late := true, info := info, pc := p.pc, act := p.act, exec := p.exec,
                       word := p.word, slots := slots, cycle := s.cycle }
  raiseLate (completePend s key p') key t p.tm

/-- The next step of LAUNCH (R428): step 1, step 2, then steps 3 to 5. A fault keeps it in the operand log, once that has room, and it waits
behind earlier entries of its pages (R189, R190). -/
def launchStep (s : State) (key : Nat) (p : Pend) : State :=
  match s.warp key, p.late with
  | some w, .launch a limit nb slots rec? held => match (s.crew w.crew).map (fun c => c.at_ p) with
    | none => s
    | some c =>
      let unit := keyUnit key
      let e : Env := ⟨unit, c.cregs, .access key p.op⟩
      match rec? with
      | none =>
        let behind := (parkedPages w p.op).contains (a / 65536)
        if !released s key w p.op || copiesOut s key p.op || behind then s
        else match launchRead e s a limit 4 with
          | .error (.fault fva r pte _) =>
            if held.isEmpty && 4 ≤ logCount w then s
            else modPend (sendFault s (faultOf c unit (keySlot key) r 1 fva p.pc pte (.access key p.op))) key p.op
              (fun p => { p with late := .launch a limit nb slots none [a / 65536, fva / 65536] })
          | .error v => v.waits e s
          | .ok (s1, ws) =>
            if limit < a + recBytes ws then launchLate s1 key p cBOUNDS (laneInfo ((lowestLane p.exec).getD 0)) none
            else modPend s1 key p.op (fun p => { p with late := .launch a limit nb slots (some ws) [], ready := s.cycle + 1 })
      | some ws =>
        let ring := c.cregs.dring
        let g := s.ring ring
        let n := ws.length / 16
        let r := recOf ws
        if !ringLegal g || ringSlots g - 1 - ringUsed g < launchPad g n + n then (if nb then completeWith s key p 1 else s)
        else if r.sys || r.ctx != c.ctx || r.kind < 1 || 3 < r.kind then completeWith s key p 2
        else match appendRecord e s ring c.ctx ws with
          | .error v => v.waits e s
          | .ok s1 => completeWith s1 key p 0
  | _, _ => s

end Sys2Proof.Machine
end

