-- ==== Sys2Proof/Machine/Preempt.lean ====
section
/-! DEFINITION. Shootdown and frame retirement (16_package.md R415-R419) and pre-emption: CTXSAVE, CTXLOAD, the image and the withdrawal of
a save (R432-R438, 11_cluster_matrix.md R298). -/

namespace Sys2Proof.Machine

/-! ## Shootdown (R416, R417) -/

/-- The scope covers a page of an ASID. -/
def scopeCovers (o : Option (Nat × Nat × Nat)) (asid va : Nat) : Bool :=
  match o with
  | none => true
  | some (a, base, len) => a = asid && base / 65536 ≤ va / 65536 && va / 65536 * 65536 < base + len

/-- An access of a warp started before an operation, under one ASID where one is named, has not completed, parked ones apart: a load or a reply
that is awaited. A region access translates in the step that performs it, so it uses no translation that it took earlier. -/
def accessRuns (w : Warp) (op : Nat) (asid : Option Nat) : Bool :=
  w.pend.any (fun p => p.op < op && asid.all (fun a => p.cregs.asid.toNat % 65536 = a) && (match p.late with
    | .load _ _ => true
    | .replies _ => true
    | .held _ => true
    | .tileHeld _ => true
    | _ => false))

/-- Conditions 2 and 3 of R416 for the translations that an operation dropped: accesses have completed or parked, tiles have released their
locks, requests have reached their homes. Condition 5 needs no wait: every engine here translates a page again in each step that touches it. -/
def dropDone (s : State) (op : Nat) (o : Option (Nat × Nat × Nat)) : Bool :=
  !s.net.any (fun r => r.id < op)
    && !s.warps.any (fun e => accessRuns e.2 op (o.map (fun x => x.1)))
    && !s.tiles.any (fun t => t.op < op && (match o with
        | none => true
        | some (a, _, _) => t.asid = a))

/-- Condition 4: the fetch lines leave their buffers. -/
def dropFetch (s : State) (o : Option (Nat × Nat × Nat)) : State :=
  { s with warps := s.warps.map (fun e => match e.2.fetch with
      | some (va, _) => if scopeCovers o e.2.fetchAsid va then (e.1, { e.2 with fetch := none }) else e
      | none => e) }

/-- Starts an invalidation: the translations leave every unit, and walks of covered pages treat W as clear (R416, R417). -/
def startDrop (s : State) (o : Option (Nat × Nat × Nat)) : State :=
  let s1 := match o with
    | none => dropTlb s none none
    | some (a, base, len) => dropTlb s (some a) (some (base, len))
  { s1 with tlbinv := s1.tlbinv ++ [o] }
/-- Ends one. -/
def endDrop (s : State) (o : Option (Nat × Nat × Nat)) : State := { dropFetch s o with tlbinv := s.tlbinv.erase o }

/-- TLBINV (R416). -/
def execTlbinv (h : Hdr) (o : OpR) (s : State) : Host.Outcome State Fault Refusal :=
  issue (.tlbinv h o) h s (fun c s1 =>
    let form := o.x.toNat % 4
    let used := fun (l : Nat) => if form = 0 then [c.val o.o2 l, c.val o.o3 l, c.val o.o4 l] else if form = 1 then [c.val o.o4 l] else []
    let va := (c.val o.o2 c.low).val.toNat
    let vb := (c.val o.o3 c.low).val.toNat
    let asid := (c.val o.o4 c.low).val.toNat % 65536
    if (used c.low).any (fun v => v.poi != 0) then .trap cPOISON (laneInfo c.low)
    else if form = 0 && (va % 65536 != 0 || vb % 65536 != 0) then .trap cMISALIGN (laneInfo c.low)
    else if form = 0 && vb = 0 then .trap cBOUNDS (laneInfo c.low)
    else
      let scope := if form = 0 then some (asid, va, vb) else if form = 1 then some (asid, 0, 2 ^ 64) else none
      .ok (startDrop (addLate c s1 (.tlbinv scope) [] []) scope))

/-- TLBINV completes when its conditions hold. -/
def tlbinvStep (s : State) (key : Nat) (p : Pend) (o : Option (Nat × Nat × Nat)) : State :=
  if dropDone s p.op o then completePend (endDrop s o) key p else s

/-! ## FRAMERET (R419) -/

/-- FRAMERET. -/
def execFrameret (h : Hdr) (o : OpR) (s : State) : Host.Outcome State Fault Refusal :=
  issue (.frameret h o) h s (fun c s1 =>
    let vs := fun (l : Nat) => [c.val o.o2 l, c.val o.o3 l, c.val o.o4 l, c.val o.o5 l]
    let va := (c.val o.o2 c.low).val.toNat
    let vb := (c.val o.o3 c.low).val.toNat
    let ve := (c.val o.o5 c.low).val.toNat
    if (vs c.low).any (fun v => v.poi != 0) then .trap cPOISON (laneInfo c.low)
    else if va % 8 != 0 || vb % 65536 != 0 || ve % 65536 != 0 then .trap cMISALIGN (laneInfo c.low)
    else if Config.memTop ≤ va then .trap cBOUNDS (laneInfo c.low)
    else .ok (addLate c s1 (.frameret va (vb / 65536 % 2 ^ 32) ((c.val o.o4 c.low).val.toNat % 65536) ve none)
      (regWr c.w o.o1 c.exec (fun _ => Lane.zero)) []))

/-- Lines of a frame. -/
def frameLines (f : Nat) : List Nat := (List.range 512).map (fun i => 512 * f + i)

/-- Step 3: the frame's words and lines leave every L1 and every slice without a write-back, unless a slice or a lock holds it. -/
def dropFrame (s : State) (f : Nat) : Room State :=
  let lns := frameLines f
  if sttHeld s lns then .error []
  else (recallLines s lns).map (fun s1 => { s1 with
      cores := s1.cores.map (fun e => (e.1, { e.2 with l1 := e.2.l1.filter (fun l => l.1 / 512 != f) }))
      slices := s1.slices.map (fun e => (e.1, { e.2 with lines := e.2.lines.filter (fun l => l.1 / 512 != f) })) })

/-- FRAMERET's next step: step 1 at the PTE's home; then steps 2 to 4 once the translations have gone. -/
def frameretStep (s : State) (key : Nat) (p : Pend) (pte frame asid va : Nat) (since : Option Nat) : State :=
  let scope := some (asid, va, 65536)
  match since with
  | none =>
    let who : Waiter := .access key p.op
    if lineHeld s who (keyUnit key) (pte / 128) true then engineWait s who (pte / 128) true
    else match homeBytes (engineGoes s who (keyUnit key) (pte / 128)) pte 8 with
      | .error v => evictFor s v
      | .ok (s1, v, bad) =>
        if bad || v % 2 = 0 || v / 65536 % 2 ^ 32 != frame then completeWith s1 key p (BitVec.ofNat 64 v)
        else match homeStore s1 pte 8 (v - 1 + (if v.testBit 4 then 0 else 16)) false with
          | .error v => evictFor s v
          | .ok s2 => startDrop (modPend s2 key p.op (fun p => { p with
              late := .frameret pte frame asid va (some s.nextOp)
              ready := s.cycle + 1
              regs := p.regs.map (fun r => { r with row := mkRow (fun _ => ⟨BitVec.ofNat 64 v, 0⟩) }) })) scope
  | some n => if !dropDone s n scope then s else match dropFrame s frame with
    | .error v => evictFor s v
    | .ok s1 => completePend (endDrop { s1 with retired := s1.retired ++ [frame] } scope) key p

/-! ## Blocked waits (R220, R222, R432) -/

/-- An incomplete instruction is a wait that only others can end: for rows, a phase, a queue or a flip (R220). -/
def blockedWait (s : State) (unit : Nat) (p : Pend) : Bool :=
  match p.late with
  | .claim _ => true
  | .role _ ws => ws.any (fun k => (s.core unit).claims.any (fun q => q.key = k && q.op = p.op))
  | .groupWait _ w h => w != 0 || h != 0
  | .queueWait _ _ _ _ => true
  | .await _ _ _ => true
  | _ => false

/-- An incomplete instruction of a warp is a blocked wait: one of those, or a PUSH or POP that the core holds behind the warp's own wait in that
queue (R220, R255). -/
def blockedIn (s : State) (key : Nat) (w : Warp) (p : Pend) : Bool :=
  blockedWait s (keyUnit key) p || (match p.late with
    | .queueReq crew q _ _ => queueHeld w p.op crew q
    | _ => false)

/-- A blocked wait is cancelled without effect: its claim, its arrivals, its place in a waiter mask, its counter (R222 step 2). -/
def cancelWait (s : State) (key : Nat) (p : Pend) : State :=
  let unit := keyUnit key
  let gone := fun (s : State) => s.modWarp key (fun w => { dropCtrs w p.ctrs s.cycle with
    pend := w.pend.filter (fun q => q.op != p.op), blockM := w.blockM.filter (fun o => o != p.op) })
  match s.warp key with
  | none => s
  | some w => match p.late with
    | .claim _ => gone (s.modCore unit (fun c => { c with claims := c.claims.filter (fun q => !(q.key = key && q.op = p.op)) }))
    | .role _ ws =>
      let s1 := s.modCore unit (fun c => { c with claims := c.claims.filter (fun q => q.op != p.op) })
      gone (ws.foldl (fun s k => s.modWarp k (fun w => { w with switching := none })) s1)
    | .groupWait g waiting _ => gone (s.modCrew w.crew (fun c =>
        let v := crewGroup c g
        setGroup c g { v with arrived := setMask v.arrived w.widx (grpArrived v w.widx &&& ~~~waiting) }))
    | .queueWait cr q _ _ => qMarkWaiters (gone s) cr q
    | _ => gone s

/-- The request that a cancelled wait is applied again as, at restore (R433). -/
def waitAgain (again : Nat → Nat) (l : Late) : Late :=
  match l with
  | .groupWait g _ _ => .group g .gbar
  | .queueWait cr q k d => .queueReq (again cr) q k d
  | .queueReq cr q k d => .queueReq (again cr) q k d
  | .await cr g els => .arrival (again cr) (.await g) els
  | l => l

/-- The crew that a captured one is now: it has another number since a save and a restore (R235, R433). -/
def crewAgain (s : State) (unit : Nat) (old : Nat) : Nat :=
  if (s.crew old).isSome then old
  else match fmFind s.pkg.crewNames old with
    | none => old
    | some n => ((s.crews.find? (fun e => (e.2.ring, e.2.lid, e.2.vcrew) = n && e.2.unit < 1216 && unitCluster e.2.unit = unitCluster unit)).map
        (fun e => e.1)).getD old

/-! ## Stopping a crew (R432) -/

/-- Wakes the sleeping warps of a crew at a pre-emption request (R215). -/
def wakeCrew (s : State) (crew : Nat) : State :=
  { s with warps := s.warps.map (fun e => if e.2.crew = crew then
      (e.1, { e.2 with sleepLo := { e.2.sleepLo with asleep := false, until? := none }
                       sleepHi := { e.2.sleepHi with asleep := false, until? := none } }) else e) }

/-- The instruction waits behind the sequencer alone: the pre-emption of an Acorn does not wait for it, and the saved program keeps it. -/
def mxBehind (p : Pend) : Bool :=
  match p.late with
  | .mxQueue _ => true
  | .mxWait _ => true
  | .mxHalt => true
  | _ => false

/-- Steps 1 to 3 of R432 are done for a crew; an Acorn's counters are all zero (R298), which a wait without a counter does not keep from. -/
def crewStopped (s : State) (id : Nat) (c : Crew) : Bool :=
  (crewWarps s id).all (fun e =>
    let w := e.2
    !w.tm && w.traps.isEmpty && w.switching.isNone && atSafe c w
      && (if keyAcorn e.1 then ctrsZero w && w.pend.all (fun p => mxBehind p || inLog p || blockedIn s e.1 w p)
          else w.pend.all (fun p => inLog p || (blockedIn s e.1 w p && (match p.late with
            | .role _ _ => false
            | _ => true)))))

/-- The sequencer of an Acorn has halted, or has no array command, and its other commands in progress have run to their end (R296, R298). -/
def acornHalted (s : State) (cl : Nat) : Bool :=
  ((s.cluster cl).halted || (match mxActive (s.cluster cl) with
    | none => true
    | some c => c.rg = 0))
    && !(s.cluster cl).cmds.any (fun c => c.started && !mxArray c.kind)

/-- A sequencer command names a crew. -/
def mxNames (k : MxKind) (crew : Nat) : Bool :=
  match k with
  | .mma _ _ _ _ _ c _ _ _ sc _ => c = crew || sc = crew
  | .mdrain _ _ _ _ _ c _ sc => c = crew || sc = crew
  | _ => false

/-- A copy is the crew's, or an Acorn's with a record that targets the crew. -/
def copyConcerns (c : CpyCmd) (id : Nat) : Bool :=
  c.crew = id || (keyAcorn c.key && (c.dcrew = some id || c.screw = some id || c.arr.any (fun a => a.1 = id)))

/-- Step 5 of R432: copies, Acorn commands that target the crew, fabric stores; and what its ended warps have on its way, waits in queues
apart. -/
def crewQuiet (s : State) (id : Nat) : Bool :=
  !s.warps.any (fun e => isGhost e.1 && e.2.crew = id && !e.2.pend.all (blockedIn s e.1 e.2))
    && !s.clusters.any (fun e => e.2.copies.any (fun c => copyConcerns c id) || e.2.cmds.any (fun c => mxNames c.kind id))
    && !s.pkg.fabric.any (fun c => c.crew = id && c.kind = .store)

/-! ## The image (R433, R436) -/

/-- CRC-32 with the IEEE 802.3 polynomial, bits reflected. -/
def crcByte (c : Nat) (b : Byte) : Nat :=
  (List.range 8).foldl (fun c _ => if c % 2 = 1 then (c / 2) ^^^ 0xEDB88320 else c / 2) (c ^^^ b.toNat)
def crc32 (bs : List Byte) : Nat := (bs.foldl crcByte 0xFFFFFFFF) ^^^ 0xFFFFFFFF

/-- Bytes of a crew's image, and of an Acorn's. -/
def imageSize (warps top : Nat) : Nat := 65536 + 86016 * warps + (top + 4095) / 4096 * 4096
def acornImage : Nat := 4325376

/-- DECVER.PART of this part (R49). -/
def devicePart : Nat := 0x0720

/-- The header of an image with a CRC. -/
def imageHead (m : Image) (tabver crc : Nat) : List Byte :=
  let c := m.crew
  let acorn := 1216 ≤ c.unit
  bytesLE 0x4E4C4358 4 ++ bytesLE 1 2 ++ bytesLE (if acorn then 2 else 1) 2 ++ bytesLE devicePart 2 ++ bytesLE tabver 2
    ++ bytesLE c.slots.length 4 ++ bytesLE c.ctx 2 ++ bytesLE c.lid 2 ++ bytesLE c.ring 1 ++ bytesLE 0 3
    ++ bytesLE c.vcrew 4 ++ bytesLE (if acorn then c.unit - 1216 else c.unit) 4 ++ bytesLE m.size 8
    ++ bytesLE ((c.top + 4095) / 4096 * 4096) 8 ++ bytesLE 0 8
    ++ bytesLE crc 4 ++ bytesLE 0 4
/-- The bytes after the header, in a form that only CTXLOAD reads: undefined here, and particular to the image (log 36). -/
def imageBody (m : Image) : List Byte :=
  (List.range (m.size - 64)).map (fun i => (Config.freeWord (2 ^ 100 + 2 ^ 40 * m.num + i)).setWidth 8)
/-- The bytes of an image. -/
def imageBytes (m : Image) (tabver : Nat) : List Byte :=
  let body := imageBody m
  imageHead m tabver (crc32 (imageHead m tabver 0 ++ body)) ++ body

/-- Reads n lines at a VA. -/
def imageRead (e : Env) (m : FMap Nat) : Nat → Nat → State → Except VErr (State × List Byte)
  | 0, _, s => .ok (s, [])
  | n + 1, va, s =>
    let ln := physOf m va / 128
    if lineHeld s e.who e.unit ln false then .error (.held ln false)
    else match homeRead (engineGoes s e.who e.unit ln) ln (BitVec.allOnes 32) with
    | .error v => .error (.wait v)
    | .ok (s1, l) => match imageRead e m n (va + 128) s1 with
      | .error v => .error v
      | .ok (s2, t) => .ok (s2, lineBytes l.data ++ t)

/-- The VAs of the pages of a range. -/
def pageVas (base len : Nat) : List Nat := (List.range ((len + 65535) / 65536)).map (fun i => base + 65536 * i)

/-- What is kept of a warp: in each lane the registers and predicates that are live at its thread's safe point (R433). -/
def saveWarp (c : Crew) (w : Warp) : Warp :=
  let sp := fun (l : Nat) => if w.pt.live.getLsbD l then safeAt c (w.pt.pcs.getD l 0) else none
  let live := fun (l r : Nat) => match sp l with
    | some x => x.live.getLsbD r
    | none => false
  let plive := maskOf
  { w with
    regs := (w.regs.filter (fun e => e.1 < 240)).map (fun e => (e.1, mkRow (fun l => if live l e.1 then rowGet e.2 l else Lane.zero)))
    preds := (w.preds.zipIdx).map (fun e =>
      let m := plive (fun l => match sp l with
        | some x => x.plive.getLsbD e.2
        | none => false)
      ⟨e.1.val &&& m, e.1.poi &&& m⟩) }

/-- The rows that a warp holds: its allotment and what its REGGIVEs have not returned (R209). -/
def warpRows (w : Warp) : Nat :=
  w.pend.foldl (fun a p => match p.late with
    | .give _ n => a + n
    | _ => a) (w.allot + w.granted)

/-- The warps and the crew leave their unit; rows return to the pool (R209, R432 step 6). -/
def freeCrew (s : State) (id : Nat) (c : Crew) : State :=
  let ws := crewWarps s id
  let rows := ws.foldl (fun a e => a + warpRows (settleGive e.2 s.cycle)) 0
  -- an invalidation that one of its warps has started, one that has ended since among them, ends with it
  let gone := (s.warps.filter (fun e => e.2.crew = id)).flatMap (fun e => e.2.pend.filterMap (fun p => match p.late with
    | .tlbinv scope => some scope
    | .frameret _ _ asid va (some _) => some (some (asid, va, 65536))
    | _ => none))
  let s1 := { s with
    tlbinv := gone.foldl (fun l o => l.erase o) s.tlbinv
    warps := s.warps.filter (fun e => e.2.crew != id)
    crews := fmErase s.crews id
    faults := s.faults.filterMap (fun f =>
      let mine := match f.waiter with
        | .access k _ => ws.any (fun e => e.1 = k)
        | .fetch k _ => ws.any (fun e => e.1 = k)
        | _ => false
      if !mine then some f else if f.written then none else some { f with waiter := .nobody }) }
  if c.unit < 1216 then s1.modCore c.unit (fun k =>
      returnRows { k with claims := k.claims.filter (fun q => !ws.any (fun e => e.1 = q.key)) } s.cycle rows)
  else s1

/-! ## CTXSAVE (R432, R435, R437) -/

/-- A pre-emption request of a crew waits: a warp of the crew is in trap mode or holds a pending trap, or a ROLE is in progress (R186,
R432 step 1). -/
def requestWaits (s : State) (crew : Nat) : Bool :=
  s.warps.any (fun e => e.2.crew = crew && (e.2.tm || !e.2.traps.isEmpty || e.2.pend.any (fun p => match p.late with
    | .role _ _ => true
    | _ => false)))

/-- A crew as its warps' choice sees it: a request that waits holds no run. -/
def State.crewSeen (s : State) (crew : Nat) : Option Crew :=
  (s.crew crew).map (fun c => if c.preempt.isSome && requestWaits s crew then { c with preempt := none } else c)

/-- CTXSAVE and CTXLOAD name their image through a class-1 record whose BASE is a multiple of 4,096 (R438); one that is no VA to translate traps
with BOUNDS (R408; for one in the fabric window DESIGN CHOICE, log 95). -/
def imageRecord (c : Ctx) (s1 : State) (h : Nat) (k : State → Tensor → Res) : Res :=
  withRecord c s1 h (fun s2 r =>
    if !tensorValid r || tClass r != 1 then .trap cRECINV (BitVec.ofNat 64 h)
    else if tBase r % 4096 != 0 then .trap cMISALIGN (laneInfo c.low)
    else if vaOut c.cregs (tBase r) 64 then .trap cBOUNDS (laneInfo c.low)
    else k s2 r)

/-- An image that begins below 2^52 and runs past it: the trap of R408 is late, since its size is known only then. -/
def imagePast (s : State) (key : Nat) (p : Pend) : State :=
  launchLate s key p cBOUNDS (laneInfo ((lowestLane p.exec).getD 0)) (some p.slots)

/-- CTXSAVE. -/
def execCtxsave (h : Hdr) (o : OpM) (s : State) : Host.Outcome State Fault Refusal :=
  issue (.ctxsave h o) h s (fun c s1 =>
    imageRecord c s1 o.hnd.toNat (fun s2 r =>
      let v := c.val o.o2 c.low
      if v.poi != 0 then .trap cPOISON (laneInfo c.low)
      else if v.val.toNat / 2 ^ 38 != 0 then .trap cILLOP 0
      else .ok (addLate c s2 (.ctxsave (tBase r) (tExtent r) v.val.toNat none) (regWr c.w o.o1 c.exec (fun _ => Lane.zero)) [])))

/-- The crew or Acorn program that a target names (R435). -/
def saveTarget (s : State) (t : Nat) : Option (Nat × Crew) :=
  s.crews.find? (fun e => e.2.vcrew = t % 65536 && e.2.lid = t / 65536 % 65536 && e.2.ring = t / 2 ^ 32 % 32
    && ((1216 ≤ e.2.unit) == t.testBit 37) && e.2.ending.isNone)

/-- What is kept of a warp's status: every instruction that sets flags has completed (R70, R433). -/
def settled (w : Warp) : Warp := 
  { w with fpstat := statSet w.fpstat (w.flagsDue.foldl (fun fl e => fl ||| e.2) 0), flagsDue := [] }

/-- The image of a stopped crew: its waits are cancelled and recorded in their order with the parked entries (R432 step 4). -/
def imageOf (s : State) (id : Nat) (c : Crew) (num size : Nat) : State × Image :=
  let ws := crewWarps s id
  let kept := ws.map (fun e => settled (if keyAcorn e.1 then e.2 else saveWarp c e.2))
  let gone := s.warps.filter (fun e => isGhost e.1 && e.2.crew = id)
  let s1 := (ws ++ gone).foldl (fun s e => e.2.pend.foldl (fun s p => if blockedIn s e.1 e.2 p then cancelWait s e.1 p else s) s) s
  let c1 := (s1.crew id).getD c
  let core := s.core c.unit
  (s1, { num := num, size := size, crew := { c1 with preempt := none, blocked := none }, warps := kept, ghosts := gone.map (fun e => e.2), codebook := core.codebook,
         act := core.act, cluster := s.cluster (unitCluster c.unit) })

/-- The sequencer of a saved Acorn keeps nothing (R298). -/
def clearAcorn (k : Cluster) : Cluster :=
  { k with cmds := [], wdir := [], wbuf := [], wbad := [], slabs := [], halted := false }

/-- Writes the image at its home slices and frees the crew (R432 step 6). -/
def saveCrew (s : State) (key : Nat) (p : Pend) (cr : CtxRegs) (issuer : Crew) (base ext id : Nat) (c : Crew) : State :=
  let unit := keyUnit key
  let size := if 1216 ≤ c.unit then acornImage else imageSize c.slots.length c.top
  if ext < size then completeWith (s.modCrew id (fun c => { c with preempt := none })) key p 2
  else if vaOut cr base size then imagePast (s.modCrew id (fun c => { c with preempt := none })) key p
  else match pagesOf ⟨unit, cr, .access key p.op⟩ s permW (pageVas base size) with
    | .error (.fault va r pte _) =>
      sendFault s (faultOf issuer unit (keySlot key) r 2 va p.pc pte (.access key p.op))
    | .error v => v.waits ⟨unit, cr, .access key p.op⟩ s
    | .ok (s1, m) =>
      let (s2, img) := imageOf s1 id c s1.pkg.images.length size
      let cells : List (Nat × Byte × Bool) :=
        ((imageBytes img s.pkg.table.version).zipIdx).map (fun e => (physOf m (base + e.2), e.1, false))
      match homePut (.access key p.op) unit cells ((cells.map (fun e => e.1 / 128)).eraseDups) s2 with
      | .error v => v.waits ⟨unit, cr, .access key p.op⟩ s
      | .ok s3 =>
        let s4 := freeCrew (s3.modPkg (fun k => { k with images := k.images ++ [img] })) id c
        let s5 := if 1216 ≤ c.unit then s4.modCluster (c.unit - 1216) clearAcorn else s4
        completeWith s5 key p 0

/-- CTXSAVE's next step: it finds its target and asks it to stop; once stopped and quiet, the image is written (R432). -/
def ctxsaveStep (s : State) (key : Nat) (p : Pend) (base ext target : Nat) (crew : Option Nat) : State :=
  match s.warp key with
  | none => s
  | some w => match s.crew w.crew with
    | none => s
    | some me => match crew with
      | none => match saveTarget s target with
        | none => completeWith s key p 1
        | some (id, c) =>
          if c.preempt.isSome then s
          else if ext < (if 1216 ≤ c.unit then acornImage else imageSize c.slots.length c.top) then completeWith s key p 2
          else
            let s1 := wakeCore (s.setCrew id { c with preempt := some s.cycle }) c.unit 6
            modPend s1 key p.op (fun p => { p with late := .ctxsave base ext target (some id), ready := s.cycle + 1 })
      | some id => match s.crew id with
        | none => completeWith s key p 1
        | some c =>
          let s1 := if requestWaits s id then s else wakeCrew s id
          if requestWaits s1 id || !crewStopped s1 id c || !crewQuiet s1 id || (1216 ≤ c.unit && !acornHalted s1 (c.unit - 1216)) then s1
          else saveCrew s1 key p p.cregs (me.at_ p) base ext id c

/-- The request of a save is withdrawn: the held runs are candidates again, and CTXSAVE writes status 3 (R432). -/
def withdrawSave (s : State) (id : Nat) : State :=
  let s1 := s.modCrew id (fun c => { c with preempt := none })
  s1.warps.foldl (fun s e => e.2.pend.foldl (fun s p => match p.late with
    | .ctxsave _ _ _ (some i) => if i = id then completeWith s e.1 p 3 else s
    | _ => s) s) s1

/-- CTXSAVE_WITHDRAW (R432): the steps that stop the crew have not finished within 1,048,576 cycles of the request. -/
def execCtxsaveWithdraw (crew : Nat) (s : State) : Host.Outcome State Fault Refusal :=
  .next (match s.crew crew with
    | none => s
    | some c => match c.preempt with
      | none => s
      | some t => if t + Config.saveCycles ≤ s.cycle && !crewStopped s crew c && !s.pkg.frozen then withdrawSave s crew else s)

/-! ## CTXLOAD (R433, R438) -/

/-- CTXLOAD. -/
def execCtxload (h : Hdr) (o : OpM) (s : State) : Host.Outcome State Fault Refusal :=
  issue (.ctxload h o) h s (fun c s1 =>
    imageRecord c s1 o.hnd.toNat (fun s2 r =>
      .ok (addLate c s2 (.ctxload (tBase r) (tExtent r)) (regWr c.w o.o1 c.exec (fun _ => Lane.zero)) [])))

/-- A warp at restore: what the image holds, and everything else as at crew start (R433); its log's entries may be started at once. -/
def restoreWarp (id : Nat) (cr : CtxRegs) (again : Nat → Nat) (w : Warp) (tframe : Nat) : Warp :=
  let k : Kernel := { c16 := w.c16, prot := w.prot, regs := w.allot, groups := 0, spBytes := 0, nqueues := 0, records := 0, entry := 0,
                      dlx := false, headVa := 0, roleTab := 0, roles := [], safe := [] }
  let w0 := startWarp id w.widx k w.prio w.tvec tframe w.pt.live []
  { w0 with
    pt := w.pt, regs := w.regs, preds := w.preds, gens := w.gens, genPoi := w.genPoi, ctrs := w.ctrs, fpmode := w.fpmode
    fpstat := w.fpstat, role := w.role
    restoring := w.pend.map (fun p => p.op)
    pend := w.pend.map (fun p => { p with ready := 0, cregs := cr, late := match p.late with
      | .tilePark t sl => .tilePark { t with crew := again t.crew } sl
      | l => waitAgain again l }) }

/-- Tile instructions of a restored warp know their new place. -/
def rekey (key : Nat) (w : Warp) : Warp :=
  { w with pend := w.pend.map (fun p => { p with late := match p.late with
      | .tilePark t sl => .tilePark { t with key := key, unit := keyUnit key } sl
      | l => l }) }

/-- An entry of a restored log is started: a recorded wait is applied again as a new request, a parked entry replays (R433). -/
def reapply (s : State) (key : Nat) (p : Pend) : State :=
  match p.late with
  | .claim n => s.modCore (keyUnit key) (fun k => queueClaim k s.cycle ⟨key, p.op, n⟩)
  | .group g r => if grpReady s key p.op g r then applyGroup s key p g r else s
  | .arrival crew k els => arrivalStep s key p crew k els
  | .queueReq _ _ _ _ => queueStep s key p
  | .parked _ _ => memTry s key p.op
  | .tilePark t sl => tileTry s key p t sl
  | .region _ _ _ _ _ _ => regionStep s key p
  | .launch _ _ _ _ _ _ => launchStep s key p
  | _ => s

/-- A recorded wait has not been applied: its request still waits for its turn at the group unit or at its bank. -/
def notApplied (w : Warp) (op : Nat) : Bool :=
  match findPend w op with
  | none => false
  | some p => match p.late with
    | .group _ _ => true
    | .arrival _ _ _ => true
    | .queueReq _ _ _ _ => true
    | _ => false

/-- The saved log of a warp is worked through in issue order: an entry is started only after every earlier one has been replayed or applied, and
one whose pages an earlier entry of the operand log still holds is not started yet (R190, R433). -/
def replayFrom (key : Nat) : Nat → State → State
  | 0, s => s
  | fuel + 1, s => match s.warp key with
    | none => s
    | some w => match w.restoring with
      | [] => s
      | op :: rest => match findPend w op with
        | none => replayFrom key fuel (s.setWarp key { w with restoring := rest })
        | some p =>
          if (logPages p).any (fun g => (parkedPages w op).contains g) then s
          else
            let s1 := reapply (s.setWarp key { w with restoring := rest }) key p
            if (s1.warp key).any (fun v => notApplied v op) then s1.modWarp key (fun v => { v with restoring := op :: rest })
            else replayFrom key fuel s1
def replayLog (s : State) (key : Nat) : State := replayFrom key ((s.warp key).elim 0 (fun w => w.restoring.length)) s

/-- A saved activation table: no ACT reads its banks any more. -/
def tableAgain (t : ActTable) : ActTable := { t with busy := 0, read := 0, swapped := none }

/-- A saved crew goes back on its core at its base (R438); none where it lacks room. -/
def restoreCrew (s : State) (m : Image) : Option State :=
  let c := m.crew
  let core := c.unit
  let rows := m.warps.foldl (fun a w => a + w.allot) 0
  let free := freeSlots s core
  let n := (c.top + 127) / 128
  if free.length < m.warps.length || (s.core core).poolFree < rows || !clusterTakes s (core / 8) c.ctx
      || !(List.range 512).all (fun st => pinnedIn s core st + pinsOf c.place n st ≤ 11) then none
  else
    let s1 := enterContext s (core / 8) c.ctx
    let (s2, cr) := readDesc s1 (1524 + c.ring / 16) c.ctx
    let id := s2.nextOp
    let at_ := m.warps.zip free
    let slots := (List.range c.slots.length).map (fun i => ((at_.find? (fun e => e.1.widx = i)).elim 0 (fun e => e.2)))
    let s2 := { s2 with nextOp := id + 1 }.setCrew id { c with cregs := cr, slots := slots }
    let again := fun (old : Nat) => if m.warps.any (fun w => w.crew = old) then id else crewAgain s2 core old
    let s3 := at_.foldl (fun s e =>
        s.setWarp (32 * core + e.2) (rekey (32 * core + e.2) (restoreWarp id cr again e.1 (c.spBytes + e.2 / 8 * 0x620)))) s2
    let s4 := (s3.modCore core (fun k => { k with poolFree := k.poolFree - rows, codebook := m.codebook, act := m.act.map tableAgain })).modCluster (core / 8)
      (fun k => { k with tables := m.cluster.tables })
    let s5 := wakePlaced (l1Acquire (pinEvict s4 core) core) core
    let s6 := s5.modPkg (fun p => { p with crewNames := fmPut p.crewNames id (c.ring, c.lid, c.vcrew), launches := p.launches.map (fun x =>
      if x.ring = c.ring && x.lid = c.lid then { x with placed := x.placed ++ [(id, core)] } else x) })
    let s7 := m.ghosts.foldl (fun (s : State) w =>
        let key := ghostKey (32 * core + slots.getD w.widx 0) s.nextOp
        replayLog ({ s with nextOp := s.nextOp + 1 }.setWarp key (rekey key (restoreWarp id cr again w 0))) key) s6
    some ((at_.map (fun e => 32 * core + e.2)).foldl replayLog s7)

/-- The crews that a restored sequencer command names, found again through its records (R235, R298); none where one is not there (R434). -/
def refind (s : State) (c : Crew) (k : MxKind) : Option MxKind :=
  match k with
  | .mma sc slot kb0 kn ra _ ha hb rs _ fmt => (tileCrew s c ra).bind (fun cr =>
      if sc then (tileCrew s c rs).map (fun sr => .mma sc slot kb0 kn ra cr ha hb rs sr fmt) else some (.mma sc slot kb0 kn ra cr ha hb rs cr fmt))
  | .mdrain slot x row0 arr rd crew rs screw => (tileCrew s c rd).bind (fun cr =>
      if screw = crew then some (.mdrain slot x row0 arr rd cr rs cr) else (tileCrew s c rs).map (fun sr => .mdrain slot x row0 arr rd cr rs sr))
  | k => some k

/-- A restored command whose target crew is not there traps with RECINV: it is gone, and the Acorn takes the trap late, INFO holding the handle
of A (R434; DEDUCED, log 53). -/
def lostCmd (s : State) (cl : Nat) (k : MxKind) (word : IWord) (pc : Word) (tm : Bool) : State :=
  let h := match k with
    | .mma _ _ _ _ _ _ ha _ _ _ _ => ha
    | _ => 0
  raiseLate s (acornKey cl) { cause := cRECINV, stage := .late, late := true, info := BitVec.ofNat 64 h, pc := pc, act := 1, exec := 1,
                              word := word, slots := none, cycle := s.cycle } tm

/-- Matrix instructions that wait for room in the queue find their crews again, or are lost. -/
def refindWaits (s : State) (cl : Nat) (c : Crew) : State :=
  match s.warp (acornKey cl) with
  | none => s
  | some w => w.pend.foldl (fun s p => match p.late with
    | .mxQueue k => match refind s c k with
      | some y => modPend s (acornKey cl) p.op (fun p => { p with late := .mxQueue y })
      | none => lostCmd (completePend s (acornKey cl) p) cl k p.word p.pc p.tm
    | _ => s) s

/-- The record of a handle as a unit looks it up for itself. -/
def envLookup (e : Env) (s : State) (h : Nat) : Except VErr (State × Tensor) :=
  match lookupWait s e.who e.unit e.cr h with
  | some ln => .error (.held ln false)
  | none => match lookup (lookupGoes s e.who e.unit e.cr h) e.unit e.cr h with
    | (_, .fault va r p) => .error (.fault va r p permR)
    | (s1, .found r _) => .ok (s1, r)

/-- Every directory entry is loaded again from its record at its offset, with its scales from the record that it names; the directory stays as
saved (R298, R299). -/
def reloadWeights (s : State) (cl : Nat) (e : Env) : List WeightEnt → Except VErr State
  | [] => .ok s
  | w :: t => match envLookup e s w.handle with
    | .error v => .error v
    | .ok (s1, r) =>
      let scales := if w.scales then (envLookup e s1 (tScale r)).map (fun x => (x.1, some x.2)) else .ok (s1, none)
      match scales with
      | .error f => .error f
      | .ok (s2, rs) => match wloadRun s2 cl e (.wload w.handle r w.off rs) with
        | .error f => .error f
        | .ok s3 => reloadWeights s3 cl e t

/-- A saved Acorn program goes back on its cluster (R298, R438): none where the cluster takes none now. -/
def restoreAcorn (s : State) (who : Waiter) (m : Image) : Option (Except VErr State) :=
  let c := m.crew
  let cl := c.unit - 1216
  if !clusterTakes s cl c.ctx || s.crews.any (fun e => e.2.unit = c.unit) || !(s.cluster cl).cmds.isEmpty then none
  else
    let s1 := enterContext s cl c.ctx
    let (s2, cr) := readDesc s1 (1524 + c.ring / 16) c.ctx
    let id := s2.nextOp
    let me : Crew := { c with cregs := cr }
    let s3 := m.warps.foldl (fun s w => s.setWarp (acornKey cl) (restoreWarp id cr (crewAgain s2 c.unit) w 0)) ({ s2 with nextOp := id + 1 }.setCrew id me)
    let k := m.cluster
    let s4 := s3.modCluster cl (fun j => { j with
      fmt := k.fmt, cmds := k.cmds.filterMap (fun x => (refind s3 me x.kind).map (fun y => { x with kind := y })), halted := false, steps := k.steps
      mxerr := k.mxerr, acc := k.acc, wdir := [], wbuf := [], wbad := [], decoder := k.decoder, slabs := []
      nextCmd := max j.nextCmd k.nextCmd })
    let s5 := s4.modPkg (fun p => { p with crewNames := fmPut p.crewNames id (c.ring, c.lid, c.vcrew), launches := p.launches.map (fun x =>
      if x.ring = c.ring && x.lid = c.lid then { x with placed := x.placed ++ [(id, c.unit)] } else x) })
    some (match reloadWeights s5 cl ⟨c.unit, cr, who⟩ k.wdir with
      | .error f => .error f
      | .ok s6 =>
        let s7 := (k.cmds.filter (fun x => (refind s3 me x.kind).isNone)).foldl (fun s x => lostCmd s cl x.kind x.word x.pc x.tm)
          (s6.modCluster cl (fun j => { j with wdir := k.wdir }))
        .ok (replayLog (refindWaits s7 cl me) (acornKey cl)))

/-- The crew of an image is already placed (status 3). -/
def alreadyPlaced (s : State) (c : Crew) : Bool :=
  s.crews.any (fun e => e.2.ring = c.ring && e.2.lid = c.lid && e.2.vcrew = c.vcrew && ((1216 ≤ e.2.unit) == (1216 ≤ c.unit)))

/-- A little-endian field of a list of bytes. -/
def field (bs : List Byte) (off n : Nat) : Nat := ((bs.drop off).take n).foldr (fun b a => b.toNat + 256 * a) 0

/-- The CRC of an image fits its bytes (R436). -/
def crcFits (bs : List Byte) : Bool := field bs 0x38 4 = crc32 (bs.take 0x38 ++ bytesLE 0 4 ++ bs.drop 0x3C)

/-- CTXLOAD with the bytes of the image (R438). Bytes that CTXSAVE has not written, whatever their CRC, are no image (log 36). -/
def loadImage (s : State) (key : Nat) (p : Pend) (issuer : Crew) (bs : List Byte) : State :=
  let tabver := field bs 0x0A 2
  if !crcFits bs then completeWith s key p 2
  else if field bs 0x08 2 != devicePart || tabver != s.pkg.table.version then completeWith s key p 4
  else match s.pkg.images.reverse.find? (fun m => imageBytes m tabver = bs) with
  | none => completeWith s key p 2
  | some m =>
    if alreadyPlaced s m.crew then completeWith s key p 3
    else if m.crew.unit < 1216 then match restoreCrew s m with
      | none => completeWith s key p 1
      | some s1 => completeWith s1 key p 0
    else match restoreAcorn s (.access key p.op) m with
      | none => completeWith s key p 1
      | some (.error (.fault va r pte _)) =>
        sendFault s (faultOf issuer (keyUnit key) (keySlot key) r 1 va p.pc pte (.access key p.op))
      | some (.error v) => v.waits ⟨keyUnit key, issuer.cregs, .access key p.op⟩ s
      | some (.ok s1) => completeWith s1 key p 0

/-- CTXLOAD's next step: it reads the header, then the image, checks it and places the crew (R438). -/
def ctxloadStep (s : State) (key : Nat) (p : Pend) (base ext : Nat) : State :=
  match s.warp key with
  | none => s
  | some w => match s.crew w.crew with
    | none => s
    | some me =>
      let unit := keyUnit key
      let e : Env := ⟨unit, p.cregs, .access key p.op⟩
      let stop := fun (v : VErr) => match v with
        | .fault va r pte _ => sendFault s (faultOf (me.at_ p) unit (keySlot key) r 1 va p.pc pte (.access key p.op))
        | v => v.waits e s
      if ext < 64 then completeWith s key p 2
      else match pagesOf e s permR [base] with
        | .error v => stop v
        | .ok (s1, m) => match imageRead e m 1 base s1 with
          | .error v => v.waits e s
          | .ok (s2, hd) =>
            let size := field hd 0x20 8
            if field hd 0 4 != 0x4E4C4358 || field hd 4 2 != 1 || ext < size || size < 64 || size % 128 != 0 || 2 ^ 23 < size
            then completeWith s2 key p 2
            else if vaOut p.cregs base size then imagePast s2 key p
            else match pagesOf e s2 permR (pageVas base size) with
              | .error v => stop v
              | .ok (s3, m) => match imageRead e m (size / 128) base s3 with
                | .error v => v.waits e s
                | .ok (s4, bs) => loadImage s4 key p (me.at_ p) bs

end Sys2Proof.Machine
end

