-- ==== Sys2Proof/Machine/Faults.lean ====
section
/-! DEFINITION. Fault rings and records (16_package.md R405, R412, R413) and the resolution of a fault (R414, R191, R192). -/

namespace Sys2Proof.Machine

/-! ## Fault rings -/

def FRing.start : FRing := { base := 0, cfg := 0, head := 0, tail := 0, stat := 0 }
def State.fring (s : State) (i : Nat) : FRing := fmGet FRing.start s.pkg.frings i
def State.setFring (s : State) (i : Nat) (v : FRing) : State := s.modPkg (fun p => { p with frings := fmPut p.frings i v })

/-- The ring is enabled, of a legal size, and has a free entry (R412). -/
def fringRoom (g : FRing) : Bool :=
  let n := g.cfg % 32
  g.cfg.testBit 16 && 4 ≤ n && n ≤ 16 && (g.head + 2 ^ 64 - g.tail % 2 ^ 64) % 2 ^ 64 < 2 ^ n - 1

/-- The 64 bytes of a record (R413); SEQ is the number of records sent before it. -/
def recordBytes (f : FaultRec) (seq : Nat) : List Byte :=
  bytesLE f.ftype 1 ++ bytesLE f.reason 1 ++ bytesLE f.access 1 ++ [0] ++ bytesLE f.asid 2 ++ bytesLE f.ctxid 2 ++ bytesLE f.va 8
    ++ bytesLE f.tag 4 ++ bytesLE f.unit 2 ++ bytesLE f.wslot 1 ++ bytesLE f.ring 1 ++ bytesLE f.launchid 2 ++ bytesLE f.vcrew 2
    ++ bytesLE 0 4 ++ bytesLE f.pc.toNat 8 ++ bytesLE f.info.toNat 8 ++ bytesLE seq 8 ++ bytesLE 0 8

/-- A unit writes its record into the ring, or goes on waiting; FSTAT counts each wait once (R412). -/
def writeRecord (s : State) (index : Nat) : State :=
  match s.faults[index]? with
  | none => s
  | some f =>
    if f.written then s
    else
      let i := faultRing f.asid
      let g := s.fring i
      if !fringRoom g then
        if f.counted then s
        else { s.setFring i { g with stat := (g.stat + 1) % 2 ^ 32 } with faults := s.faults.set index { f with counted := true } }
      else
        let pa := g.base + 64 * (g.head % 2 ^ (g.cfg % 32))
        let v := (recordBytes f s.seq).foldr (fun b a => b.toNat + 256 * a) 0
        if lineHeld s (.record i) f.unit (pa / 128) true then engineWait s (.record i) (pa / 128) true
        else match homeStore (engineGoes s (.record i) f.unit (pa / 128)) pa 64 v false true with
        | .error v => evictFor s v
        | .ok s1 =>
          let s2 := { s1.setFring i { g with head := (g.head + 1) % 2 ^ 64 } with
            seq := s.seq + 1
            faults := if f.waiter = .nobody then s1.faults.eraseIdx index else s1.faults.set index { f with written := true } }
          if g.cfg.testBit 17 then raiseIrq s2 true (g.cfg / 2 ^ 20 % 32) else raiseIrq s2 false i

/-- FAULT_RECORD_WRITE (R412). -/
def execFaultRecordWrite (index : Nat) (s : State) : Host.Outcome State Fault Refusal :=
  .next (if s.pkg.frozen then s else writeRecord s index)

/-! ## Resolution (R414) -/

/-- The record that waits under a tag. -/
def waitingRecord (s : State) (tag : Nat) : Option FaultRec :=
  if tag = 0 then none else s.faults.find? (fun f => f.tag = tag && f.written && f.waiter != .nobody)

/-- The record has its answer. -/
def answered (s : State) (tag : Nat) : State := { s with faults := s.faults.filter (fun f => f.tag != tag) }

/-- ABORT 0: the access is translated again and replays (R191); a fetch, an engine's access or a completion word tries again by itself
once no record holds it. -/
def retryFault (s : State) (f : FaultRec) : State :=
  let s1 := answered s f.tag
  match f.waiter with
  | .access key _ => replayWarp (wakeCore s1 (keyUnit key) 4) key
  | .fetch key _ => wakeCore s1 (keyUnit key) 4
  | _ => s1

/-- FRESP_RETRY (R414): a tag that names no waiting access is ignored. -/
def execFrespRetry (tag : Nat) (s : State) : Host.Outcome State Fault Refusal :=
  .next (match waitingRecord s tag with
    | none => s
    | some f => if s.pkg.frozen then s else retryFault s f)

/-- An unrecoverable fetch fault: a PAGE trap at the held PC with every slot zero (R414). -/
def fetchTrap (s : State) (key : Nat) (pc : Word) (va : Nat) : State :=
  match s.warp key with
  | none => s
  | some w =>
    let act := maskOf (fun l => w.pt.live.getLsbD l && w.pt.pcs.getD l 0 = pc)
    if act = 0 then s
    else raiseTrap s key { cause := cPAGE, stage := .execution, late := false, info := BitVec.ofNat 64 va, pc := pc, act := act,
                           exec := act, word := freeInst s, slots := some (List.replicate 5 emptyRow), cycle := s.cycle }

/-- An access of a warp is abandoned (R192, R371), and what was parked behind it replays. -/
def abortAccess (s : State) (key op va : Nat) : State :=
  match s.warp key with
  | none => s
  | some w => match findPend w op with
    | none => s
    | some p =>
      let s1 := match p.late with
        | .tilePark _ _ => abandonTile s key p
        -- the crew that a save was stopping goes on
        | .ctxsave _ _ _ (some id) => abandonAccess (s.modCrew id (fun c => { c with preempt := none })) key op va
        | _ => abandonAccess s key op va
      replayWarp s1 key

/-- ABORT 1: the access, the fetch or the engine's command is abandoned (R192, R323, R352, R394, R452, R460). -/
def abortFault (s : State) (f : FaultRec) : State :=
  let s1 := answered s f.tag
  let write := f.access.testBit 1
  match f.waiter with
  | .access key op => abortAccess s1 key op f.va
  | .fetch key pc => fetchTrap s1 key pc f.va
  | .copy cl id =>
    let table := match (s1.cluster cl).copies.find? (fun c => c.id = id) with
      | some c => c.table.isSome
      | none => false
    cpyGiveUp s1 cl id (if write then 2 else if table then 5 else 1)
  | .matrix cl => mxAbandon s1 cl
  | .snap id => snapGiveUp s1 id f.unit (if write then 9 else 8)
  | .sprout die => sproutGiveUp s1 die
  | .fabric id => fabGiveUp s1 id (if write then 2 else 1)
  | .receive conn psn => rejectPacket s1 conn psn
  | .plan slot => abortPlan s1 slot
  | .done launch => match s1.pkg.launches.find? (fun l => l.id = launch) with
    | some l => launchLeaves s1 l
    | none => s1
  | .host => s1
  | .record _ => s1
  | .dispatch _ => s1
  | .nobody => s1

/-- FRESP_ABORT (R414). -/
def execFrespAbort (tag : Nat) (s : State) : Host.Outcome State Fault Refusal :=
  .next (match waitingRecord s tag with
    | none => s
    | some f => if s.pkg.frozen then s else abortFault s f)

end Sys2Proof.Machine
end

