-- ==== Sys2Proof/Machine/Device.lean ====
section
/-! DEFINITION. Boot and resets (18_device.md R466-R468), freeze and scan (R469, R470), ageing (R471, R472), limits (R476), the control
window (16_package.md R405) and the host link (R477, R478). -/

namespace Sys2Proof.Machine

/-! ## Reset and boot (R466, R467) -/

/-- Package reset: every on-chip array and counter is clear; second-tier memory, what stands in flash and the unlocked scan network keep
what they hold (R466, R470). Stage 1 begins. The numbers by which the model names instructions and crews go on, so that an image made before
the reset keeps the order of its entries (R433). -/
def resetPackage (s : State) (warm : Bool) : State :=
  { State.reset with
    mem := s.mem
    memBad := s.memBad
    draw := s.draw + 1
    nextOp := s.nextOp
    agenda := s.agenda
    foreign := s.foreign
    pkg := { Pkg.start with
      debug := s.pkg.debug, images := s.pkg.images, crewNames := s.pkg.crewNames, flash := s.pkg.flash
      boot := { Boot.start with stage := 1, warm := warm } } }

/-- Boot goes on to a stage, or fails with a code. -/
def bootTo (s : State) (stage : Nat) : State := s.modPkg (fun p => { p with boot := { p.boot with stage := stage } })
def bootFails (s : State) (code : Nat) : State := s.modPkg (fun p => { p with boot := { p.boot with fail := code } })

/-- A number that the image or a measurement sets at boot, undefined here (log 3). -/
def bootValue (s : State) (k bits : Nat) : Nat := (Config.freeWord (s.draw * 65536 + 20900 + k)).toNat % 2 ^ bits

/-- Opcodes that R43 lists, vendor-debug ones apart, and their floors: first opcode, last opcode, floor. -/
def tableRows : List (Nat × Nat × Nat) :=
  [(0x000, 0x000, 1), (0x001, 0x025, 4), (0x03E, 0x03E, 4), (0x040, 0x04D, 4), (0x04E, 0x04F, 12), (0x050, 0x052, 6), (0x053, 0x054, 4),
   (0x080, 0x088, 8), (0x089, 0x089, 1), (0x08A, 0x090, 12), (0x091, 0x092, 1), (0x093, 0x094, 8), (0x0A0, 0x0AC, 8)]
  ++ [(0x0C0, 0x0C8, 2), (0x0C9, 0x0CA, 1), (0x0CB, 0x0CC, 2), (0x0E0, 0x0E9, 1), (0x100, 0x10F, 1), (0x140, 0x150, 1), (0x160, 0x165, 1),
   (0x170, 0x175, 1), (0x180, 0x189, 1), (0x1A0, 0x1A3, 1), (0x1B0, 0x1B4, 1), (0x1C0, 0x1C5, 1)]
/-- The floor of an opcode in R43; none for one that it reserves or leaves to vendor debug. -/
def tableFloor (o : Nat) : Option Nat := (tableRows.find? (fun r => r.1 ≤ o && o ≤ r.2.1)).map (fun r => r.2.2)
/-- What signed firmware may change in a decode table (R47): states between assigned and emulate, floors upward. -/
def tableLegal (t : DecTable) : Bool :=
  t.emul.all (fun o => (tableFloor o).isSome) && t.emul.eraseDups = t.emul && t.floors.all (fun f => match tableFloor f.1 with
    | some n => n ≤ f.2
    | none => false)
/-- Every core and Acorn is idle and every launch ring is closed (R48). -/
def tableIdle (s : State) : Bool :=
  s.crews.isEmpty && s.pkg.rings.all (fun e => !ringEnabled e.2) && s.pkg.launches.all (fun l => l.waiting.isEmpty)
/-- Firmware replaces the decode table (R47, R48): in stage 5 of boot, or while the package is idle. -/
def replaceTable (s : State) (t : DecTable) : State :=
  if tableLegal t && !s.pkg.frozen && s.pkg.boot.fail = 0 && (s.pkg.boot.stage = 5 || (s.pkg.boot.stage = 7 && tableIdle s))
  then s.modPkg (fun p => { p with table := t }) else s

/-- Stage 5 ends with the decode table in force: one that firmware has put there, or the one that ships, with the version of the signed
image (R48, R49); the fabric id and the dies' supplies, margins and FLOOR are set (R49, R463, R466, R472). -/
def loadTable (s : State) : State :=
  let s1 := s.modPkg (fun p => { p with
    table := if p.table = DecTable.shipped then { p.table with version := bootValue s 0 16 } else p.table
    fid := bootValue s 10 32 })
  let s2 := (List.range 4).foldl (fun s1 d => s1.setDie d { s1.die d with
    age := BitVec.ofNat 64 (bootValue s (1 + d) 16 * 2 ^ 48 + bootValue s (5 + d) 8 * 2 ^ 24 + bootValue s 9 8 * 2 ^ 16) }) s1
  { s2 with draw := s2.draw + 1 }

/-- A launch ring that the image lists, or one that it leaves out: a legal RCFG with ENABLE, and its base (R405, R466). -/
def imageRing (s : State) (r : Nat) : Ring :=
  let v := fun (k bits : Nat) => bootValue s (32 + 8 * r + k) bits
  if v 0 1 = 0 then Ring.start
  else { Ring.start with base := v 1 36 * 4096, cfg := 3 + v 2 16 % 14 + v 3 16 % 3 * 256 + 65536 + v 4 (if v 3 16 % 3 = 1 then 5 else 4) * 2 ^ 20 }
/-- Stage 6 (R466): CTXTAB, CTXN and the rings that the image lists, with RCFG.ENABLE; what the image lists is undefined here (log 42). -/
def setRings (s : State) : State :=
  let s1 := s.modPkg (fun p => { p with
    ctxtab := bootValue s 11 36 * 4096, ctxn := 1 + bootValue s 12 16 % 65535
    rings := (List.range 32).filterMap (fun r => if imageRing s r = Ring.start then none else some (r, imageRing s r)) })
  { s1 with draw := s1.draw + 1 }

/-- Package reset, or the end of the boot stage in progress with its outcome (R466). Stage 2 ends with its fetch attempts. -/
def bootStep (s : State) (o : BootOutcome) : State :=
  let b := s.pkg.boot
  if s.pkg.frozen || b.stage = 0 || b.stage = 7 || b.fail != 0 then resetPackage s false
  else if b.stage = 1 then (if o = .ok then bootTo s 2 else s)
  else if b.stage = 3 then (if o = .ok then bootTo s 4 else if o = .badSignature then bootFails s 4 else s)
  else if b.stage = 4 then
    (if o = .ok then bootTo { s with retired := s.pkg.flash } 5 else if o = .trainingFailed then bootFails s 5 else s)
  else if b.stage = 5 then (if o = .ok then bootTo (loadTable s) 6 else if o = .badTable then bootFails s 6 else s)
  else if b.stage = 6 then (if o = .ok then bootTo (setRings s) 7 else s)
  else s

/-- PACKAGE_RESET (R466): clears the part where boot is not under way, and otherwise ends the stage in progress. -/
def execPackageReset (stage : BootOutcome) (s : State) : Host.Outcome State Fault Refusal := .next (bootStep s stage)

/-- A failed attempt of stage 2: the eighth ends boot with its code (R466). -/
def fetchFails (s : State) (code : Nat) : State :=
  let s1 := s.modPkg (fun p => { p with boot := { p.boot with tries := p.boot.tries + 1 } })
  if 8 ≤ s1.pkg.boot.tries then bootFails s1 code else s1

/-- IMAGE_FETCH_ATTEMPT (R466, R467): a warm start with a matching retained image skips stage 2. -/
def execImageFetchAttempt (outcome : BootOutcome) (s : State) : Host.Outcome State Fault Refusal :=
  let b := s.pkg.boot
  .next (if s.pkg.frozen || b.stage != 2 || b.fail != 0 then s
    else match outcome with
      | .warmImage => if b.warm && b.tries = 0 then bootTo s 3 else s
      | .ok => bootTo (s.modPkg (fun p => { p with boot := { p.boot with tries := p.boot.tries + 1 } })) 3
      | .noLink => fetchFails s 1
      | .noAddress => fetchFails s 2
      | .httpError => fetchFails s 3
      | .badSignature => s
      | .trainingFailed => s
      | .badTable => s)

/-- WARM_START (R467); after a freeze every reset is a cold start (R469). -/
def execWarmStart (s : State) : Host.Outcome State Fault Refusal := .next (resetPackage s (!s.pkg.frozen))
/-- COLD_START (R467). -/
def execColdStart (s : State) : Host.Outcome State Fault Refusal := .next (resetPackage s false)

/-! ## Freeze, scan and limits (R469-R472, R476) -/

/-- Every clock stops within 8 cycles of the edge, each after a number of them that is undefined here and recorded: those of the compute dies, of
the base dies, of the I/O dies' logic and of their Chestnut cores, which run at 2.0 GHz (R1, R469, log 35). -/
def freezeAt (s : State) : State :=
  if s.pkg.frozen then s
  else { s.modPkg (fun p => { p with
    frozen := true, edge := some s.cycle, stops := (List.range 12).map (fun i => (Config.freeWord (s.draw * 65536 + 20700 + i)).toNat % 9) }) with
    draw := s.draw + 1 }
/-- FREEZE (R469). -/
def execFreeze (s : State) : Host.Outcome State Fault Refusal := .next (freezeAt s)
/-- SCAN_READOUT (R470): reading a segment of a frozen package changes no state. -/
def execScanReadout (_segment : Nat) (s : State) : Host.Outcome State Fault Refusal := .next s
/-- DEBUG_UNLOCK (R45, R470): debug mode is entered after a signed unlock. -/
def execDebugUnlock (signatureValid : Bool) (s : State) : Host.Outcome State Fault Refusal :=
  .next (if signatureValid then s.modPkg (fun p => { p with debug := true }) else s)

/-- AGE0 to AGE3 after a reading (R472): REPLANS counts the changes of the supply and stops at 0xFFFF. LIMIT stands only with a margin
below FLOOR (R471). -/
def ageOf (old : Word) (margin worst vdd : Nat) (limit : Bool) : Word :=
  let n := old.toNat % 65536
  let n := if old.toNat / 2 ^ 48 = vdd % 65536 then n else min (n + 1) 0xFFFF
  let floor := old.toNat / 2 ^ 16 % 256
  BitVec.ofNat 64 (vdd % 65536 * 2 ^ 48 + (if limit && margin % 256 < floor then 2 ^ 39 else 0) + worst % 38 * 2 ^ 32 + margin % 256 * 2 ^ 24
    + floor * 2 ^ 16 + n)
/-- PATH_MONITOR_READ (R471), whose smallest margin is that of one of the die's 38 clusters (R472). -/
def execPathMonitorRead (die margin worst vdd : Nat) (limit : Bool) (s : State) : Host.Outcome State Fault Refusal :=
  .next (if 4 ≤ die || 38 ≤ worst || s.pkg.frozen then s else s.setDie die { s.die die with age := ageOf (s.die die).age margin worst vdd limit })

/-- POWER_LIMIT (R476): only timing changes. -/
def execPowerLimit (above : Bool) (s : State) : Host.Outcome State Fault Refusal :=
  .next (if s.pkg.frozen then s else s.modPkg (fun p => { p with slow := above }))
/-- THERMAL_TRIP (R476): the package stops as FREEZE stops it. -/
def execThermalTrip (s : State) : Host.Outcome State Fault Refusal :=
  .next ((freezeAt s).modPkg (fun p => { p with tripped := true }))

/-! ## The host link (R477) -/

/-- The unit number under which the host link's accesses reach the slices: that of the first I/O die's engines (log 38). -/
def hostUnit : Nat := portUnit 0

/-- Reads n bytes inside one 8-byte word, or up to the end of one, at their home, each with the mark of its word (R259, R332). -/
def hostWord (s : State) (pa n : Nat) : Except VErr (State × List (Byte × Bool)) :=
  if lineHeld s .host hostUnit (pa / 128) false then .error (.held (pa / 128) false)
  else match homeBytes (engineGoes s .host hostUnit (pa / 128)) pa n with
    | .error v => .error (.wait v)
    | .ok (s1, v, bad) => .ok (s1, (bytesLE v n).map (fun b => (b, bad)))
/-- Reads bytes at their homes, each 8-byte word whole (R259). -/
def hostRead (pa count : Nat) (s : State) : Except VErr (State × List (Byte × Bool)) :=
  ((List.range ((pa + count + 7) / 8 - pa / 8)).map (fun i => pa / 8 + i)).foldlM (fun a w => do
    let lo := max pa (8 * w)
    let (s1, t) ← hostWord a.1 lo (min (pa + count) (8 * w + 8) - lo)
    return (s1, a.2 ++ t)) (s, [])

/-- PORT_LINK_CHANGE (R463): FABST.UP bit n. -/
def execPortLinkChange (port : Nat) (up : Bool) (s : State) : Host.Outcome State Fault Refusal :=
  .next (if 12 ≤ port || s.pkg.frozen then s
    else s.modPkg (fun p => { p with ports := (p.ports &&& ~~~(1#12 <<< port)) ||| (if up then 1#12 <<< port else 0) }))

/-! ## The control window (R405) -/

/-- A write to a launch ring's register. -/
def ringWrite (s : State) (r reg v : Nat) : State :=
  let g := s.ring r
  match reg with
  | 0x00 => s.setRing r { g with base := v / 4096 * 4096 % 2 ^ 48 }
  | 0x08 => s.setRing r { g with cfg := v % 32 + v / 256 % 4 * 256 + v / 65536 % 2 * 65536 + v / 2 ^ 20 % 32 * 2 ^ 20 }
  | 0x18 => s.setRing r { g with tail := v % 65536 }
  | 0x20 => s.setRing r { g with rej := v }
  | _ => s

/-- A write to a fault ring's register; FRESP is the resolution of a fault (R414). -/
def fringWrite (s : State) (i reg v : Nat) : State :=
  let g := s.fring i
  match reg with
  | 0x00 => s.setFring i { g with base := v / 4096 * 4096 % 2 ^ 48 }
  | 0x08 => s.setFring i { g with cfg := v % 32 + v / 65536 % 4 * 65536 + v / 2 ^ 20 % 32 * 2 ^ 20 }
  | 0x18 => s.setFring i { g with tail := v }
  | 0x20 => match waitingRecord s (v % 2 ^ 32) with
    | none => s
    | some f => if v.testBit 32 then abortFault s f else retryFault s f
  | _ => s

/-- A write of a 64-bit value at an offset of the control window; read-only registers and unnamed offsets ignore it. -/
def windowWrite (s : State) (offset v : Nat) : State :=
  if offset = 0 then s.modPkg (fun p => { p with ctxtab := v / 4096 * 4096 % 2 ^ 48 })
  else if offset = 8 then s.modPkg (fun p => { p with ctxn := v % 65536 })
  else if offset = 16 then
    if v = 0x5741524D then resetPackage s true else if v = 0x434F4C44 then resetPackage s false else s
  else if 0x10000 ≤ offset && offset < 0x10000 + 0x100 * 32 then ringWrite s ((offset - 0x10000) / 0x100) (offset % 0x100) v
  else if 0x20000 ≤ offset && offset < 0x20000 + 0x100 * 16 then fringWrite s ((offset - 0x20000) / 0x100) (offset % 0x100) v
  else s

/-- A read of the register at an offset of the control window: a write-only register reads as 0 (R5, R405), and so does an offset that names
none (DESIGN CHOICE, log 43). -/
def windowRead (s : State) (offset : Nat) : Nat :=
  if offset = 0 then s.pkg.ctxtab
  else if offset = 8 then s.pkg.ctxn
  else if 0x10000 ≤ offset && offset < 0x10000 + 0x100 * 32 then
    let g := s.ring ((offset - 0x10000) / 0x100)
    match offset % 0x100 with
    | 0x00 => g.base
    | 0x08 => g.cfg
    | 0x10 => g.head
    | 0x18 => g.tail
    | 0x20 => g.rej
    | _ => 0
  else if 0x20000 ≤ offset && offset < 0x20000 + 0x100 * 16 then
    let g := s.fring ((offset - 0x20000) / 0x100)
    match offset % 0x100 with
    | 0x00 => g.base
    | 0x08 => g.cfg
    | 0x10 => g.head
    | 0x18 => g.tail
    | 0x28 => g.stat
    | _ => 0
  else 0
/-- A read of the control window, whole, by system software or by the host (R405, R477). -/
def readWindow (s : State) (offset : Nat) : State :=
  if s.pkg.frozen then s else s.modPkg (fun p => { p with hostRead := (bytesLE (windowRead s offset) 8).map (fun b => (b, false)) })

/-! ## Accesses of the host in their order (R477, R478) -/

/-- Applies an access of the host: bytes as an engine write or read at their home slices (R259, R316), or why it waits. -/
def applyPosted (s : State) (p : Posted) : Except VErr State :=
  match p with
  | .bytes pa bs =>
    let cells : List (Nat × Byte × Bool) := (bs.zipIdx).map (fun e => (pa + e.2, e.1, false))
    homePut .host hostUnit cells ((cells.map (fun c => c.1 / 128)).eraseDups) s
  | .tail ring v => .ok (ringWrite s ring 0x18 v)
  | .read pa count => (hostRead pa count s).map (fun r => r.1.modPkg (fun p => { p with hostRead := r.2 }))

/-- The host's accesses in their order, up to the first that waits: it and those behind it stay, and it takes its place behind a lock (R368,
R478). A read stays behind the writes before it, as on PCIe (PRESUMED, log 38). -/
def applyAllPosted (s : State) : List Posted → State
  | [] => s.modPkg (fun p => { p with posted := [] })
  | p :: t =>
    let s0 := s.modPkg (fun k => { k with posted := p :: t })
    match applyPosted s0 p with
    | .ok s1 => applyAllPosted s1 t
    | .error v => v.waitsAs .host s0

/-- The end of a cycle applies what the host's writes waited for. -/
def postedStep (s : State) : State := if s.pkg.posted.isEmpty then s else applyAllPosted s s.pkg.posted

/-- A new access of the host goes behind those that wait. -/
def hostPost (s : State) (p : Posted) : State := applyAllPosted s (s.pkg.posted ++ [p])

/-- HOST_BAR2_ACCESS (R477): an engine read or write at the home slices (R259, R316). Addresses beyond memory are not mapped. An
access that its home holds waits, and so do the later ones (R478). -/
def execHostBar2Access (pa : Nat) (write : Option (List Byte)) (count : Nat) (s : State) : Host.Outcome State Fault Refusal :=
  .next (if s.pkg.frozen then s else match write with
    | some bs => if Config.memTop < pa + bs.length then s else hostPost s (.bytes pa bs)
    | none =>
      if Config.memTop < pa + count then s else hostPost s (.read pa count))

/-- The launch ring whose RTAIL an offset of the control window names, where the ring's writer is the host (R405). -/
def hostTail (s : State) (offset : Nat) : Option Nat :=
  let r := (offset - 0x10000) / 0x100
  if 0x10000 ≤ offset && r < 32 && offset % 0x100 = 0x18 && (s.ring r).cfg / 256 % 4 = 1 then some r else none

/-- A Chestnut core appends a retired frame to the bad-frame list in signed flash (R420 step 5). -/
def appendBadFrame (s : State) (frame : Nat) : State :=
  if s.pkg.frozen || !s.retired.contains frame || s.pkg.flash.contains frame then s else s.modPkg (fun p => { p with flash := p.flash ++ [frame] })

/-! ## The end of a context (R342, R394, R460) -/

/-- A context ends (log 73: the spec does not say by which step). Once no crew, Acorn program or launch of it is left, its seal entries are
removed (R342), its Sprout jobs are abandoned (R394), and its plan slots are aborted (R460). -/
def endContext (s : State) (ctx : Nat) : State :=
  if s.pkg.frozen || s.crews.any (fun e => e.2.ctx = ctx) || s.pkg.launches.any (fun l => l.ctx = ctx) then s
  else
    let (s1, cr) := readDesc s 1524 ctx
    let s2 := endJobs (endSeals s1 (cr.asid.toNat % 65536)) ctx
    ((s2.pkg.plans.filter (fun e => e.2.ctx = ctx)).map (fun e => e.1)).foldl abortPlan s2

/-- REGISTER_WRITE (R405). A host's RTAIL takes effect after the host's earlier posted writes (R478). -/
def execRegisterWrite (offset : Nat) (value : Word) (s : State) : Host.Outcome State Fault Refusal :=
  .next (if s.pkg.frozen then s else match hostTail s offset with
    | some r => hostPost s (.tail r value.toNat)
    | none => windowWrite s offset value.toNat)

end Sys2Proof.Machine
end

