-- ==== Sys2Proof/Machine/Csr.lean ====
section
/-! DEFINITION. The CSRs that a unit other than the warp holds, from address 0x100 on (07_thread_control_traps.md R172-R175), as they are
read and written when the request reaches the unit. -/

namespace Sys2Proof.Machine

/-- POOLFREE (R212). -/
def poolWord (s : State) (key : Nat) (w : Warp) : Word :=
  let rows := (crewWarps s w.crew).foldl (fun a e => a + e.2.allot) 0
  BitVec.ofNat 64 (rows % 4096 * 65536 + (s.core (keyUnit key)).poolFree % 4096)
/-- CLAIMW (R213). -/
def claimWord (s : State) (key : Nat) : Word :=
  let cs := (s.core (keyUnit key)).claims
  BitVec.ofNat 64 (cs.length % 256 * 2 ^ 32 + (match cs with
    | [] => 0
    | c :: _ => c.rows % 4096 * 65536 + 128 + c.key % 32))
/-- ROLEB (R214). -/
def roleWord (w : Warp) : Word := BitVec.ofNat 64 (w.allot % 256 * 65536 + w.prio % 4 * 256 + w.role % 8)
/-- FABST (R463). -/
def fabWord (s : State) : Word := BitVec.ofNat 64 (s.pkg.fid % 2 ^ 32 * 2 ^ 32 + s.pkg.plans.length % 128 * 65536 + s.pkg.ports.toNat)
/-- DECVER (R49): one opcode in emulate state, LVERMAX 0, part 0x0720. -/
def decverWord (s : State) : Word := BitVec.ofNat 64 (s.pkg.table.emul.length % 256 * 2 ^ 40 + s.pkg.table.version % 65536 * 65536 + 0x0720)
/-- BOOTST (R468). -/
def bootWord (s : State) : Word :=
  let b := s.pkg.boot
  BitVec.ofNat 64 (b.tries % 256 * 2 ^ 32 + b.fail % 256 * 256 + (if b.warm then 128 else 0) + b.stage % 8)
/-- A context CSR of a crew (R407). -/
def ctxWord (c : CtxRegs) (i : Nat) : Word :=
  match i with
  | 0 => c.heapb
  | 1 => c.heapl
  | 2 => c.heapo
  | 3 => c.ptbr
  | 4 => c.asid
  | 5 => c.trtb
  | 6 => c.trtn
  | _ => c.ctxpri
/-- A crew's copy with one context CSR replaced. -/
def ctxSet (c : CtxRegs) (i : Nat) (v : Word) : CtxRegs :=
  match i with
  | 0 => { c with heapb := v }
  | 1 => { c with heapl := v }
  | 2 => { c with heapo := v }
  | 3 => { c with ptbr := v }
  | 4 => { c with asid := v }
  | 5 => { c with trtb := v }
  | 6 => { c with trtn := v }
  | _ => { c with ctxpri := v }

/-- The bits of a core's own CSR that its map does not reserve (R212, R213, R219, R223); a reserved bit reads as zero (R6). -/
def coreCsrMask (csr : Nat) : Word :=
  match csr with
  | 0x100 => 0xFFFFFFFF000000FF
  | 0x101 => 0x000000000FFF0FFF
  | 0x103 => 0x000000FF0FFF009F
  | 0x104 => 0xFFFFCFFFFFFFFFFF
  | _ => 0

/-- A CSR of a unit as a warp reads it (R172); the fields of a core's own CSRs are undefined on an Acorn, which has no core (log 3). -/
def unitCsr (s : State) (key : Nat) (w : Warp) (csr : Nat) : Word :=
  let cl := unitCluster (keyUnit key)
  let die := clusterDie cl
  if keyAcorn key && 0x100 ≤ csr && csr ≤ 0x104 then Config.freeWord (s.draw * 65536 + 20800) &&& coreCsrMask csr
  else if csr = 0x100 then (s.core (keyUnit key)).waker
  else if csr = 0x101 then poolWord s key w
  else if csr = 0x103 then claimWord s key
  else if csr = 0x104 then (s.core (keyUnit key)).deadlk
  else if csr = 0x105 then roleWord w
  else if csr = 0x200 then (s.cluster cl).mxerr
  else if csr = 0x201 then mseqNow s cl
  else if csr = 0x202 then (s.cluster cl).cpyerr
  else if 0x300 ≤ csr && csr ≤ 0x307 then BitVec.ofNat 64 ((slicesSum s (dieSlices die)).getD (csr - 0x300) 0)
  else if csr = 0x310 then sproutStatus s die
  else if 0x400 ≤ csr && csr ≤ 0x407 then (match s.crew w.crew with
    | some c => ctxWord c.cregs (csr - 0x400)
    | none => 0)
  else if csr = 0x500 then fabWord s
  else if csr = 0x501 then flushw s key w
  else if 0x600 ≤ csr && csr ≤ 0x603 then (s.die (csr - 0x600)).age
  else if csr = 0x610 then decverWord s
  else if csr = 0x611 then bootWord s
  else 0

/-- A write to fields that are cleared by writing 1: the write and set operations clear, the clear operation leaves them (R174). -/
def clearOnes (old : Word) (op : Nat) (src fields : Word) : Word := if op = 2 then old else old &&& ~~~(src &&& fields)

/-- One lane's operation on a CSR of a unit; fields marked RO keep their values (R5, R174). -/
def unitCsrWrite (s : State) (key csr op : Nat) (src : Word) : State :=
  let cl := unitCluster (keyUnit key)
  if csr = 0x104 && !keyAcorn key then s.modCore (keyUnit key) (fun c => { c with deadlk := clearOnes c.deadlk op src 0x0000C00000000000 })
  else if csr = 0x200 then s.modCluster cl (fun k => { k with mxerr := clearOnes k.mxerr op src 0xF0F })
  else if csr = 0x202 then s.modCluster cl (fun k => { k with cpyerr := clearOnes k.cpyerr op src 0xF })
  else if csr = 0x501 then s.modWarp key (fun w => { w with fabFail := w.fabFail && (op = 2 || !src.getLsbD 45) })
  else if 0x400 ≤ csr && csr ≤ 0x407 then
    match s.warp key with
    | none => s
    | some w => s.modCrew w.crew (fun c => { c with
        cregs := ctxSet c.cregs (csr - 0x400) (csrApply op (ctxWord c.cregs (csr - 0x400)) src (ctxMask (csr - 0x400))) })
  else s

/-- A CSRR reaches the unit (R172). -/
def csrReadStep (s : State) (key : Nat) (p : Pend) (csr : Nat) : State :=
  match s.warp key with
  | none => s
  | some w => completeWith { s with draw := s.draw + 1 } key p (unitCsr s key w csr)

/-- A CSRW, CSRS or CSRC reaches the unit: once for each lane, in ascending order (R174). -/
def csrWriteStep (s : State) (key : Nat) (p : Pend) (csr op : Nat) (srcs : List Word) : State :=
  completePend (srcs.foldl (fun s v => unitCsrWrite s key csr op v) s) key p

end Sys2Proof.Machine
end

