-- ==== Sys2Proof/Machine/Select.lean ====
section
/-! DEFINITION. Choosing what issues: the candidate run of a warp (04_threads.md R88), eligibility (R85, R87), the warp of a quad
(R85, R86), fetch lines and pairs (02_encoding.md R12-R23). -/

namespace Sys2Proof.Machine

/-! ## The candidate run (R88, R432) -/

/-- The lowest PC among some lanes. -/
def lowestPc (pt : PcTable) : List Nat → Option Word
  | [] => none
  | l :: t => match lowestPc pt t with
    | none => some (pt.pcs.getD l 0)
    | some p => some (if (pt.pcs.getD l 0).toNat ≤ p.toNat then pt.pcs.getD l 0 else p)

/-- The largest skip count among some lanes. -/
def largestSkip (pt : PcTable) (ls : List Nat) : Nat := ls.foldl (fun m l => max m (pt.skips.getD l 0)) 0

/-- The lanes of a run: every live thread at a PC. -/
def runAt (pt : PcTable) (pc : Word) : Mask := maskOf (fun l => pt.live.getLsbD l && pt.pcs.getD l 0 == pc)

/-- The PC of the candidate run among some lanes: the lowest one while no skip count has reached 32, else the lowest one among the
lanes with the largest count (R88). -/
def candidatePc (pt : PcTable) (ls : List Nat) : Option Word :=
  let m := largestSkip pt ls
  lowestPc pt (if m < 32 then ls else ls.filter (fun l => pt.skips.getD l 0 == m))

/-- The lanes that a warp chooses among: its live threads, without those that a pre-emption request holds at a safe point (R432). -/
def choiceLanes (c : Crew) (w : Warp) : List Nat :=
  let ls := lanesOf w.pt.live
  if c.preempt.isSome && !w.tm then ls.filter (fun l => (safeAt c (w.pt.pcs.getD l 0)).isNone) else ls

/-- The candidate of a warp: its PC and its active set. -/
def candidate (c : Crew) (w : Warp) : Option (Word × Mask) := (candidatePc w.pt (choiceLanes c w)).map (fun pc => (pc, runAt w.pt pc))

/-! ## The fetch buffer (R12, R15) -/

/-- The XOR of the 16-bit halfwords of a line's slots and of its line word (R14): zero where the line is consistent. -/
def lineXor (d : BitVec 512) : BitVec 16 := (List.range 32).foldl (fun a i => a ^^^ d.extractLsb' (16 * i) 16) 0
/-- The line's version is 0 and its reserved bits are zero (R13). -/
def lineVersionOk (d : BitVec 512) : Bool := (lineHead d).extractLsb' 9 7 = 0

/-- A fault record holds the runs at a PC of a warp (R412). -/
def fetchHeld (s : State) (key : Nat) (pc : Word) : Bool := s.faults.any (fun f => f.waiter = .fetch key pc)

/-- The trap of a line's own checks (R15), and of a PC that names no slot (R493): before any slot of the line issues. There is no
instruction and no guard: EXEC is the whole active set (DESIGN CHOICE, log 79). -/
def lineTrap (s : State) (cause : Nat) (pc : Word) (act : Mask) : TrapRec :=
  { cause := cause, stage := .decode, late := false, info := 0, pc := pc, act := act, exec := act, word := freeInst s, slots := none,
    cycle := s.cycle }

/-- A core brings the candidate's line into the fetch buffer and checks it (R15, R410, R412); it waits while an STT holds the line (R368). A line
with an uncorrectable word traps as one whose parity is wrong does (R473; DESIGN CHOICE, log 79). -/
def fetchLine (s : State) (key : Nat) : State :=
  match s.warp key with
  | none => s
  | some w => match s.crewSeen w.crew with
    | none => s
    | some c => match candidate c w with
      | none => s
      | some (pc, act) =>
        -- a warp that holds a pending trap fetches nothing more (R177)
        if !pcNamesSlot pc || (lineAt w pc).isSome || fetchHeld s key pc || (!w.tm && !w.traps.isEmpty) || c.ending.isSome then s
        else
          let e : Env := ⟨keyUnit key, c.cregs, .fetch key pc⟩
          match readCode e s (pcLine pc) with
          | .error (.fault _ reason pte _) =>
            sendFault s (faultOf c (keyUnit key) (keySlot key) reason 4 (pcLine pc) pc pte (.fetch key pc))
          | .error v => v.waits e s
          | .ok (s1, d, bad) =>
            let s2 := { s1 with draw := s1.draw + 1 }
            if bad || lineXor d != 0 then raiseTrap (s2.modWarp key (fun w => { w with fetch := none })) key (lineTrap s2 cPARITY pc act)
            else if !lineVersionOk d then raiseTrap (s2.modWarp key (fun w => { w with fetch := none })) key (lineTrap s2 cILLOP pc act)
            else s2.modWarp key (fun w => { w with fetch := some (pcLine pc, d), fetchAsid := c.cregs.asid.toNat % 65536 })

/-- FETCH_LINE (R15). -/
def execFetchLine (unit slot : Nat) (s : State) : Host.Outcome State Fault Refusal := .next (fetchLine s (unit * 32 + slot))

/-! ## Eligibility (R85, R87) -/

/-- Incomplete M-pipe instructions of a quad's warps (R87). -/
def quadPending (s : State) (q : Nat) : Nat :=
  (s.warps.filter (fun e => keyQuad e.1 = q)).foldl (fun a e => a + (e.2.pend.filter (fun p => p.mpipe)).length) 0

/-- The pipe accepts an instruction of a warp in this cycle (R46, R87, R190, R266). -/
def pipeFree (s : State) (key : Nat) (w : Warp) (p : Pipe) : Bool :=
  match p with
  | .a => (s.quad (keyQuad key)).aHold != s.cycle || s.cycle = 0
  | .m => quadPending s (keyQuad key) < 32 && w.blockM.isEmpty && logCount w < 4
  | _ => true

/-- The switch stop holds back a run (R28, R98): it stands until the counters are zero and every floor has passed. A counter that reaches
zero in cycle t counts as zero from t + 1 on, as R23 says for WAIT (DEDUCED, log 62). -/
def switchStop (w : Warp) (act : Mask) (cycle : Nat) : Bool :=
  let c16 := w.c16 && !w.tm
  let half := fun (lo : Nat) => w.drainAt ≤ cycle
    && (List.range (if c16 then 12 else 24)).all (fun n => ctrGet w (lo + n) == 0 && w.zeroFrom.getD (lo + n) 0 ≤ cycle)
  (w.stopLo && (!c16 || act &&& 0xFFFF#32 != 0) && !half 0) || (w.stopHi && c16 && act &&& 0xFFFF0000#32 != 0 && !half 12)

/-- A run has a lane in a half that is asleep (R215). -/
def runAsleep (w : Warp) (act : Mask) : Bool :=
  let hs := sleepHalves w act
  !w.tm && ((hs.1 && w.sleepLo.asleep) || (hs.2 && w.sleepHi.asleep))

/-- DIST and the floor of the last issue let an instruction issue (R27). -/
def distHolds (w : Warp) (dist cycle : Nat) : Bool :=
  match w.lastIssue with
  | none => true
  | some c => c + max dist w.lastFloor ≤ cycle

/-- The core or Acorn of a warp runs: it is not gated or just woken (R218). -/
def unitRuns (s : State) (unit : Nat) : Bool := 1216 ≤ unit || (!(s.core unit).gated && (s.core unit).wakeAt ≤ s.cycle)

/-- A warp may issue from its candidate run, the instruction's own fields apart. -/
def warpRuns (s : State) (key : Nat) (w : Warp) (c : Crew) : Bool :=
  c.ending.isNone && (w.tm || w.traps.isEmpty) && (w.switching.isNone || w.tm) && w.holdUntil ≤ s.cycle && w.tried != some s.cycle
    && w.lastIssue != some s.cycle && unitRuns s (keyUnit key) && !s.pkg.frozen
    && !w.pend.any (fun p => match p.late with
      | .tret => true
      | .handlerExit => true
      | _ => false)

/-- The fields of an instruction word let it issue (R22, R23, R27, R85). A word without meaning is on no pipe. -/
def wordReady (s : State) (key : Nat) (w : Warp) (act : Mask) (word : IWord) (room : Nat) : Bool :=
  let h := hdrOf word
  let pipe := match decode word with
    | .ok i => (instrInfo i).pipe
    | .error _ => .none
  waitHolds w h act s.cycle && (12 < h.setf.toNat || setfRoom w h act room) && distHolds w h.dist.toNat s.cycle
    && pipeFree s key w pipe

/-- A warp is eligible in this cycle (R85). A candidate at a PC that names no slot needs no line (R493). -/
def eligible (s : State) (key : Nat) : Bool :=
  match s.warp key with
  | none => false
  | some w => match s.crewSeen w.crew with
    | none => false
    | some c => warpRuns s key w c && (match candidate c w with
      | none => false
      | some (pc, act) => !fetchHeld s key pc && !runAsleep w act && !switchStop w act s.cycle
        && (if pcNamesSlot pc then (match wordAt w pc with
            | none => false
            | some word => wordReady s key w act word 1)
          else distHolds w 0 s.cycle))

/-! ## The warp of a quad (R85, R86) -/

/-- A warp's last issue lies further in the past than another's; one that has not issued comes first. -/
def olderIssue (a b : Warp) : Bool :=
  match a.lastIssue, b.lastIssue with
  | none, some _ => true
  | some x, some y => x < y
  | _, none => false

/-- One warp goes before another by the rules of R85; of equals the one in the lower slot, which stands first. -/
def goesBefore (a b : Warp) : Bool := b.prio < a.prio || (a.prio = b.prio && olderIssue a b)

/-- The best of some warps, in ascending slots. -/
def bestOf : List (Nat × Warp) → Option (Nat × Warp)
  | [] => none
  | e :: t => match bestOf t with
    | none => some e
    | some f => some (if goesBefore f.2 e.2 then f else e)

/-- The eligible warps of a quad, in ascending slots. -/
def eligibles (s : State) (q : Nat) : List (Nat × Warp) := s.warps.filter (fun e => keyQuad e.1 = q && eligible s e.1)

/-- The older of some warps by their counts, in ascending slots; the lower slot of equals. -/
def oldestOf : List (Nat × Warp) → Option (Nat × Warp)
  | [] => none
  | e :: t => match oldestOf t with
    | none => some e
    | some f => some (if e.2.age < f.2.age then f else e)

/-- The warp that the age rule puts at the head of a quad (R86): one that has reached the count stays ahead of those that reach it later,
so the highest count goes first and, of those that reached it in one cycle, the lowest slot (log 63). -/
def agedWarp (s : State) (q : Nat) : Option Nat :=
  (oldestOf ((eligibles s q).filter (fun e => 256 ≤ e.2.age))).map (fun e => e.1)

/-- A quad of the core with a higher number has issued in this cycle: the quads of a core issue in ascending order (R230). -/
def quadPassed (s : State) (q : Nat) : Bool := (List.range 4).any (fun i => q % 4 < i && (s.quad (q / 4 * 4 + i)).issued = some s.cycle)

/-- The warp that a quad issues from in this cycle (R85, R86). -/
def chosen (s : State) (q : Nat) : Option Nat :=
  if (s.quad q).issued = some s.cycle || quadPassed s q then none
  else match agedWarp s q with
    | some k => some k
    | none => (bestOf (eligibles s q)).map (fun e => e.1)

/-- AGE_OVERRIDE (R86): the warp that has been eligible for 256 cycles is chosen in the next issue of its quad. -/
def execAgeOverride (unit slot : Nat) (s : State) : Host.Outcome State Fault Refusal :=
  let key := unit * 32 + slot
  .next (if chosen s (keyQuad key) = some key && agedWarp s (keyQuad key) = some key then { s with agenda := .issue key :: s.agenda } else s)

/-- A quad chooses a warp: the other warps that are eligible in this cycle were not chosen (R86). -/
def markSeen (s : State) (key : Nat) : State :=
  let es := (eligibles s (keyQuad key)).map (fun e => e.1)
  { s with warps := s.warps.map (fun e => if e.1 != key && es.contains e.1 then (e.1, { e.2 with seen := some s.cycle }) else e) }

/-- The end of a cycle for a warp: the count of R86 rises where it was eligible and not chosen, and is zero otherwise; flags of
instructions that have completed are stored (R70); a REGGIVE in the first slot of a pair shrinks the allotment (R211), and a CSRW there takes
effect (R20). -/
def endCycle (cycle : Nat) (w : Warp) : Warp :=
  { settleCsr (settleGive (settleFlags w cycle) cycle) cycle with age := if w.seen = some cycle && w.lastIssue != some cycle then w.age + 1 else 0 }

/-- The end of a cycle for every warp. -/
def countAges (s : State) : State := { s with warps := s.warps.map (fun e => (e.1, endCycle s.cycle e.2)) }

/-! ## Pairs (R19-R21, R23) -/

/-- The bytes that an operand use reads or writes: registers first, then predicates, as numbers below and from 256 on. -/
def useRegs (d : Opd) : List Nat × List Nat :=
  let regs := fun (n : Nat) => if d.byte.toNat < 240 then (List.range n).map (fun i => d.byte.toNat + i) else []
  let pred := if 248 ≤ d.byte.toNat && d.byte.toNat < 255 then [256 + d.byte.toNat] else []
  match d.use with
  | .src n => (regs n, [])
  | .srcOpt2 => (regs 2, [])
  | .dst n => ([], regs n)
  | .upd n => (regs n, regs n)
  | .psrc => (pred, [])
  | .pdst => ([], pred)
  | _ => ([], [])

/-- Registers of a queue's elements (R252); an Acorn reaches its queue through the record of its queue-table entry (R278). -/
def queueWidth (s : State) (key crew : Nat) (x : Byte) : Nat :=
  let qn := x.toNat % 32
  let q := if !keyAcorn key then crewQueue s crew qn
    else match s.crew crew with
      | none => none
      | some c => match lookup s c.unit c.cregs (c.qhandles.getD qn 0) with
        | (_, .fault _ _ _) => none
        | (_, .found r _) => (acornQueue s c r).bind (fun e => crewQueue s e.1 e.2)
  match q with
  | some q => q.regs
  | none => 1

/-- The registers that a TRET would write back: those of the frame's dirty slots (R184). A byte below 16 names a register of the thread here,
and of the trap bank in the handler's instructions. -/
def tretRegs (s : State) (key : Nat) : List Nat :=
  match s.warp key with
  | none => []
  | some w =>
    if keyAcorn key then [] else ((List.range 5).filter (fun j => (frameByte s w 3).testBit j)).filterMap (fun j =>
      let r := frameByte s w (0x2C + j)
      if 16 ≤ r && r < w.allot then some r else none)

/-- What an instruction reads and writes (R19), its guards included, which NOP does not read (R29, R50). A queue operation moves an
element's registers (R254), CAS and CASS read vd and vd + 1 and write vd and pd (R245), PMOV reads or writes the predicates (R160), TRET
writes the predicates and the dirty registers (R184). -/
def readsWrites (s : State) (key crew : Nat) (i : Instr) (h : Hdr) : List Nat × List Nat :=
  let nop := match i with
    | .nop _ _ => true
    | _ => false
  let g := fun (b : BitVec 4) => if b.toNat % 8 = 7 || nop then [] else [256 + 248 + b.toNat % 8]
  let preds := fun (p : Nat → Bool) => ((List.range 7).filter p).map (fun n => 256 + 248 + n)
  let pd := fun (o : OpM) => preds (fun n => n = o.disp.toNat / 2 ^ 16 % 8)
  let ds := (instrShape i).opds
  let wide := fun (u : Use) (b x : Byte) => useRegs ⟨match u with
    | .dst _ => .dst (queueWidth s key crew x)
    | _ => .src (queueWidth s key crew x), b⟩
  let more := match i with
    | .push _ o => wide (.src 1) o.o2 o.x
    | .trypush _ o => wide (.src 1) o.o2 o.x
    | .pop _ o => wide (.dst 1) o.o1 o.x
    | .trypop _ o => wide (.dst 1) o.o1 o.x
    | .cas _ o => ([], pd o)
    | .cass _ o => ([], pd o)
    | .tret _ _ => ([], (if keyAcorn key then [] else preds (fun _ => true)) ++ tretRegs s key)
    | .pmovV _ _ => (preds (fun _ => true), [])
    | .pmovP _ o => ([], preds (fun n => o.x.getLsbD (n + 1)))
    | _ => ([], [])
  let cas := match i with
    | .cas _ _ => true
    | .cass _ _ => true
    | _ => false
  let all := (ds.map useRegs).map (fun e => if cas then (e.1, e.2.take 1) else e)
  (g h.ga ++ g h.gb ++ more.1 ++ all.flatMap (fun e => e.1), more.2 ++ all.flatMap (fun e => e.2))

/-- The second slot of a pair that may issue with the first, its decode traps apart: its PC and word (R19, R23). -/
def pairSecond (s : State) (key : Nat) (w : Warp) (pc : Word) (act : Mask) : Option (Word × IWord × Instr) :=
  let k := pc.toNat % 8
  match lineAt w pc, wordAt w pc, wordAt w (pc + 1) with
  | some d, some w1, some w2 =>
    if !linePair d k || (0 < k && linePair d (k - 1)) then none
    else match decode w1, decode w2 with
      | .ok i1, .ok i2 =>
        let h1 := hdrOf w1
        let h2 := hdrOf w2
        let p1 := (instrInfo i1).pipe
        let p2 := (instrInfo i2).pipe
        let nop := fun (i : Instr) => match i with
          | .nop _ _ => true
          | _ => false
        let a := readsWrites s key w.crew i1 h1
        let b := readsWrites s key w.crew i2 h2
        let room := if h1.setf = h2.setf then 2 else 1
        if wordReady s key w act w2 room && (p1 != p2 || nop i1 || nop i2) && p1 != .c && h1.sw = 0
            && !a.2.any (fun r => b.1.contains r || b.2.contains r) && !b.2.any (fun r => a.1.contains r)
        then some (pc + 1, w2, i2) else none
      | _, _ => none
  | _, _, _ => none

/-- The second slot of a warp's pair, whose first slot has issued in this cycle (R19). -/
def secondSlot (s : State) (w : Warp) : Option (Word × Mask) :=
  match w.pairNext with
  | none => none
  | some (pc, act) =>
    let decodes := match wordAt w pc with
      | some word => (decode word).toOption.isSome
      | none => false
    if w.lastIssue = some s.cycle && w.tried = some s.cycle && !s.pkg.frozen && decodes && act != 0
        && (lanesOf act).all (fun l => w.pt.live.getLsbD l && w.pt.pcs.getD l 0 == pc)
    then some (pc, act) else none

/-- The warp whose second slot issues now. -/
def secondWarp (s : State) : Option Nat := (s.warps.find? (fun e => (secondSlot s e.2).isSome)).map (fun e => e.1)

end Sys2Proof.Machine
end

