-- ==== Sys2Proof/Machine/Completion.lean ====
section
/-! DEFINITION. Completion of incomplete instructions (02_encoding.md R24), the end of warps and crews (07_thread_control_traps.md R169,
R185), clock gating (08_core_groups.md R218), the deadlock detector (R220-R223), and vendor debug (02_encoding.md R45). -/

namespace Sys2Proof.Machine

/-! ## COMPLETION (R24) -/

/-- A load whose elements have all arrived writes its registers and completes, or its table lands (R241, R144, R149). -/
def loadArrives (s : State) (key : Nat) (p : Pend) (es : List Elem) (sink : Sink) : State :=
  if !es.all elemDone then s
  else match sink with
    | .reg signed pair =>
      completePend s key (es.foldl (fun p e => putLane p pair e.idx ⟨loadLane signed e.n e.val e.bad, false, false⟩) p)
    | _ => tableLand s key p es sink

/-- Answers of a unit to a read (R294, R296). -/
def mxAnswer (s : State) (key : Nat) (p : Pend) (f : Cluster → Word) : State :=
  completeWith s key p (f (s.cluster (unitCluster (keyUnit key))))

/-- The next step of an incomplete instruction of a warp: what it waits for, or its completion. -/
def pendStep (s : State) (key : Nat) (w : Warp) (p : Pend) : State :=
  match p.late with
  | .done => completePend s key p
  | .csrRead csr => csrReadStep s key p csr
  | .csrWrite csr op srcs => csrWriteStep s key p csr op srcs
  | .tret => if ctrsZero w then leaveTrap (completePend s key p) key else s
  | .handlerExit => if ctrsZero w then handlerEnds (completePend s key p) key w w.tcause.toNat (Config.freeWord (s.draw * 65536 + 20602)) else s
  | .group g r => if grpReady s key p.op g r then applyGroup s key p g r else s
  | .groupWait _ waiting held => if waiting = 0 && held = 0 then completePend s key p else s
  | .role index warps => roleAdvance s key p index warps
  | .claim _ => s
  | .give _ _ => giveReturn s key p.op
  | .sleep => if sleepOver w p then completePend s key p else s
  | .load es sink => loadArrives s key p es sink
  | .replies n => if n = 0 then completePend s key p else s
  | .banks m => if scratchBusy w p.op then s else (match m.space with
    | .scratch crew => banksPerform s key p.op crew m
    | _ => s)
  | .held m => heldStep s key p.op m
  | .parked _ _ => if (logPages p).any (fun g => (parkedPages w p.op).contains g) then s else memTry s key p.op
  | .arrival crew k els => arrivalStep s key p crew k els
  | .await _ _ els => if els.isEmpty then completePend s key p else s
  | .queueReq _ _ _ _ => queueStep s key p
  | .queueWait _ _ _ _ => s
  | .queueTry _ _ _ _ => queueStep s key p
  | .queueStat _ _ => queueStep s key p
  | .queuePut _ _ _ => queueStep s key p
  | .queueInit _ _ _ => queueStep s key p
  | .acqr t => acqrStep s key p t
  | .rel eng => relStep s key p eng
  | .fence => fenceStep s key p
  | .spfence base len => spfenceStep s key p base len
  | .spalloc n => spallocStep s key p n
  | .spfree => spfreeStep s key p
  | .region _ _ _ _ _ _ => regionStep s key p
  | .fitQueue h pblk init wait => fitQueueStep s key p h pblk init wait
  | .fitWait _ => s
  | .fitDone h out => fitDoneStep s key p h out
  | .sealing base len h entry mark => sealStep s key p base len h entry mark
  | .unsealing base len => unsealStep s key p base len
  | .llcstat todo acc => llcStep s key p todo acc
  | .snapStart x id => snapStartStep s key p x id
  | .snapWait id mine => snapWaitStep s key p id mine
  | .tilePark t slots => if (logPages p).any (fun g => (parkedPages w p.op).contains g) then s else tileTry s key p t slots
  | .tileHeld t => tileTurn s key p t
  | .tile id reading => if reading then tileRead s key p id else s
  | .actSwap table => actSwapStep s key p table
  | .mxQueue k => mxQueueStep s key p k
  | .mxWait cmds => mxWaitStep s key p cmds
  | .mxStat => mxAnswer s key p mstatOf
  | .mxRead => completeWith s key p (mseqNow s (unitCluster (keyUnit key)))
  | .mxHalt => mxHaltStep s key p
  | .cpyQueue c => cpyQueueStep s key p c
  | .cpyStat cmds clr => cpyStatStep s key p cmds clr
  | .launch _ _ _ _ _ _ => launchStep s key p
  | .tlbinv scope => tlbinvStep s key p scope
  | .frameret pte frame asid va since => frameretStep s key p pte frame asid va since
  | .ctxsave base ext target crew => ctxsaveStep s key p base ext target crew
  | .ctxload base ext => ctxloadStep s key p base ext
  | .fabQueue c => fabQueueStep s key p c
  | .fabRead id => fabReadStep s key p id
  | .frel all slot sent => frelStep s key p all slot sent
  | .collNext slot => collNextStep s key p slot
  | .collClose slot => collCloseStep s key p slot
  | .fabStat slot => fabStatStep s key p slot

/-! ## Requests at banks (R218, R221, R230) -/

/-- The instruction has a request queued at the banks of a core. -/
def bankReq (s : State) (core : Nat) (w : Warp) (p : Pend) : Bool :=
  (match bankCrew s p with
    | some id => (s.crew id).any (fun c => c.unit = core)
    | none => false) && !bankHeld w p

/-- A quad whose requests go before an instruction's at its bank has still to issue in this cycle (R230). -/
def quadFirst (s : State) (key : Nat) (p : Pend) : Bool :=
  match bankCrew s p with
  | none => false
  | some id => match s.crew id with
    | none => false
    | some c => (List.range 4).any (fun q => q < bankRank key c.unit && (chosen s (c.unit * 4 + q)).isSome)

/-- The instruction is work in flight inside its core: it asks no slice, engine or port for anything new (R469). -/
def inFlight (p : Pend) : Bool :=
  match p.late with
  | .done => true
  | .csrRead _ => true
  | .load _ _ => true
  | .replies _ => true
  | .banks _ => true
  | .arrival _ _ _ => true
  | .queueReq _ _ _ _ => true
  | .queueTry _ _ _ _ => true
  | .queueStat _ _ => true
  | .queuePut _ _ _ => true
  | _ => false
/-- After a freeze a clock still runs, numbered as the stops are (R469). -/
def clockRuns (s : State) (domain : Nat) : Bool :=
  s.pkg.edge.any (fun t => s.cycle < t + s.pkg.stops.getD domain 0)
/-- After a freeze the clock of a unit's die still runs, and the instruction is in flight (R469). -/
def flightRuns (s : State) (unit : Nat) (p : Pend) : Bool :=
  inFlight p && clockRuns s (clusterDie (unitCluster unit))

/-- An incomplete instruction steps once its cycle has come, no fault of it waits for an answer, its crew is not being ended, and it has its
turn at its bank, where every quad that goes before it has issued. -/
def complete (s : State) (key op : Nat) : State :=
  match s.warp key with
  | none => s
  | some w => match findPend w op with
    | none => s
    | some p =>
      let ending := match s.crew w.crew with
        | some c => c.ending.isSome
        | none => true
      if s.cycle < p.ready || ending || (s.pkg.frozen && !flightRuns s (keyUnit key) p) || s.faults.any (fun f => f.waiter = .access key op)
          || !bankTurn s key p || quadFirst s key p then s
      else if w.restoring.contains op then (if w.restoring.head? = some op then replayLog s key else s)
      else pendStep s key w p

/-- The warp of a slot that has an incomplete instruction, or what an ended warp of the slot has left (R169). -/
def pendKey (s : State) (key op : Nat) : Nat :=
  if (s.warp key).any (fun w => (findPend w op).isSome) then key
  else ((s.warps.find? (fun e => isGhost e.1 && e.1 % 65536 = key && (findPend e.2 op).isSome)).map (fun e => e.1)).getD key

/-- COMPLETION (R24). -/
def execCompletion (unit slot op : Nat) (s : State) : Host.Outcome State Fault Refusal :=
  .next (complete s (pendKey s (unit * 32 + slot) op) op)

/-! ## The end of warps and crews (R169, R185) -/

/-- The incomplete instruction has an effect beyond the warp's own registers, which it still takes once the warp has ended (R24, R169): all
but those that only await a reply, others, or a write of the warp's own registers (log 40). -/
def lasts (p : Pend) : Bool :=
  match p.late with
  | .done => false
  | .csrRead _ => false
  | .groupWait _ _ _ => false
  | .claim _ => false
  | .give _ _ => false
  | .sleep => false
  | .load _ (.reg _ _) => false
  | .replies _ => false
  | .await _ _ _ => false
  | .queueStat _ _ => false
  | .llcstat _ _ => false
  | .fitDone _ _ => false
  | .rel _ => false
  | .fence => false
  | .fitWait _ => false
  | .snapWait _ _ => false
  | .mxWait _ => false
  | .mxStat => false
  | .mxRead => false
  | .cpyStat _ _ => false
  | .fabStat _ => false
  | _ => true

/-- A crew has ended: its slabs leave the operand caches (R282), and its launch counts it (R427). -/
def crewGone (s : State) (id : Nat) (c : Crew) (faulted : Bool) : State :=
  let s1 := dropCrewSlabs { s with crews := fmErase s.crews id, warps := s.warps.filter (fun e => !(isGhost e.1 && e.2.crew = id)) } id
  s1.modPkg (fun p => { p with launches := p.launches.map (fun l => if l.id = c.launch then
    { l with ended := l.ended + 1, faulted := l.faulted + (if faulted then 1 else 0), gone := l.gone ++ [(c.unit, s.nextOp)] } else l) })

/-- A warp has no live thread, every counter zero, an empty log and no trap to take (R169). -/
def warpOver (w : Warp) : Bool :=
  !w.tm && w.pt.live = 0 && w.traps.isEmpty && w.switching.isNone && ctrsZero w && logEmpty w

/-- What an ended warp has left still has an effect outside its crew: one behind the crew's own queues, which nobody is left to serve, has
none once the crew's last warp has ended (log 40). -/
def ghostHolds (w : Warp) : Bool :=
  w.pend.any (fun p => lasts p && !(match p.late with
    | .queueWait cr _ _ _ => cr = w.crew
    | _ => w.pend.any (fun q => q.op < p.op && (match q.late with
      | .queueWait cr _ _ _ => cr = w.crew
      | _ => false))))

/-- A crew whose last warp has ended ends, once nothing of its warps is on its way out of it. -/
def endCrew (s : State) (id : Nat) : State :=
  match s.crew id with
  | none => s
  | some c =>
    if c.ending.isSome || !(crewWarps s id).isEmpty || s.warps.any (fun e => isGhost e.1 && e.2.crew = id && ghostHolds e.2) then s
    else crewGone s id c false

/-- What an ended warp leaves behind takes a key of its own; what names its instructions follows it. -/
def leaveGhost (s : State) (key : Nat) (w : Warp) : State :=
  let rest := w.pend.filter lasts
  if rest.isEmpty then s
  else
    let new := ghostKey key s.nextOp
    let mine := fun (k op : Nat) => k = key && rest.any (fun p => p.op = op)
    let who := fun (x : Waiter) => match x with
      | .access k op => if mine k op then Waiter.access new op else x
      | x => x
    { s with
      nextOp := s.nextOp + 1
      warps := fmPut s.warps new { w with pend := rest, pairNext := none, fetch := none }
      net := s.net.map (fun r => if mine r.key r.op then { r with key := new } else r)
      tiles := s.tiles.map (fun t => if mine t.key t.op then { t with key := new } else t)
      faults := s.faults.map (fun f => { f with waiter := who f.waiter })
      slices := s.slices.map (fun e => (e.1, { e.2 with waits := e.2.waits.map (fun x => { x with who := who x.who }) })) }

/-- A warp ends: its rows return to the pool (R169, R209), and its crew ends with its last warp. -/
def endWarp (s : State) (key : Nat) : State :=
  match s.warp key with
  | none => s
  | some w =>
    let ending := match s.crew w.crew with
      | some c => c.ending.isSome
      | none => true
    if isGhost key || !warpOver w || ending || s.pkg.frozen then s
    else
      let unit := keyUnit key
      let s1 := leaveGhost { s with warps := fmErase s.warps key } key w
      let s2 := if unit < 1216 then s1.modCore unit (fun k =>
          returnRows { k with claims := k.claims.filter (fun q => q.key != key) } s.cycle (warpRows (settleGive w s.cycle))) else s1
      endCrew s2 w.crew

/-- At the end of a cycle what ended warps have left is gone where nothing of it is incomplete, and crews that waited for it end. -/
def clearGhosts (s : State) : State :=
  let gs := s.warps.filter (fun e => isGhost e.1)
  if gs.isEmpty then s
  else (gs.map (fun e => e.2.crew)).eraseDups.foldl endCrew { s with warps := s.warps.filter (fun e => !(isGhost e.1 && e.2.pend.isEmpty)) }

/-- WARP_END (R169). -/
def execWarpEnd (unit slot : Nat) (s : State) : Host.Outcome State Fault Refusal := .next (endWarp s (unit * 32 + slot))

/-- The record of a crew that the core has ended (R185, R413): type 2, the cause, TPC and INFO. -/
def endRecord (c : Crew) (e : Ending) : FaultRec :=
  { ftype := 2, reason := e.cause % 256, access := 0, asid := c.cregs.asid.toNat % 65536, ctxid := c.ctx, va := 0, tag := 0, unit := c.unit
    wslot := e.slot, ring := c.ring, launchid := c.lid, vcrew := c.vcrew % 65536, pc := e.tpc, info := e.info, waiter := .nobody
    written := false, counted := false }

/-- CREW_END (R185): the core reports the crew and frees it. An Acorn program's sequencer first finishes its accepted commands (R279). -/
def execCrewEnd (crew : Nat) (s : State) : Host.Outcome State Fault Refusal :=
  .next (match s.crew crew with
    | none => s
    | some c => match c.ending with
      | none => s
      | some e =>
        if s.pkg.frozen then s
        else if 1216 ≤ c.unit && !(s.cluster (c.unit - 1216)).cmds.isEmpty then
          s.modCluster (c.unit - 1216) (fun k => { k with halted := false })
        else
          let s1 := freeCrew (sendFault s (endRecord c e)) crew c
          crewGone { s1 with crews := fmPut s1.crews crew c } crew c true)

/-! ## Clock gating (R218) -/

/-- The incomplete instruction awaits something from outside the core, or a grant, phase, queue, flip or fault resolution. -/
def awaitsOutside (s : State) (key : Nat) (w : Warp) (p : Pend) : Bool :=
  -- the context CSRs are the crew's copy in its own core (R407)
  let away := fun (csr : Nat) => 0x200 ≤ csr && !(0x400 ≤ csr && csr < 0x408)
  blockedIn s key w p || (p.mpipe && (match p.late with
    | .load es _ => !es.all elemDone
    | .replies n => n != 0
    | .parked _ _ => true
    | .region _ _ _ _ _ _ => true
    | .banks m => (match m.space with
      | .scratch crew => (s.crew crew).any (fun c => c.unit != keyUnit key)
      | _ => false)
    | .tilePark _ _ => true
    | .tile _ reading => !reading
    | .acqr _ => true
    | .rel _ => true
    | .csrRead csr => away csr
    | .csrWrite csr _ _ => away csr
    | .fitQueue _ _ _ _ => true
    | .fitWait _ => true
    | .sealing _ _ _ _ _ => true
    | .unsealing _ _ => true
    | .llcstat _ _ => true
    | .snapStart _ _ => true
    | .snapWait _ _ => true
    | .cpyQueue _ => true
    | .cpyStat cmds _ => !cmds.isEmpty
    | .launch _ _ _ _ _ _ => true
    | .tlbinv _ => true
    | .frameret _ _ _ _ _ => true
    | .ctxsave _ _ _ _ => true
    | .ctxload _ _ => true
    | .fabQueue _ => true
    | .fabRead _ => true
    | .frel _ _ _ => true
    | .collNext _ => true
    | .collClose _ => true
    | .fabStat _ => true
    | _ => false))

/-- The counters that a warp's candidate waits on, or its switch stop: those that WAIT names, or all of them. -/
def waitedCtrs (c : Crew) (w : Warp) : List Nat :=
  match candidate c w with
  | none => []
  | some (pc, act) =>
    let all := (List.range w.ctrs.length).filter (fun n => ctrGet w n != 0)
    if (w.stopLo || w.stopHi) && !all.isEmpty then all
    else match wordAt w pc with
      | none => []
      | some word =>
        let h := hdrOf word
        ((List.range 12).filter (fun n => h.wait.getLsbD n)).flatMap (fun n => (ctrSet w act n).filter (fun k => ctrGet w k != 0))

/-- A warp waits (R218): it is asleep, or waits only on counters of instructions that await what is outside. -/
def warpWaits (s : State) (key : Nat) (w : Warp) : Bool :=
  match s.crew w.crew with
  | none => true
  | some c =>
    let cs := waitedCtrs c w
    let ps := w.pend.filter (fun p => p.ctrs.any (fun k => cs.contains k))
    let asleep := match candidate c w with
      | none => false
      | some (_, act) => runAsleep w act
    c.ending.isNone && (w.tm || w.traps.isEmpty) && (asleep || (!cs.isEmpty && !ps.isEmpty && ps.all (awaitsOutside s key w)))

/-- A core's warps all wait, nothing of fixed latency is in flight, and nothing of the core is queued at its banks. -/
def coreIdle (s : State) (core : Nat) : Bool :=
  (s.warps.filter (fun e => keyUnit e.1 = core)).all (fun e =>
    (isGhost e.1 || warpWaits s e.1 e.2) && e.2.drainAt ≤ s.cycle && !e.2.pend.any (bankReq s core e.2))

/-- CLOCK_GATE (R218). -/
def execClockGate (core : Nat) (s : State) : Host.Outcome State Fault Refusal :=
  .next (if core < 1216 && !(s.core core).gated && coreIdle s core && !s.pkg.frozen then s.modCore core (fun c => { c with gated := true }) else s)

/-! ## The deadlock detector (R220-R223) -/

/-- A warp is blocked (R220). An instruction of fixed latency that has not passed its floor is incomplete (R24). A warp in C16 mode that has one
half asleep counts as asleep (DESIGN CHOICE, log 91). -/
def warpBlocked (s : State) (key : Nat) (w : Warp) (c : Crew) : Bool :=
  let ps := w.pend
  let ours := ps.filter (blockedIn s key w)
  let cs := waitedCtrs c w
  warpLive w && !w.tm && w.traps.isEmpty && !w.sleepLo.asleep && !w.sleepHi.asleep && !ours.isEmpty && ours.length = ps.length && w.drainAt ≤ s.cycle
    && ours.any (fun p => p.ctrs.any (fun k => cs.contains k))
    && !(c.dlx && ours.all (fun p => match p.late with
      | .queueWait _ _ _ _ => true
      | .queueReq _ _ _ _ => true
      | .await _ _ _ => true
      | _ => false))

/-- A warp that has not ended waits for rows in REGCLAIM or under ROLE (R208, R221). -/
def waitsRows (s : State) (key : Nat) : Bool := (s.core (keyUnit key)).claims.any (fun q => q.key = key)

/-- A warp under ROLE that waits for rows counts as waiting in REGCLAIM (R208). -/
def countsBlocked (s : State) (key : Nat) (w : Warp) (c : Crew) : Bool :=
  warpBlocked s key w c || (w.switching.isSome && waitsRows s key && !w.tm && w.traps.isEmpty && !w.sleepLo.asleep && !w.sleepHi.asleep
    && w.drainAt ≤ s.cycle && w.pend.all (blockedIn s key w))

/-- A request from another core, an engine or the Acorn addressed to the crew's scratchpad is in flight (R221): a remote access on its way,
a running copy, sequencer command, snapshot or fabric store that reads, writes or counts there. What waits for a fault's answer, or has
not started, sends none. -/
def crewReached (s : State) (id : Nat) (c : Crew) : Bool :=
  let waits := fun (w : Waiter) => s.faults.any (fun f => f.waiter = w)
  let mine := fun (p : Pend) => match p.late with
    | .banks m => m.space = .scratch id
    | .arrival cr _ _ => cr = id
    | .queueReq cr _ _ _ => cr = id
    | .queueTry cr _ _ _ => cr = id
    | .queueStat cr _ => cr = id
    | .queuePut cr _ _ => cr = id
    | .tile t _ => s.tiles.any (fun x => x.id = t && x.crew = id)
    | _ => false
  s.warps.any (fun e => keyUnit e.1 != c.unit && e.2.pend.any (fun p => mine p && bankReq s c.unit e.2 p))
    || s.clusters.any (fun e =>
      e.2.copies.any (fun k => k.started && !waits (.copy e.1 k.id) && (k.dcrew = some id || k.screw = some id || (match k.arr with
        | some a => a.1 = id
        | none => false)))
      || (!e.2.halted && !waits (.matrix e.1) && e.2.cmds.any (fun k => k.started && mxNames k.kind id)))
    || (s.snaps.zipIdx).any (fun x => snapEntered s x.2 && x.1.crew = id && x.1.arr.isSome && !waits (.snap x.2))
    || s.pkg.fabric.any (fun k => k.kind != .load && k.moved < k.len && k.lcrew = some id && !waits (.fabric k.id))

/-- The conditions of R221 on a crew, the time apart. -/
def crewDeadlocked (s : State) (id : Nat) (c : Crew) : Bool :=
  let ws := crewWarps s id
  let live := ws.filter (fun e => !warpOver e.2)
  c.unit < 1216 && c.ending.isNone && !live.isEmpty && live.all (fun e => countsBlocked s e.1 e.2 c) && !crewReached s id c
    && (!live.any (fun e => waitsRows s e.1) || s.crews.all (fun o =>
      o.1 = id || o.2.unit != c.unit || ((crewWarps s o.1).filter (fun e => !warpOver e.2)).all (fun e => countsBlocked s e.1 e.2 o.2)))

/-- The counts of R221 at the end of a cycle. -/
def countBlocked (s : State) : State :=
  let since := fun (id : Nat) (c : Crew) =>
    if crewDeadlocked s id c then (match c.blocked with
      | some t => some t
      | none => some s.cycle) else none
  { s with crews := s.crews.map (fun e => (e.1, { e.2 with blocked := since e.1 e.2 })) }

/-- The blocked waits of each warp of a crew, oldest first; those of its ended warps among them. -/
def crewWaits (s : State) (id : Nat) : List (Nat × List Pend) :=
  (s.warps.filter (fun e => e.2.crew = id)).map (fun e => (e.1, e.2.pend.filter (blockedIn s e.1 e.2)))
/-- The deadlock record (R223). -/
def deadlockRecord (s : State) (id : Nat) (c : Crew) : Word :=
  let ws := crewWarps s id
  let waits := (crewWaits s id).flatMap (fun e => e.2)
  let kinds := waits.foldl (fun (a : Nat) p => a ||| (match p.late with
    | .claim _ => 1
    | .role _ _ => 1
    | .groupWait _ _ _ => 2
    | .queueWait _ _ _ _ => 4
    | .queueReq _ _ _ _ => 4
    | .await _ _ _ => 8
    | _ => 0)) 0
  let claim := match (s.core c.unit).claims.find? (fun q => ws.any (fun e => e.1 = q.key)) with
    | some q => q.rows / 8
    | none => 0
  let blocked := ws.foldl (fun a e => if countsBlocked s e.1 e.2 c then a + 2 ^ e.2.widx else a) 0
  BitVec.ofNat 64 (c.vcrew % 65536 * 2 ^ 48 + 2 ^ 47 + kinds * 2 ^ 40 + claim % 256 * 2 ^ 32 + blocked % 2 ^ 32)

/-- Step 3 of R222 for one warp: it traps at the oldest of its cancelled waits. One that waited under the ROLE of another warp has no
cancelled instruction of its own, and traps at its candidate (DESIGN CHOICE, log 75). -/
def breakWarp (c : Crew) (s : State) (e : Nat × List Pend) : State :=
  match s.warp e.1 with
  | none => s
  | some w =>
    let trap := fun (t : TrapRec) => s.setWarp e.1 { w with pairNext := none, traps := w.traps ++ [t] }
    match e.2 with
    | p :: _ => trap { cause := cDEADLOCK, stage := .execution, late := false, info := 0, pc := p.pc, act := p.act, exec := p.exec,
                       word := p.word, slots := some p.slots, cycle := s.cycle }
    | [] => match candidate c w with
      | none => s
      | some (pc, act) =>
        let word := (wordAt w pc).getD (freeInst s)
        trap { cause := cDEADLOCK, stage := .execution, late := false, info := 0, pc := pc, act := act, exec := act, word := word,
               slots := none, cycle := s.cycle }

/-- A deadlock report (R222). -/
def reportDeadlock (s : State) (id : Nat) (c : Crew) : State :=
  let core := s.core c.unit
  let s1 := s.setCore c.unit (if core.deadlk.getLsbD 47 then { core with deadlk := core.deadlk ||| (1#64 <<< 46) }
    else { core with deadlk := deadlockRecord s id c ||| (core.deadlk &&& (1#64 <<< 46)) })
  let waits := crewWaits s id
  let s2 := waits.foldl (fun s e => e.2.foldl (fun s p => cancelWait s e.1 p) s) s1
  ((waits.filter (fun e => !isGhost e.1)).foldl (breakWarp c) s2).modCrew id (fun c => { c with blocked := none })

/-- DEADLOCK_REPORT (R222). -/
def execDeadlockReport (core crew : Nat) (s : State) : Host.Outcome State Fault Refusal :=
  .next (match s.crew crew with
    | none => s
    | some c => match c.blocked with
      | none => s
      | some t =>
        if c.unit = core && t + Config.deadlockCycles ≤ s.cycle && crewDeadlocked s crew c && !s.pkg.frozen
        then reportDeadlock s crew c else s)

/-! ## Vendor debug (R45) -/

/-- VENDOR_DEBUG: outside debug mode ILLOP; in debug mode it changes no register, memory or CSR visible to any context. -/
def execVendorDebug (h : Hdr) (op : BitVec 4) (area : BitVec 48) (s : State) : Host.Outcome State Fault Refusal :=
  issueWith (.vendorDebug h op area) h s (fun c => !c.s.pkg.debug) (fun _ => none) (fun _ s1 => .ok s1)

end Sys2Proof.Machine
end

