-- ==== Sys2Proof/Machine/Upsets.lean ====
section
/-! DEFINITION. Errors that a unit's check finds in what it holds: how each ends (09_core_memory.md R225, 11_cluster_matrix.md R280, R281, R301,
13_die_cache.md R329, R332, 16_package.md R439, 18_device.md R473, R474). That one arises comes from outside (log 44). -/

namespace Sys2Proof.Machine

/-- Both poison bits of a register in a lane are set (R474); from 256 on, registers of the quad's trap bank. -/
def upsetRegister (s : State) (key reg lane : Nat) : State :=
  let spoil := fun (r : Row) => mkRow (fun l => if l = lane then ⟨(rowGet r l).val, 3⟩ else rowGet r l)
  match s.warp key with
  | none => s
  | some w =>
    if 256 ≤ reg then
      let q := s.quad (keyQuad key)
      s.setQuad (keyQuad key) { q with bank := fmPut q.bank (reg - 256) (spoil (fmGet emptyRow q.bank (reg - 256))) }
    else if reg < w.allot then s.setWarp key { w with regs := fmPut w.regs reg (spoil (fmGet emptyRow w.regs reg)) }
    else s

/-- The poison bit of a predicate in a lane is set (R474). -/
def upsetPredicate (s : State) (key pred lane : Nat) : State :=
  s.modWarp key (fun w => if pred < 7 && lane < 32 then storePred w pred (1#32 <<< lane) (predRow w pred).val (1#32 <<< lane) else w)

/-- An accumulator element is poisoned, with MXERR.ECC, the record and the trap of the cluster's Acorn (R280, R301). The error belongs to
no K-block: LASTKB and the K-block of INFO are 0; the slot's POIS is set (R302); and of the two elements of a 64-bit word only the one named is
poisoned (R280; DESIGN CHOICE, log 44). -/
def upsetAcc (s : State) (cl slot elem : Nat) : State :=
  if 4 ≤ slot || 65536 ≤ elem then s
  else
    let rg := elem / 2048
    let s1 := s.modCluster cl (fun k =>
      let m := k.acc.getD slot []
      { k with acc := k.acc.set slot (fmSet (0, false) m elem ((fmGet (0, false) m elem).1, true)), mxerr := mxError k 11 slot 0 rg true })
    match s.warp (acornKey cl) with
    | none => s1
    | some w => match s.crew w.crew with
      | none => s1
      | some c => mxSdc s1 cl c.cregs c.ctx slot 0 rg false

/-- The core ends the crew that uses a damaged entry of its tables, with cause SDC (R474); TPC and INFO are undefined (log 3). -/
def upsetTables (s : State) (id : Nat) : State :=
  markEnding s id ⟨cSDC, Config.freeWord (s.draw * 65536 + 20603), Config.freeWord (s.draw * 65536 + 20604),
    ((crewWarps s id).head?).elim 0 (fun e => if keyAcorn e.1 then 0 else keySlot e.1)⟩

/-- The destination words of a half of a drain buffer's entry are written uncorrectable (R474). -/
def upsetDrain (s : State) (slice index half : Nat) : State :=
  s.modSlice slice (fun sl => { sl with drain := (sl.drain.zipIdx).map (fun e =>
    if e.2 = index then { e.1 with bad := e.1.bad ||| (1#16 <<< half) } else e.1) })

/-- A damaged entry of the ownership directory or of the object table: its line, or every line of its granule, is recalled from every core,
the entry is freed, and one recall is counted (R474). An object-table entry that covers the line goes first (R336). -/
def upsetEntry (s : State) (line : Nat) (object : Bool) : State :=
  let lns := fun (e : ObjEnt) => (List.range 128).map (fun i => e.granule * 128 + i)
  let clear := fun (s : State) (e : ObjEnt) =>
    let s1 := recallEverywhere s (lns e)
    let s2 := { s1 with cores := s1.cores.map (fun (c : Nat × Core) => (c.1, { c.2 with l1 := c.2.l1.map (fun (x : Nat × L1Line) =>
      if (objLines e).contains x.1 then (x.1, { x.2 with obj := false }) else x) })) }
    countRecall (s2.modSlice (lineHome line) (fun sl => { sl with obj := sl.obj.filter (fun x => x != e) })) (lineHome line)
  match object, objEnt s line with
  | true, some e => clear s e
  | true, none => s
  | false, _ => match dirEnt s line with
    | none => s
    | some _ =>
      let s1 := match objEnt s line with
        | some e => clear s e
        | none => s
      countRecall (recallEverywhere s1 [line]) (lineHome line)

/-- How an error ends. -/
def applyUpset (s : State) (u : Upset) : State :=
  if s.pkg.frozen then s
  else match u with
  | .sliceHalf line _ => slSpoil s line
  | .sliceTag line code => if code = 6 || code = 7 then slSpoil s line else s
  | .scratch crew addr => s.modCrew crew (fun c => if addr < c.top then spMark c addr true else c)
  | .l1 core line word =>
    s.modCore core (fun c => match fmFind c.l1 line with
      | some l => { c with l1 := fmPut c.l1 line { l with bad := l.bad ||| (1#16 <<< word) } }
      | none => c)
  | .acc cluster slot elem => upsetAcc s cluster slot elem
  | .weight cluster addr => s.modCluster cluster (fun k => { k with wbad := fmSet false k.wbad (addr / 8) true })
  | .memory pa => if pa < Config.memTop then { s with memBad := fmSet false s.memBad (pa / 8) true } else s
  | .register key reg lane => upsetRegister s key reg lane
  | .predicate key pred lane => upsetPredicate s key pred lane
  | .directory line => upsetEntry s line false
  | .granule line => upsetEntry s line true
  | .recordCopy cluster unit h =>
    if cluster then s.modCluster unit (fun k => { k with recs := k.recs.filter (fun r => r.handle != h) })
    else s.modCore unit (fun c => { c with recs := c.recs.filter (fun r => r.handle != h) })
  | .translation unit page => { s with tlb := s.tlb.filter (fun e => !(e.unit = unit && e.page = page)) }
  | .slab cluster index => s.modCluster cluster (fun k => { k with slabs := k.slabs.eraseIdx index })
  | .fetched key => s.modWarp key (fun w => { w with fetch := none })
  | .drain slice index half => upsetDrain s slice index half
  | .crewTable crew => upsetTables s crew

end Sys2Proof.Machine
end

