-- ==== Sys2Proof/Machine/Sched.lean ====
section
/-! DEFINITION. What happens next: the order of a cycle, the events that are due at its end, issuing a warp's candidate, and the turns of the
agenda (04_threads.md R85-R91, 02_encoding.md R15-R21). Every function takes the meaning of instructions as an argument. -/

namespace Sys2Proof.Machine

/-- What an instruction does to a state. -/
abbrev Run := Instr → State → Host.Outcome State Fault Refusal

/-! ## Events that are due (log 41) -/

/-- The event of a request on its way (R258, R259, R333). -/
def reqEvent (r : Req) : Instr :=
  match r.kind with
  | .register _ => .registration r.id
  | .registerObj _ _ _ => .registration r.id
  | .writeBack _ _ _ _ => .writeBack r.id
  | .read _ _ _ _ => .homeRead r.id
  | _ => .sliceWrite r.id

/-- The request of an instruction goes to the banks of another unit. -/
def bankAway (s : State) (key : Nat) (p : Pend) : Bool :=
  match bankCrew s p with
  | some id => (s.crew id).any (fun c => c.unit != keyUnit key)
  | none => false

/-- Requests of warps at the banks of other units, which come after those of the units' own warps (R230). -/
def awayEvents (s : State) : List Instr :=
  s.warps.flatMap (fun e => (e.2.pend.filter (fun p => p.ready ≤ s.cycle && bankAway s e.1 p)).map
    (fun p => .completion (keyUnit e.1) (keySlot e.1) p.op))

/-- Events of a warp: a timer, the end of a YIELD, its incomplete instructions, trap entry. -/
def warpEvents (s : State) (key : Nat) (w : Warp) : List Instr :=
  let u := keyUnit key
  let sl := keySlot key
  let timer := fun (v : Sleep) (half : Nat) => match v.until? with
    | some t => if t ≤ s.cycle then [.sleepTimer u sl half] else []
    | none => []
  if isGhost key then (w.pend.filter (fun p => p.ready ≤ s.cycle && !bankAway s key p)).map (fun p => .completion u sl p.op)
  else timer w.sleepLo 0 ++ timer w.sleepHi 1
    ++ (if w.holdUntil ≤ s.cycle && w.holdUntil != 0 then [.yieldExpiry u sl] else [])
    ++ (w.pend.filter (fun p => p.ready ≤ s.cycle && !bankAway s key p)).map (fun p => .completion u sl p.op)
    ++ (if trapReady s key then [.trapEntry u sl] else [])

/-- Events of a cluster's sequencer: starts, of a WLOAD or WCB that waits too, the next step, the next rows of a drain. -/
def sequencerEvents (cl : Nat) (k : Cluster) : List Instr :=
  (k.cmds.filter (fun c => !c.started || mxLoads c.kind)).map (fun c => .sequencerCommandStart cl c.id)
    ++ (if (mxActive k).isSome then [.engineStep cl .clean] else [])
    ++ (if k.cmds.any (fun c => c.started && mxDrains c.kind) then [.drainPieceCount cl 4096] else [])
/-- Events of a copy engine; up to four copies in progress move at most 128 bytes a cycle (R307). -/
def copyEvents (cl : Nat) (k : Cluster) : List Instr :=
  k.copies.map (fun c => if c.started then .copyPieceCount cl c.id 32 else .copyCommandStart cl c.id)

/-- Events of the snapshots: the next line of each with the drain engine that sends it, and its end. -/
def snapEvents (s : State) : List (Nat × Instr) :=
  (s.snaps.zipIdx).flatMap (fun e =>
    if !e.1.active then []
    else match (List.range e.1.src.length).find? (fun i => !e.1.sent.contains i) with
      | some i => [(lineDrain (e.1.src.getD i 0), .drainLineSend e.2 i)]
      | none => [(1523, .snapshotFinish e.2)])

/-- What reaches the home slices, with the place of its unit in the order of units (R333). -/
def sliceEvents (s : State) : List (Nat × Instr) :=
  s.net.map (fun r => (r.unit, reqEvent r))
    ++ s.tiles.map (fun t => (t.unit, if t.todo.isEmpty then .tileCommit t.id else .tileLockGrant t.id))
    ++ s.clusters.flatMap (fun e => (sequencerEvents e.1 e.2).map (fun i => (1216 + e.1, i)))
    ++ s.clusters.flatMap (fun e => (copyEvents e.1 e.2).map (fun i => (1368 + e.1, i)))
    ++ snapEvents s
    ++ (s.dies.filter (fun e => !e.2.queue.isEmpty)).map (fun e =>
      (1524 + e.1, Instr.sproutJob e.1 ((List.range 2048).map (Config.fitParam s.draw))))

/-- An event in its place among those of ascending units, behind those of its own. -/
def insertEvent (x : Nat × Instr) : List (Nat × Instr) → List (Nat × Instr)
  | [] => [x]
  | y :: t => if x.1 < y.1 then x :: y :: t else y :: insertEvent x t
/-- Events by ascending units; those of one unit keep their order (R102, R333). -/
def byUnit (l : List (Nat × Instr)) : List Instr := (l.foldl (fun a x => insertEvent x a) []).map (fun e => e.2)

/-- The records that wait to be written: the oldest of each fault ring, the last of them first. -/
def faultEvents (s : State) : List Instr :=
  let todo := (s.faults.zipIdx).filter (fun e => !e.1.written)
  ((todo.filter (fun e => !todo.any (fun f => f.2 < e.2 && faultRing f.1.asid = faultRing e.1.asid))).map
    (fun e => Instr.faultRecordWrite e.2)).reverse

/-- Events of the dispatchers: records, placements, completions. -/
def launchEvents (s : State) : List Instr :=
  s.pkg.rings.map (fun e => .dispatch e.1)
    ++ s.pkg.launches.flatMap (fun l =>
      if l.waiting.isEmpty then (if launchOver s l then [.launchCompletion l.id] else [])
      else if l.acorn then (match (List.range Config.clusters).find? (fun cl => acornFor s l cl && !acornOutranked s l cl) with
        | some cl => [.acornPlacement l.id cl]
        | none => [])
      else match (List.range Config.cores).find? (fun c => (crewFor s l c).isSome) with
        | some c => [.crewPlacement l.id c]
        | none => [])

/-- Events of the fabric that need nothing from outside. -/
def fabricEvents (s : State) : List Instr :=
  s.pkg.fabric.flatMap (fun c => (if c.refused then [.fabricAbandon c.id 13] else []) ++ [.fabricAbandon c.id 3, .fabricAbandon c.id 4])
    ++ s.pkg.plans.flatMap (fun e => (e.2.mine.filter (fun c => c.epoch = e.2.epoch && !e.2.combined.contains c.index)).map
      (fun c => .reductionChunkCombine e.1 c.index))

/-- Events of the crews: limits that have passed, ends. -/
def crewEvents (s : State) : List Instr :=
  s.crews.flatMap (fun e =>
      (match e.2.preempt with
        | some t => if t + Config.saveCycles ≤ s.cycle then [Instr.ctxsaveWithdraw e.1] else []
        | none => [])
      ++ (match e.2.blocked with
        | some t => if t + Config.deadlockCycles ≤ s.cycle then [Instr.deadlockReport e.2.unit e.1] else []
        | none => [])
      ++ (if e.2.ending.isSome then [Instr.crewEnd e.1] else []))
    ++ (s.warps.filter (fun e => !isGhost e.1 && warpOver e.2)).map (fun e => Instr.warpEnd (keyUnit e.1) (keySlot e.1))

/-- Events of the cores' clocks: gating, and a wake where a gated core no longer only waits. -/
def clockEvents (s : State) : List Instr :=
  s.cores.flatMap (fun e =>
    if e.2.gated then (if coreIdle s e.1 then [] else [.coreWake e.1 4]) else (if coreIdle s e.1 then [.clockGate e.1] else []))

/-- What the part itself does at the end of a cycle, in order. -/
def dueEvents (s : State) : List Instr :=
  (s.cores.filter (fun e => !e.2.claims.isEmpty)).map (fun e => Instr.claimGrant e.1)
    ++ s.warps.flatMap (fun e => warpEvents s e.1 e.2)
    ++ awayEvents s ++ byUnit (sliceEvents s) ++ fabricEvents s ++ faultEvents s ++ launchEvents s ++ crewEvents s ++ clockEvents s

/-- Events one after another, up to the first that gives no next state. -/
def runEvents (run : Run) : List Instr → State → Host.Outcome State Fault Refusal
  | [], s => .next s
  | e :: t, s => match run e s with
    | .next s1 => runEvents run t s1
    | .fault f => .fault f
    | .refused r => .refused r

/-- An engine's command has started and asks no slice or port for more: an MMA in the array, the rows of a drain, a copy from crew memory to
crew memory. -/
def flightCommands (cl : Nat) (k : Cluster) : List (Nat × Instr) :=
  ((sequencerEvents cl { k with cmds := k.cmds.filter (fun c => c.started && !mxLoads c.kind) }).map (fun i => (1216 + cl, i)))
    ++ (copyEvents cl { k with copies := k.copies.filter (fun c => c.started && c.table.isNone && c.screw.isSome && c.dcrew.isSome) }).map
      (fun i => (1368 + cl, i))
/-- What a frozen package still does at the end of a cycle: work in flight under clocks that run, which asks no slice, engine or port for anything
new (R469, log 35). A request on its way, or a tile, goes on under the clock of the base die that it has been sent to. -/
def flightEvents (s : State) : List Instr :=
  s.warps.flatMap (fun e => (e.2.pend.filter (fun p => p.ready ≤ s.cycle && flightRuns s (keyUnit e.1) p)).map
    (fun p => .completion (keyUnit e.1) (keySlot e.1) p.op))
    ++ byUnit (((s.net.filter (fun r => clockRuns s (4 + lineHome r.line / 96))).map (fun r => (r.unit, reqEvent r)))
      ++ (s.tiles.filter (fun t => clockRuns s (clusterDie (unitCluster t.unit)) && t.els.all (fun el => clockRuns s (4 + homeOf el.pa / 96)))).map
        (fun t => (t.unit, if t.todo.isEmpty then .tileCommit t.id else .tileLockGrant t.id))
      ++ (s.clusters.filter (fun e => clockRuns s (clusterDie e.1))).flatMap (fun e => flightCommands e.1 e.2))
/-- Every clock has stopped (R469). -/
def allStopped (s : State) : Bool :=
  match s.pkg.edge with
  | some t => s.pkg.stops.all (fun n => t + n ≤ s.cycle)
  | none => true
/-- The unit of an event of an engine that reaches banks, in the order of R230; none for other events. -/
def bankEngine (s : State) (e : Instr) : Option Nat :=
  match e with
  | .engineStep cl _ => some (1216 + cl)
  | .sequencerCommandStart cl id => if (s.cluster cl).cmds.any (fun c => c.id = id && mxDrains c.kind) then some (1216 + cl) else none
  | .drainPieceCount cl _ => some (1216 + cl)
  | .copyPieceCount cl _ _ => some (1368 + cl)
  | .copyCommandStart cl _ => some (1368 + cl)
  | .drainLineSend id _ => some (drainUnit (s.snap id))
  | .packetReceive _ => some 1526
  | .reductionChunkCombine _ _ => some 1526
  | _ => none

/-- An event that reaches banks comes in a later cycle where an engine of a higher unit has reached them in this one (R230); a packet waits at
its port till the end of the cycle. -/
def inUnitOrder (run : Run) (e : Instr) (s : State) : Host.Outcome State Fault Refusal :=
  match bankEngine s e with
  | none => run e s
  | some u =>
    if s.lastEngine.1 = s.cycle && u < s.lastEngine.2 then .next (match e with
      | .packetReceive k => s.modPkg (fun p => { p with inbox := p.inbox ++ [k] })
      | _ => s)
    else run e { s with lastEngine := (s.cycle, u) }

/-- The end of a cycle of a frozen package: nothing once every clock has stopped. -/
def frozenTick (run : Run) (s : State) : Host.Outcome State Fault Refusal :=
  if allStopped s then .next s
  else match runEvents (inUnitOrder run) (flightEvents s) s with
    | .next s1 => .next { s1 with cycle := s1.cycle + 1 }
    | .fault f => .fault f
    | .refused r => .refused r

/-- A cycle ends: the counts of R86, the events that are due, the packets and the host's writes that waited, the counts of R221. -/
def tick (run : Run) (s : State) : Host.Outcome State Fault Refusal :=
  if s.pkg.frozen then frozenTick run s
  else match runEvents (inUnitOrder run) (dueEvents s) (countAges s) with
    | .next s1 => .next { countBlocked (clearGhosts (postedStep (portStep s1))) with cycle := s1.cycle + 1 }
    | .fault f => .fault f
    | .refused r => .refused r

/-! ## Issuing (R15, R19-R21, R41, R85) -/

/-- A warp about to issue: nothing to issue, a trap of decode check 3, or an instruction as the first or second slot. -/
inductive Prepared where
  | nothing
  | trapped (s : State)
  | first (i : Instr) (s : State)
  | second (i : Instr) (s : State)

/-- A byte that check 4 refuses stands in a position that some function of the opcode uses: O1 of MSTEP, O1 and O2 of CSRW and COLL
(DESIGN CHOICE, log 47). -/
def reservedBytes (word : IWord) (o : Nat) : Bool :=
  let out := fun (j : Nat) => posByte word j = 246 || posByte word j = 247
  out 0 || (o != 0x189 && out 1)

/-- The trap of a word without meaning: ILLOP at check 3 for its opcode or at check 6 for its function; where the decode table emulates
its opcode, check 5 comes between, after checks 3 and 4: MSTEP is no core's, COLL no Acorn's (R41). -/
def wordTrap (s : State) (key : Nat) (word : IWord) (e : DecodeError) : Nat :=
  match e with
  | .reservedFunction o =>
    let here := if keyAcorn key then o != 0x1C4 else o != 0x189
    if here && setfOk (hdrOf word) && !reservedBytes word o.toNat && s.pkg.table.emul.contains o.toNat then cEMUL else cILLOP
  | _ => cILLOP

/-- The candidate, or the second slot of the warp's pair, made ready to issue: the cursor is set, and the candidate counts as tried in
this cycle. -/
def prepare (s : State) (key : Nat) : Prepared :=
  match s.warp key with
  | none => .nothing
  | some w => match secondSlot s w with
    | some (pc, act) => match wordAt w pc with
      | none => .nothing
      | some word => match decode word with
        | .error _ => .nothing
        | .ok i => .second i { s.setWarp key { w with tried := none } with cur := { key := key, pc := pc, word := word, act := act } }
    | none => match s.crewSeen w.crew with
      | none => .nothing
      | some c => match candidate c w with
        | none => .nothing
        | some (pc, act) =>
          let s1 := s.setWarp key { w with tried := some s.cycle, pairNext := none }
          if !pcNamesSlot pc then .trapped (raiseTrap { s1 with draw := s1.draw + 1 } key (lineTrap s cILLOP pc act))
          else match wordAt w pc with
            | none => .nothing
            | some word =>
              let cur : Cursor := { key := key, pc := pc, word := word, act := act }
              match decode word with
              | .error e => .trapped (raiseTrap s1 key (trapOf s1 key w cur (hdrOf word) .decode (wordTrap s1 key word e) 0))
              | .ok i => .first i { s1 with cur := cur }

/-- An instruction at the cursor would trap at decode, or would wait at issue for its record (log 21): it does not issue, so the count of
issues stands still. An exception at execution is an issue (R19, R41). -/
def decodeTraps (run : Run) (i : Instr) (s : State) : Bool :=
  match run i s with
  | .next t => t.nextOp = s.nextOp
  | _ => false

/-- The first slot's pair is decided (R19): where the second slot may issue in the same cycle, it will. -/
def withPair (run : Run) (s : State) : State :=
  match s.warp s.cur.key with
  | none => s
  | some w => match pairSecond s s.cur.key w s.cur.pc s.cur.act with
    | none => s
    | some (pc, word, i) =>
      if decodeTraps run i { s with cur := { s.cur with pc := pc, word := word } } then s
      else s.setWarp s.cur.key { w with pairNext := some (pc, s.cur.act) }

/-- A warp issues. -/
def issueWarp (run : Run) (s : State) (key : Nat) : Host.Outcome State Fault Refusal :=
  match prepare s key with
  | .nothing => .next s
  | .trapped s1 => .next (markSeen s1 key)
  | .second i s1 => run i s1
  | .first i s1 => run i (withPair run (markSeen s1 key))

/-! ## The order of a cycle -/

/-- A warp whose candidate's line is not in its buffer, and which could go on but for that. -/
def needsLine (s : State) (key : Nat) (w : Warp) : Bool :=
  match s.crewSeen w.crew with
  | none => false
  | some c => c.ending.isNone && (w.tm || w.traps.isEmpty) && unitRuns s (keyUnit key) && !s.pkg.frozen && (match candidate c w with
    | none => false
    | some (pc, _) => pcNamesSlot pc && (lineAt w pc).isNone && !fetchHeld s key pc)

/-- What the machine does next by itself. -/
inductive Next where
  | fetch (key : Nat)
  | issue (key : Nat)
  | tick

/-- The warp that issues next in this cycle: the second slot of a pair, or the first quad's choice (R19, R85). -/
def nextIssue (s : State) : Option Nat :=
  match secondWarp s with
  | some k => some k
  | none => s.warps.findSome? (fun e => chosen s (keyQuad e.1))

/-- Second slots first, then lines, then the quads' choices, then the cycle ends. -/
def nextOf (s : State) : Next :=
  match secondWarp s with
  | some k => .issue k
  | none => match s.warps.find? (fun e => needsLine s e.1 e.2) with
    | some e => .fetch e.1
    | none => match nextIssue s with
      | some k => .issue k
      | none => .tick

/-- An event may occur while the package is frozen (R469, R470). -/
def whileFrozen (e : Instr) : Bool :=
  match e with
  | .packageReset _ => true
  | .warmStart => true
  | .coldStart => true
  | .scanReadout _ => true
  | .debugUnlock _ => true
  | _ => false

/-- A lower quad of the core has a warp to issue in this cycle (R230). -/
def quadBefore (s : State) (q : Nat) : Bool := (List.range (q % 4)).any (fun i => (chosen s (q / 4 * 4 + i)).isSome)

/-- A warp may issue now (R19, R85, R230). -/
def mayIssue (s : State) (key : Nat) : Bool :=
  match secondWarp s with
  | some k => k = key
  | none => chosen s (keyQuad key) = some key && !quadBefore s (keyQuad key)

/-- One turn of the agenda, already taken off it. A cycle does not end while a quad has a warp to issue (R85). -/
def runTurn (run : Run) (s : State) (t : Turn) : Host.Outcome State Fault Refusal :=
  match t with
  | .tick => tick run s
  | .issue key => if mayIssue s key then issueWarp run s key else .next s
  | .event e =>
    if (encode e).isSome || (s.pkg.frozen && !whileFrozen e) || ((bankEngine s e).isSome && (banksDue s || (nextIssue s).isSome)) then .next s
    else inUnitOrder run e s
  | .table t => .next (replaceTable s t)
  | .upset u => .next (applyUpset s u)
  | .endContext ctx => .next (endContext s ctx)
  | .windowRead offset => .next (readWindow s offset)
  | .badFrame frame => .next (appendBadFrame s frame)

/-- One step: the second slot of a pair whose first has issued, since nothing comes between them (R19); else the next turn of the agenda;
where that is empty, what the machine does by itself. -/
def stepWith (run : Run) (s : State) : Host.Outcome State Fault Refusal :=
  match secondWarp s with
  | some k => issueWarp run s k
  | none => match s.agenda with
  | t :: rest =>
    let ended := match t with
      | .tick => true
      | _ => false
    match nextIssue s with
    | some k => if ended && !s.pkg.frozen then issueWarp run s k else runTurn run { s with agenda := rest } t
    | none => runTurn run { s with agenda := rest } t
  | [] => match nextOf s with
    | .fetch key => run (.fetchLine (keyUnit key) (keySlot key)) s
    | .issue key => issueWarp run s key
    | .tick => tick run s

/-! ## Placing one instruction (log 42) -/

/-- A line with one instruction in its first slot and NOPs after it, every slot a legal target, its parity right. -/
def oneLine (word : IWord) : BitVec 512 :=
  let nop : IWord := wordOf 0 { wait := 0, setf := 0, dist := 0, sw := 0, hint := 0, ga := 7, gb := 7, f := 0 } 0
  let body : BitVec 512 := (nop ++ nop ++ nop ++ nop ++ word ++ 31#32)
  body ||| ((lineXor body).setWidth 512 <<< 16)

/-- A context that sees all of memory below 2^42 at its own addresses, with a record table of 4,096 entries at 0x100000. -/
def plainContext : CtxRegs :=
  { heapb := 0, heapl := BitVec.ofNat 64 (0x03FFFFFF0000 + 7), heapo := 0, ptbr := 0, asid := 0, trtb := 0x100000, trtn := 4096, ctxpri := 0
    dring := 0, fabric := 0 }

/-- A crew of one warp on a unit, in a system launch. -/
def oneCrew (unit : Nat) : Crew :=
  { unit := unit, launch := 0, ring := 0, lid := 0, after := none, vcrew := 0, sys := true, ctx := 0, cregs := plainContext, dlx := false
    regs0 := 240, ngroups := 16, spBytes := 4096, nqueues := 32, nroles := 0, slots := [0]
    groups := (List.range 16).map (fun g => { members := [if g = 0 then BitVec.allOnes 32 else 0], arrived := [] })
    roles := [], queues := [], qhandles := [], sp := [], spBad := [], top := 4096 + Config.trapArea, pins := 4096 + Config.trapArea, place := 0, blocked := none, safe := []
    preempt := none, ending := none }

/-- The kernel of that crew. -/
def oneKernel (unit : Nat) : Kernel :=
  { c16 := false, prot := false, regs := if unit < 1216 then 240 else 64, groups := 16, spBytes := 4096, nqueues := 32, records := 0
    entry := 0, dlx := false, headVa := 0, roleTab := 0, roles := [], safe := [] }

/-- One warp at PC 0 of a line, on core 0, or on Acorn 0 where the instruction runs only there: the line is in memory and in the fetch
buffer, and the warp issues next. -/
def placeWord (s : State) (word : IWord) : State :=
  let unit := match decode word with
    | .ok i => if (instrInfo i).onCore then 0 else 1216
    | .error _ => 0
  let key := unit * 32
  let id := s.nextOp
  let line := oneLine word
  let live : Mask := if unit = 0 then BitVec.allOnes 32 else 1
  let w := startWarp id 0 (oneKernel unit) 0 0 4096 live []
  let s1 := { s with
    nextOp := id + 1
    mem := memBlock s.mem 0 (bytesLE line.toNat 64)
    crews := fmPut s.crews id (oneCrew unit)
    warps := fmPut s.warps key { w with fetch := some (0, line) }
    agenda := [.issue key] }
  if unit = 0 then s1.modCore 0 (fun c => { c with gated := false, wakeAt := 0 }) else s1

end Sys2Proof.Machine
end

