-- ==== Sys2Proof/Machine/Dispatch.lean ====
section
/-! DEFINITION. The meaning of every instruction: one arm per constructor, one call per arm. -/

namespace Sys2Proof.Machine

def exec (i : Instr) (s : State) : Host.Outcome State Fault Refusal :=
  match i with
  | .fetchLine unit slot => Sys2Proof.Machine.execFetchLine unit slot s
  | .nop h o => Sys2Proof.Machine.execNop h o s
  | .mov h o => Sys2Proof.Machine.execMov h o s
  | .movi h o => Sys2Proof.Machine.execMovi h o s
  | .movhi h o => Sys2Proof.Machine.execMovhi h o s
  | .sel h o => Sys2Proof.Machine.execSel h o s
  | .iadd h o => Sys2Proof.Machine.execIadd h o s
  | .isub h o => Sys2Proof.Machine.execIsub h o s
  | .iadds h o => Sys2Proof.Machine.execIadds h o s
  | .isubs h o => Sys2Proof.Machine.execIsubs h o s
  | .iadc h o => Sys2Proof.Machine.execIadc h o s
  | .imul h o => Sys2Proof.Machine.execImul h o s
  | .imulh h o => Sys2Proof.Machine.execImulh h o s
  | .imad h o => Sys2Proof.Machine.execImad h o s
  | .imadw h o => Sys2Proof.Machine.execImadw h o s
  | .idp4 h o => Sys2Proof.Machine.execIdp4 h o s
  | .iabs h o => Sys2Proof.Machine.execIabs h o s
  | .imin h o => Sys2Proof.Machine.execImin h o s
  | .imax h o => Sys2Proof.Machine.execImax h o s
  | .isad h o => Sys2Proof.Machine.execIsad h o s
  | .imax3 h o => Sys2Proof.Machine.execImax3 h o s
  | .and h o => Sys2Proof.Machine.execAnd h o s
  | .or h o => Sys2Proof.Machine.execOr h o s
  | .xor h o => Sys2Proof.Machine.execXor h o s
  | .andn h o => Sys2Proof.Machine.execAndn h o s
  | .lop3 h o => Sys2Proof.Machine.execLop3 h o s
  | .shl h o => Sys2Proof.Machine.execShl h o s
  | .shr h o => Sys2Proof.Machine.execShr h o s
  | .sar h o => Sys2Proof.Machine.execSar h o s
  | .rotl h o => Sys2Proof.Machine.execRotl h o s
  | .fshf h o => Sys2Proof.Machine.execFshf h o s
  | .bfx h o => Sys2Proof.Machine.execBfx h o s
  | .bfi h o => Sys2Proof.Machine.execBfi h o s
  | .popc h o => Sys2Proof.Machine.execPopc h o s
  | .clz h o => Sys2Proof.Machine.execClz h o s
  | .ctz h o => Sys2Proof.Machine.execCtz h o s
  | .brev h o => Sys2Proof.Machine.execBrev h o s
  | .icmp h o => Sys2Proof.Machine.execIcmp h o s
  | .icmpm h o => Sys2Proof.Machine.execIcmpm h o s
  | .fcmp h o => Sys2Proof.Machine.execFcmp h o s
  | .lea h o => Sys2Proof.Machine.execLea h o s
  | .fadd h o => Sys2Proof.Machine.execFadd h o s
  | .fsub h o => Sys2Proof.Machine.execFsub h o s
  | .fmul h o => Sys2Proof.Machine.execFmul h o s
  | .ffma h o => Sys2Proof.Machine.execFfma h o s
  | .fmin h o => Sys2Proof.Machine.execFmin h o s
  | .fmax h o => Sys2Proof.Machine.execFmax h o s
  | .fclass h o => Sys2Proof.Machine.execFclass h o s
  | .frnd h o => Sys2Proof.Machine.execFrnd h o s
  | .fscale h o => Sys2Proof.Machine.execFscale h o s
  | .fgetexp h o => Sys2Proof.Machine.execFgetexp h o s
  | .fdot2 h o => Sys2Proof.Machine.execFdot2 h o s
  | .fdot4 h o => Sys2Proof.Machine.execFdot4 h o s
  | .fhadd h o => Sys2Proof.Machine.execFhadd h o s
  | .frcp h o => Sys2Proof.Machine.execFrcp h o s
  | .frsq h o => Sys2Proof.Machine.execFrsq h o s
  | .dadd h o => Sys2Proof.Machine.execDadd h o s
  | .dmul h o => Sys2Proof.Machine.execDmul h o s
  | .dfma h o => Sys2Proof.Machine.execDfma h o s
  | .fabs h o => Sys2Proof.Machine.execFabs h o s
  | .fneg h o => Sys2Proof.Machine.execFneg h o s
  | .cvt h o => Sys2Proof.Machine.execCvt h o s
  | .cvtsr h o => Sys2Proof.Machine.execCvtsr h o s
  | .cvti h o => Sys2Proof.Machine.execCvti h o s
  | .pack h o => Sys2Proof.Machine.execPack h o s
  | .unpk h o => Sys2Proof.Machine.execUnpk h o s
  | .bscale h o => Sys2Proof.Machine.execBscale h o s
  | .qnt h o => Sys2Proof.Machine.execQnt h o s
  | .dqnt h o => Sys2Proof.Machine.execDqnt h o s
  | .cbld h o => Sys2Proof.Machine.execCbld h o s
  | .cbdec h o => Sys2Proof.Machine.execCbdec h o s
  | .fexp2 h o => Sys2Proof.Machine.execFexp2 h o s
  | .flog2 h o => Sys2Proof.Machine.execFlog2 h o s
  | .fsin h o => Sys2Proof.Machine.execFsin h o s
  | .fcos h o => Sys2Proof.Machine.execFcos h o s
  | .ftanh h o => Sys2Proof.Machine.execFtanh h o s
  | .fsig h o => Sys2Proof.Machine.execFsig h o s
  | .act h o => Sys2Proof.Machine.execAct h o s
  | .actld h o => Sys2Proof.Machine.execActld h o s
  | .actsw h o => Sys2Proof.Machine.execActsw h o s
  | .rngseed h o => Sys2Proof.Machine.execRngseed h o s
  | .rng h o => Sys2Proof.Machine.execRng h o s
  | .shfl h o => Sys2Proof.Machine.execShfl h o s
  | .bcst h o => Sys2Proof.Machine.execBcst h o s
  | .perm h o => Sys2Proof.Machine.execPerm h o s
  | .zip h o => Sys2Proof.Machine.execZip h o s
  | .unzip h o => Sys2Proof.Machine.execUnzip h o s
  | .vote h o => Sys2Proof.Machine.execVote h o s
  | .matchLanes h o => Sys2Proof.Machine.execMatch h o s
  | .redl h o => Sys2Proof.Machine.execRedl h o s
  | .scanl h o => Sys2Proof.Machine.execScanl h o s
  | .plop h o => Sys2Proof.Machine.execPlop h o s
  | .pmovV h o => Sys2Proof.Machine.execPmovV h o s
  | .pmovP h o => Sys2Proof.Machine.execPmovP h o s
  | .actm h o => Sys2Proof.Machine.execActm h o s
  | .elect h o => Sys2Proof.Machine.execElect h o s
  | .bra h o => Sys2Proof.Machine.execBra h o s
  | .call h o => Sys2Proof.Machine.execCall h o s
  | .brx h o => Sys2Proof.Machine.execBrx h o s
  | .callx h o => Sys2Proof.Machine.execCallx h o s
  | .ret h o => Sys2Proof.Machine.execRet h o s
  | .exit h o => Sys2Proof.Machine.execExit h o s
  | .yield h o => Sys2Proof.Machine.execYield h o s
  | .trap h o => Sys2Proof.Machine.execTrap h o s
  | .brkpt h o => Sys2Proof.Machine.execBrkpt h o s
  | .tret h o => Sys2Proof.Machine.execTret h o s
  | .csrr h o => Sys2Proof.Machine.execCsrr h o s
  | .csrw h o => Sys2Proof.Machine.execCsrw h o s
  | .csrs h o => Sys2Proof.Machine.execCsrs h o s
  | .csrc h o => Sys2Proof.Machine.execCsrc h o s
  | .clock h o => Sys2Proof.Machine.execClock h o s
  | .join h o => Sys2Proof.Machine.execJoin h o s
  | .leave h o => Sys2Proof.Machine.execLeave h o s
  | .gbar h o => Sys2Proof.Machine.execGbar h o s
  | .gcount h o => Sys2Proof.Machine.execGcount h o s
  | .role h o => Sys2Proof.Machine.execRole h o s
  | .regclaim h o => Sys2Proof.Machine.execRegclaim h o s
  | .reggive h o => Sys2Proof.Machine.execReggive h o s
  | .sleep h o => Sys2Proof.Machine.execSleep h o s
  | .wake h o => Sys2Proof.Machine.execWake h o s
  | .prio h o => Sys2Proof.Machine.execPrio h o s
  | .ld h o => Sys2Proof.Machine.execLd h o s
  | .st h o => Sys2Proof.Machine.execSt h o s
  | .lda h o => Sys2Proof.Machine.execLda h o s
  | .sta h o => Sys2Proof.Machine.execSta h o s
  | .lds h o => Sys2Proof.Machine.execLds h o s
  | .sts h o => Sys2Proof.Machine.execSts h o s
  | .ldt h o => Sys2Proof.Machine.execLdt h o s
  | .stt h o => Sys2Proof.Machine.execStt h o s
  | .pref h o => Sys2Proof.Machine.execPref h o s
  | .recset h o => Sys2Proof.Machine.execRecset h o s
  | .recget h o => Sys2Proof.Machine.execRecget h o s
  | .recinv h o => Sys2Proof.Machine.execRecinv h o s
  | .recgen h o => Sys2Proof.Machine.execRecgen h o s
  | .spalloc h o => Sys2Proof.Machine.execSpalloc h o s
  | .spfree h o => Sys2Proof.Machine.execSpfree h o s
  | .spfence h o => Sys2Proof.Machine.execSpfence h o s
  | .atom h o => Sys2Proof.Machine.execAtom h o s
  | .cas h o => Sys2Proof.Machine.execCas h o s
  | .red h o => Sys2Proof.Machine.execRed h o s
  | .atoms h o => Sys2Proof.Machine.execAtoms h o s
  | .cass h o => Sys2Proof.Machine.execCass h o s
  | .reds h o => Sys2Proof.Machine.execReds h o s
  | .awinit h o => Sys2Proof.Machine.execAwinit h o s
  | .arrive h o => Sys2Proof.Machine.execArrive h o s
  | .arrdrop h o => Sys2Proof.Machine.execArrdrop h o s
  | .await h o => Sys2Proof.Machine.execAwait h o s
  | .awtest h o => Sys2Proof.Machine.execAwtest h o s
  | .qinit h o => Sys2Proof.Machine.execQinit h o s
  | .push h o => Sys2Proof.Machine.execPush h o s
  | .pop h o => Sys2Proof.Machine.execPop h o s
  | .trypush h o => Sys2Proof.Machine.execTrypush h o s
  | .trypop h o => Sys2Proof.Machine.execTrypop h o s
  | .qstat h o => Sys2Proof.Machine.execQstat h o s
  | .acq h o => Sys2Proof.Machine.execAcq h o s
  | .rel h o => Sys2Proof.Machine.execRel h o s
  | .acqr h o => Sys2Proof.Machine.execAcqr h o s
  | .fence h o => Sys2Proof.Machine.execFence h o s
  | .seal h o => Sys2Proof.Machine.execSeal h o s
  | .unseal h o => Sys2Proof.Machine.execUnseal h o s
  | .frfit h o => Sys2Proof.Machine.execFrfit h o s
  | .frstat h o => Sys2Proof.Machine.execFrstat h o s
  | .frinit h o => Sys2Proof.Machine.execFrinit h o s
  | .snap h o => Sys2Proof.Machine.execSnap h o s
  | .snapwait h o => Sys2Proof.Machine.execSnapwait h o s
  | .llcstat h o => Sys2Proof.Machine.execLlcstat h o s
  | .mma h o => Sys2Proof.Machine.execMma h o s
  | .mmas h o => Sys2Proof.Machine.execMmas h o s
  | .mzero h o => Sys2Proof.Machine.execMzero h o s
  | .mdrain h o => Sys2Proof.Machine.execMdrain h o s
  | .wload h o => Sys2Proof.Machine.execWload h o s
  | .winv h o => Sys2Proof.Machine.execWinv h o s
  | .mstat h o => Sys2Proof.Machine.execMstat h o s
  | .mwait h o => Sys2Proof.Machine.execMwait h o s
  | .mcfg h o => Sys2Proof.Machine.execMcfg h o s
  | .mstepRd h o => Sys2Proof.Machine.execMstepRd h o s
  | .mstepHalt h o => Sys2Proof.Machine.execMstepHalt h o s
  | .mstepGo h o => Sys2Proof.Machine.execMstepGo h o s
  | .cpy h o => Sys2Proof.Machine.execCpy h o s
  | .cpyt h o => Sys2Proof.Machine.execCpyt h o s
  | .cvttab h o => Sys2Proof.Machine.execCvttab h o s
  | .cpystat h o => Sys2Proof.Machine.execCpystat h o s
  | .launch h o => Sys2Proof.Machine.execLaunch h o s
  | .tlbinv h o => Sys2Proof.Machine.execTlbinv h o s
  | .ctxsave h o => Sys2Proof.Machine.execCtxsave h o s
  | .ctxload h o => Sys2Proof.Machine.execCtxload h o s
  | .frameret h o => Sys2Proof.Machine.execFrameret h o s
  | .fstore h o => Sys2Proof.Machine.execFstore h o s
  | .fload h o => Sys2Proof.Machine.execFload h o s
  | .fred h o => Sys2Proof.Machine.execFred h o s
  | .frel h o => Sys2Proof.Machine.execFrel h o s
  | .collOpen h o => Sys2Proof.Machine.execCollOpen h o s
  | .collNext h o => Sys2Proof.Machine.execCollNext h o s
  | .collClose h o => Sys2Proof.Machine.execCollClose h o s
  | .fstat h o => Sys2Proof.Machine.execFstat h o s
  | .vendorDebug h op area => Sys2Proof.Machine.execVendorDebug h op area s
  | .ageOverride unit slot => Sys2Proof.Machine.execAgeOverride unit slot s
  | .yieldExpiry unit slot => Sys2Proof.Machine.execYieldExpiry unit slot s
  | .completion unit slot op => Sys2Proof.Machine.execCompletion unit slot op s
  | .trapEntry unit slot => Sys2Proof.Machine.execTrapEntry unit slot s
  | .crewEnd crew => Sys2Proof.Machine.execCrewEnd crew s
  | .warpEnd unit slot => Sys2Proof.Machine.execWarpEnd unit slot s
  | .claimGrant core => Sys2Proof.Machine.execClaimGrant core s
  | .reggiveReturn unit slot op => Sys2Proof.Machine.execReggiveReturn unit slot op s
  | .sleepTimer unit slot half => Sys2Proof.Machine.execSleepTimer unit slot half s
  | .clockGate core => Sys2Proof.Machine.execClockGate core s
  | .coreWake core reason => Sys2Proof.Machine.execCoreWake core reason s
  | .deadlockReport core crew => Sys2Proof.Machine.execDeadlockReport core crew s
  | .registration req => Sys2Proof.Machine.execRegistration req s
  | .homeRead req => Sys2Proof.Machine.execHomeRead req s
  | .writeBack req => Sys2Proof.Machine.execWriteBack req s
  | .sliceWrite req => Sys2Proof.Machine.execSliceWrite req s
  | .lineFill line => Sys2Proof.Machine.execLineFill line s
  | .drainLineSend snap index => Sys2Proof.Machine.execDrainLineSend snap index s
  | .snapshotFinish snap => Sys2Proof.Machine.execSnapshotFinish snap s
  | .snapshotAbandon snap reason => Sys2Proof.Machine.execSnapshotAbandon snap reason s
  | .tileLockGrant tile => Sys2Proof.Machine.execTileLockGrant tile s
  | .tileCommit tile => Sys2Proof.Machine.execTileCommit tile s
  | .sequencerCommandStart cluster cmd => Sys2Proof.Machine.execSequencerCommandStart cluster cmd s
  | .engineStep cluster check => Sys2Proof.Machine.execEngineStep cluster check s
  | .drainPieceCount cluster bytes => Sys2Proof.Machine.execDrainPieceCount cluster bytes s
  | .copyCommandStart cluster cmd => Sys2Proof.Machine.execCopyCommandStart cluster cmd s
  | .copyPieceCount cluster cmd bytes => Sys2Proof.Machine.execCopyPieceCount cluster cmd bytes s
  | .copyAbandon cluster cmd reason => Sys2Proof.Machine.execCopyAbandon cluster cmd reason s
  | .sproutJob die params => Sys2Proof.Machine.execSproutJob die params s
  | .faultRecordWrite index => Sys2Proof.Machine.execFaultRecordWrite index s
  | .frespRetry tag => Sys2Proof.Machine.execFrespRetry tag s
  | .frespAbort tag => Sys2Proof.Machine.execFrespAbort tag s
  | .dispatch ring => Sys2Proof.Machine.execDispatch ring s
  | .rrejClear ring => Sys2Proof.Machine.execRrejClear ring s
  | .crewPlacement launch core => Sys2Proof.Machine.execCrewPlacement launch core s
  | .acornPlacement launch cluster => Sys2Proof.Machine.execAcornPlacement launch cluster s
  | .launchCompletion launch => Sys2Proof.Machine.execLaunchCompletion launch s
  | .ctxsaveWithdraw crew => Sys2Proof.Machine.execCtxsaveWithdraw crew s
  | .fabricAbandon cmd reason => Sys2Proof.Machine.execFabricAbandon cmd reason s
  | .reductionChunkCombine slot chunk => Sys2Proof.Machine.execReductionChunkCombine slot chunk s
  | .warmStart => Sys2Proof.Machine.execWarmStart s
  | .coldStart => Sys2Proof.Machine.execColdStart s
  | .packageReset stage => Sys2Proof.Machine.execPackageReset stage s
  | .imageFetchAttempt outcome => Sys2Proof.Machine.execImageFetchAttempt outcome s
  | .freeze => Sys2Proof.Machine.execFreeze s
  | .scanReadout segment => Sys2Proof.Machine.execScanReadout segment s
  | .debugUnlock signatureValid => Sys2Proof.Machine.execDebugUnlock signatureValid s
  | .pathMonitorRead die margin worst vdd limit => Sys2Proof.Machine.execPathMonitorRead die margin worst vdd limit s
  | .powerLimit above => Sys2Proof.Machine.execPowerLimit above s
  | .thermalTrip => Sys2Proof.Machine.execThermalTrip s
  | .hostBar2Access pa write count => Sys2Proof.Machine.execHostBar2Access pa write count s
  | .packetReceive packet => Sys2Proof.Machine.execPacketReceive packet s
  | .markerGather conn path limit => Sys2Proof.Machine.execMarkerGather conn path limit s
  | .retransmissionTimeout conn path => Sys2Proof.Machine.execRetransmissionTimeout conn path s
  | .connectionFailure conn => Sys2Proof.Machine.execConnectionFailure conn s
  | .planAbort slot => Sys2Proof.Machine.execPlanAbort slot s
  | .registerWrite offset value => Sys2Proof.Machine.execRegisterWrite offset value s
  | .acknowledgementArrival ack => Sys2Proof.Machine.execAcknowledgementArrival ack s
  | .portLinkChange port up => Sys2Proof.Machine.execPortLinkChange port up s

end Sys2Proof.Machine
end

