-- ==== Sys2Proof/Machine/Step.lean ====
section
/-! DEFINITION. One step of the package, and placing one instruction where the next step runs it. -/

namespace Sys2Proof.Machine

/-- One step: a fetch, an issue, the end of a cycle, or a turn of the agenda (`stepWith` says which). -/
def step (s : State) : Host.Outcome State Fault Refusal := stepWith exec s

/-- An instruction whose low bits are w as the only instruction of a one-warp crew that issues next (`placeWord`; log 42). Every
instruction of this machine is one word of 96 bits. -/
def State.withFetchWord (s : State) (nbits w : Nat) : State := placeWord s (BitVec.ofNat 96 (w % 2 ^ min nbits 96))

end Sys2Proof.Machine
end

