-- ==== Sys2Proof/Safety.lean ====
section
/-! DEFINITION. What the statements speak of: a safe run, an instruction that issues, and what its issue leaves changed and unchanged. -/

namespace Sys2Proof.Machine

/-! ## Runs -/

/-- The state after n steps, or the stop that came first. -/
def runSteps : Nat → State → Host.Outcome State Fault Refusal
  | 0, s => .next s
  | n + 1, s => match step s with
    | .next t => runSteps n t
    | .fault f => .fault f
    | .refused r => .refused r

/-- A safe run: no step of it ends in a fault or a refusal. -/
def safeFor (n : Nat) (s : State) : Prop := ∃ t, runSteps n s = .next t

/-! ## An instruction that issues (R41) -/

/-- What an instruction sees at its issue: its lanes are those of the active set whose guards are true (R29), and
its floor is that of the decode table in use (R47). -/
def issueCtx (i : Instr) (h : Hdr) (s : State) (w : Warp) : Ctx :=
  { s := s, key := s.cur.key, w := w, cur := s.cur, h := h, exec := guardMask s w h s.cur.act
    ctrs := setfCtrs w h s.cur.act, op := s.nextOp, floor := floorOf s.pkg.table i }

/-- The warp of the cursor holds w, and no decode check of R41 stops i; `early` and `extra` are the instruction's own part of
checks 6 and 10. -/
def issuesWith (i : Instr) (h : Hdr) (s : State) (w : Warp) (early : Ctx → Bool) (extra : Ctx → Option Nat) : Prop :=
  s.warp s.cur.key = some w ∧
    decodeTrap i s s.cur.key w h s.cur.act (early (issueCtx i h s w)) (extra (issueCtx i h s w)) = none

/-- An instruction without decode checks of its own issues. -/
def issues (i : Instr) (h : Hdr) (s : State) (w : Warp) : Prop := issuesWith i h s w (fun _ => false) (fun _ => none)

/-! ## Reading registers, predicates and generators as they stand -/

/-- Lane l of the register numbered r: the trap bank of the quad from 256 on (R33). -/
def regLane (s : State) (key : Nat) (w : Warp) (r l : Nat) : Lane :=
  if r < 256 then rowGet (fmGet emptyRow w.regs r) l else rowGet (fmGet emptyRow (s.quad (keyQuad key)).bank (r - 256)) l

/-- Value and poison of predicate p in lane l. -/
def predLane (w : Warp) (p l : Nat) : Bool × Bool := ((predRow w p).val.getLsbD l, (predRow w p).poi.getLsbD l)

/-- The PC of lane l's thread. -/
def pcLane (w : Warp) (l : Nat) : Word := w.pt.pcs.getD l 0

/-! ## What an issue changes -/

/-- The results of an instruction: what each lane of each register, predicate, generator and PC becomes, where it changes. -/
structure Update where
  regs   : Nat → Nat → Option Lane := fun _ _ => none
  preds  : Nat → Nat → Option (Bool × Bool) := fun _ _ => none
  gens   : Nat → Option Word := fun _ => none
  genPoi : Nat → Option Bool := fun _ => none
  jumps  : Nat → Option Word := fun _ => none
  flags  : Flags := 0

/-- Lanes of the register that a byte names; a byte from 240 on names none, and a write to it is discarded (R31). -/
def onReg (w : Warp) (b : Byte) (m : Mask) (f : Nat → Lane) : Nat → Nat → Option Lane :=
  fun r l => if b.toNat < 240 ∧ r = regId w b.toNat ∧ m.getLsbD l = true then some (f l) else none

/-- Lanes of the predicate that a byte names; p7 discards (R31). -/
def onPred (b : Byte) (m : Mask) (f : Nat → Bool × Bool) : Nat → Nat → Option (Bool × Bool) :=
  fun p l => if 248 ≤ b.toNat ∧ b.toNat < 255 ∧ p = b.toNat - 248 ∧ m.getLsbD l = true then some (f l) else none

/-- The result of an instruction that writes one register: its lanes, and the flags that they raise (R70). -/
def laneUpdate (c : Ctx) (b : Byte) (f : Nat → LaneRes) : Update :=
  { regs := onReg c.w b c.exec (fun l => (f l).lane)
    flags := (lanesOf c.exec).foldl (fun fl l => fl ||| (f l).flags) 0 }

/-- The result of an instruction that writes one register and raises no flag. -/
def cleanUpdate (c : Ctx) (b : Byte) (f : Nat → Lane) : Update := { regs := onReg c.w b c.exec f }

/-- The result of an instruction that writes one predicate. -/
def predUpdate (c : Ctx) (b : Byte) (f : Nat → Bool × Bool) : Update := { preds := onPred b c.exec f }

/-- A second update takes precedence over the first. -/
def Update.then (u x : Update) : Update :=
  { regs := fun r l => (x.regs r l).or (u.regs r l)
    preds := fun p l => (x.preds p l).or (u.preds p l)
    gens := fun l => (x.gens l).or (u.gens l)
    genPoi := fun l => (x.genPoi l).or (u.genPoi l)
    jumps := fun l => (x.jumps l).or (u.jumps l)
    flags := u.flags ||| x.flags }

/-- What no issue changes of its warp unless the instruction's own rule says so: every field but registers, predicates, generators, PCs,
FPSTAT and the bookkeeping of an issue, which are blanked. -/
def Warp.kept (w : Warp) : Warp :=
  { w with
    regs := [], preds := [], gens := [], genPoi := 0, pt := { pcs := [], live := 0, skips := [] }, fpstat := 0, ctrs := [], lastIssue := none
    lastFloor := 0, stopLo := false, stopHi := false, drainAt := 0, age := 0, pairNext := none, pend := [], flagsDue := [] }

/-- What an issue does not touch outside its warp and its quad: every field but those tables and the two counters, which are blanked.
Memory, slices, caches, scratchpads, crews, special registers and every unit are in it. -/
def State.outside (s : State) : State := { s with warps := [], quads := [], draw := 0, nextOp := 0 }

/-- An issue's whole effect on the cursor's warp, and its frame: registers, predicates, generators and PCs as `u` says and
otherwise as before; FPSTAT with the flags of `u` from the instruction's completion on, as a CSRR of any cycle n finds it (R70); nothing else of the warp but the bookkeeping of an issue (counters, skip counts, floors, switch stops, the list of
incomplete instructions, which keeps every entry). -/
structure Changes (c : Ctx) (t : State) (v : Warp) (u : Update) : Prop where
  regs : ∀ r l, l < 32 → regLane t c.key v r l = (u.regs r l).getD (regLane c.s c.key c.w r l)
  preds : ∀ p l, p < 7 → l < 32 → predLane v p l = (u.preds p l).getD (predLane c.w p l)
  gens : ∀ l, l < 32 → genOf v l = (u.gens l).getD (genOf c.w l)
  genPoi : ∀ l, l < 32 → v.genPoi.getLsbD l = (u.genPoi l).getD (c.w.genPoi.getLsbD l)
  pcs : ∀ l, l < 32 → pcLane v l = (u.jumps l).getD (if c.cur.act.getLsbD l then nextPc c.cur.pc else pcLane c.w l)
  flags : v.fpstat = c.w.fpstat ∧ ∀ n, statNow v n = statSet (statNow c.w n) (if c.s.cycle + c.floor ≤ n then u.flags else 0)
  frame : v.kept = c.w.kept
  live : v.pt.live = c.w.pt.live
  pend : ∀ p ∈ c.w.pend, ∃ q ∈ v.pend, q.op = p.op ∧ q.late = p.late ∧ q.word = p.word ∧ q.ready = p.ready

/-- Everything outside the cursor's warp is as in `b`: all of memory, every slice, cache, scratchpad, crew, special register and unit,
every other warp, and every quad but the cursor's, whose trap bank `Changes.regs` covers. -/
structure Rest (c : Ctx) (t b : State) : Prop where
  state : t.outside = b.outside
  warps : ∀ k, k ≠ c.key → t.warp k = b.warp k
  quads : ∀ q, q ≠ keyQuad c.key → t.quad q = b.quad q

/-- i, where it issues with its own part of checks 6 and 10, answers a next state that holds what `u` says; outside the cursor's warp
that state is as in `b`. -/
def GivesWith (i : Instr) (h : Hdr) (s : State) (early : Ctx → Bool) (extra : Ctx → Option Nat) (u : Ctx → Update) (b : Ctx → State) :
    Prop :=
  ∀ w, issuesWith i h s w early extra →
    ∃ t v, exec i s = .next t ∧ t.warp s.cur.key = some v ∧ Changes (issueCtx i h s w) t v (u (issueCtx i h s w))
      ∧ Rest (issueCtx i h s w) t (b (issueCtx i h s w))

/-- i, where it issues, answers a next state that holds what `u` says and leaves everything else unchanged. -/
def Gives (i : Instr) (h : Hdr) (s : State) (u : Ctx → Update) : Prop :=
  GivesWith i h s (fun _ => false) (fun _ => none) u (fun c => c.s)

end Sys2Proof.Machine
end

