-- ==== Sys2Proof/Rules.lean ====
section
/-! DEFINITION. What the statements say an instruction does where none of its checks fails: its conditions on the state and the operands
alone, and the state that it then leaves. `s1` is the state just after the issue (`issued`), before the instruction's own effect. -/

namespace Sys2Proof.Machine

/-! ## Issue, answers -/

/-- The state after i has issued and before its own effect. -/
def issued (i : Instr) (h : Hdr) (s : State) (w : Warp) : State :=
  retire s s.cur.key w s.cur h (instrInfo i) (floorOf s.pkg.table i) (guardMask s w h s.cur.act)

/-- i, where it issues, answers a next state: with no lane executing nothing but the issue; otherwise, where the rule's conditions hold,
the state that the rule gives. -/
def AnswersWith (i : Instr) (h : Hdr) (s : State) (early : Ctx → Bool) (extra : Ctx → Option Nat) (rule : Ctx → State → Option State) :
    Prop :=
  ∀ w, issuesWith i h s w early extra →
    ((issueCtx i h s w).exec = 0 → exec i s = .next (issued i h s w)) ∧
    ((issueCtx i h s w).exec ≠ 0 → ∀ t, rule (issueCtx i h s w) (issued i h s w) = some t → exec i s = .next t)

/-- The same for an instruction without decode checks of its own. -/
def Answers (i : Instr) (h : Hdr) (s : State) (rule : Ctx → State → Option State) : Prop :=
  AnswersWith i h s (fun _ => false) (fun _ => none) rule

/-- The conditions of a rule hold at a state (what the witnesses show). -/
def meets (i : Instr) (h : Hdr) (s : State) (early : Ctx → Bool) (extra : Ctx → Option Nat) (rule : Ctx → State → Option State) : Bool :=
  match s.warp s.cur.key with
  | none => false
  | some w =>
    (decodeTrap i s s.cur.key w h s.cur.act (early (issueCtx i h s w)) (extra (issueCtx i h s w))).isNone
      && (issueCtx i h s w).exec != 0 && (rule (issueCtx i h s w) (issued i h s w)).isSome

/-- i, where it issues and `pre` holds, answers a next state that holds what `u` says and leaves everything else unchanged. -/
def GivesWhen (i : Instr) (h : Hdr) (s : State) (pre : Ctx → Prop) (u : Ctx → Update) : Prop :=
  ∀ w, issues i h s w → pre (issueCtx i h s w) →
    ∃ t v, exec i s = .next t ∧ t.warp s.cur.key = some v ∧ Changes (issueCtx i h s w) t v (u (issueCtx i h s w)) ∧ Rest (issueCtx i h s w) t s

/-! ## Conditions that many instructions share -/

/-- No pair of a protected warp mismatches in its guards or in the values compared (R95, R96). -/
def calm (c : Ctx) (vals : Nat → List Word) : Bool := !(c.protected? && protMismatch c vals != 0)

/-- What a lookup at issue finds, where no locked line holds it up (R236, R368), and the state after it. -/
def lookedUp (c : Ctx) (s : State) (cr : CtxRegs) (h : Nat) : Option (State × Found) := do
  guard (lookupWait s (.fetch c.key c.cur.pc) c.unit cr h).isNone
  some (lookup (lookupGoes s (.fetch c.key c.cur.pc) c.unit cr h) c.unit cr h)
/-- The record of a handle, read whole and correct (R236), and the state after its lookup. -/
def found (c : Ctx) (s : State) (h : Nat) : Option (State × Tensor) := do
  let cr ← s.crew c.w.crew
  match ← lookedUp c s cr.cregs h with
  | (s1, .found r bad) => if bad = 0 then some (s1, r) else none
  | (_, .fault _ _ _) => none

/-- The elements and the space of an access that passes the checks of R242. -/
def passed (k : Checked) : Option (List MemEl × Space) :=
  match k with
  | .ok es space => some (es, space)
  | .trap _ _ => none

/-- The address of a table load that passes its checks (R144). -/
def addressed (k : Except (Nat × Word) Nat) : Option Nat :=
  match k with
  | .ok a => some a
  | .error _ => none

/-- The low lane's operand. -/
def lowVal (c : Ctx) (b : Byte) : Lane := c.val b c.low

/-- A register result of one value in every participating lane, due when the instruction completes. -/
def oneReg (c : Ctx) (b : Byte) (v : Word) : List RegWr := regWr c.w b c.exec (fun _ => ⟨v, 0⟩)
/-- A register result that a later step fills. -/
def laterReg (c : Ctx) (b : Byte) : List RegWr := regWr c.w b c.exec (fun _ => Lane.zero)

/-! ## Control (R168-R187) -/

/-- The instruction raises a trap of its own and has no effect; its issue is one, so the quad has issued and the skip counts, DIST and SW
have seen it (R27, R28, R85, R89, R177). -/
def raised (i : Instr) (c : Ctx) (cause : Nat) (info : Word) : State :=
  trapIssued c.s (issued i c.h c.s c.w) c.key c.w c.cur c.h (instrInfo i) c.floor cause info

/-- EXIT outside trap mode: the threads are live no more and leave their groups (R168, R201). -/
def ruleExit (c : Ctx) (s1 : State) : Option State := do
  guard (!c.w.tm)
  let s2 := s1.modWarp c.key (fun w => { w with pt := { w.pt with live := w.pt.live &&& ~~~c.exec } })
  let w ← s2.warp c.key
  if grpEarlier w c.op then
    some (addWait c s2 (.group 0 .exit))
  else some (leaveGroups s2 c.w.crew c.w.widx (threadLanes c.w c.exec))

/-- EXIT in trap mode ends the crew at once where the counters are zero, and otherwise once they are (R185). -/
def ruleExitTrap (c : Ctx) (s1 : State) : Option State := do
  guard c.w.tm
  let w ← s1.warp c.key
  if ctrsZero w then some (handlerEnds s1 c.key w w.tcause.toNat (Config.freeWord (c.s.draw * 65536 + 20602)))
  else some (addWait c s1 .handlerExit)

/-- TRET acts at once where the counters are zero, and otherwise once they are (R184). -/
def ruleTret (c : Ctx) (s1 : State) : Option State := do
  let w ← s1.warp c.key
  if ctrsZero w then some (leaveTrap s1 c.key)
  else some (addWait c s1 .tret)

/-- CSRR: a CSR of the warp is read at issue, any other where the request arrives (R172). -/
def ruleCsrr (o : OpS) (c : Ctx) (s1 : State) : Option State := do
  if o.csr.toNat < 0x100 then
    let w ← s1.warp c.key
    some (addDone c s1 (regWr c.w o.o1 c.exec (fun l => ⟨warpCsr s1 c.key w o.csr.toNat l, 0⟩)) [])
  else some (addLate c s1 (.csrRead o.csr.toNat) (laterReg c o.o1) [])

/-- CSRW, CSRS and CSRC: once for each participating lane, in ascending order (R174). -/
def ruleCsrw (o : OpS) (c : Ctx) (s1 : State) : Option State := do
  let src := fun l => if c.h.f.getLsbD 2 then (⟨o.imm.setWidth 64, 0⟩ : Lane) else c.val o.o2 l
  guard (calm c (fun l => [(src l).val]))
  guard ((lanesOf c.exec).all (fun l => (src l).poi = 0))
  let vs := (lanesOf (performLanes c)).map (fun l => (src l).val)
  if o.csr.toNat < 0x100 && !csrLater c o.csr.toNat then
    some (addDone c (s1.modWarp c.key (fun w => vs.foldl (fun w v => warpCsrWrite w o.csr.toNat (c.h.f.toNat % 4) v) w)) [] [])
  else some (addLate c s1 (.csrWrite o.csr.toNat (c.h.f.toNat % 4) vs) [] [])

/-! ## Groups, the pool, sleep (R201-R217) -/

/-- A request to the group unit stands in the warp's list; it is applied at once where it may be (R201, R204). -/
def ruleGroup (g : Nat) (r : GrpReq) (regs : Ctx → List RegWr) (c : Ctx) (s1 : State) : Option State := do
  guard (calm c (fun _ => []))
  let s2 := addLate c s1 (.group g r) (regs c) []
  let w ← s2.warp c.key
  let p ← findPend w c.op
  some (if grpReady s2 c.key c.op g r then applyGroup s2 c.key p g r else s2)

/-- ROLE, unless it is applied at issue while a warp of the crew is partly in the group (R207). -/
def ruleRole (o : OpR) (c : Ctx) (s1 : State) : Option State := do
  let cr ← c.s.crew c.w.crew
  guard (!((crewWarps c.s c.w.crew).any (fun e => warpIn (crewGroup cr (o.x.toNat % 16)) e.2 = 2)
    && grpReady c.s c.key c.op (o.x.toNat % 16) (.role 0)))
  ruleGroup (o.x.toNat % 16) (.role (o.x.toNat / 16 % 4)) (fun _ => []) c s1

/-- REGCLAIM joins the pool's queue (R210). -/
def ruleRegclaim (o : OpI) (c : Ctx) (s1 : State) : Option State := do
  guard (calm c (fun _ => []))
  some ((addLate c s1 (.claim o.imm.toNat) [] []).modCore c.unit (fun k => queueClaim k c.s.cycle ⟨c.key, c.op, o.imm.toNat⟩))

/-- REGGIVE: the top registers leave the allotment, and writes on their way to them no longer land (R211); in the first slot of a pair at
the end of the cycle (R20). -/
def ruleReggive (o : OpI) (c : Ctx) (s1 : State) : Option State := do
  guard (calm c (fun _ => []))
  let n := o.imm.toNat
  let a := c.w.allot - n
  let s3 := addLate c (if pairFirst c then s1 else s1.modWarp c.key (fun w => shrinkTo w a n)) (.give a n) [] []
  some (if firstWrites c a n then modPend s3 c.key c.op (fun p => { p with ready := max p.ready (c.s.cycle + c.w.lastFloor) }) else s3)

/-- SLEEP: a set wake-pending bit is cleared, otherwise the half falls asleep; in trap mode it completes at once (R215). -/
def ruleSleep (o : OpI) (c : Ctx) (s1 : State) : Option State := do
  guard (calm c (fun _ => []))
  if c.w.tm then some (addDone c s1 [] [])
  else
    let t := if o.imm = 0 then none else some (s1.cycle + o.imm.toNat)
    some ((addLate c s1 .sleep [] []).modWarp c.key (fun w => { w with
      sleepLo := if (sleepHalves c.w c.exec).1 then sleepOne w.sleepLo t else w.sleepLo
      sleepHi := if (sleepHalves c.w c.exec).2 then sleepOne w.sleepHi t else w.sleepHi }))

/-- WAKE of one warp of the crew, or of all but the issuer (R216). -/
def ruleWake (o : OpR) (c : Ctx) (s1 : State) : Option State := do
  let v := lowVal c o.o2
  guard (calm c (fun l => if o.x = 1 then [] else [(c.val o.o2 l).val]))
  let cr ← c.s.crew c.w.crew
  guard (o.x = 1 || (v.poi = 0 && v.val.toNat < (if c.w.c16 then 2 else 1) * cr.slots.length))
  let t := v.val.toNat
  let mine := wakeHalves c.w c.exec
  let s2 := (crewWarps s1 c.w.crew).foldl (fun s e =>
    if !warpLive e.2 then s
    else
      let lo := if o.x = 1 then !(e.1 = c.key && (!c.w.c16 || mine.1)) else if c.w.c16 then t / 2 = e.2.widx && t % 2 = 0 else t = e.2.widx
      let hi := c.w.c16 && (if o.x = 1 then !(e.1 = c.key && mine.2) else t / 2 = e.2.widx && t % 2 = 1)
      s.modWarp e.1 (fun w => { w with
        sleepLo := if lo then wakeOne w.sleepLo else w.sleepLo
        sleepHi := if hi then wakeOne w.sleepHi else w.sleepHi })) s1
  some (addDone c s2 [] [])

/-- PRIO (R217). -/
def rulePrio (o : OpI) (c : Ctx) (s1 : State) : Option State := do
  guard (calm c (fun _ => []))
  some (addDone c (s1.modWarp c.key (fun w => { w with prio := o.imm.toNat % 4 })) [] [])

/-! ## Memory (R237-R248) -/

/-- A lane-wise access past the checks of R242: it starts. -/
def ruleAccess (kind : MemKind) (names : Names) (disp : Int) (n : Nat) (classes : List Nat) (poison : Mask) (els : List MemEl)
    (vals : Nat → List Word) (regs : List RegWr) (preds : List PredWr) (c : Ctx) (s1 : State) : Option State := do
  guard (calm c vals)
  let cr ← c.s.crew c.w.crew
  let check := fun (s : State) (via : Via) =>
    passed (memCheck s c.w.crew cr c.w.tm c.protected? (keySlot c.key / 8) via disp n classes (kindWrites kind) poison els)
  match names with
  | .raw =>
    let (es, space) ← check s1 .raw
    some (memStart c s1 (mkOp c kind n none es space) regs preds)
  | .own =>
    let (es, space) ← check s1 .own
    some (memStart c s1 (mkOp c kind n none es space) regs preds)
  | .record h =>
    let (s2, r) ← found c s1 h.toNat
    let (es, space) ← check s2 (.tensor h.toNat r)
    some (memStart c s2 (mkOp c kind n (some r) es space) regs preds)

/-- A load into O1 from offsets in O2 (R240, R241). -/
def ruleLoad (names : Names) (o : OpM) (classes : List Nat) (c : Ctx) (s1 : State) : Option State :=
  ruleAccess (.load (.reg (c.h.f.toNat % 16 < 4) c.protected?)) names o.disp.toInt (codeBytes c.h.f) classes (vaPoison c o.o2)
    (laneEls c o.o2 (fun _ => 0) (fun _ => 0)) (fun l => [(c.val o.o2 l).val]) (laterReg c o.o1) [] c s1

/-- The lanes of O1 with its operand's bytes, as stores and reductions use them. -/
def ruleOperand (kind : MemKind) (names : Names) (o : OpM) (classes : List Nat) (regs : Ctx → List RegWr) (c : Ctx) (s1 : State) :
    Option State :=
  let n := codeBytes c.h.f
  ruleAccess kind names o.disp.toInt n classes (vaPoison c o.o2 ||| dataPoison c o.o1 n) (laneEls c o.o2 (opVal c o.o1 n) (fun _ => 0))
    (fun l => [(c.val o.o2 l).val, BitVec.ofNat 64 (opVal c o.o1 n l)]) (regs c) [] c s1

/-- A store of O1 (R240). -/
def ruleStore (names : Names) (o : OpM) (classes : List Nat) (c : Ctx) (s1 : State) : Option State :=
  ruleOperand .store names o classes (fun _ => []) c s1
/-- ATOM and ATOMS (R247). -/
def ruleAtom (names : Names) (o : OpM) (classes : List Nat) (c : Ctx) (s1 : State) : Option State :=
  ruleOperand (.atom (.op (c.h.f.toNat / 16))) names o classes (fun c => laterReg c o.o1) c s1
/-- RED and REDS (R248). -/
def ruleRed (names : Names) (o : OpM) (classes : List Nat) (c : Ctx) (s1 : State) : Option State :=
  ruleOperand (.red (c.h.f.toNat / 16)) names o classes (fun _ => []) c s1
/-- CAS and CASS: the expected value in O1, the new value in the register after it (R245, R247). -/
def ruleCas (names : Names) (o : OpM) (classes : List Nat) (c : Ctx) (s1 : State) : Option State :=
  let n := codeBytes c.h.f
  ruleAccess (.atom .cas) names (casDisp o) n classes (vaPoison c o.o2 ||| dataPoison c (o.o1 + 1) n)
    (laneEls c o.o2 (opVal c (o.o1 + 1) n) (opVal c o.o1 n))
    (fun l => [(c.val o.o2 l).val, BitVec.ofNat 64 (opVal c o.o1 n l), BitVec.ofNat 64 (opVal c (o.o1 + 1) n l)])
    (laterReg c o.o1) (predWr (casPred o) c.exec 0 0) c s1

/-- LD and ST through a class-3 record: no lane's coordinates lie outside under BMODE 0, no store reaches a sealed range, and the access is on
its way, or in the operand log behind a page of an earlier entry or with a fault of its own (R189, R190, R386, R388, R403). -/
def ruleRegion (store : Bool) (o : OpM) (c : Ctx) (s1 : State) : Option State := do
  let n := codeBytes c.h.f
  guard (calm c (fun l => if store then [(c.val o.o2 l).val, BitVec.ofNat 64 (opVal c o.o1 n l)] else [(c.val o.o2 l).val]))
  let cr ← c.s.crew c.w.crew
  let (s2, r) ← found c s1 o.hnd.toNat
  guard (tensorValid r && tClass r = 3 && c.h.f.toNat % 16 = tFmt r && !c.acorn && o.disp.toInt = 0)
  guard ((lanesOf c.exec).all (fun l => (c.val o.o2 l).poi = 0 && !(store && (c.val o.o1 l).poi.getLsbD 0)))
  let e : Env := ⟨c.unit, cr.cregs, .fetch c.key c.cur.pc⟩
  let els := (lanesOf (performLanes c)).map (fun l =>
    ({ idx := l, va := (c.val o.o2 l).val.toNat, pa := 0, data := (c.val o.o1 l).val.toNat % 2 ^ (8 * fmtN r), expect := 0 } : MemEl))
  let allowed : Bool := !regionPast c.cregs r none && match vmRdWords e 16 c.s (regPblk r) with
    | .ok (_, b, _) => !regionPast c.cregs r (some b) && (lanesOf c.exec).all (fun l => !(regionKey b (tBmode r) (c.val o.o2 l).val.toNat = .out))
        && !(store && regionSealed e c.s r b els != 0)
    | .error _ => true
  guard allowed
  let enter := fun (s : State) (held : List Nat) =>
    addLate c s (.region o.hnd.toNat r store els held (slotRows c.s c.key c.w c.cur.word)) (if store then [] else laterReg c o.o1) []
  some (if (regionPages r).any (fun g => (parkedPages c.w c.op).contains g) then enter s2 (regionPages r)
    else if regionBefore c.w c.op o.hnd.toNat r then enter s2 []
    else match regionTry e s2 cr.ctx o.hnd.toNat r store els with
      | .error (.fault va reason pte need) => sendFault (enter s2 (va / 65536 :: regionPages r))
          (faultOf cr c.unit (keySlot c.key) reason (accessByte (if store then permR + permW else need)) va c.cur.pc pte (.access c.key c.op))
      | _ => enter s2 [])

/-- PREF drops the lanes whose checks or translations fail; the others ask for their lines (R244). -/
def rulePref (o : OpM) (c : Ctx) (s1 : State) : Option State := do
  guard (calm c (fun l => [(c.val o.o2 l).val]))
  let cr ← c.s.crew c.w.crew
  match ← lookedUp c s1 cr.cregs o.hnd.toNat with
  | (s2, .fault _ _ _) => some (addDone c s2 [] [])
  | (s2, .found r bad) =>
    let els := (laneEls c o.o2 (fun _ => 0) (fun _ => 0)).flatMap (fun e =>
      match memCheck s2 c.w.crew cr c.w.tm c.protected? (keySlot c.key / 8) (.tensor o.hnd.toNat r) o.disp.toInt (codeBytes c.h.f) [1, 2, 4] false
          (vaPoison c o.o2 &&& (1#32 <<< e.idx)) [e] with
      | .trap _ _ => []
      | .ok es _ => es.filterMap (fun e => match (translate s2 c.unit cr.cregs e.va permR).2 with
        | .ok pa => some { e with pa := pa }
        | .fault _ _ => none))
    if bad != 0 || els.isEmpty then some (addDone c s2 [] [])
    else
      let m := mkOp c .prefetch (codeBytes c.h.f) (some r) els .cached
      some (memPerform (addLate c s2 (.parked m []) [] []) c.unit c.key c.op c.w.crew cr.cregs cr.ctx m)

/-! ## Records and tables (R239, R144, R149, R150) -/

/-- RECSET starts the write of a whole record (R239). -/
def ruleRecset (o : OpM) (c : Ctx) (s1 : State) : Option State := do
  let v := fun (k : Nat) => c.val (o.o2 + BitVec.ofNat 8 k) c.low
  guard ((List.range 4).all (fun k => (v k).poi = 0))
  some (memStart c s1 { mkOp c .recSet 32 none ((List.range 4).map (fun k =>
    ({ idx := k, va := recVa c.cregs o.hnd.toNat, pa := 0, data := (v k).val.toNat, expect := o.hnd.toNat } : MemEl))) .home with
      pair := false } [] [])

/-- RECGET gives the record's four words, poisoned where memory reported an error (R239). -/
def ruleRecget (o : OpM) (c : Ctx) (s1 : State) : Option State := do
  match ← lookedUp c s1 c.cregs o.hnd.toNat with
  | (s2, .found r bad) => some (addDone c s2 ((List.range 4).flatMap (fun k =>
      regWr c.w (o.o1 + BitVec.ofNat 8 k) c.exec (fun _ => ⟨r.extractLsb' (64 * k) 64, bothPoison (bad.getLsbD k)⟩))) [])
  | (_, .fault _ _ _) => none

/-- RECGEN starts the increment of a record's generation (R239). -/
def ruleRecgen (o : OpM) (c : Ctx) (s1 : State) : Option State :=
  some (memStart c s1 { mkOp c .recGen 32 none
    [{ idx := c.low, va := recVa c.cregs o.hnd.toNat, pa := 0, data := 0, expect := o.hnd.toNat }] .home with pair := false }
    (laterReg c o.o1) [])

/-- CBLD and ACTLD start the load of their words into a table (R144, R149). -/
def ruleTable (o : OpM) (words : Nat) (sink : Ctx → Sink) (c : Ctx) (s1 : State) : Option State := do
  let (s2, r) ← found c s1 o.hnd.toNat
  let a ← addressed (tableAddr c r o.hnd.toNat o.o2 o.disp.toInt (4 * words) 4 false false)
  some (memStart c s2 { mkOp c (.load (sink c)) 4 (some r)
    ((List.range words).map (fun j => ({ idx := j, va := a + 4 * j, pa := 0, data := 0, expect := 0 } : MemEl))) .cached with pair := false }
    [] [])

/-! ## The scratchpad's top (R231-R233) -/

/-- SPALLOC waits behind an earlier SPFREE of the crew; then it raises the top, pins and zeroes the new lines and gives the old top, or
changes nothing and gives all ones (R232). -/
def ruleSpalloc (o : OpI) (c : Ctx) (s1 : State) : Option State := do
  let s2 := addLate c s1 (.spalloc o.imm.toNat) (laterReg c o.o1) []
  let cr ← s2.crew c.w.crew
  let s3 := s2.setCrew c.w.crew { cr with
    top := cr.top + o.imm.toNat, pins := cr.top + o.imm.toNat
    sp := cr.sp.filter (fun e => e.1 < cr.top), spBad := cr.spBad.filter (fun e => e.1 * 8 < cr.top) }
  let fits := cr.top + o.imm.toNat ≤ Config.spLimit && pinsFit s3 c.unit
  some (if freeWaits s2 c.w.crew c.op then s2
    else modPend (if fits then pinEvict s3 c.unit else s2) c.key c.op (fun p => { p with
      late := .done, ready := s2.cycle + 1
      regs := p.regs.map (fun r => { r with row := mkRow (fun _ => ⟨if fits then BitVec.ofNat 64 cr.top else BitVec.allOnes 64, 0⟩) }) }))

/-- SPFREE lowers the top at issue, to no less than the static region and the trap area; its lines stay pinned until the accesses before it
have reached their banks (R232). -/
def ruleSpfree (o : OpI) (c : Ctx) (s1 : State) : Option State := do
  let cr ← s1.crew c.w.crew
  guard (cr.spBytes + Config.trapArea + o.imm.toNat ≤ cr.top)
  let s2 := addLate c (s1.setCrew c.w.crew { cr with top := cr.top - o.imm.toNat }) .spfree [] []
  some (if banksOut s2 c.w.crew c.op || freeWaits s2 c.w.crew c.op then s2
    else modPend (s2.modCrew c.w.crew (fun k => { k with
        pins := k.top, sp := k.sp.filter (fun e => e.1 < k.top), spBad := k.spBad.filter (fun e => e.1 * 8 < k.top) })) c.key c.op
      (fun p => { p with late := .done, ready := max p.ready (s2.cycle + 1) }))

/-- SPFENCE waits (R233). -/
def ruleSpfence (o : OpR) (c : Ctx) (s1 : State) : Option State := do
  let cr ← s1.crew c.w.crew
  guard ((lowVal c o.o2).poi = 0 && (lowVal c o.o3).poi = 0)
  guard ((lowVal c o.o2).val.toNat + (lowVal c o.o3).val.toNat ≤ cr.top)
  some (addLate c s1 (.spfence (lowVal c o.o2).val.toNat (lowVal c o.o3).val.toNat) [] [])

/-! ## Ordering (R265-R269) -/

/-- ACQ discards what the L1 may not keep, and holds the warp's M pipe (R266). -/
def ruleAcq (c : Ctx) (s1 : State) : Option State := do
  guard (calm c (fun _ => []))
  if c.acorn then some (addDone c s1 [] [])
  else
    let s2 := l1Acquire s1 c.unit
    some (blockM c (s2.modWarp c.key (fun w => addPend w (pendOf c (s2.cycle + 4) .done [] []))))
/-- ACQR (R268). -/
def ruleAcqr (o : OpR) (c : Ctx) (s1 : State) : Option State := do
  guard (calm c (fun l => [(c.val o.o2 l).val]))
  guard ((lowVal c o.o2).poi = 0 && (lowVal c o.o2).val.toNat < 1216)
  some (blockM c (addLate c s1 (.acqr (lowVal c o.o2).val.toNat) [] []))
/-- An instruction that waits, with no operand (REL, FENCE and others). -/
def ruleWaits (late : Late) (regs : Ctx → List RegWr) (c : Ctx) (s1 : State) : Option State := do
  guard (calm c (fun _ => []))
  some (addLate c s1 late (regs c) [])
/-- FENCE (R269). -/
def ruleFence (c : Ctx) (s1 : State) : Option State := do
  guard (calm c (fun _ => []))
  some (blockM c (addLate c s1 .fence [] []))

/-! ## Arrival words and queues (R249-R255) -/

/-- An arrival instruction past its checks reaches its words at once where no earlier scratchpad access of the warp is under way. -/
def ruleArrival (k : ArrKind) (va : Byte) (regs : Ctx → List RegWr) (c : Ctx) (s1 : State) : Option State := do
  guard (calm c (fun l => [(c.val va l).val]))
  let cr ← c.s.crew c.w.crew
  let els := laneEls c va (fun _ => 0) (fun _ => if c.protected? then 1 else 0)
  let (es, _) ← passed (memCheck s1 c.w.crew cr c.w.tm c.protected? (keySlot c.key / 8) .own 0 8 [] false (vaPoison c va) els)
  let s2 := addLate c s1 (.arrival c.w.crew k es) (regs c) []
  let w ← s2.warp c.key
  let p ← findPend w c.op
  some (arrivalStep s2 c.key p c.w.crew k es)

/-- The queue that an instruction names, past its checks: on the Acorn through its class-6 record (R252, R278); its QCW, and the
elements that it would move now, lie below the top and outside the trap area (R181, R232, R242). -/
def queueFound (c : Ctx) (s1 : State) (qn : Nat) (regs : Option Byte) (kind : Option QueueKind) : Option (State × Nat × Nat × QueueEnt) := do
  let cr ← s1.crew c.w.crew
  if !c.acorn then
    let q ← cr.queues.getD qn none
    guard (!queuePast c s1 cr c.w.crew qn q kind)
    some (s1, c.w.crew, qn, q)
  else
    let (s2, r) ← found c s1 (cr.qhandles.getD qn 0)
    let (t, n) ← acornQueue s2 cr r
    let q ← crewQueue s2 t n
    let fits : Bool := match regs with
      | some b => !regRange c.w b q.regs
      | none => true
    guard (fits && !(s2.crew t).any (fun tc => queuePast c s2 tc t n q kind))
    some (s2, t, n, q)

/-- A queue operation stands in the warp's list and reaches its queue where nothing stands before it: no request of a lower quad is due at
the banks in this cycle, and an Acorn's has the way to another unit's banks before it (R230). -/
def queueGoes (c : Ctx) (s : State) (late : Late) (regs : List RegWr) (preds : List PredWr) : Option State := do
  let s2 := addLate c s late regs preds
  let w ← s2.warp c.key
  let p ← findPend w c.op
  some (if c.acorn || !bankFree s c.key c.w.crew then s2 else queueStep s2 c.key p)

/-- PUSH and TRYPUSH with clean elements (R255). -/
def rulePush (o : OpR) (late : Nat → Nat → List (List Lane) → Late) (preds : Ctx → List PredWr) (c : Ctx) (s1 : State) : Option State := do
  let size := match crewQueue c.s c.w.crew (o.x.toNat % 32) with
    | some q => q.regs
    | none => 1
  guard (calm c (fun l => (List.range size).map (fun i => (c.val (o.o2 + BitVec.ofNat 8 i) l).val)))
  let (s2, crew, n, q) ← queueFound c s1 (o.x.toNat % 32) (some o.o2) (some .push)
  guard (pushPoison c o.o2 q.regs = 0)
  queueGoes c s2 (late crew n (pushData c o.o2 q.regs)) [] (preds c)
/-- POP and TRYPOP (R255). -/
def rulePop (o : OpR) (late : Nat → Nat → Late) (preds : Ctx → List PredWr) (c : Ctx) (s1 : State) : Option State := do
  guard (calm c (fun _ => []))
  let (s2, crew, n, q) ← queueFound c s1 (o.x.toNat % 32) (some o.o1) (some .pop)
  queueGoes c s2 (late crew n) (elemRegs c.w o.o1 q.regs c.exec) (preds c)
/-- QSTAT (R255). -/
def ruleQstat (o : OpR) (c : Ctx) (s1 : State) : Option State := do
  let (s2, crew, n, _) ← queueFound c s1 (o.x.toNat % 32) none none
  queueGoes c s2 (.queueStat crew n) (laterReg c o.o1) []

/-- QINIT reaches its bank in the order of the warp's accesses; there it writes the entry and both words of the QCW, and what waits on the
queue follows it (R102, R255). -/
def ruleQinit (o : OpI) (c : Ctx) (s1 : State) : Option State := do
  let qn := o.imm.toNat / 2 ^ 27
  let code := o.imm.toNat / 2 ^ 24 % 8
  let d := o.imm.toNat / 2 ^ 20 % 16
  let base := o.imm.toNat % 2 ^ 20
  let v := lowVal c o.o2
  let q : QueueEnt := { qcw := v.val.toNat, base := base, d := d, size := 8 * 2 ^ code }
  let cr ← s1.crew c.w.crew
  guard (v.poi = 0 && !queueOut cr true c.w.tm (keySlot c.key / 8) q && q.qcw % 16 = 0)
  queueGoes c s1 (.queueInit c.w.crew qn q) [] []

end Sys2Proof.Machine
end

