-- ==== Sys2Proof/RulesUnits.lean ====
section
/-! DEFINITION. What the statements say of instructions that act through a unit of the cluster, the die or the package, where none of
their checks fails. -/

namespace Sys2Proof.Machine

/-! ## Regions (R398-R401) -/

/-- The environment of reads at issue. -/
def issueEnv (c : Ctx) : Env := ⟨c.unit, c.cregs, .fetch c.key c.cur.pc⟩
/-- The 256 words of a region's block, the state after reading them, and the mark of the first. -/
def blockRead (c : Ctx) (s : State) (r : Tensor) : Option (State × Nat × Bool) :=
  match vmRdWords (issueEnv c) 256 s (regPblk r) with
  | .ok (s1, b, bad) => some (s1, b, bad.contains 0)
  | .error _ => none

/-- The class-3 record of FRFIT and FRSTAT, with INIT set in its block, and the mark of the word that holds INIT. -/
def fittedFound (c : Ctx) (s1 : State) (h : Nat) : Option (State × Tensor × Bool) := do
  let (s2, r) ← found c s1 h
  guard (tClass r = 3 && tensorValid r)
  let (s3, b, bad) ← blockRead c s2 r
  guard (blk b 6 1 % 2 = 1)
  some (s3, r, bad)

/-- FRFIT asks the region's Sprout for a job, and waits for it where HINT of the form says so (R401). -/
def ruleFrfit (o : OpM) (c : Ctx) (s1 : State) : Option State := do
  let (s2, r, _) ← fittedFound c s1 o.hnd.toNat
  some (addLate c s2 (.fitQueue o.hnd.toNat (regPblk r) none (c.h.f.toNat % 2 = 0)) (laterReg c o.o1) [])

/-- FRSTAT gives the status word, poisoned where a word that it rests on is uncorrectable (R399, R401, R473). -/
def ruleFrstat (o : OpM) (c : Ctx) (s1 : State) : Option State := do
  let (s2, _, bad) ← fittedFound c s1 o.hnd.toNat
  match regionStatus (issueEnv c) s2 c.ctxId o.hnd.toNat with
  | .ok (s3, v) => some (addDone c s3 (regWr c.w o.o1 c.exec (fun _ => if bad then { v with poi := 3 } else v)) [])
  | .error _ => none

/-- FRINIT with a legal block and a class-1 source of the region's format (R400). -/
def ruleFrinit (o : OpM) (c : Ctx) (s1 : State) : Option State := do
  let v := lowVal c o.o2
  let src := v.val.toNat
  let (s2, r) ← found c s1 o.hnd.toNat
  guard (tClass r = 3 && tensorValid r && src < 4096 && src < c.cregs.trtn.toNat)
  let (s3, q) ← found c s2 src
  guard (tensorValid q)
  let (s4, b, _) ← blockRead c s3 r
  let arena := blk b 0x40 8
  let hsz := halfBytes (regXsz r) (blkRsvn b)
  guard (tClass q = 1 && tFmt q = tFmt r && !(blk b 0x4C 4 / 2 ^ 31 = 1 && blk b 0x4C 4 % 4096 != src) && v.poi = 0)
  guard (blkLegal b (regXsz r) && blkPoints b * fmtN r ≤ tExtent q && (regPblk r = arena || regPblk r = arena + hsz))
  guard (arena % 4096 = 0 && regPblk r % 4096 = 0)
  some (addLate c s4 (.fitQueue o.hnd.toNat (regPblk r) (some src) true) (laterReg c o.o1) [])

/-! ## Tiles (R354-R360) -/

/-- LDT and STT past the checks of R360, where no parked entry of the warp touches the tile's pages and every page translates: the tile
enters, with its lines flushed unless it is sealed. -/
def ruleTile (o : OpT) (store : Bool) (c : Ctx) (s1 : State) : Option State := do
  let cr ← s1.crew c.w.crew
  let vb := fun (l : Nat) => if o.o1 = 240 then Lane.zero else c.val o.o1 l
  guard (calm c (fun l => [(c.val o.o2 l).val, (vb l).val]))
  let (s2, rm) ← found c s1 o.hnda.toNat
  let (s3, rs) ← found c s2 o.hndb.toNat
  let l := c.low
  let es := fmtBytes (tFmt rm)
  let i0 := (c.val o.o2 l).val.toNat / 2 ^ 32
  let j0 := (c.val o.o2 l).val.toNat % 2 ^ 32
  let p0 := (vb l).val.toNat / 2 ^ 32
  let q0 := (vb l).val.toNat % 2 ^ 32
  let rows := 2 ^ tTrows rm
  let cols := 2 ^ tTcols rm
  guard (tensorValid rm && (tClass rm = 2 || tClass rm = 4) && (tStride1 rm = 0 || tStride1 rm = es))
  guard (tensorValid rs && tClass rs = 5)
  let target ← crewVia s3 cr rs
  guard (tFmt rs = tFmt rm && tFmt rm != 0xE)
  guard ((c.val o.o2 l).poi = 0 && (vb l).poi = 0)
  guard (tTrows rm ≤ 8 && rows * cols * es ≤ 16384)
  let off := fun (i j : Nat) => (i0 + i) * tStride0 rm + (j0 + j) * es
  let spOff := fun (i j : Nat) => (p0 + i) * tStride0 rs + (q0 + j) * es
  let inside := fun (i j : Nat) => decide (i0 + i < tDim1 rm) && decide (j0 + j < tDim0 rm)
  let g := tileGrid rows cols
  let real := g.filter (fun e => inside e.1 e.2)
  let outs := g.filter (fun e => !inside e.1 e.2)
  let spBase := tBase rs % 2 ^ 20
  let els := real.map (fun e => ({ va := tBase rm + off e.1 e.2, pa := 0, sp := spBase + spOff e.1 e.2 } : TileEl))
  let asid := cr.cregs.asid.toNat % 65536
  guard (tBmode rm = 2 || outs.isEmpty)
  guard (!(real.any (fun e => tExtent rm < off e.1 e.2 + es || 2 ^ 52 ≤ tBase rm + off e.1 e.2)
    || g.any (fun e => tExtent rs < spOff e.1 e.2 + es)))
  let fits : Bool := match s3.crew target with
    | some k => !g.any (fun e => spOut k false false 0 (spBase + spOff e.1 e.2) es)
    | none => true
  guard fits
  guard ((tBase rm + off 0 0) % es = 0 && tStride0 rm % es = 0 && (spBase + spOff 0 0) % es = 0)
  guard (!(store && (tCoh rm = 2 || els.any (fun e => sealHit s3 asid e.va es))) && !els.any (fun e => fabricVa cr.cregs e.va))
  let t : Tile := { id := 0, unit := c.unit, key := c.key, op := c.op, store := store, low := (c.h.hint = 1)
                    sealed := false, seals := !store && (c.h.hint = 0 || c.h.hint = 2), coh2 := tCoh rm = 2
                    keep := c.h.hint = 2, asid := asid, va0 := tBase rm + off 0 0, lane := l, crew := target, es := es, els := els
                    zeros := if store then [] else outs.map (fun e => spBase + spOff e.1 e.2), data := [], todo := [] }
  guard (!(tilePages t).any (fun p => (parkedPages c.w c.op).contains (p.va / 65536)))
  match tileTranslate s3 cr.cregs t with
  | .error _ => none
  | .ok (s4, t') => if tileCrowded t' then none else some (tileEnter (addLate c s4 (.tile 0 true) [] []) t')

/-! ## The die cache (R339-R351) -/

/-- LLCSTAT is to read the eight counter words of a slice, or of each slice of a die or the package, one slice a cycle (R339). -/
def ruleLlcstat (o : OpR) (c : Ctx) (s1 : State) : Option State := do
  guard (calm c (fun l => if o.x.toNat % 4 = 2 then [] else [(c.val o.o2 l).val]))
  let scope := o.x.toNat % 4
  let n := (lowVal c o.o2).val.toNat
  guard (scope = 2 || (lowVal c o.o2).poi = 0)
  guard (!(scope = 0 && 384 ≤ n) && !(scope = 1 && 4 ≤ n))
  some (addLate c s1 (.llcstat (if scope = 0 then [n] else if scope = 1 then dieSlices n else List.range 384) (List.replicate 8 0))
    ((List.range 8).flatMap (fun i => laterReg c (o.o1 + BitVec.ofNat 8 i))) [])

/-- The range of SEAL and UNSEAL (R342). -/
def sealRange (c : Ctx) (r : Tensor) (h : Nat) : Option (Nat × Nat) :=
  match sealRec c r h with
  | .ok x => some x
  | .error _ => none

/-- SEAL (R343). -/
def ruleSeal (o : OpM) (c : Ctx) (s1 : State) : Option State := do
  guard (calm c (fun _ => []))
  let (s2, r) ← found c s1 o.hnd.toNat
  let (base, len) ← sealRange c r o.hnd.toNat
  some (addLate c s2 (.sealing base len o.hnd.toNat (tCoh r != 2) none) (laterReg c o.o1) [])

/-- UNSEAL's first step sets the closing bit of its entry, so that no fill makes a Sealed word of the range from then on (R344). -/
def ruleUnseal (o : OpM) (c : Ctx) (s1 : State) : Option State := do
  guard (calm c (fun _ => []))
  let (s2, r) ← found c s1 o.hnd.toNat
  let (base, len) ← sealRange c r o.hnd.toNat
  some (addLate c { s2 with seals := s2.seals.map (fun e =>
    if e.asid = c.cregs.asid.toNat % 65536 && e.base = base && e.len = len then { e with closing := true } else e) } (.unsealing base len) [] [])

/-- SNAP of a record with SNAP set to a class-1 destination that holds it and overlaps it nowhere (R347). -/
def ruleSnap (o : OpM) (c : Ctx) (s1 : State) : Option State := do
  guard (calm c (fun l => [(c.val o.o2 l).val]))
  let v := lowVal c o.o2
  let a := v.val.toNat
  let arr := a / 4096 % 2 ^ 20
  let noarr := a.testBit 32
  let cr ← s1.crew c.w.crew
  let (s2, r) ← found c s1 o.hnd.toNat
  guard (tensorValid r && (tClass r = 1 || tClass r = 2 || tClass r = 4) && tCoh r < 2 && tSnap r && a % 4096 < cr.cregs.trtn.toNat)
  let (s3, d) ← found c s2 (a % 4096)
  guard (tensorValid d && tClass d = 1 && a / 2 ^ 33 = 0 && !(noarr && arr != 0))
  guard (!(tBase r < tBase d + tExtent d && tBase d < tBase r + tExtent r))
  guard (!vaOut cr.cregs (tBase r) (tExtent r) && tBase d + tExtent r ≤ 2 ^ 52)
  guard (v.poi = 0 && tExtent r ≤ tExtent d && (noarr || !spOut cr false false 0 arr 1))
  guard (tBase r % 128 = 0 && tExtent r % 128 = 0 && tBase d % 128 = 0 && arr % 8 = 0)
  guard (tCoh d != 2 && !sealHit s3 (cr.cregs.asid.toNat % 65536) (tBase d) (tExtent d))
  some (addLate c s3 (.snapStart { Snap.free with
    active := true, key := c.key, op := c.op, crew := c.w.crew, ctx := cr.ctx, cregs := cr.cregs, handle := o.hnd.toNat
    dstHandle := a % 4096, word := c.cur.word, pc := c.cur.pc, act := c.cur.act, exec := c.exec, tm := c.w.tm, base := tBase r
    len := tExtent r, dst := tBase d, fabric := fabricVa cr.cregs (tBase d), arr := if noarr then none else some arr } none) (laterReg c o.o1) [])

/-- SNAPWAIT waits for its id; its .t form gives the state at once, and frees the id of an abandoned snapshot (R351). -/
def ruleSnapwait (o : OpI) (c : Ctx) (s1 : State) : Option State := do
  guard (calm c (fun l => [(c.val o.o2 l).val]))
  let v := lowVal c o.o2
  guard (v.poi = 0 && v.val.toNat < 16)
  let x := s1.snap v.val.toNat
  let word := if x.active then 4 + x.sent.length % 2 ^ 32 * 2 ^ 32 else if x.abandoned then 2 + x.sent.length % 2 ^ 32 * 2 ^ 32 else 1
  some (if o.imm = 1 then addDone c (if x.abandoned then s1.setSnap v.val.toNat Snap.free else s1) (oneReg c o.o1 (BitVec.ofNat 64 word)) []
    else addLate c s1 (.snapWait v.val.toNat (if x.active || x.abandoned then some x.op else none)) (laterReg c o.o1) [])

/-! ## The matrix array (R286-R296) -/

/-- A second record, where the form has one. -/
def foundIf (b : Bool) (c : Ctx) (s : State) (h : Nat) : Option (State × Tensor) := if b then found c s h else some (s, 0)
/-- Its target crew. -/
def crewIf (b : Bool) (o : Option Nat) : Option Nat := if b then o else some 0

/-- A sequencer command joins the queue at its issue. -/
def ruleCommand (k : MxKind) (_c : Ctx) (s1 : State) : Option State := some (addLate _c s1 (.mxQueue k) [] [])

/-- MMA and MMAS with A in a crew's scratchpad and B's entry loaded with the record's generation (R289, R290). -/
def ruleMma (o : OpT) (scaled : Bool) (c : Ctx) (s1 : State) : Option State := do
  let cr ← s1.crew c.w.crew
  let cl := unitCluster c.unit
  let ha := o.hnda.toNat
  let hb := o.hndb.toNat
  let (s2, ra) ← found c s1 ha
  let (s3, rb) ← found c s2 hb
  let crew ← tileCrew s3 cr ra
  let e ← (dirAhead s3 cl).find? (fun e => e.handle = hb)
  guard (e.gen = tGen rb && (!scaled || e.scales))
  let (s4, rs) ← foundIf scaled c s3 (tScale ra)
  let screw ← crewIf scaled (crewVia s4 cr rs)
  guard (!scaled || (tensorValid rs && tClass rs = 5 && tFmt rs = 7))
  let f := (s4.cluster cl).fmt
  let v := c.val o.o2 0
  let kn := o.x.toNat / 4 % 32 + 1
  let m := tDim1 ra
  let kb0 := v.val.toNat
  guard (tFmt ra = f && (e.fmt = f || (e.fmt = 0x10 && (f = 0xC || f = 0xD))))
  guard (v.poi = 0 && kb0 < 32 && 0 < m && m ≤ 256 && 32 * kn ≤ tDim0 ra && 32 * (kb0 + kn) ≤ e.k)
  guard (rowsFit ra m (32 * kn * fmtWidth f / 8) && (!scaled || rowsFit rs m kn))
  guard (!tileOut s4 crew ra m (32 * kn * fmtWidth f / 8) && !(scaled && tileOut s4 screw rs m kn))
  ruleCommand (.mma scaled (o.x.toNat % 4) kb0 kn ra crew ha hb rs screw f) c s4

/-- MDRAIN into a crew's scratchpad (R293). -/
def ruleMdrain (o : OpT) (c : Ctx) (s1 : State) : Option State := do
  let cr ← s1.crew c.w.crew
  let bs := o.x.getLsbD 2
  let v := c.val o.o2 0
  let arr := v.val.toNat % 2 ^ 20
  let row0 := v.val.toNat / 2 ^ 20 % 256
  let (s2, rd) ← found c s1 o.hnda.toNat
  let crew ← tileCrew s2 cr rd
  let (s3, rs) ← foundIf bs c s2 o.hndb.toNat
  let screw ← if bs then tileCrew s3 cr rs else some crew
  let f := tFmt rd
  let cols := tDim0 rd
  let rows := tDim1 rd
  guard ((f = 9 || f = 0xB || f = 0xC) && (!bs || (f = 0xC && cols % 32 = 0 && tFmt rs = 7)) && (bs || o.hndb.toNat = 0))
  guard (v.poi = 0 && v.val.toNat < 2 ^ 28 && 0 < cols && cols ≤ 256 && 0 < rows && rows ≤ 256 && row0 + rows ≤ 256)
  guard (rowsFit rd rows (cols * fmtBytes f) && (!bs || rowsFit rs rows (cols / 32)))
  guard (!(s3.crew crew).any (fun t => spOut t false false 0 arr 1) && !tileOut s3 crew rd rows (cols * fmtBytes f)
    && !(bs && tileOut s3 screw rs rows (cols / 32)))
  guard (arr % 8 = 0)
  ruleCommand (.mdrain (o.x.toNat % 4) o.x.toNat row0 arr rd crew rs screw) c s3

/-- WLOAD of weights, of scales with them, or of the codebook (R287). -/
def ruleWload (o : OpT) (c : Ctx) (s1 : State) : Option State := do
  let cl := unitCluster c.unit
  let hd := o.hnda.toNat
  let v := c.val o.o2 0
  let (s2, r) ← found c s1 hd
  if o.x.getLsbD 1 then
    let a ← addressed (tableAddr c r hd o.o2 0 1024 4 true true)
    ruleCommand (.wcb hd a) c s2
  else
    guard (weightRec r)
    let (s3, q) ← foundIf (o.x.getLsbD 0) c s2 (tScale r)
    guard (!o.x.getLsbD 0 || (tensorValid q && tClass q = 1 && tFmt q = 7))
    let rs := if o.x.getLsbD 0 then some q else none
    let k := tDim1 r
    let n := tDim0 r
    let off := v.val.toNat
    guard (v.poi = 0 && off < 2 ^ 23 && k % 32 = 0 && 32 ≤ k && k ≤ 1024 && 0 < n && n ≤ 256 && !(tFmt r = 0x10 && n % 8 != 0))
    guard (rowsFit r k (rowBytesB (tFmt r) n) && !(o.x.getLsbD 0 && tExtent q < (k / 32 - 1) * tStride0 q + n))
    guard (!rowsVaOut c.cregs r k (rowBytesB (tFmt r) n) && !(o.x.getLsbD 0 && rowsVaOut c.cregs q (k / 32) n))
    guard (off + (wloadEnt hd r off rs.isSome).len ≤ 2 ^ 23 && (dirStep (dirAhead s3 cl) (.wload hd r off rs)).length ≤ 32)
    guard (off % 256 = 0)
    ruleCommand (.wload hd r off rs) c s3

/-- MWAIT names the commands of its slots, and with bit 4 the loads, accepted or still at issue (R295). -/
def ruleMwait (o : OpR) (c : Ctx) (s1 : State) : Option State :=
  let named := fun (k : MxKind) => mxSlots k &&& (o.x.toNat % 16) != 0 || (o.x.getLsbD 4 && mxLoads k)
  let ids := ((s1.cluster (unitCluster c.unit)).cmds.filter (fun x => named x.kind)).map (fun x => x.id)
  let more := c.w.pend.filterMap (fun p => match p.late with
    | .mxQueue k => if named k then some p.op else none
    | _ => none)
  some (addLate c s1 (.mxWait (ids ++ more)) [] [])

/-! ## Copies (R307-R322) -/

/-- A copy command waits at issue for room in the queue, and with it the warp's M pipe (R307). -/
def copyGoes (c : Ctx) (s : State) (k : CpyCmd) : Option State := some (blockM c (addLate c s (.cpyQueue k) [] []))

/-- The fields of a copy command that its instruction and its crew give. -/
def copyOf (c : Ctx) (cr : Crew) (hd hs : Nat) (rd rs : Tensor) : CpyCmd :=
  { id := c.op, key := c.key, op := c.op, crew := c.w.crew, word := c.cur.word, pc := c.cur.pc, act := c.cur.act, exec := c.exec, tm := c.w.tm
    cregs := cr.cregs, ctx := cr.ctx, table := none, rect := false, hd := hd, hs := hs, rd := rd, rs := rs, dcrew := none, screw := none
    f := c.h.f, x := 0, cols := 0, rows := 0, so := (0, 0), dst := (0, 0), arr := none, started := false, moved := 0, seen := [], held := []
    due := 0, flags := 0 }

/-- CPY and CPYT past the checks of R314. -/
def ruleCopy (o : OpT) (rect : Bool) (c : Ctx) (s1 : State) : Option State := do
  let cr ← s1.crew c.w.crew
  let vb := fun (i : Nat) (l : Nat) => if o.o1 = 240 then Lane.zero else c.val (o.o1 + BitVec.ofNat 8 i) l
  guard (calm c (fun l => [(c.val o.o2 l).val, (vb 0 l).val, (vb 1 l).val]))
  let (s2, rd) ← found c s1 o.hnda.toNat
  let (s3, rs) ← found c s2 o.hndb.toNat
  let l := c.low
  let a := (c.val o.o2 l).val.toNat
  let b0 := (vb 0 l).val.toNat
  let b1 := (vb 1 l).val.toNat
  let len := a / 2 ^ 32
  let noarr := a.testBit 20
  let so := if rect then (b0 / 2 ^ 32, b0 % 2 ^ 32) else (0, b0)
  let dst := if rect then (b1 / 2 ^ 32, b1 % 2 ^ 32) else (0, b1)
  let base := { copyOf c cr o.hnda.toNat o.hndb.toNat rd rs with
    rect := rect, dcrew := crewVia s3 cr rd, screw := crewVia s3 cr rs, x := o.x, rows := 1, so := so, dst := dst }
  let sized := if rect then { base with
      cols := if len % 65536 = 0 then tDim0 rd - dst.2 else len % 65536
      rows := if len / 65536 = 0 then tDim1 rd - dst.1 else len / 65536 }
    else { base with cols := if len = 0 then (tExtent rd - dst.2) / cpyWd base else len / cpyWs base }
  let acrew := if a.testBit 21 then crewVia s3 cr rd else some c.w.crew
  let cmd := { sized with arr := if noarr then none else acrew.map (fun k => (k, a % 2 ^ 20)) }
  let classes := if rect then [2, 5] else [1, 2, 4, 5]
  guard (cpyRec s3 cr rd classes && cpyRec s3 cr rs classes)
  guard (cpyFormats cmd && (!a.testBit 21 || tClass rd = 5) && (a.testBit 21 || !c.acorn || noarr) && a / 2 ^ 22 % 2 ^ 10 = 0
    && (!noarr || a % 2 ^ 20 = 0))
  guard ((c.val o.o2 l).poi = 0 && (vb 0 l).poi = 0 && (vb 1 l).poi = 0)
  guard (cpyFits cmd len)
  let counted : Bool := match cmd.arr with
    | some (k, x) => (match s3.crew k with
      | some t => !spOut t false false 0 x 1
      | none => false)
    | none => true
  guard (counted && !cpySpOut s3 cmd.dcrew (cpyTotal cmd) (cpyWd cmd) (cpyDst cmd)
    && !cpySpOut s3 cmd.screw (cpyTotal cmd) (cpyWs cmd) (cpySrc cmd))
  guard (a % 2 ^ 20 % 8 = 0 && (rect || (so.2 % cpyWs cmd = 0 && dst.2 % cpyWd cmd = 0)))
  guard (tCoh rd != 2)
  copyGoes c s3 cmd

/-- CVTTAB of a table at a class-1 address (R321). -/
def ruleCvttab (o : OpM) (c : Ctx) (s1 : State) : Option State := do
  let (s2, r) ← found c s1 o.hnd.toNat
  let cr ← s2.crew c.w.crew
  let a ← addressed (tableAddr c r o.hnd.toNat o.o2 o.disp.toInt 512 2 true false)
  copyGoes c s2 { copyOf c cr o.hnd.toNat o.hnd.toNat r r with table := some (c.h.f.toNat % 4, a) }

/-- CPYSTAT waits, where it is asked to, for the copies that its issuer has begun (R322). -/
def ruleCpystat (o : OpR) (c : Ctx) (s1 : State) : Option State :=
  some (addLate c s1 (.cpyStat (if o.x.getLsbD 1 then issuerCopies s1 c.key c.w.crew else []) (o.x.getLsbD 0)) (laterReg c o.o1) [])

/-! ## The fabric (R449-R462) -/

/-- FSTORE and FLOAD past the checks of R449. -/
def ruleFabric (o : OpT) (load : Bool) (c : Ctx) (s1 : State) : Option State := do
  let cr ← s1.crew c.w.crew
  let vb := fun (i : Nat) (l : Nat) => if o.o1 = 240 then Lane.zero else c.val (o.o1 + BitVec.ofNat 8 i) l
  guard (calm c (fun l => [(c.val o.o2 l).val, (vb 0 l).val, (vb 1 l).val]))
  let hr := (if load then o.hndb else o.hnda).toNat
  let hl := (if load then o.hnda else o.hndb).toNat
  let (s2, rr) ← found c s1 hr
  let (s3, rl) ← found c s2 hl
  let l := c.low
  let a := (c.val o.o2 l).val.toNat
  let len := a / 2 ^ 32
  let arr := a % 2 ^ 20
  let noarr := a.testBit 20
  let so := (vb 0 l).val.toNat
  let dO := (vb 1 l).val.toNat
  let ro := if load then so else dO
  let lo := if load then dO else so
  let rva := tBase rr + ro
  let (s4, valid, _) := peerEntry s3 cr.cregs (fabSlot rva)
  guard (tensorValid rr && tClass rr = 1 && tCoh rr = 0 && fabricVa cr.cregs (tBase rr) && fabLocal s3 cr rl)
  guard (if load then a / 2 ^ 21 % 2 ^ 11 = 0 && !(noarr && arr != 0) else a % 2 ^ 32 = 0)
  guard ((c.val o.o2 l).poi = 0 && (vb 0 l).poi = 0 && (vb 1 l).poi = 0)
  guard (8 ≤ len && len ≤ 16777216 && len % 8 = 0 && ro + len ≤ tExtent rr && lo + len ≤ tExtent rl && fabOff rva + len ≤ 2 ^ 36 && valid
    && !fabVaOut cr.cregs rl lo len)
  guard (!((load && !noarr && spOut cr false false 0 arr 1)
    || cpySpOut s4 (crewVia s3 cr rl) (len / 8) 8 (fun i => fabBase rl + lo + 8 * i)))
  guard (so % 8 = 0 && dO % 8 = 0 && tBase rr % 8 = 0 && tBase rl % 8 = 0 && !(load && arr % 8 != 0))
  guard (!(load && (tCoh rl = 2 || (tClass rl != 5 && sealHit s4 (cr.cregs.asid.toNat % 65536) (tBase rl + lo) len))))
  some (addLate c s4 (.fabQueue (fabCmd c cr (if load then .load else .store) (some (connOf cr.ctx (fabSlot rva))) hr rl (crewVia s3 cr rl)
    (fabOff rva) lo len (if load && !noarr then some arr else none))) [] [])

/-- FRED gives a chunk of an open plan, once in an epoch (R459). -/
def ruleFred (o : OpT) (c : Ctx) (s1 : State) : Option State := do
  let cr ← s1.crew c.w.crew
  guard (calm c (fun l => [(c.val o.o2 l).val]))
  let (s2, r) ← found c s1 o.hnda.toNat
  let v := lowVal c o.o2
  let a := v.val.toNat
  let slot := a % 64
  let ch := a / 2 ^ 16 % 4096
  let off := a / 2 ^ 32
  guard (fabLocal s2 cr r && a / 64 % 1024 = 0 && a / 2 ^ 28 % 16 = 0 && v.poi = 0)
  let p ← s2.plan? slot
  guard (p.ctx = cr.ctx && ch < p.nch && !p.given.contains ch && off + p.chb ≤ tExtent r && !fabVaOut cr.cregs r off p.chb)
  guard (!cpySpOut s2 (crewVia s2 cr r) (p.chb / 8) 8 (fun i => fabBase r + off + 8 * i) && off % 8 = 0 && tBase r % 8 = 0)
  some (addLate c (s2.setPlan slot { p with given := p.given ++ [ch] })
    (.fabQueue (fabCmd c cr (.reduce slot ch p.epoch) none o.hnda.toNat r (crewVia s2 cr r) 0 off p.chb none)) [] [])

/-- FREL of one peer slot, or of every peer that the warp stored to (R453). -/
def ruleFrel (o : OpR) (c : Ctx) (s1 : State) : Option State := do
  guard (calm c (fun l => if o.x = 1 then [] else [(c.val o.o2 l).val]))
  if o.x = 1 then some (addLate c s1 (.frel true 0 none) [] [])
  else
    let v := lowVal c o.o2
    guard (v.poi = 0 && v.val.toNat < 4096)
    let (s2, valid, _) := peerEntry s1 c.cregs (v.val.toNat % 4096)
    guard valid
    some (addLate c s2 (.frel false (v.val.toNat % 4096) none) [] [])

/-- FSTAT of the issuer's stores, or of a plan slot that is free or of its context (R462). -/
def ruleFstat (o : OpR) (c : Ctx) (s1 : State) : Option State := do
  guard (calm c (fun l => if o.x = 1 then [(c.val o.o2 l).val] else []))
  if o.x = 0 then some (addLate c s1 (.fabStat none) (laterReg c o.o1) [])
  else
    let v := lowVal c o.o2
    let slot := v.val.toNat % 64
    let mine : Bool := match s1.plan? slot with
      | some p => p.ctx = c.ctxId
      | none => true
    guard (v.poi = 0 && mine)
    some (addLate c s1 (.fabStat (some slot)) (laterReg c o.o1) [])

/-- The words of a plan block, read whole and correct. -/
def planBlock (c : Ctx) (cr : Crew) (s : State) (a : Nat) : Option (State × Nat) :=
  match vmRdWords ⟨c.unit, cr.cregs, .fetch c.key c.cur.pc⟩ 8 s a with
  | .ok (s1, b, bad) => if bad.isEmpty then some (s1, b) else none
  | .error _ => none

/-- COLL.open of a legal block: the lowest free plan slot, or all ones where none is free (R458). -/
def ruleCollOpen (o : OpM) (c : Ctx) (s1 : State) : Option State := do
  guard (calm c (fun l => [(c.val o.o2 l).val]))
  let (s2, r) ← found c s1 o.hnd.toNat
  let cr ← s2.crew c.w.crew
  let a ← addressed (tableAddr c r o.hnd.toNat o.o2 o.disp.toInt 64 8 false false)
  let (s3, b) ← planBlock c cr s2 a
  let op := blk b 0 1
  let fmt := blk b 1 1
  let nch := blk b 4 4
  let chb := blk b 8 4
  let parent := blk b 0xC 2
  let nk := blk b 0xE 1
  let kids := (List.range 4).map (fun i => blk b (0x10 + 2 * i) 2)
  let resh := blk b 0x18 2
  let arrh := blk b 0x1A 2
  let hasRes := op = 2 || parent = 0xFFFF
  guard ((op = 1 || op = 2) && (fmt = 9 || fmt = 11) && 1 ≤ nch && nch ≤ 4096 && 256 ≤ chb && chb ≤ 1048576 && chb % 256 = 0)
  guard ((parent = 0xFFFF || parent < 4096) && nk ≤ 4 && (kids.zipIdx).all (fun k => if k.2 < nk then k.1 < 4096 else k.1 = 0))
  guard (resh < 4096 && arrh < 4096 && blk b 0xF 1 = 0 && blk b 0x1C 4 = 0 && blk b 0x20 32 = 0)
  guard (arrh < cr.cregs.trtn.toNat && (!hasRes || resh < cr.cregs.trtn.toNat))
  let (s4, ra) ← found c s3 arrh
  let (s5, rr) ← found c s4 (if hasRes then resh else arrh)
  guard (tensorValid ra && tClass ra = 5 && (crewVia s5 cr ra).isSome && (!hasRes || (fabLocal s5 cr rr && nch * chb ≤ tExtent rr)))
  guard (!cpySpOut s5 (crewVia s5 cr ra) 1 8 (fun _ => tBase ra % 2 ^ 20)
    && !(hasRes && cpySpOut s5 (crewVia s5 cr rr) (nch * chb / 8) 8 (fun i => fabBase rr + 8 * i)))
  let p : Plan := { ctx := cr.ctx, cregs := cr.cregs, crew := c.w.crew, key := c.key, op := op, fmt := fmt, planId := blk b 2 2
                    nch := nch, chb := chb, parent := if parent = 0xFFFF then none else some parent, kids := kids.take nk
                    resh := rr, rescrew := crewVia s5 cr rr, arrcrew := crewVia s5 cr ra, arr := tBase ra % 2 ^ 20, epoch := 0
                    mine := [], theirs := [], combined := [], awaiting := [], results := [], due := [], tally := [], counted := [], given := []
                    aborted := false }
  match (List.range 64).find? (fun i => (s5.plan? i).isNone) with
  | some i => some (addDone c (s5.setPlan i p) (oneReg c o.o1 (BitVec.ofNat 64 i)) [])
  | none => some (addDone c s5 (oneReg c o.o1 (BitVec.allOnes 64)) [])

/-- COLL.next and COLL.close of an open slot of the context (R458). -/
def ruleColl (o : OpM) (late : Nat → Late) (regs : Ctx → List RegWr) (c : Ctx) (s1 : State) : Option State := do
  guard (calm c (fun l => [(c.val o.o2 l).val]))
  let v := lowVal c o.o2
  let n := v.val.toNat
  guard (v.poi = 0 && n < 64)
  let p ← c.s.plan? n
  guard (p.ctx = c.ctxId)
  some (addLate c s1 (late n) (regs c) [])

/-! ## Launch, shootdown, frames, pre-emption (R416-R438) -/

/-- LAUNCH of a record at a 128-byte boundary inside its class-1 record (R428). -/
def ruleLaunch (o : OpM) (c : Ctx) (s1 : State) : Option State := do
  guard (calm c (fun l => [(c.val o.o2 l).val]))
  let (s2, r) ← found c s1 o.hnd.toNat
  let a ← addressed (tableAddr c r o.hnd.toNat o.o2 o.disp.toInt 128 128 false false)
  guard (!(released s2 c.key c.w c.op && !copiesOut s2 c.key c.op && launchPast s2 c a (tBase r + tExtent r)))
  some (addLate c s2 (.launch a (tBase r + tExtent r) (c.h.f.getLsbD 0) (slotRows c.s c.key c.w c.cur.word) none []) (laterReg c o.o1) [])

/-- TLBINV starts to drop the translations of its scope (R416). -/
def ruleTlbinv (o : OpR) (c : Ctx) (s1 : State) : Option State := do
  let form := o.x.toNat % 4
  let used := fun (l : Nat) => if form = 0 then [c.val o.o2 l, c.val o.o3 l, c.val o.o4 l] else if form = 1 then [c.val o.o4 l] else []
  let va := (lowVal c o.o2).val.toNat
  let vb := (lowVal c o.o3).val.toNat
  let asid := (lowVal c o.o4).val.toNat % 65536
  guard ((used c.low).all (fun v => v.poi = 0))
  guard (form != 0 || (va % 65536 = 0 && vb % 65536 = 0 && vb != 0))
  let scope := if form = 0 then some (asid, va, vb) else if form = 1 then some (asid, 0, 2 ^ 64) else none
  some (startDrop (addLate c s1 (.tlbinv scope) [] []) scope)

/-- FRAMERET of a page (R419). -/
def ruleFrameret (o : OpR) (c : Ctx) (s1 : State) : Option State := do
  let vs := fun (l : Nat) => [c.val o.o2 l, c.val o.o3 l, c.val o.o4 l, c.val o.o5 l]
  let va := (lowVal c o.o2).val.toNat
  let vb := (lowVal c o.o3).val.toNat
  let ve := (lowVal c o.o5).val.toNat
  guard ((vs c.low).all (fun v => v.poi = 0))
  guard (va % 8 = 0 && vb % 65536 = 0 && ve % 65536 = 0 && va < Config.memTop)
  some (addLate c s1 (.frameret va (vb / 65536 % 2 ^ 32) ((lowVal c o.o4).val.toNat % 65536) ve none) (laterReg c o.o1) [])

/-- CTXSAVE of a target into an aligned class-1 record (R438). -/
def ruleCtxsave (o : OpM) (c : Ctx) (s1 : State) : Option State := do
  let (s2, r) ← found c s1 o.hnd.toNat
  let v := lowVal c o.o2
  guard (tensorValid r && tClass r = 1 && tBase r % 4096 = 0 && !vaOut c.cregs (tBase r) 64 && v.poi = 0 && v.val.toNat < 2 ^ 38)
  some (addLate c s2 (.ctxsave (tBase r) (tExtent r) v.val.toNat none) (laterReg c o.o1) [])

/-- CTXLOAD from an aligned class-1 record (R438). -/
def ruleCtxload (o : OpM) (c : Ctx) (s1 : State) : Option State := do
  let (s2, r) ← found c s1 o.hnd.toNat
  guard (tensorValid r && tClass r = 1 && tBase r % 4096 = 0 && !vaOut c.cregs (tBase r) 64)
  some (addLate c s2 (.ctxload (tBase r) (tExtent r)) (laterReg c o.o1) [])

end Sys2Proof.Machine
end

