-- ==== Sys2Proof/WellFormed.lean ====
section
/-! DEFINITION. Well-formed instructions: the fields pass decode checks 4 and 6 of 02_encoding.md R41. An ill-formed word still decodes, because
the machine answers it with a trap. -/

namespace Sys2Proof

/-- The fields of an instruction word are legal; a step of the part without an encoding is well-formed. -/
def Instr.wellFormed (i : Instr) : Bool := (Machine.instrShape i).ok

end Sys2Proof
end

