-- ==== Sys2Proof/Certificates/Slice0/Obligations.lean ====
section
/-! DEFINITION. The statements about the machine, each a Prop to be proved. Where one names an instruction it speaks of every state and
every operand for which the instruction issues (`issues`: no decode check of R41 stops it). -/

section Statements
open Sys2Proof Sys2Proof.Machine

/-! ## Instructions of one thread -/

/-- MOV, MOVI, MOVHI, SEL and LEA write their result in every lane whose guards hold and change nothing else (R106-R109, R124). -/
def Obligations.MoveResults : Prop := ∀ (h : Hdr) (o : OpR) (q : OpI) (s : State),
  Gives (.mov h o) h s (fun c => cleanUpdate c o.o1 (fun l => c.val o.o2 l)) ∧
  Gives (.movi h q) h s (fun c => cleanUpdate c q.o1 (fun _ => ⟨moviWord h.f q.imm, 0⟩)) ∧
  Gives (.movhi h q) h s (fun c => cleanUpdate c q.o1 (fun l =>
    ⟨q.imm ++ (c.val q.o1 l).val.extractLsb' 0 32, (c.val q.o1 l).poi &&& 1⟩)) ∧
  Gives (.sel h o) h s (fun c => cleanUpdate c o.o1 (fun l =>
    let v := if (c.pred o.o4 l).1 then c.val o.o2 l else c.val o.o3 l
    ⟨v.val, if (c.pred o.o4 l).2 then 3 else v.poi⟩)) ∧
  Gives (.lea h o) h s (fun c => cleanUpdate c o.o1 (fun l =>
    ⟨BitVec.ofInt 64 (((c.val o.o2 l).val.toNat : Int) + leaIndex h.f (c.val o.o3 l).val * 2 ^ (o.x.toNat % 8)),
      bothPoison (anyPoison (c.val o.o2 l)
        || (if etyWidth (etyF h.f) = 64 then anyPoison (c.val o.o3 l) else (c.val o.o3 l).poi.getLsbD 0))⟩))

/-- Integer arithmetic by sub-element: the exact result of each sub-element fitted to its type, SATC where SAT clamped it (R53, R104,
R110, R113-R116), in every lane whose guards hold, and nothing else changes. -/
def Obligations.IntegerResults : Prop := ∀ (h : Hdr) (o : OpR) (s : State),
  let a := fun (c : Ctx) l => c.val o.o2 l
  let b := fun (c : Ctx) l => srcB c o (etyWidth (etyF h.f)) l
  let d := fun (c : Ctx) l => c.val o.o4 l
  Gives (.iadd h o) h s (fun c => laneUpdate c o.o1 (fun l => intLane2 c h.f (a c l) (b c l) (fun x y => x + y))) ∧
  Gives (.isub h o) h s (fun c => laneUpdate c o.o1 (fun l => intLane2 c h.f (a c l) (b c l) (fun x y => x - y))) ∧
  Gives (.imul h o) h s (fun c => laneUpdate c o.o1 (fun l => intLane2 c h.f (a c l) (b c l) (fun x y => x * y))) ∧
  Gives (.imulh h o) h s (fun c => laneUpdate c o.o1 (fun l =>
    intLane2 c h.f (a c l) (b c l) (fun x y => (x * y) / 2 ^ etyWidth (etyF h.f)))) ∧
  Gives (.imad h o) h s (fun c => laneUpdate c o.o1 (fun l => intLane3 c h.f (a c l) (b c l) (d c l) (fun x y z => x * y + z))) ∧
  Gives (.imadw h o) h s (fun c => laneUpdate c o.o1 (fun l => imadwLane c.w.fpmode h.f o.x (a c l) (c.val o.o3 l) (d c l))) ∧
  Gives (.idp4 h o) h s (fun c => laneUpdate c o.o1 (fun l => idp4Lane c.w.fpmode h.f (a c l) (c.val o.o3 l) (d c l))) ∧
  Gives (.iabs h o) h s (fun c => laneUpdate c o.o1 (fun l => intLane1 c h.f (a c l) (fun x => (x.natAbs : Int)))) ∧
  Gives (.imin h o) h s (fun c => laneUpdate c o.o1 (fun l => intLane2 c h.f (a c l) (b c l) (fun x y => min x y))) ∧
  Gives (.imax h o) h s (fun c => laneUpdate c o.o1 (fun l => intLane2 c h.f (a c l) (b c l) (fun x y => max x y))) ∧
  Gives (.isad h o) h s (fun c => laneUpdate c o.o1 (fun l =>
    intLane3 c h.f (a c l) (b c l) (d c l) (fun x y z => ((x - y).natAbs : Int) + z))) ∧
  Gives (.icmpm h o) h s (fun c => laneUpdate c o.o1 (fun l =>
    let sg := etySigned (etyF h.f)
    bitLane c h.f [a c l, b c l] (fun w xs =>
      if iCond (h.f.toNat >>> 4) (intOf sg w (xs.getD 0 0)) (intOf sg w (xs.getD 1 0)) then 2 ^ w - 1 else 0)))

/-- IADDS, ISUBS and IADC: the 64-bit result wraps, and the predicate of O4, or of O5 for IADC, says whether the exact result lies outside
the type (R111, R112); both are poisoned where a source is (R72). Nothing else changes. -/
def Obligations.CarryResults : Prop := ∀ (h : Hdr) (o : OpR) (s : State),
  let res := fun (c : Ctx) (p : Byte) (x : Nat → Int) (bad : Nat → Bool) =>
    ({ regs := onReg c.w o.o1 c.exec (fun l => ⟨BitVec.ofInt 64 (x l), bothPoison (bad l)⟩)
       preds := onPred p c.exec (fun l => (outside64 h.f (x l), bad l)) } : Update)
  Gives (.iadds h o) h s (fun c => res c o.o4
    (fun l => int64Of h.f (c.val o.o2 l).val + int64Of h.f (srcB c o 64 l).val)
    (fun l => anyPoison (c.val o.o2 l) || anyPoison (srcB c o 64 l))) ∧
  Gives (.isubs h o) h s (fun c => res c o.o4
    (fun l => int64Of h.f (c.val o.o2 l).val - int64Of h.f (srcB c o 64 l).val)
    (fun l => anyPoison (c.val o.o2 l) || anyPoison (srcB c o 64 l))) ∧
  Gives (.iadc h o) h s (fun c => res c o.o5
    (fun l => int64Of h.f (c.val o.o2 l).val + int64Of h.f (c.val o.o3 l).val + (if (c.pred o.o4 l).1 then 1 else 0))
    (fun l => anyPoison (c.val o.o2 l) || anyPoison (c.val o.o3 l) || (c.pred o.o4 l).2))

/-- Bitwise logic, shifts, bit fields and bit counts (R118-R122): no flag is raised, and nothing but the destination changes. -/
def Obligations.BitResults : Prop := ∀ (h : Hdr) (o : OpR) (s : State),
  let b := fun (c : Ctx) l => srcB c o (etyWidth (etyF h.f)) l
  let logic := fun (i : Instr) (g : Word → Word → Word) =>
    Gives i h s (fun c => cleanUpdate c o.o1 (fun l => ⟨g (c.val o.o2 l).val (b c l).val, (c.val o.o2 l).poi ||| (b c l).poi⟩))
  let bits := fun (i : Instr) (srcs : Ctx → Nat → List Lane) (g : Nat → List Nat → Nat) =>
    Gives i h s (fun c => laneUpdate c o.o1 (fun l => bitLane c h.f (srcs c l) g))
  logic (.and h o) (fun x y => x &&& y) ∧ logic (.or h o) (fun x y => x ||| y) ∧ logic (.xor h o) (fun x y => x ^^^ y) ∧
  logic (.andn h o) (fun x y => x &&& ~~~y) ∧
  Gives (.lop3 h o) h s (fun c => cleanUpdate c o.o1 (fun l =>
    ⟨lop3Word o.x (c.val o.o2 l).val (c.val o.o3 l).val (c.val o.o4 l).val,
      (c.val o.o2 l).poi ||| (c.val o.o3 l).poi ||| (c.val o.o4 l).poi⟩)) ∧
  bits (.shl h o) (fun c l => [c.val o.o2 l, b c l]) (fun w xs => shlBits w (xs.getD 0 0) (xs.getD 1 0)) ∧
  bits (.shr h o) (fun c l => [c.val o.o2 l, b c l]) (fun w xs => shrBits w (xs.getD 0 0) (xs.getD 1 0)) ∧
  bits (.sar h o) (fun c l => [c.val o.o2 l, b c l]) (fun w xs => sarBits w (xs.getD 0 0) (xs.getD 1 0)) ∧
  bits (.rotl h o) (fun c l => [c.val o.o2 l, b c l]) (fun w xs => rotlBits w (xs.getD 0 0) (xs.getD 1 0)) ∧
  bits (.fshf h o) (fun c l => [c.val o.o2 l, c.val o.o3 l, c.val o.o4 l])
    (fun w xs => fshfBits (o.x.getLsbD 0) w (xs.getD 0 0) (xs.getD 1 0) (xs.getD 2 0)) ∧
  bits (.bfx h o) (fun c l => [c.val o.o2 l, b c l, c.val o.o4 l])
    (fun w xs => bfxBits (etySigned (etyF h.f)) w (xs.getD 0 0) (xs.getD 1 0) (xs.getD 2 0)) ∧
  bits (.bfi h o) (fun c l => [c.val o.o2 l, c.val o.o3 l, c.val o.o4 l, c.val o.o5 l])
    (fun w xs => bfiBits w (xs.getD 0 0) (xs.getD 1 0) (xs.getD 2 0) (xs.getD 3 0)) ∧
  bits (.popc h o) (fun c l => [c.val o.o2 l]) (fun w xs => popcBits w (xs.getD 0 0)) ∧
  bits (.clz h o) (fun c l => [c.val o.o2 l]) (fun w xs => clzBits w (xs.getD 0 0)) ∧
  bits (.ctz h o) (fun c l => [c.val o.o2 l]) (fun w xs => ctzBits w (xs.getD 0 0)) ∧
  bits (.brev h o) (fun c l => [c.val o.o2 l]) (fun w xs => brevBits w (xs.getD 0 0))

/-- ICMP, FCMP and PLOP write one predicate, and FCMP raises NV for a signalling NaN in a sub-element that it compares (R123, R159).
That a sub-element outside the lane's compare raises no NV is the model's reading (log 9). -/
def Obligations.PredicateResults : Prop := ∀ (h : Hdr) (o : OpR) (s : State),
  let t := etyF h.f
  let w := etyWidth t
  let mode := o.x.toNat % 4
  Gives (.icmp h o) h s (fun c => predUpdate c o.o1 (fun l =>
    (combine mode (etyCount t) (fun k => iCond (h.f.toNat >>> 4)
        (intOf (etySigned t) w (elemAt w k (c.val o.o2 l).val)) (intOf (etySigned t) w (elemAt w k (srcB c o w l).val))),
      cmpPoison mode w [c.val o.o2 l, srcB c o w l]))) ∧
  Gives (.fcmp h o) h s (fun c =>
    let a := fun l k => fDecode t (elemAt w k (c.val o.o2 l).val)
    let b := fun l k => fDecode t (elemAt w k (c.val o.o3 l).val)
    { preds := onPred o.o1 c.exec (fun l =>
        (combine mode (etyCount t) (fun k => fCond (h.f.toNat >>> 4) (a l k) (b l k)), cmpPoison mode w [c.val o.o2 l, c.val o.o3 l]))
      flags := flagIf ((lanesOf c.exec).any (fun l => (List.range (if mode = 0 then 1 else etyCount t)).any (fun k =>
        (a l k).isSignalling || (b l k).isSignalling))) flNV }) ∧
  Gives (.plop h o) h s (fun c => predUpdate c o.o1 (fun l =>
    (o.x.getLsbD ((if (c.pred o.o2 l).1 then 1 else 0) + (if (c.pred o.o3 l).1 then 2 else 0) + (if (c.pred o.o4 l).1 then 4 else 0)),
      (c.pred o.o2 l).2 || (c.pred o.o3 l).2 || (c.pred o.o4 l).2)))

/-- Floating point by sub-element: each result is the exact value rounded once under the mode, SAT and FTZ of the instruction, with its
flags and poison (R63, R64, R70, R125-R135). Nothing else changes. The sign of a sum that is exactly zero is the model's reading (log 58): -0 under
RDN for (+0) + (+0) too, and -0 in every mode for three or more terms that are all -0, as FDOT2, FDOT4 and FFMA may meet them. -/
def Obligations.FloatResults : Prop := ∀ (h : Hdr) (o : OpR) (s : State),
  let a := fun (c : Ctx) l => c.val o.o2 l
  let b := fun (c : Ctx) l => c.val o.o3 l
  let d := fun (c : Ctx) l => c.val o.o4 l
  let lanes := fun (i : Instr) (f : Ctx → Nat → LaneRes) => Gives i h s (fun c => laneUpdate c o.o1 (f c))
  let two := fun (i : Instr) (g : RCtl → Ety → FVal → FVal → FRes) =>
    lanes i (fun c l => fltLane c h.f [a c l, b c l] (fun r t xs => g r t (nth xs 0) (nth xs 1)))
  let three := fun (i : Instr) (g : RCtl → Ety → FVal → FVal → FVal → FRes) =>
    lanes i (fun c l => fltLane c h.f [a c l, b c l, d c l] (fun r t xs => g r t (nth xs 0) (nth xs 1) (nth xs 2)))
  two (.fadd h o) (fun r t x y => fSumRound t r [x, y]) ∧ two (.fsub h o) (fun r t x y => fSumRound t r [x, y.flip]) ∧
  two (.fmul h o) (fun r t x y => fRoundVal t r (fMul x y)) ∧ three (.ffma h o) (fun r t x y z => fSumRound t r [fMul x y, z]) ∧
  two (.dadd h o) (fun r t x y => fSumRound t r [x, y]) ∧ two (.dmul h o) (fun r t x y => fRoundVal t r (fMul x y)) ∧
  three (.dfma h o) (fun r t x y z => fSumRound t r [fMul x y, z]) ∧
  lanes (.fmin h o) (fun c l => patLane c h.f [a c l, b c l] (fun t xs => fMinMax false (h.f.getLsbD 7) t (xs.getD 0 0) (xs.getD 1 0))) ∧
  lanes (.fmax h o) (fun c l => patLane c h.f [a c l, b c l] (fun t xs => fMinMax true (h.f.getLsbD 7) t (xs.getD 0 0) (xs.getD 1 0))) ∧
  lanes (.fclass h o) (fun c l => patLane c h.f [a c l] (fun t xs => ⟨2 ^ fClassBit t (xs.getD 0 0), 0⟩)) ∧
  lanes (.frnd h o) (fun c l => patLane c h.f [a c l] (fun t xs =>
    fIntegral t (modeOf c.w.fpmode h.f) (xs.getD 0 0) (fInput (h.f.getLsbD 7) t (xs.getD 0 0)))) ∧
  lanes (.fscale h o) (fun c l => patLane c h.f [a c l, b c l] (fun t xs =>
    fScale t (ctlOf c.w.fpmode h.f) (xs.getD 0 0) (fInput (h.f.getLsbD 7) t (xs.getD 0 0)) (intOf true (etyWidth t) (xs.getD 1 0)))) ∧
  lanes (.fgetexp h o) (fun c l => fltLane c h.f [a c l] (fun _ t xs => fGetExp t (nth xs 0))) ∧
  lanes (.fdot2 h o) (fun c l => fdotLane c h.f 2 (a c l) (b c l) (d c l)) ∧
  lanes (.fdot4 h o) (fun c l => fdotLane c h.f 4 (a c l) (b c l) (d c l)) ∧
  lanes (.fhadd h o) (fun c l => fhaddLane c h.f (a c l) (b c l)) ∧
  lanes (.frcp h o) (fun c l => fltLane c h.f [a c l] (fun r t xs => fRecip t r (nth xs 0))) ∧
  lanes (.frsq h o) (fun c l => fltLane c h.f [a c l] (fun r t xs => fRecipSqrt t r (nth xs 0))) ∧
  lanes (.fabs h o) (fun c l => cleanRes ((a c l).val &&& ~~~signBits (etyF h.f)) (a c l).poi) ∧
  lanes (.fneg h o) (fun c l => cleanRes ((a c l).val ^^^ signBits (etyF h.f)) (a c l).poi)

/-! ## Conversions, special functions, random numbers -/

/-- CVT, CVTI, PACK, UNPK, BSCALE, QNT, DQNT and CBDEC (R138-R145).
That a flag of BSCALE poisons both halves under FPMODE.PI is the model's reading (log 59). -/
def Obligations.ConversionResults : Prop := ∀ (h : Hdr) (o : OpR) (s : State),
  let a := fun (c : Ctx) l => c.val o.o2 l
  let lanes := fun (i : Instr) (f : Ctx → Nat → LaneRes) => Gives i h s (fun c => laneUpdate c o.o1 (f c))
  lanes (.cvt h o) (fun c l =>
    cvtLane c.w.fpmode h.f o.x (a c l) (c.val o.o3 l) (cvtConv (ctlOf c.w.fpmode h.f) h.f o.x (a c l).val) false) ∧
  lanes (.cvti h o) (fun c l =>
    cvtLane c.w.fpmode h.f o.x (a c l) (c.val o.o3 l) (cvtiConv (ctlOf c.w.fpmode h.f) h.f o.x (a c l).val) false) ∧
  lanes (.pack h o) (fun c l => packLane c h.f (a c l) (c.val o.o3 l)) ∧
  lanes (.unpk h o) (fun c l =>
    let w := etyWidth (etyF h.f)
    let k := etyCount (etyF h.f)
    let hi := if o.x.getLsbD 0 then 1 else 0
    packRes c.w.fpmode (2 * w) (k / 2) (bothPoison ((a c l).poi.getLsbD hi)) (fun j =>
      ⟨wrapTo (2 * w) (intOf (etySigned (etyF h.f)) w (elemAt w (hi * (k / 2) + j) (a c l).val)), 0⟩)) ∧
  lanes (.bscale h o) (fun c l =>
    let r := bscaleRes (etyF h.f) (fDecode .f32 (elemAt 32 0 (a c l).val))
    ⟨⟨BitVec.ofNat 64 r.bits, bothPoison ((a c l).poi.getLsbD 0 || flagsPoison c.w.fpmode r.flags)⟩, r.flags⟩) ∧
  lanes (.qnt h o) (fun c l => qntLane c h.f o.x (a c l) (c.val o.o3 l) (c.val o.o4 l) (c.val o.o5 l)) ∧
  lanes (.dqnt h o) (fun c l => dqntLane c h.f o.x (a c l) (c.val o.o3 l)) ∧
  lanes (.cbdec h o) (fun c l =>
    let code := elemAt 16 (o.x.toNat % 4) (a c l).val
    let e := cbEntry (c.s.core c.unit).codebook (code / 256)
    cleanRes (BitVec.ofNat 64 (packElems 8 (cbElem (etyF h.f) e.1 code) 8)) (bothPoison ((a c l).poi.getLsbD (o.x.toNat % 4 / 2) || e.2)))

/-- FEXP2, FLOG2, FSIN, FCOS, FTANH and FSIG by sub-element (R79, R80, R146); ACT through the bank that is current in the cycle of its
issue, which no ACTLD writes for its floor (R81, R148-R150). The model's readings: how the exact value of a function is reached before it is
rounded (log 12), that the intermediate roundings of ACT take neither SAT nor FTZ (log 60), and NX of an exact power of two, and UF of a result
below the threshold in FP32, both from one rounding (log 61). -/
def Obligations.SpecialFunctionResults : Prop := ∀ (h : Hdr) (o : OpR) (s : State),
  let special := fun (i : Instr) (g : SFun) =>
    Gives i h s (fun c => laneUpdate c o.o1 (fun l => fltLane c h.f [c.val o.o2 l] (fun _ t xs => sfEval g t (ctlNear h.f) (nth xs 0))))
  special (.fexp2 h o) .exp2 ∧ special (.flog2 h o) .log2 ∧ special (.fsin h o) .sin ∧ special (.fcos h o) .cos ∧
  special (.ftanh h o) .tanh ∧ special (.fsig h o) .sig ∧
  GivesWith (.act h o) h s (fun _ => false) (fun _ => none)
    (fun c => laneUpdate c o.o1 (fun l => actLane c h.f (actBank (c.s.core c.unit) (o.x.toNat % 4) c.s.cycle) (c.val o.o2 l) l))
    (fun c => if c.exec = 0 then c.s else c.s.modCore c.unit (fun k => { k with
      act := k.act.set (o.x.toNat % 4) (actRead (k.act.getD (o.x.toNat % 4) ActTable.start) c.s.cycle) }))

/-- RNGSEED replaces a lane's generator, RNG takes two draws and CVTSR one for each sub-element that it converts (R67, R68, R151); a lane
that does not execute keeps its generator. That a value beyond the largest finite number goes where FPMODE.RM directs, under CVTSR too, is the
model's reading (log 10). -/
def Obligations.RandomResults : Prop := ∀ (h : Hdr) (o : OpR) (s : State),
  Gives (.rngseed h o) h s (fun c =>
    { gens := fun l => if c.exec.getLsbD l then
        some (if (c.val o.o2 l).val = 0 then BitVec.ofNat 64 Config.golden else (c.val o.o2 l).val) else none
      genPoi := fun l => if c.exec.getLsbD l then some (anyPoison (c.val o.o2 l)) else none }) ∧
  Gives (.rng h o) h s (fun c =>
    let half := fun u => if h.f = 4 then u else rngF32 u
    { regs := onReg c.w o.o1 c.exec (fun l =>
        ⟨BitVec.ofNat 64 (half (genNth (genOf c.w l) 0) + half (genNth (genOf c.w l) 1) * 2 ^ 32), bothPoison (c.w.genPoi.getLsbD l)⟩)
      gens := fun l => if c.exec.getLsbD l then some (genAfter (genOf c.w l) 2) else none }) ∧
  Gives (.cvtsr h o) h s (fun c =>
    { laneUpdate c o.o1 (fun l =>
        cvtLane c.w.fpmode h.f o.x (c.val o.o2 l) (c.val o.o3 l)
          (cvtsrConv (ctlOf c.w.fpmode h.f) h.f o.x (c.val o.o2 l).val (genOf c.w l)) (c.w.genPoi.getLsbD l)) with
      gens := fun l => if c.exec.getLsbD l then some (genAfter (genOf c.w l) (cvtCount h.f o.x)) else none })

/-! ## Cross-lane instructions -/

/-- SHFL, BCST, PERM, ZIP, UNZIP, VOTE, MATCH, REDL, SCANL, PMOV, ACTM and ELECT (R152-R161): all sources are read before any register or
predicate is written, and nothing but the destinations changes. -/
def Obligations.CrossLaneResults : Prop := ∀ (h : Hdr) (o : OpR) (s : State),
  let t := etyF h.f
  let w := etyWidth t
  let clean := fun (i : Instr) (f : Ctx → Nat → Lane) => Gives i h s (fun c => cleanUpdate c o.o1 (f c))
  let zip := fun (i : Instr) (un : Bool) => Gives i h s (fun c =>
    (List.range o.x.toNat).foldl (fun u j => u.then (cleanUpdate c (byteAdd o.o1 j) (fun l => moveLanes w (fun sb =>
      let f := zipFrom un o.x.toNat (logN c * (64 / w)) j (logIdx c l * (64 / w) + sb)
      ⟨c.val (byteAdd o.o2 f.1) (logLane c (logGroup c l) (f.2 / (64 / w))), f.2 % (64 / w), false⟩)))) {})
  let yes := fun (c : Ctx) => maskOf (fun l => c.exec.getLsbD l && (c.pred o.o2 l).1)
  let no := fun (c : Ctx) => maskOf (fun l => c.exec.getLsbD l && !(c.pred o.o2 l).1)
  let vbad := fun (c : Ctx) l => (lanesOf (logPart c l c.exec)).any (fun k => (c.pred o.o2 k).2)
  let key := fun (c : Ctx) l => elemAt w 0 (c.val o.o2 l).val
  let mbad := fun (c : Ctx) l => (lanesOf (logPart c l c.exec)).any (fun k => elemBad w 0 (c.val o.o2 k))
  let same := fun (c : Ctx) l => maskOf (fun k => c.exec.getLsbD k && logGroup c k = logGroup c l && key c k = key c l)
  let lead := fun (c : Ctx) l => (lowestLane (logPart c l c.exec)).getD l
  clean (.shfl h o) (fun c l =>
    moveLanes w (fun sb =>
      match shflFrom (o.x.toNat % 8) (logN c * (64 / w)) (logIdx c l * (64 / w) + sb) (elemAt w sb (srcB c o w l).val) with
      | some e => ⟨c.val o.o2 (logLane c (logGroup c l) (e / (64 / w))), e % (64 / w), elemBad w sb (srcB c o w l)⟩
      | none => ⟨c.val o.o1 l, sb, elemBad w sb (srcB c o w l)⟩)) ∧
  clean (.bcst h o) (fun c l =>
    let b := if o.x.getLsbD 7 then (⟨o.o3.setWidth 64, 0⟩ : Lane) else c.val o.o3 (lead c l)
    let v := c.val o.o2 (logLane c (logGroup c l) (b.val.toNat % logN c))
    ⟨v.val, v.poi ||| bothPoison (anyPoison b)⟩) ∧
  clean (.perm h o) (fun c l => permLane (c.val o.o2 l) (c.val o.o3 l) (c.val o.o4 l)) ∧
  zip (.zip h o) false ∧ zip (.unzip h o) true ∧
  Gives (.vote h o) h s (fun c =>
    if o.x.toNat % 4 = 3 then
      cleanUpdate c o.o1 (fun l => ⟨logMask c l (no c) ++ logMask c l (yes c), bothPoison (vbad c l)⟩)
    else predUpdate c o.o1 (fun l =>
      (if o.x.toNat % 4 = 0 then !(logPart c l (no c) != 0)
        else if o.x.toNat % 4 = 1 then logPart c l (yes c) != 0
        else !(logPart c l (yes c) != 0 && logPart c l (no c) != 0), vbad c l))) ∧
  Gives (.matchLanes h o) h s (fun c =>
    { regs := onReg c.w o.o1 c.exec (fun l => ⟨0#32 ++ logMask c l (same c l), halfPoison (mbad c l) false⟩)
      preds := onPred o.o3 c.exec (fun l => (decide (same c l = logPart c l c.exec), mbad c l)) }) ∧
  Gives (.redl h o) h s (fun c => laneUpdate c o.o1 (fun l =>
    packRes c.w.fpmode w (etyCount t) (redPoison c w o.o2 (lanesOf (logPart c l c.exec))) (redlRes c h.f o.x o.o2 l))) ∧
  Gives (.scanl h o) h s (fun c => laneUpdate c o.o1 (fun l =>
    let ls := scanLanes c (o.x.getLsbD 3) l
    packRes c.w.fpmode w (etyCount t) (redPoison c w o.o2 ls) (fun sb =>
      let elem := fun k => (⟨elemAt w sb (c.val o.o2 k).val, 0⟩ : FRes)
      match ls with
      | [] => ⟨scanIdentity (o.x.toNat % 8) t, 0⟩
      | k :: rest => rest.foldl (fun a j => scanStep (o.x.toNat % 8) t (h.f.getLsbD 6) a (elem j)) (elem k)))) ∧
  clean (.pmovV h o) (fun c l =>
    ⟨BitVec.ofNat 64 ((List.range 7).foldl (fun a p => a + (if (predVal c.s c.w p l).1 then 2 ^ p else 0)) 128),
      halfPoison ((List.range 7).any (fun p => (predVal c.s c.w p l).2)) false⟩) ∧
  Gives (.pmovP h o) h s (fun c =>
    { preds := fun p l => if o.x.getLsbD (p + 1) = true ∧ c.exec.getLsbD l = true then
        some ((c.val o.o2 l).val.getLsbD p, (c.val o.o2 l).poi.getLsbD 0) else none }) ∧
  clean (.actm h o) (fun c l => ⟨logMask c l c.exec ++ logMask c l c.cur.act, 0⟩) ∧
  Gives (.elect h o) h s (fun c =>
    { regs := onReg c.w o.o2 c.exec (fun l => ⟨BitVec.ofNat 64 (logIdx c (lead c l)), 0⟩)
      preds := onPred o.o1 c.exec (fun l => (decide (lead c l = l), false)) })

/-! ## Branches, calls, exits, traps -/

/-- BRA, CALL, BRX, CALLX and RET move their participating threads to a target that passes R18, every other thread of the run goes on to
the next PC, and a call leaves that next PC in its link register (R16, R164, R166). Nothing else changes. With no participating thread a
branch or call is not taken, whatever its offset: only the issue happens. What passes where the target's line is not in the warp's buffer is the
model's choice: a line that cannot be read, or one whose word is marked, passes, a damaged line's TGT bit counts as it reads (log 22), and where
an STT's lock keeps the line from being read the branch waits (log 76). -/
def Obligations.BranchResults : Prop := ∀ (h : Hdr) (b : OpB) (o : OpR) (s : State),
  let direct := fun (i : Instr) (link : Ctx → Nat → Nat → Option Lane) =>
    GivesWhen i h s (fun c => c.exec = 0) (fun _ => {}) ∧
    ∀ t, pcOffset s.cur.pc b.imm = some t →
      GivesWhen i h s (fun c => calm c (fun _ => []) = true ∧ targetWait c t = none ∧ targetOk s c.key c.w t = true)
        (fun c => { regs := link c, jumps := fun l => if c.exec.getLsbD l then some t else none })
  let indirect := fun (i : Instr) (link : Ctx → Nat → Nat → Option Lane) =>
    GivesWhen i h s (fun c => c.exec = 0 ∨ (calm c (fun l => [(c.val o.o2 l).val]) = true ∧
        ∀ l, l < 32 → c.exec.getLsbD l = true → (c.val o.o2 l).poi = 0 ∧ targetWait c (c.val o.o2 l).val = none ∧
          targetOk s c.key c.w (c.val o.o2 l).val = true))
      (fun c => { regs := link c, jumps := fun l => if c.exec.getLsbD l then some (c.val o.o2 l).val else none })
  let none_ := fun (_ : Ctx) (_ _ : Nat) => (none : Option Lane)
  let link := fun (d : Byte) (c : Ctx) => onReg c.w d c.exec (fun _ => ⟨nextPc c.cur.pc, 0⟩)
  direct (.bra h b) none_ ∧ direct (.call h b) (link b.o1) ∧
  indirect (.brx h o) none_ ∧ indirect (.callx h o) (link o.o1) ∧ indirect (.ret h o) none_

/-- BRA and CALL to a slot offset that is negative, too far or no legal target raise BADTGT with the mask of their lanes; BRX, CALLX and RET
with a poisoned target raise POISON with the mask of the poisoned lanes, and where no target is poisoned, BADTGT with the mask of the lanes
whose target is none (R17, R18, R164, R167). Which target is none rests on log 22 where its line cannot be read, and that a branch waits while an STT's
lock keeps a target's line from being read on log 76: both are the model's choices. -/
def Obligations.BranchTraps : Prop := ∀ (h : Hdr) (b : OpB) (o : OpR) (s : State),
  let direct := fun (i : Instr) => ∀ w, issues i h s w → (issueCtx i h s w).exec ≠ 0 → calm (issueCtx i h s w) (fun _ => []) = true →
    (∀ t, pcOffset s.cur.pc b.imm = some t → targetWait (issueCtx i h s w) t = none ∧ targetOk s s.cur.key w t = false) →
    exec i s = .next (raised i (issueCtx i h s w) cBADTGT (maskInfo (issueCtx i h s w).exec))
  let poisoned := fun (i : Instr) => ∀ w, issues i h s w → calm (issueCtx i h s w) (fun l => [((issueCtx i h s w).val o.o2 l).val]) = true →
    let c := issueCtx i h s w
    let m := maskOf (fun l => c.exec.getLsbD l && (c.val o.o2 l).poi != 0)
    m ≠ 0 → exec i s = .next (raised i c cPOISON (maskInfo m))
  let astray := fun (i : Instr) => ∀ w, issues i h s w → calm (issueCtx i h s w) (fun l => [((issueCtx i h s w).val o.o2 l).val]) = true →
    let c := issueCtx i h s w
    let m := maskOf (fun l => c.exec.getLsbD l && !targetOk s s.cur.key w (c.val o.o2 l).val)
    (∀ l, l < 32 → c.exec.getLsbD l = true → (c.val o.o2 l).poi = 0 ∧ targetWait c (c.val o.o2 l).val = none) → m ≠ 0 →
    exec i s = .next (raised i c cBADTGT (maskInfo m))
  direct (.bra h b) ∧ direct (.call h b) ∧ poisoned (.brx h o) ∧ poisoned (.callx h o) ∧ poisoned (.ret h o) ∧
  astray (.brx h o) ∧ astray (.callx h o) ∧ astray (.ret h o)

/-- NOP changes nothing, CLOCK gives the cycle count or its nanoseconds, and a vendor debug opcode in debug mode changes no register, memory
or CSR (R45, R50, R176). -/
def Obligations.PlainResults : Prop := ∀ (h : Hdr) (o : OpR) (s : State) (op : BitVec 4) (area : BitVec 48),
  Gives (.nop h o) h s (fun _ => {}) ∧
  Gives (.clock h o) h s (fun c => cleanUpdate c o.o1 (fun _ =>
    ⟨BitVec.ofNat 64 (if o.x = 0 then s.cycle else s.cycle * 20 / 21), 0⟩)) ∧
  GivesWith (.vendorDebug h op area) h s (fun c => !c.s.pkg.debug) (fun _ => none) (fun _ => {}) (fun c => c.s)

/-- TRAP raises TRAPI with its immediate; BRKPT raises BRKPT with its own where BKEN is 1 and has no effect where it is 0; YIELD holds its
warp back for 32 cycles; EXIT ends its threads, or in trap mode its crew; TRET leaves trap mode (R168, R170, R171, R184, R185). -/
def Obligations.ControlResults : Prop := ∀ (h : Hdr) (o : OpR) (q : OpI) (s : State),
  Answers (.trap h q) h s (fun c _ => some (raised (.trap h q) c cTRAPI (q.imm.setWidth 64))) ∧
  Answers (.brkpt h q) h s (fun c s1 => some (if c.w.bken then raised (.brkpt h q) c cBRKPT (q.imm.setWidth 64) else s1)) ∧
  Answers (.yield h o) h s (fun c s1 => some (s1.modWarp c.key (fun w => { w with holdUntil := max w.holdUntil (s.cycle + 33), age := 0 }))) ∧
  Answers (.exit h o) h s ruleExit ∧ Answers (.exit h o) h s ruleExitTrap ∧
  AnswersWith (.tret h o) h s (fun c => !c.w.tm) (fun _ => none) ruleTret

/-- The checks at decode, in their order (R41), for instructions of each format and family: one that its unit does not run, or with a bad SETF or
operand byte, traps ILLOP; one in emulate state EMUL, before its type, X and operand kinds are checked; a bad field or operand ILLOP; a privileged
one, or a write of a context CSR, outside a system launch PRIV (R44); a register beyond the allotment REGBOUND (R33); a handle at or above TRTN
RECINV with the handle in INFO (R188). Each leaves the trap record with the word and its run, and nothing else happens. The shipped table emulates IMAX3
alone (R117); under a table that assigns it, it gives the largest of its three sources (R47, R116). -/
def Obligations.DecodeTraps : Prop := ∀ (h : Hdr) (o : OpR) (m : OpM) (t : OpT) (b : OpB) (q : OpI) (x : OpS) (s : State) (w : Warp),
  let key := s.cur.key
  let sys := match s.crew w.crew with
    | some c => c.sys
    | none => false
  let trtn := match s.crew w.crew with
    | some c => c.cregs.trtn.toNat
    | none => 0
  let runs := fun (i : Instr) => if keyAcorn key then (instrInfo i).onAcorn else (instrInfo i).onCore
  let past := fun (i : Instr) => runs i = true ∧ check4 i h = true ∧ emulated s.pkg.table i = false
  let traps := fun (i : Instr) (cause : Nat) (info : Word) =>
    exec i s = .next (raiseTrap s key (trapOf s key w s.cur h .decode cause info))
  s.warp key = some w →
  (∀ i ∈ [(.mov h o : Instr), .movi h q, .iadd h o, .imax3 h o, .fadd h o, .cvt h o, .fexp2 h o, .shfl h o, .vote h o, .bra h b, .brx h o, .trap h q, .exit h o,
      .csrr h x, .csrw h x, .sleep h q, .ld h m, .st h m, .atom h m, .recset h m, .rel h o, .mma h t, .mzero h o, .cpy h t, .cpystat h o, .seal h m, .ldt h t,
      .frfit h m, .launch h m, .tlbinv h o, .frameret h o, .ctxsave h m, .ctxload h m, .fstore h t, .frel h o],
    (runs i = false → traps i cILLOP 0) ∧ (runs i = true → check4 i h = false → traps i cILLOP 0) ∧
    (runs i = true → check4 i h = true → emulated s.pkg.table i = true → traps i cEMUL 0) ∧
    (past i → (instrShape i).ok = false → traps i cILLOP 0)) ∧
  (∀ i ∈ [(.tlbinv h o : Instr), .frameret h o, .ctxsave h m, .ctxload h m], past i → (instrShape i).ok = true → sys = false → traps i cPRIV 0) ∧
  (∀ i ∈ [(.csrw h x : Instr), .csrs h x, .csrc h x], past i → (instrShape i).ok = true → 0x400 ≤ x.csr.toNat → sys = false → traps i cPRIV 0) ∧
  (past (.mov h o) → (instrShape (.mov h o)).ok = true → w.tm = false →
    (w.allot ≤ o.o1.toNat ∧ o.o1.toNat < 240) ∨ (w.allot ≤ o.o2.toNat ∧ o.o2.toNat < 240) → traps (.mov h o) cREGBOUND 0) ∧
  (past (.ld h m) → (instrShape (.ld h m)).ok = true → m.o1.toNat < w.allot → m.o2.toNat < w.allot → trtn ≤ m.hnd.toNat →
    traps (.ld h m) cRECINV (m.hnd.setWidth 64)) ∧
  (emulated State.reset.pkg.table (.imax3 h o) = true ∧ State.reset.pkg.table.emul = [0x03E]) ∧
  Gives (.imax3 h o) h s (fun c => laneUpdate c o.o1 (fun l =>
    intLane3 c h.f (c.val o.o2 l) (c.val o.o3 l) (c.val o.o4 l) (fun x y z => max (max x y) z)))

/-- A trap outside trap mode joins the end of its warp's pending traps and changes nothing else but the pair in progress; in trap mode it
ends the crew with the cause in the frame, and no second end replaces the first (R177, R185). -/
def Obligations.RaisedTraps : Prop := ∀ (s : State) (key : Nat) (w : Warp) (t : TrapRec), s.warp key = some w →
  isGhost key = false →
  (w.tm = false →
    (raiseTrap s key t).warp key = some { w with traps := w.traps ++ [t], pairNext := none } ∧
    (∀ k, k ≠ key → (raiseTrap s key t).warp k = s.warp k) ∧ { raiseTrap s key t with warps := [] } = { s with warps := [] }) ∧
  (w.tm = true →
    (∀ k, (raiseTrap s key t).warp k = s.warp k) ∧ { raiseTrap s key t with crews := [] } = { s with crews := [] } ∧
    (∀ c, s.crew w.crew = some c →
      (∀ e, c.ending = some e → (raiseTrap s key t).crew w.crew = some c) ∧
      (c.ending = none → ∃ e, (raiseTrap s key t).crew w.crew = some { c with ending := some e } ∧ e.tpc = w.tpc ∧
        e.cause = (if keyAcorn key then t.cause else frameByte s w 0))))

/-- TRAP_ENTRY of a pending trap that R178 lets in: the trap CSRs, trap mode, 32 lanes of the handler at TVEC from 40 cycles on, the
threads' own PCs kept aside, and on a core the 1,568 bytes of the frame at TFRAME, every other byte of the scratchpad as before; a word that the
frame covers whole loses its error (R225). Where TVEC is 0 the crew ends instead (R178, R179, R180, R182, R185, R279). -/
def Obligations.TrapEntryResults : Prop := ∀ (unit slot : Nat) (s : State) (w : Warp) (t : TrapRec) (rest : List TrapRec),
  let key := unit * 32 + slot
  trapReady s key = true → s.warp key = some w → w.traps = t :: rest →
  (w.tvec ≠ 0 → ∃ u v, exec (.trapEntry unit slot) s = .next u ∧ u.warp key = some v ∧
    v.tcause = BitVec.ofNat 64 t.cause ∧ v.tpc = entryPc key w t ∧ v.tmask = (t.exec ++ t.act : BitVec 64) ∧ v.tinst = t.word ∧ v.tm = true ∧
    v.saved = w.pt ∧ v.traps = rest ∧ v.tframe = w.tframe ∧ v.tvec = w.tvec ∧ s.cycle + Config.trapCycles ≤ v.holdUntil ∧
    v.pt.live = (if keyAcorn key then 1 else BitVec.allOnes 32) ∧ (∀ l, l < 32 → pcLane v l = w.tvec) ∧
    v.regs = w.regs ∧ v.preds = w.preds ∧ v.ctrs = w.ctrs ∧ v.pend = w.pend ∧
    (∀ k, k ≠ key → u.warp k = s.warp k) ∧ (∀ k, k ≠ w.crew → u.crew k = s.crew k) ∧
    { u with warps := [], crews := [] } = { s with warps := [], crews := [] } ∧
    (∀ c, s.crew w.crew = some c → ∃ d, u.crew w.crew = some d ∧ { d with sp := [], spBad := [] } = { c with sp := [], spBad := [] } ∧
      (keyAcorn key = false → ∀ a, let n := (frameBytes s key w t).length
        memGet d.sp a = (if w.tframe.toNat ≤ a ∧ a < w.tframe.toNat + n
          then (frameBytes s key w t).getD (a - w.tframe.toNat) 0 else memGet c.sp a) ∧
        fmGet false d.spBad a =
          (fmGet false c.spBad a && !decide (w.tframe.toNat ≤ 8 * a ∧ 8 * a + 8 ≤ w.tframe.toNat + n))))) ∧
  (w.tvec = 0 → ∀ c, s.crew w.crew = some c → c.ending = none → ∃ u, exec (.trapEntry unit slot) s = .next u ∧
    u.crew w.crew = some { c with ending := some ⟨t.cause, entryPc key w t, t.info, keySlot key⟩ } ∧
    u.warp key = some { w with traps := rest })

/-- What TRET restores (R184): trap mode is left, the live threads and their skip counts are those that the trap found, and the warp waits for the
cycles of R184. Where the frame's LATE is clear, on Acorn always, the threads of TMASK go on at TPC, or at the next PC where ADV is set on a core, the
others at their own; where LATE is set, every thread goes on at its own. On a core the predicates are the frame's, and a register takes its words and
poison from the highest frame slot that is dirty and names a register of the allotment, in the lanes of TMASK; every other register and lane stays,
and on Acorn all of them do (R279). A resume PC that names no slot ends the crew with ILLOP (R185, R493). -/
def Obligations.TretState : Prop := ∀ (s : State) (key : Nat) (w : Warp), s.warp key = some w →
  let acorn := keyAcorn key
  let fb := frameByte s w
  let word := fun (off : Nat) => (List.range 8).foldl (fun a k => a + fb (off + k) * 256 ^ k) 0
  let late := !acorn && (fb 2).testBit 3
  let resume := if !acorn && (fb 2).testBit 0 then nextPc w.tpc else w.tpc
  let dirty := fun (j r : Nat) => acorn = false ∧ j < 5 ∧ (fb 3).testBit j = true ∧ fb (0x2C + j) < w.allot ∧ fb (0x2C + j) = r
  (late = true ∨ pcNamesSlot resume = true → ∃ v, (leaveTrap s key).warp key = some v ∧ v.tm = false ∧
    v.pt.live = w.saved.live ∧ v.pt.skips = w.saved.skips ∧
    (∀ l, l < 32 → pcLane v l = if late = false ∧ w.tmask.getLsbD l = true then resume else w.saved.pcs.getD l 0) ∧
    (acorn = true → v.preds = w.preds) ∧
    (acorn = false → ∀ p l, p < 7 → l < 32 → predLane v p l = ((fb (0x5E0 + 2 * l)).testBit p, (fb (0x5E1 + 2 * l)).testBit p)) ∧
    (∀ r, (∀ j, ¬ dirty j r) → fmGet emptyRow v.regs r = fmGet emptyRow w.regs r) ∧
    (∀ j r l, dirty j r → (∀ i, j < i → ¬ dirty i r) → l < 32 → rowGet (fmGet emptyRow v.regs r) l =
      if w.tmask.getLsbD l then ⟨BitVec.ofNat 64 (word (0x40 + 0x100 * j + 8 * l)), BitVec.ofNat 2 (fb (0x540 + 0x20 * j + l))⟩
      else rowGet (fmGet emptyRow w.regs r) l) ∧
    s.cycle + Config.tretCycles ≤ v.holdUntil ∧ v.fpmode = w.fpmode ∧ v.ctrs = w.ctrs ∧ v.tvec = w.tvec ∧
    (∀ k, k ≠ key → (leaveTrap s key).warp k = s.warp k) ∧ { leaveTrap s key with warps := [] } = { s with warps := [] }) ∧
  (late = false → pcNamesSlot resume = false → leaveTrap s key = handlerEnds s key w cILLOP 0)

/-! ## CSRs -/

/-- CSRR, CSRW, CSRS and CSRC: a CSR of the warp acts at issue, any other where the request arrives (R172, R174). -/
def Obligations.CsrResults : Prop := ∀ (h : Hdr) (o : OpS) (s : State),
  Answers (.csrr h o) h s (ruleCsrr o) ∧ Answers (.csrw h o) h s (ruleCsrw o) ∧ Answers (.csrs h o) h s (ruleCsrw o) ∧
  Answers (.csrc h o) h s (ruleCsrw o)

/-- A field marked RO keeps its value under every write operation (R5): of the CSRs of a warp, every one but FPMODE, FPSTAT, TPC, TVEC and
TSTAT stays as it is, with everything else of the warp; of a unit's CSRs, a write outside DEADLK, MXERR, CPYERR, FLUSHW and the context
CSRs leaves the whole state. FPSTAT is cleared by writing 1: the write and the set operation clear the bits that are 1 in the source, the clear
operation leaves them (R70, R174); FPMODE takes the source's bits by the operation in its writable bits alone. -/
def Obligations.CsrFields : Prop :=
  (∀ (w : Warp) (csr op : Nat) (src : Word), csr ≠ 0x010 → csr ≠ 0x011 → csr ≠ 0x021 → csr ≠ 0x027 → csr ≠ 0x028 →
    warpCsrWrite w csr op src = w) ∧
  (∀ (w : Warp) (csr op : Nat) (src : Word),
    { warpCsrWrite w csr op src with fpmode := 0, fpstat := 0, tpc := 0, tvec := 0, bken := false }
      = { w with fpmode := 0, fpstat := 0, tpc := 0, tvec := 0, bken := false }) ∧
  (∀ (s : State) (key csr op : Nat) (src : Word), csr ≠ 0x104 → csr ≠ 0x200 → csr ≠ 0x202 → csr ≠ 0x501 →
    ¬ (0x400 ≤ csr ∧ csr ≤ 0x407) → unitCsrWrite s key csr op src = s) ∧
  (∀ (w : Warp) (op : Nat) (src : Word) (b : Nat), b < 64 →
    (warpCsrWrite w 0x011 op src).fpstat.getLsbD b = (w.fpstat.getLsbD b && (op == 2 || !src.getLsbD b)) ∧
    (warpCsrWrite w 0x010 op src).fpmode.getLsbD b =
      if fpmodeMask.getLsbD b then
        (if op = 0 then src.getLsbD b else if op = 1 then w.fpmode.getLsbD b || src.getLsbD b else w.fpmode.getLsbD b && !src.getLsbD b)
      else w.fpmode.getLsbD b)

/-! ## Groups, the register pool, sleep -/

/-- JOIN, LEAVE, GBAR and GCOUNT stand at the group unit, and act at once where nothing of the warp stands before them; ROLE does so unless
it is applied at issue while a warp of the crew is partly in the group (R201-R208). Choices of the model: which later requests an AWAIT holds and
which it does not (log 70), what an arrival counts for once its thread has left and joined again (log 69), how arrivals held for the next phase
enter it (log 83), and when a ROLE that waited finds a warp partly in the group (log 84). -/
def Obligations.GroupResults : Prop := ∀ (h : Hdr) (o : OpR) (s : State),
  let grp := fun (c : Ctx) => grpBound c.s c.w o.x
  let req := fun (i : Instr) (r : GrpReq) (regs : Ctx → List RegWr) =>
    AnswersWith i h s (fun _ => false) grp (ruleGroup (o.x.toNat % 16) r regs)
  req (.join h o) .join (fun _ => []) ∧ req (.leave h o) .leave (fun _ => []) ∧ req (.gbar h o) .gbar (fun _ => []) ∧
  req (.gcount h o) .gcount (fun c => laterReg c o.o1) ∧
  AnswersWith (.role h o) h s
    (fun c => match c.s.crew c.w.crew with
      | some cr => cr.nroles ≤ o.x.toNat / 16 % 4
      | none => false) grp (ruleRole o)

/-- What the group unit does, where no thread waits on the group: JOIN adds the participating threads of its warp to the members and LEAVE
takes them out (in a protected warp both lanes of each, R200), and of the arrivals, the other groups, the other crews and every other unit
nothing changes; GCOUNT changes no crew (R202, R205). -/
def Obligations.GroupMembers : Prop := ∀ (s : State) (key g : Nat) (w : Warp) (c : Crew) (p : Pend),
  s.warp key = some w → s.crew w.crew = some c → grpWaits s w.crew g = false → p.late ≠ .done →
  let v := crewGroup c g
  let after := fun (r : GrpReq) (m : Mask) => ∃ d, (applyGroup s key p g r).crew w.crew = some d ∧
    grpMembers (crewGroup d g) w.widx = m ∧ (∀ i, i ≠ w.widx → grpMembers (crewGroup d g) i = grpMembers v i) ∧
    (crewGroup d g).arrived = v.arrived ∧ (∀ i, i ≠ g → crewGroup d i = crewGroup c i) ∧ { d with groups := [] } = { c with groups := [] } ∧
    (∀ k, k ≠ w.crew → (applyGroup s key p g r).crew k = s.crew k) ∧
    { applyGroup s key p g r with crews := [], warps := [] } = { s with crews := [], warps := [] }
  after .join (grpMembers v w.widx ||| threadLanes w p.exec) ∧ after .leave (grpMembers v w.widx &&& ~~~threadLanes w p.exec) ∧
  (applyGroup s key p g .gcount).crews = s.crews

/-- REGCLAIM, REGGIVE, SLEEP, WAKE and PRIO (R210, R211, R215-R217). That the t of a WAKE in a handler of a C16 crew
is a vwarp number there too is the model's choice (log 71). -/
def Obligations.PoolAndSleepResults : Prop := ∀ (h : Hdr) (o : OpR) (q : OpI) (s : State),
  AnswersWith (.regclaim h q) h s (fun _ => false)
    (fun c => if 240 < c.w.allot + claimRows (c.s.core c.unit) c.key + q.imm.toNat then some cREGBOUND else none) (ruleRegclaim q) ∧
  AnswersWith (.reggive h q) h s (fun _ => false) (fun c => if c.w.allot ≤ q.imm.toNat then some cREGBOUND else none) (ruleReggive q) ∧
  Answers (.sleep h q) h s (ruleSleep q) ∧ Answers (.wake h o) h s (ruleWake o) ∧ Answers (.prio h q) h s (rulePrio q)

/-! ## Memory and scratchpad -/

/-- Loads, stores, atomics and reductions through records, raw addresses and the own scratchpad start once the checks of R242 pass, and
through a class-3 record once its coordinates do; PREF drops the lanes that fail (R237-R248, R386). Choices of the model: a region access whose
block cannot be read at issue goes into the operand log unchecked (log 68), and the field F of PREF names its type (log 7). -/
def Obligations.AccessResults : Prop := ∀ (h : Hdr) (o : OpM) (s : State),
  let rec_ := Names.record o.hnd
  let mine := spNames o.hnd
  let sp := fun (i : Instr) (disp : Int) (rule : Ctx → State → Option State) =>
    AnswersWith i h s (fun c => c.acorn && o.hnd = 0) (fun c => spEarly c (o.hnd = 0) o.o2 disp) rule
  Answers (.ld h o) h s (ruleLoad rec_ o [1, 2, 4, 5]) ∧ Answers (.ld h o) h s (ruleRegion false o) ∧
  Answers (.st h o) h s (ruleStore rec_ o [1, 2, 4, 5]) ∧ Answers (.st h o) h s (ruleRegion true o) ∧
  Answers (.lda h o) h s (ruleLoad .raw o []) ∧ Answers (.sta h o) h s (ruleStore .raw o []) ∧
  Answers (.atom h o) h s (ruleAtom rec_ o [1, 2, 4, 5]) ∧ Answers (.cas h o) h s (ruleCas rec_ o [1, 2, 4, 5]) ∧
  Answers (.red h o) h s (ruleRed rec_ o [1, 2, 4, 5]) ∧
  sp (.lds h o) o.disp.toInt (ruleLoad mine o [5]) ∧ sp (.sts h o) o.disp.toInt (ruleStore mine o [5]) ∧
  sp (.atoms h o) o.disp.toInt (ruleAtom mine o [5]) ∧ sp (.cass h o) (casDisp o) (ruleCas mine o [5]) ∧
  sp (.reds h o) o.disp.toInt (ruleRed mine o [5]) ∧ Answers (.pref h o) h s (rulePref o)

/-- RECSET, RECGET, RECINV and RECGEN, the loads of the codebook and of the activation tables, and ACTSW (R144, R149, R150, R239). That RECGEN's new GEN
goes to every participating lane is the model's choice (log 80). -/
def Obligations.RecordAndTableResults : Prop := ∀ (h : Hdr) (o : OpM) (q : OpR) (s : State),
  Answers (.recset h o) h s (ruleRecset o) ∧ Answers (.recget h o) h s (ruleRecget o) ∧
  Answers (.recinv h o) h s (fun c s1 => some (addDone c (dropRecord s1 c.ctxId o.hnd.toNat) [] [])) ∧
  Answers (.recgen h o) h s (ruleRecgen o) ∧
  Answers (.cbld h o) h s (ruleTable o 256 (fun _ => .codebook)) ∧
  Answers (.actld h o) h s (ruleTable o 514 (fun _ => .actTable (h.f.toNat % 4))) ∧
  Answers (.actsw h q) h s (fun c s1 => some (addLate c s1 (.actSwap (h.f.toNat % 4)) [] []))

/-- SPALLOC, SPFREE, SPFENCE, ACQ, REL, ACQR and FENCE (R231-R233, R265-R269). Which accesses SPFREE's discard waits for, a waiting AWAIT among
them, and that a SPALLOC behind it waits too, are the model's choices (log 32). -/
def Obligations.ScratchAndOrderResults : Prop := ∀ (h : Hdr) (o : OpR) (q : OpI) (s : State),
  Answers (.spalloc h q) h s (ruleSpalloc q) ∧ Answers (.spfree h q) h s (ruleSpfree q) ∧ Answers (.spfence h o) h s (ruleSpfence o) ∧
  Answers (.acq h o) h s ruleAcq ∧ Answers (.rel h o) h s (ruleWaits (.rel (o.x = 1)) (fun _ => [])) ∧
  Answers (.acqr h o) h s (ruleAcqr o) ∧ Answers (.fence h o) h s ruleFence

/-- AWINIT, ARRIVE, ARRDROP, AWAIT and AWTEST on words of the own scratchpad, and QINIT, PUSH, POP, TRYPUSH, TRYPOP and QSTAT (R249-R255,
R278). Choices of the model: the registers of a push or pop whose operand is a special byte (log 81), the entries of an Acorn's queue table beyond
NQ (log 82), in how many steps an Acorn pushes and which records register lines (log 27), and which later operations a waiting PUSH or POP holds
(log 64). -/
def Obligations.ArrivalAndQueueResults : Prop := ∀ (h : Hdr) (o : OpR) (q : OpI) (s : State),
  let qn := o.x.toNat % 32
  let arr := fun (i : Instr) (k : ArrKind) (regs : Ctx → List RegWr) =>
    AnswersWith i h s (fun _ => false) (fun c => spEarly c true q.o2 0) (ruleArrival k q.o2 regs)
  let que := fun (i : Instr) (b : Byte) (rule : Ctx → State → Option State) =>
    AnswersWith i h s (fun _ => false) (fun c => queueExtra c qn (some b) true) rule
  let res := fun (c : Ctx) => laterReg c q.o1
  arr (.awinit h q) (.init q.imm.toNat) (fun _ => []) ∧ arr (.arrive h q) (.arrive q.imm.toNat) res ∧
  arr (.arrdrop h q) (.drop q.imm.toNat) res ∧ arr (.await h q) (.await (q.imm.toNat % 65536)) res ∧ arr (.awtest h q) .test res ∧
  AnswersWith (.qinit h q) h s (fun _ => false)
    (fun c => match c.s.crew c.w.crew with
      | some cr => if cr.nqueues ≤ q.imm.toNat / 2 ^ 27 then some cQBOUND else none
      | none => none) (ruleQinit q) ∧
  que (.push h o) o.o2 (rulePush o (fun cr n d => .queueReq cr n .push d) (fun _ => [])) ∧
  que (.pop h o) o.o1 (rulePop o (fun cr n => .queueReq cr n .pop []) (fun _ => [])) ∧
  que (.trypush h o) o.o2 (rulePush o (fun cr n d => .queueTry cr n .push d) (fun c => predWr o.o3 c.exec 0 0)) ∧
  que (.trypop h o) o.o1 (rulePop o (fun cr n => .queueTry cr n .pop []) (fun c => predWr o.o3 c.exec 0 0)) ∧
  AnswersWith (.qstat h o) h s (fun _ => false) (fun c => queueExtra c qn none false) (ruleQstat o)

/-! ## The cluster, the die and the package -/

/-- LDT and STT enter; SEAL, UNSEAL, SNAP, SNAPWAIT, LLCSTAT, FRFIT, FRSTAT and FRINIT (R339-R351, R354-R360, R398-R401).
That SNAPWAIT remembers the snapshot that held the id at its issue is the model's choice (log 88); so are whose frame a tile may reach and which
elements the tile's VA stands for (logs 72 and 99). -/
def Obligations.DieResults : Prop := ∀ (h : Hdr) (t : OpT) (o : OpM) (r : OpR) (q : OpI) (s : State),
  Answers (.ldt h t) h s (ruleTile t false) ∧ Answers (.stt h t) h s (ruleTile t true) ∧
  Answers (.seal h o) h s (ruleSeal o) ∧ Answers (.unseal h o) h s (ruleUnseal o) ∧ Answers (.snap h o) h s (ruleSnap o) ∧
  Answers (.snapwait h q) h s (ruleSnapwait q) ∧ Answers (.llcstat h r) h s (ruleLlcstat r) ∧
  Answers (.frfit h o) h s (ruleFrfit o) ∧ Answers (.frstat h o) h s (ruleFrstat o) ∧ Answers (.frinit h o) h s (ruleFrinit o)

/-- The instructions of the matrix array and of the copy engine (R286-R296, R307-R322). -/
def Obligations.ClusterResults : Prop := ∀ (h : Hdr) (t : OpT) (o : OpM) (r : OpR) (q : OpI) (s : State),
  let cluster := fun (c : Ctx) (s1 : State) (f : Cluster → Cluster) => some (addDone c (s1.modCluster (unitCluster c.unit) f) [] [])
  Answers (.mma h t) h s (ruleMma t false) ∧ Answers (.mmas h t) h s (ruleMma t true) ∧
  Answers (.mzero h r) h s (ruleCommand (.mzero (r.x.toNat % 16))) ∧ Answers (.mdrain h t) h s (ruleMdrain t) ∧
  Answers (.wload h t) h s (ruleWload t) ∧
  Answers (.winv h o) h s (ruleCommand (.winv (if h.f.getLsbD 0 then none else some o.hnd.toNat))) ∧
  Answers (.mcfg h q) h s (fun c s1 => cluster c s1 (fun k => { k with fmt := q.imm.toNat % 16 })) ∧
  Answers (.mstat h r) h s (fun c s1 => some (addLate c s1 .mxStat (laterReg c r.o1) [])) ∧
  Answers (.mwait h r) h s (ruleMwait r) ∧
  Answers (.mstepRd h r) h s (fun c s1 => some (addLate c s1 .mxRead (laterReg c r.o1) [])) ∧
  Answers (.mstepHalt h r) h s (fun c s1 => some (addLate c s1 .mxHalt (laterReg c r.o1) [])) ∧
  Answers (.mstepGo h r) h s (fun c s1 => cluster c s1 (fun k => { k with halted := false })) ∧
  Answers (.cpy h t) h s (ruleCopy t false) ∧ Answers (.cpyt h t) h s (ruleCopy t true) ∧ Answers (.cvttab h o) h s (ruleCvttab o) ∧
  Answers (.cpystat h r) h s (ruleCpystat r)

/-- The instructions of the fabric, LAUNCH, TLBINV, FRAMERET, CTXSAVE and CTXLOAD (R416-R419, R428, R432-R438, R449-R462).
That COLL.open takes effect at issue is the model's choice (log 34). -/
def Obligations.PackageResults : Prop := ∀ (h : Hdr) (t : OpT) (o : OpM) (r : OpR) (s : State),
  Answers (.fstore h t) h s (ruleFabric t false) ∧ Answers (.fload h t) h s (ruleFabric t true) ∧ Answers (.fred h t) h s (ruleFred t) ∧
  Answers (.frel h r) h s (ruleFrel r) ∧ Answers (.fstat h r) h s (ruleFstat r) ∧ Answers (.collOpen h o) h s (ruleCollOpen o) ∧
  Answers (.collNext h o) h s (ruleColl o .collNext (fun c => laterReg c o.o1)) ∧
  Answers (.collClose h o) h s (ruleColl o .collClose (fun _ => [])) ∧
  Answers (.launch h o) h s (ruleLaunch o) ∧ Answers (.tlbinv h r) h s (ruleTlbinv r) ∧ Answers (.frameret h r) h s (ruleFrameret r) ∧
  Answers (.ctxsave h o) h s (ruleCtxsave o) ∧ Answers (.ctxload h o) h s (ruleCtxload o)

/-- An instruction left incomplete changes nothing but its own place in the warp's list: registers, predicates, generators and PCs are those of
the issue, every earlier incomplete instruction keeps what it waits for, and outside the warp nothing changes (R24, R25). The entry holds
what the instruction waits for, its lanes, its counters, and the rows that it will write. -/
def Obligations.IncompleteFrame : Prop := ∀ (i : Instr) (h : Hdr) (s : State) (w : Warp) (late : Late) (regs : List RegWr)
    (preds : List PredWr), s.warp s.cur.key = some w → (instrInfo i).pipe = .m → guardMask s w h s.cur.act ≠ 0 →
  let c := issueCtx i h s w
  ∃ v p, (addLate c (issued i h s w) late regs preds).warp c.key = some v ∧ Changes c (addLate c (issued i h s w) late regs preds) v {} ∧
    Rest c (addLate c (issued i h s w) late regs preds) s ∧
    p ∈ v.pend ∧ p.op = s.nextOp ∧ p.late = late ∧ p.exec = c.exec ∧ p.act = s.cur.act ∧ p.pc = s.cur.pc ∧ p.word = s.cur.word ∧
    p.ctrs = setfCtrs w h s.cur.act ∧ p.ready = s.cycle + 1 ∧ p.mpipe = true ∧
    p.regs.map (fun g => (g.reg, g.mask, g.row)) = regs.map (fun g => (g.reg, g.mask, g.row)) ∧
    p.preds.map (fun g => (g.pred, g.mask, g.val, g.poi)) = preds.map (fun g => (g.pred, g.mask, g.val, g.poi))

/-! ## Events of warps, cores and crews -/

/-- FETCH_LINE: the candidate's line is brought in; a wrong parity word is a PARITY trap, another format version or a reserved bit of the
line word an ILLOP trap, both before any slot issues (R13-R15). A failed translation becomes a fault record, and the runs at that PC
wait for its answer (R410, R412). While an STT holds the line, the fetch takes its place there and waits (R368). That a line's own trap has the whole
active set as EXEC, and that a line with an uncorrectable word raises PARITY, is the model's choice (log 79); so is the place that a page walk takes
behind a lock (log 76) and what a fetch that finds no room leaves evicted (log 87). -/
def Obligations.FetchResults : Prop := ∀ (unit slot : Nat) (s : State) (w : Warp) (c : Crew) (pc : Word) (act : Mask),
  let key := unit * 32 + slot
  let e : Instr := .fetchLine unit slot
  let e0 : Env := ⟨keyUnit key, c.cregs, .fetch key pc⟩
  s.warp key = some w → isGhost key = false → s.crewSeen w.crew = some c → c.ending = none → (w.tm = false → w.traps = []) →
  candidate c w = some (pc, act) → pcNamesSlot pc = true → lineAt w pc = none → fetchHeld s key pc = false →
  (∀ ln wr, readCode e0 s (pcLine pc) = .error (.held ln wr) → exec e s = .next (engineWait s (.fetch key pc) ln wr)) ∧
  (∀ lack, readCode e0 s (pcLine pc) = .error (.wait lack) → exec e s = .next (evictFor s lack)) ∧
  (∀ pa, walkWait s (.fetch key pc) (keyUnit key) c.cregs (pcLine pc) = none →
    (∀ x ∈ s.slices, ∀ y ∈ x.2.waits, y.who ≠ .fetch key pc) →
    (translate s (keyUnit key) c.cregs (pcLine pc) permX).2 = .ok pa → sttHeld s [pa / 128] = true →
    exec e s = .next (engineWait s (.fetch key pc) (pa / 128) false)) ∧
  (∀ s1 d bad v, readCode e0 s (pcLine pc) = .ok (s1, d, bad) → s1.warp key = some v → v.tm = false →
    ∃ t, exec e s = .next t ∧ t.outside = s1.outside ∧ t.quads = s1.quads ∧ (∀ k, k ≠ key → t.warp k = s1.warp k) ∧
      (bad = false → lineXor d = 0 → lineVersionOk d = true →
        t.warp key = some { v with fetch := some (pcLine pc, d), fetchAsid := c.cregs.asid.toNat % 65536 }) ∧
      (bad = true ∨ lineXor d ≠ 0 ∨ lineVersionOk d = false → ∃ r,
        t.warp key = some { v with fetch := none, traps := v.traps ++ [r], pairNext := none } ∧ r.stage = .decode ∧ r.pc = pc ∧
        r.act = act ∧ r.exec = act ∧ r.info = 0 ∧ r.cause = if bad = true ∨ lineXor d ≠ 0 then cPARITY else cILLOP)) ∧
  (∀ va reason pte need, readCode e0 s (pcLine pc) = .error (.fault va reason pte need) →
    ∃ t f, exec e s = .next t ∧ t.faults = s.faults ++ [f] ∧ f.ftype = 1 ∧ f.reason = reason ∧ f.access = 4 ∧ f.va = pcLine pc ∧
      f.pc = pc ∧ f.unit = keyUnit key ∧ f.wslot = keySlot key ∧ f.waiter = .fetch key pc ∧ f.written = false ∧
      f.tag = s.nextTag + 1 ∧ fetchHeld t key pc = true ∧ { t with faults := [], nextTag := 0 } = { s with faults := [], nextTag := 0 })

/-- AGE_OVERRIDE, the end of a YIELD and SLEEP_TIMER: a warp that has been eligible for 256 cycles is the quad's choice whatever its class
and issues next (R86); a YIELD's hold is over (R170); a timed sleep ends, the core wakes, a set wake-pending bit stays (R215, R218). -/
def Obligations.WarpTimers : Prop := ∀ (unit slot half : Nat) (s : State) (w : Warp),
  let key := unit * 32 + slot
  (agedWarp s (keyQuad key) = some key → (s.quad (keyQuad key)).issued ≠ some s.cycle → quadPassed s (keyQuad key) = false →
    exec (.ageOverride unit slot) s = .next { s with agenda := .issue key :: s.agenda }) ∧
  (s.warp key = some w → w.holdUntil ≤ s.cycle → ∃ t, exec (.yieldExpiry unit slot) s = .next t ∧
    t.warp key = some { w with holdUntil := 0 } ∧ (∀ k, k ≠ key → t.warp k = s.warp k) ∧ { t with warps := [] } = { s with warps := [] }) ∧
  (∀ n, s.warp key = some w → (if half = 0 then w.sleepLo else w.sleepHi).asleep = true →
    (if half = 0 then w.sleepLo else w.sleepHi).until? = some n → n ≤ s.cycle → ∃ t, exec (.sleepTimer unit slot half) s = .next t ∧
    t.warp key = some (if half = 0 then { w with sleepLo := { w.sleepLo with asleep := false, until? := none } }
      else { w with sleepHi := { w.sleepHi with asleep := false, until? := none } }) ∧
    (∀ k, k ≠ key → t.warp k = s.warp k) ∧ (t.core unit).gated = ((s.core unit).gated && (1216 ≤ unit || !s.crews.any (fun e => e.2.unit = unit))) ∧
    { t with warps := [], cores := [] } = { s with warps := [], cores := [] })

/-- COMPLETION of an instruction that no longer waits: its counters fall by one, it leaves the list, each register lane that it holds takes
its value, undefined where another write met it, and no other lane, predicate, or state outside the warp changes (R23-R25). -/
def Obligations.CompletionResults : Prop := ∀ (unit slot : Nat) (s : State) (w : Warp) (c : Crew) (p : Pend),
  let key := unit * 32 + slot
  s.warp key = some w → s.crew w.crew = some c → findPend w p.op = some p → p.op ∉ w.restoring → p.ready ≤ s.cycle → c.ending = none →
  s.pkg.frozen = false → s.faults.any (fun f => f.waiter = .access key p.op) = false →
  (p.late = .done ∨ p.late = .replies 0 ∨ p.late = .mxWait [] ∨ (p.late = .sleep ∧ sleepOver w p = true)
    ∨ (p.late = .fence ∧ coreOut w p.op = false)) →
  ∃ t v, exec (.completion unit slot p.op) s = .next t ∧ t.warp key = some v ∧
    v.pend = w.pend.filter (fun q => q.op != p.op) ∧ v.ctrs = ctrSub w.ctrs p.ctrs ∧
    (∀ r l, l < 32 → ∀ g, (p.regs.reverse.find? (fun g => g.reg = r && g.mask.getLsbD l)) = some g → g.clob.getLsbD l = false →
      regLane t key v r l = rowGet g.row l) ∧
    (∀ r l, l < 32 → (p.regs.find? (fun g => g.reg = r && g.mask.getLsbD l)) = none → regLane t key v r l = regLane s key w r l) ∧
    (∀ q l, q < 7 → l < 32 → ∀ g, p.preds = [g] → g.pred < 7 → g.clob = 0 →
      predLane v q l = if q = g.pred ∧ g.mask.getLsbD l = true then (g.val.getLsbD l, g.poi.getLsbD l) else predLane w q l) ∧
    (p.preds = [] → v.preds = w.preds) ∧ v.pt = w.pt ∧ v.gens = w.gens ∧ v.traps = w.traps ∧ v.allot = w.allot ∧ v.fpstat = w.fpstat ∧
    (∀ k, k ≠ key → t.warp k = s.warp k) ∧ t.outside = s.outside

/-- CLAIM_GRANT and REGGIVE_RETURN: the oldest claim takes its rows in the cycle after one in which enough are free, the new
registers read zero, a warp under ROLE switches its allotment, class and PC, or keeps the rows for its switch after its TRET where a trap
holds it (R208); a REGGIVE's rows return once no earlier instruction writes them (R207, R209-R211). -/
def Obligations.PoolResults : Prop :=
  (∀ (core : Nat) (s : State) (q : Claim) (rest : List Claim) (w : Warp), (s.core core).claims = q :: rest → q.rows ≤ (s.core core).poolFree →
    (s.core core).poolAt ≤ s.cycle → s.warp q.key = some w →
    (∀ p n, findPend w q.op = some p → p.late = .claim n → p.regs = [] → p.preds = [] →
      ∃ t v, exec (.claimGrant core) s = .next t ∧ (t.core core).poolFree = (s.core core).poolFree - q.rows ∧ (t.core core).claims = rest ∧
        t.warp q.key = some v ∧ v.allot = w.allot + n ∧
        (∀ r, r < 256 → fmGet emptyRow v.regs r = if w.allot ≤ r ∧ r < w.allot + n then emptyRow else fmGet emptyRow w.regs r) ∧
        (∀ k, k ≠ q.key → t.warp k = s.warp k) ∧ t.mem = s.mem ∧ t.crews = s.crews) ∧
    (∀ i, (∀ p n, findPend w q.op = some p → p.late ≠ .claim n) → w.switching = some i → (w.tm = true ∨ w.traps ≠ []) →
      ∃ t, exec (.claimGrant core) s = .next t ∧ (t.core core).poolFree = (s.core core).poolFree - q.rows ∧ (t.core core).claims = rest ∧
        t.warp q.key = some { w with granted := q.rows } ∧ (∀ k, k ≠ q.key → t.warp k = s.warp k) ∧ t.crews = s.crews) ∧
    (∀ i c, (∀ p n, findPend w q.op = some p → p.late ≠ .claim n) → w.switching = some i → w.tm = false → w.traps = [] → s.crew w.crew = some c →
      keyUnit q.key = core →
      ∃ t v, exec (.claimGrant core) s = .next t ∧ (t.core core).poolFree =
          (s.core core).poolFree - q.rows + (w.allot + q.rows - (c.roles.getD i ⟨0, 8, 0⟩).regs) ∧ (t.core core).claims = rest ∧
        t.warp q.key = some v ∧ v.allot = (c.roles.getD i ⟨0, 8, 0⟩).regs ∧ v.prio = (c.roles.getD i ⟨0, 8, 0⟩).cls ∧ v.role = i ∧
        v.switching = none ∧ (∀ l, l < 32 → w.pt.live.getLsbD l = true → pcLane v l = (c.roles.getD i ⟨0, 8, 0⟩).entry) ∧
        (∀ k, k ≠ q.key → t.warp k = s.warp k))) ∧
  (∀ (unit slot : Nat) (s : State) (w : Warp) (p : Pend) (reg rows : Nat), s.warp (unit * 32 + slot) = some w → findPend w p.op = some p →
    p.late = .give reg rows → p.ready ≤ s.cycle → giveReady w p.op reg rows = true →
    ∃ t v, exec (.reggiveReturn unit slot p.op) s = .next t ∧ t.warp (unit * 32 + slot) = some v ∧
      (t.core (keyUnit (unit * 32 + slot))).poolFree = (s.core (keyUnit (unit * 32 + slot))).poolFree + rows ∧
      v.pend = w.pend.filter (fun q => q.op != p.op) ∧ v.ctrs = ctrSub w.ctrs p.ctrs ∧ v.allot = w.allot)

/-- WARP_END and CREW_END: a warp without live threads leaves and its rows return; what it has left that still has an effect beyond its own
registers stays, without the warp (R169, R209; log 40, the model's choice); the last one ends its crew, which its launch counts (R427), unless such
an effect outside the crew is still to come; a crew that the core ends leaves with its warps and a record of type 2 with its cause, TPC and INFO,
and counts as faulted (R185, R413). -/
def Obligations.EndResults : Prop :=
  (∀ (unit slot : Nat) (s : State) (w : Warp) (c : Crew), s.warp (unit * 32 + slot) = some w → s.crew w.crew = some c → c.ending = none →
    warpOver w = true → s.pkg.frozen = false → isGhost (unit * 32 + slot) = false →
    let key := unit * 32 + slot
    let others := (crewWarps s w.crew).any (fun e => e.1 != key)
    let left := w.pend.filter lasts
    ∃ t, exec (.warpEnd unit slot) s = .next t ∧ t.warp key = none ∧ (∀ k, k ≠ key → isGhost k = false → t.warp k = s.warp k) ∧ t.mem = s.mem ∧
      (keyUnit key < 1216 → (t.core (keyUnit key)).poolFree = (s.core (keyUnit key)).poolFree + warpRows (settleGive w s.cycle)) ∧
      (others = true → t.crews = s.crews ∧ t.pkg = s.pkg) ∧
      (left ≠ [] → (others = true ∨ ghostHolds { w with pend := left } = true) →
        ∃ g v, isGhost g = true ∧ t.warp g = some v ∧ v.pend = left ∧ v.crew = w.crew ∧ t.crews = s.crews) ∧
      (others = false → left = [] → (∀ e ∈ s.warps, isGhost e.1 = true → e.2.crew ≠ w.crew) → t.crew w.crew = none ∧
        t.pkg.launches.map (fun l => (l.id, l.ended, l.faulted)) =
          s.pkg.launches.map (fun l => (l.id, if l.id = c.launch then l.ended + 1 else l.ended, l.faulted)))) ∧
  (∀ (crew : Nat) (s : State) (c : Crew) (e : Ending), s.crew crew = some c → c.ending = some e → s.pkg.frozen = false →
    (1216 ≤ c.unit → (s.cluster (c.unit - 1216)).cmds = []) →
    ∃ t f, exec (.crewEnd crew) s = .next t ∧ t.crew crew = none ∧ (∀ k, k ≠ crew → t.crew k = s.crew k) ∧
      t.warps = s.warps.filter (fun e => e.2.crew != crew) ∧ t.mem = s.mem ∧
      f ∈ t.faults ∧ f.ftype = 2 ∧ f.reason = e.cause % 256 ∧ f.pc = e.tpc ∧ f.info = e.info ∧ f.unit = c.unit ∧ f.wslot = e.slot ∧
      f.ctxid = c.ctx ∧ f.ring = c.ring ∧ f.launchid = c.lid ∧ f.tag = 0 ∧
      t.pkg.launches.map (fun l => (l.id, l.ended, l.faulted)) =
        s.pkg.launches.map (fun l => (l.id, if l.id = c.launch then l.ended + 1 else l.ended, if l.id = c.launch then l.faulted + 1 else l.faulted)))

/-- CLOCK_GATE, CORE_WAKE and DEADLOCK_REPORT: a core whose warps all wait is gated; a wake event counts and leaves its reason (R218, R219);
a deadlock of 4,096 cycles leaves its record in DEADLK, and each blocked warp traps at its oldest wait (R221-R223). -/
def Obligations.ClockResults : Prop :=
  (∀ (core : Nat) (s : State), core < 1216 → (s.core core).gated = false → coreIdle s core = true → s.pkg.frozen = false →
    ∃ t, exec (.clockGate core) s = .next t ∧ t.core core = { s.core core with gated := true } ∧ (∀ k, k ≠ core → t.core k = s.core k) ∧
      { t with cores := [] } = { s with cores := [] }) ∧
  (∀ (core : Nat) (reason : BitVec 8) (s : State), core < 1216 → (s.core core).gated = true → s.crews.any (fun e => e.2.unit = core) = true →
    reason ≠ 0 → ∃ t, exec (.coreWake core reason) s = .next t ∧ t.core core = { s.core core with
        gated := false, wakeAt := s.cycle + Config.wakeCycles
        waker := BitVec.ofNat 64 (((s.core core).waker.toNat / 2 ^ 32 + 1) % 2 ^ 32 * 2 ^ 32 + reason.toNat) } ∧
      (∀ k, k ≠ core → t.core k = s.core k) ∧ { t with cores := [] } = { s with cores := [] }) ∧
  (∀ (crew n : Nat) (s : State) (c : Crew), s.crew crew = some c → c.blocked = some n → n + 4096 ≤ s.cycle →
    crewDeadlocked s crew c = true → s.pkg.frozen = false →
    ∃ t, exec (.deadlockReport c.unit crew) s = .next t ∧
      (t.core c.unit).deadlk = (if (s.core c.unit).deadlk.getLsbD 47 then (s.core c.unit).deadlk ||| (1#64 <<< 46)
        else deadlockRecord s crew c ||| ((s.core c.unit).deadlk &&& (1#64 <<< 46))) ∧
      ∀ key w p rest, s.warp key = some w → w.crew = crew → isGhost key = false →
        (∀ e ∈ s.warps, ∀ q ∈ e.2.pend, ∀ i ws, q.late ≠ .role i ws) → w.pend.filter (blockedIn s key w) = p :: rest →
        ∃ v r, t.warp key = some v ∧ r ∈ v.traps ∧ r.cause = cDEADLOCK ∧ r.pc = p.pc ∧ r.act = p.act ∧ r.exec = p.exec ∧ r.word = p.word ∧
          r.info = 0 ∧ ∀ q ∈ v.pend, q.op ≠ p.op)

/-! ## Events of the slices, the tiles, the matrix array and the copy engine -/

/-- REGISTRATION, HOME_READ, WRITE_BACK and SLICE_WRITE: the oldest request of its unit at its slice is applied and leaves, or takes its place
behind a lock, or waits for the next cycle where a higher unit has reached one of its lines in this one (R258, R259, R333, R368), or for room,
where the lines evicted for it have gone (R330; log 87, the model's choice). Where no directory entry, object entry or snapshot concerns the
line, a registration makes the core the owner of its words and leaves the line in the slice with its value (R328); a write leaves in each byte of
the slice's line the new or the old value; a read answers with the line. LINE_FILL: a line that a request names comes from second-tier memory into
its home slice, clean (R328). -/
def Obligations.SliceResults : Prop :=
  (∀ (s : State) (r : Req), s.net.find? (fun q => q.id = r.id) = some r → reqFirst s r = true →
    tileHolds s r = false → regionAhead s r = false →
    let h := lineHome r.line
    let now : Line := match fmFind (s.slice h).lines r.line with
      | some l => l.data
      | none => (cxlLine s r.line).1
    let held := (reqLines r).any (fun ln => heldBack s ln (reqWrites r.kind) r.place)
    let passed := (reqLines r).any (fun ln => servedLater s ln r.unit)
    let free := held = false ∧ passed = false
    let quiet := free ∧ snapsNeeding s r.line = [] ∧ dirEnt s r.line = none ∧ objEnt s r.line = none
    let shown := fun (l : Option SLine) => l.map (fun l => (l.data, l.bad, l.sectors, l.dirty))
    let goes := fun (e : Instr) =>
      (free → ∀ t, applyReq s r = .ok t → exec e s = .next (markAll t (reqLines r) r.unit) ∧ ∀ q ∈ t.net, q.id ≠ r.id) ∧
      (free → ∀ lack, applyReq s r = .error lack → exec e s = .next (evictFor s lack)) ∧
      (held = false → passed = true → exec e s = .next s) ∧
      (held = true → r.place = none → ∃ t, exec e s = .next t ∧ t.mem = s.mem ∧ (t.slice h).clock = (s.slice h).clock + 1 ∧
        t.net = s.net.map (fun q => if q.id = r.id then { q with place := some (s.slice h).clock } else q))
    (∀ g, r.kind = .register g → goes (.registration r.id) ∧
      (quiet → g.mask ≠ 0 → g.part = 0 → ((s.slice h).dir.filter (fun e => e.1 % 4096 = r.line % 4096)).length < 16 →
        (∀ l, fmFind (s.slice h).lines r.line = some l →
          ∃ t d, exec (.registration r.id) s = .next t ∧ dirEnt t r.line = some d ∧ d.owner = r.unit ∧ d.mask = g.mask ∧ t.mem = s.mem ∧
            (∀ ln, shown (fmFind (t.slice h).lines ln) = shown (fmFind (s.slice h).lines ln)) ∧ ∀ k, k ≠ h → t.slice k = s.slice k) ∧
        (∀ u, fmFind (s.slice h).lines r.line = none → applyReq s r = .ok u →
          ∃ t d l, exec (.registration r.id) s = .next t ∧ dirEnt t r.line = some d ∧ d.owner = r.unit ∧ d.mask = g.mask ∧
            fmFind (t.slice h).lines r.line = some l ∧ l.data = now ∧ l.dirty = false ∧ ∀ k, k ≠ h → t.slice k = s.slice k))) ∧
    (∀ a b p, r.kind = .registerObj a b p → goes (.registration r.id)) ∧
    (∀ a b c d, r.kind = .writeBack a b c d → goes (.writeBack r.id)) ∧
    (∀ i a b c, r.kind = .read i a b c → goes (.homeRead r.id) ∧
      (∀ s1 l w, quiet → i = false → slGet s r.line = .ok (s1, l) → s.warp r.key = some w → l.data = now ∧
        ∃ t v, exec (.homeRead r.id) s = .next t ∧ t.warp r.key = some v ∧ ∀ p ∈ w.pend, p.op = r.op → ∀ es sink, p.late = .load es sink →
          { p with late := .load (es.map (fun e => elemFill e r.line now l.bad)) sink, ready := max p.ready (s.cycle + 1) } ∈ v.pend)) ∧
    (∀ b d, r.kind = .write b d → goes (.sliceWrite r.id) ∧ (quiet → ∀ t, applyReq s r = .ok t →
        ∃ l, fmFind (t.slice h).lines r.line = some l ∧ l.dirty = true ∧ ∀ k, k < 128 →
          l.data.extractLsb' (8 * k) 8 = if b.getLsbD k then d.extractLsb' (8 * k) 8 else now.extractLsb' (8 * k) 8)) ∧
    (∀ k e els p, r.kind = .atoms k e els p → goes (.sliceWrite r.id)) ∧
    (∀ o d c n, r.kind = .recSet o d c n → goes (.sliceWrite r.id)) ∧ (∀ o c n, r.kind = .recGen o c n → goes (.sliceWrite r.id))) ∧
  (∀ (line : Nat) (s s1 : State) (l : SLine), s.net.any (fun r => r.line = line) = true →
    fmFind (s.slice (lineHome line)).lines line = none → slGet s line = .ok (s1, l) →
    exec (.lineFill line) s = .next s1 ∧ fmFind (s1.slice (lineHome line)).lines line = some l ∧ l.dirty = false ∧ l.data = (cxlLine s line).1 ∧
    l.bad = (cxlLine s line).2 ∧ s1.warps = s.warps ∧ s1.crews = s.crews ∧ s1.net = s.net)

/-- DRAIN_LINE_SEND, SNAPSHOT_FINISH and SNAPSHOT_ABANDON: a line of an entered snapshot goes to its place in the destination, as it stood at
the SNAP, and counts as sent, to a peer as a packet (R347, R349, R350); a snapshot all of whose lines are sent and acknowledged frees its id; an
abandoned one moves no more, is marked so for SNAPWAIT, leaves a record of type 5 and changes no memory (R351, R352), with reason 12
where the snapshot table is damaged (R474). -/
def Obligations.SnapshotResults : Prop := ∀ (id k ln : Nat) (s : State), id < 16 →
  let x := s.snap id
  (x.fabric = false → x.src[k]? = some ln → snapEntered s id = true → x.sent.contains k = false →
    s.faults.any (fun f => f.waiter = .snap id) = false → snapCountHeld s x = false →
    sealHit s (x.cregs.asid.toNat % 65536) (x.dst + 128 * k) 128 = false →
    ∀ s1 pa s2 d bad s3, envTr ⟨lineDrain ln, x.cregs, .snap id⟩ s (x.dst + 128 * k) permW = .ok (s1, pa) → snapLine s1 id k ln = .ok (s2, d, bad) →
      lineHeld (s2.setSnap id { x with sent := x.sent ++ [k] }) (.snap id) (lineDrain ln) (pa / 128) true = false →
      homeWrite (engineGoes (s2.setSnap id { x with sent := x.sent ++ [k] }) (.snap id) (lineDrain ln) (pa / 128)) (pa / 128)
        (BitVec.allOnes 128) d bad true = .ok s3 →
      ∃ t l, exec (.drainLineSend id k) s = .next t ∧ (t.snap id).sent = x.sent ++ [k] ∧ (t.snap id).active = true ∧
        fmFind (t.slice (lineHome (pa / 128))).lines (pa / 128) = some l ∧ l.data = d ∧ l.bad = bad) ∧
  (x.fabric = true → x.src[k]? = some ln → snapEntered s id = true → x.sent.contains k = false →
    s.faults.any (fun f => f.waiter = .snap id) = false → snapCountHeld s x = false →
    (s.conn (connOf x.ctx (fabSlot (x.dst + 128 * k)))).failed = false → ∀ s1 d bad, snapLine s id k ln = .ok (s1, d, bad) →
      ∃ t p, exec (.drainLineSend id k) s = .next t ∧ (t.snap id).sent = x.sent ++ [k] ∧ (t.snap id).unacked = x.unacked ++ [k] ∧
        p ∈ (t.conn (connOf x.ctx (fabSlot (x.dst + 128 * k)))).unacked ∧ p.snap = some (id, k) ∧
        p.body = .write (fabOff (x.dst + 128 * k)) ((List.range 16).map (fun i => (d.extractLsb' (64 * i) 64, bad.getLsbD i)))) ∧
  (snapEntered s id = true → x.sent.length = x.src.length → x.unacked = [] →
    ∃ t, exec (.snapshotFinish id) s = .next t ∧ t.snap id = Snap.free ∧ (∀ j, j < 16 → j ≠ id → t.snap j = s.snap j) ∧
      { t with snaps := [] } = { s with snaps := [] }) ∧
  (∀ reason, x.active = true → ((reason = 10 ∧ x.fabric = false ∧ sealHit s (x.cregs.asid.toNat % 65536) x.dst x.len = true)
      ∨ (reason = 11 ∧ x.fabric = true ∧ (s.conn (connOf x.ctx (fabSlot x.dst))).failed = true) ∨ reason = 12) →
    ∃ t f, exec (.snapshotAbandon id reason) s = .next t ∧ (t.snap id).active = false ∧ (t.snap id).abandoned = true ∧
      f ∈ t.faults ∧ f.ftype = 5 ∧ f.reason = reason ∧ f.info = BitVec.ofNat 64 (x.dstHandle + reason * 4096 + id * 65536) ∧
      f.unit = drainUnit x ∧ f.ctxid = x.ctx ∧ (∀ g ∈ t.faults, g.waiter ≠ .snap id) ∧ t.mem = s.mem)

/-- TILE_LOCK_GRANT and TILE_COMMIT: a slice grants a tile's lock when no conflicting one is held or waits before it, after the recalls, once
earlier tiles of its core on those lines have gone (R359); else the request takes its place in the order of arrival, behind those earlier
tiles' locks; an STT into a sealed range releases its locks and traps SEALW (R366-R368, R376). A commit moves every element in one step, releases
every lock, and the instruction completes (R363, R364). -/
def Obligations.TileResults : Prop := ∀ (s : State) (t : Tile), s.tiles.find? (fun x => x.id = t.id) = some t → tileUnread s t = false →
  (∀ h rest, t.todo = h :: rest → s.net.any (fun r => r.unit = t.unit && r.id < t.id && lineHome r.line = h) = false →
    (tilesBefore s t h).all (fun x => (s.slice h).locks.any (fun k => k.tile = x.id)) = true →
    (tileAt t h).any (fun ln => servedLater s ln t.unit) = false →
    let sl := s.slice h
    let mine := sl.locks.find? (fun k => k.tile = t.id)
    let k : TileLock := mine.getD { tile := t.id, lines := tileAt t h, store := t.store, granted := false, place := sl.clock }
    let sealed_ := t.store && t.els.any (fun e => lineHome (e.pa / 128) = h && sealHit s t.asid e.va t.es)
    (∀ s1, sealed_ = false → lockFree s h k = true → tilesBefore s t h = [] → recallLines s k.lines = .ok s1 →
      ∃ u, exec (.tileLockGrant t.id) s = .next u ∧ { k with granted := true } ∈ (u.slice h).locks ∧
        (∀ x ∈ u.tiles, x.id = t.id → x.todo = rest) ∧ u.mem = s1.mem ∧ u.warps = s1.warps ∧ u.crews = s1.crews) ∧
    (sealed_ = false → lockFree s h k = false ∨ tilesBefore s t h ≠ [] → mine = none → ∃ u, exec (.tileLockGrant t.id) s = .next u ∧
      u.slice h = { sl with locks := sl.locks ++ [k], clock := sl.clock + 1, lockw := sl.lockw + 1 } ∧
      (∀ j, j ≠ h → u.slice j = s.slice j) ∧ { u with slices := [] } = { s with slices := [] }) ∧
    (∀ p w, sealed_ = true → tilePend s t = some p → p.tm = false → s.warp t.key = some w → isGhost t.key = false → ∃ u v r, exec (.tileLockGrant t.id) s = .next u ∧
      (∀ x ∈ u.tiles, x.id ≠ t.id) ∧ (∀ j, ∀ x ∈ (u.slice j).locks, x.tile ≠ t.id) ∧ u.mem = s.mem ∧
      u.warp t.key = some v ∧ v.traps = w.traps ++ [r] ∧ r.cause = cSEALW ∧ r.late = true ∧ r.info = BitVec.ofNat 64 t.va0 ∧ r.pc = p.pc ∧
      v.pend = w.pend.filter (fun q => q.op != p.op))) ∧
  (∀ s1, t.todo = [] → tileWaits s t = false → (if t.sealed then tileSealed s t else !(tileLines t).any (fun ln => servedLater s ln t.unit)) = true →
    tileMove s t = .ok s1 → ∃ u, exec (.tileCommit t.id) s = .next u ∧ u.mem = s1.mem ∧ u.crews = s1.crews ∧
    (∀ x ∈ u.tiles, x.id ≠ t.id) ∧ (∀ j, ∀ x ∈ (u.slice j).locks, x.tile ≠ t.id) ∧
    (∀ p v, tilePend s t = some p → u.warp t.key = some v → ∀ q ∈ v.pend, q.op ≠ p.op))

/-- SEQUENCER_COMMAND_START, ENGINE_STEP and DRAIN_PIECE_COUNT (R284, R287-R293). A command that may start: MZERO clears its slots and their
poison; an MMA begins; WINV and WLOAD change the weight store; MDRAIN writes its rows. A clean engine step folds 32 products into each element of one row
group of the MMA's slot and into no other; the products' sum is `mxFold`'s (R78). Bytes drained are counted into the arrival word. That WLOAD, WINV
and MZERO are whole in one step, and how the cluster's commands queue, are the model's choices (log 28); so is that an exact block sum of zero is
+0 in every format, which R78 says of F16 and BF16 alone (log 13). -/
def Obligations.MatrixResults : Prop := ∀ (cl : Nat) (s : State),
  let k := s.cluster cl
  let others := fun (t : State) => ∀ j, j ≠ cl → t.cluster j = s.cluster j
  (∀ c, k.cmds.find? (fun x => x.id = c.id) = some c → mxMayStart k c = true → (mxArray c.kind = true → mxPaused s cl = false) →
    (mxLoads c.kind = true → s.faults.any (fun f => f.waiter = .matrix cl) = false) →
    let e : Instr := .sequencerCommandStart cl c.id
    let left := k.cmds.filter (fun x => x.id != c.id)
    (∀ m, c.kind = .mzero m → ∃ t, exec e s = .next t ∧ others t ∧ t.mem = s.mem ∧ (t.cluster cl).cmds = left ∧
      (∀ n, n < 4 → (t.cluster cl).acc.getD n [] = if m.testBit n then [] else k.acc.getD n []) ∧
      (∀ n, n < 64 → (t.cluster cl).mxerr.getLsbD n = (k.mxerr.getLsbD n && !(decide (n < 4) && m.testBit n)))) ∧
    (∀ a b d n r g i j q z f, c.kind = .mma a b d n r g i j q z f → ∃ t, exec e s = .next t ∧ others t ∧ (t.cluster cl).acc = k.acc ∧
      (t.cluster cl).cmds = k.cmds.map (fun x => if x.id = c.id then { x with started := true, left := 0 } else x)) ∧
    (∀ h, c.kind = .winv h → ∃ t, exec e s = .next t ∧ others t ∧ (t.cluster cl).cmds = left ∧
      (t.cluster cl).wdir = (match h with
        | some n => k.wdir.filter (fun x => x.handle != n)
        | none => [])) ∧
    (∀ h r o rs s1, c.kind = .wload h r o rs → wloadRun (s.modCluster cl (fun k => { k with
          cmds := k.cmds.map (fun x => if x.id = c.id then { x with started := true, left := 0 } else x), wdir := dirClear k.wdir c.kind }))
          cl ⟨1216 + cl, c.cregs, .matrix cl⟩ c.kind = .ok s1 →
      ∃ t, exec e s = .next t ∧ wloadEnt h r o rs.isSome ∈ (t.cluster cl).wdir ∧ t.mem = s1.mem ∧ t.crews = s1.crews ∧
        (∀ x ∈ (t.cluster cl).wdir, x = wloadEnt h r o rs.isSome ∨ (x.handle ≠ h ∧ wOverlap x (wloadEnt h r o rs.isSome) = false)) ∧
        ∀ x ∈ (t.cluster cl).cmds, x.id ≠ c.id) ∧
    (∀ sl x r0 ar rd cr rs sc, c.kind = .mdrain sl x r0 ar rd cr rs sc → ∃ t, exec e s = .next t ∧
      t.crews = (drainWrite s cl sl x r0 rd cr rs sc).crews ∧
      ∃ y ∈ (t.cluster cl).cmds, y.id = c.id ∧ y.started = true ∧ y.left = drainBytes x rd)) ∧
  (∀ c scaled slot kb0 kn ra crew ha hb rs screw f, mxActive k = some c → c.kind = .mma scaled slot kb0 kn ra crew ha hb rs screw f →
    k.halted = false → (c.rg = 0 → mxPaused s cl = false) → slot < k.acc.length → ∀ e, k.wdir.find? (fun x => x.handle = hb) = some e → e.n ≤ 256 →
    let rows := (slabFor s cl ra crew ha (fmtWidth f) c.kb c.rg).2
    let k1 := (slabFor s cl ra crew ha (fmtWidth f) c.kb c.rg).1.cluster cl
    ∃ t, exec (.engineStep cl .clean) s = .next t ∧ others t ∧ t.mem = s.mem ∧ t.crews = s.crews ∧ t.warps = s.warps ∧
      (t.cluster cl).steps = k.steps + 1 ∧ (t.cluster cl).mxerr = k.mxerr ∧ (t.cluster cl).wdir = k.wdir ∧ (t.cluster cl).wbuf = k.wbuf ∧
      (∀ n, n ≠ slot → (t.cluster cl).acc.getD n [] = k.acc.getD n []) ∧
      (∀ i j, j < 256 → (fmGet (0, false) ((t.cluster cl).acc.getD slot []) (256 * i + j)).1 =
        if 8 * c.rg ≤ i ∧ i < tDim1 ra ∧ i < 8 * c.rg + rows.length ∧ j < e.n then
          mxFold (fmGet (0, false) (k.acc.getD slot []) (256 * i + j)).1 f
            ((List.range 32).map (fun n => fMul
              (mxVal f (((rows.getD (i - 8 * c.rg) (0, 0)).1 >>> (n * fmtWidth f)) % 2 ^ fmtWidth f))
              (mxVal f (wElem k1 e f (32 * (kb0 + c.kb) + n) j).1)))
            (if scaled then some (readTile s screw (tBase rs % 2 ^ 20 + i * tStride0 rs + c.kb) 1 8).1 else none)
            (if scaled then some (wScale k1 e (kb0 + c.kb) j).1 else none)
        else (fmGet (0, false) (k.acc.getD slot []) (256 * i + j)).1)) ∧
  (∀ c bytes sl x r0 ar rd cr rs sc, k.cmds.find? (fun y => y.started && mxDrains y.kind) = some c →
    c.kind = .mdrain sl x r0 ar rd cr rs sc → 0 < min bytes c.left →
    ∃ t, exec (.drainPieceCount cl bytes) s = .next t ∧ t.crews = (countInto s cr ar (min bytes c.left)).1.crews ∧
      (t.cluster cl).cmds = (if c.left ≤ bytes then k.cmds.filter (fun y => y.id != c.id)
        else k.cmds.map (fun y => if y.id = c.id then { y with left := c.left - bytes } else y)))

/-- COPY_COMMAND_START, COPY_PIECE_COUNT and COPY_ABANDON (R315-R323): a command that may start starts, a CVTTAB takes its table whole; a piece
of a copy between scratchpads writes the 8-byte words that it completes, each source element converted to its place, and no other byte; an
abandoned command leaves, with a record of type 4 and the issuer's trap, or the end of its crew where the handler issued it (R185). That a
piece and a CVTTAB are one step each is the model's choice (log 30). -/
def Obligations.CopyResults : Prop := ∀ (cl : Nat) (s : State) (c : CpyCmd),
  let k := s.cluster cl
  k.copies.find? (fun x => x.id = c.id) = some c →
  let quiet := s.faults.any (fun f => f.waiter = .copy cl c.id) = false
  (cpyMayStart s k c = true → (cpyEarlier k c).any (cpyMayStart s k) = false → quiet →
    let c1 := { c with started := true }
    let s0 := setCopy s cl c1
    (c.table = none → c.moved < cpyTotal c → c.due = 0 → (∀ i, c.dcrew = some i ∨ c.screw = some i → (s.crew i).isSome = true) →
      ∃ t, exec (.copyCommandStart cl c.id) s = .next t ∧
      (t.cluster cl).copies = k.copies.map (fun x => if x.id = c.id then c1 else x) ∧
      (∀ j, j ≠ cl → t.cluster j = s.cluster j) ∧ { t with clusters := [] } = { s with clusters := [] }) ∧
    (∀ n va s1 bs, c.table = some (n, va) → cpyTableWaits (s0.cluster cl) c1 = false →
      vmRdBytes ⟨1368 + cl, c.cregs, .copy cl c.id⟩ 512 s0 va = .ok (s1, bs) → n < (s1.cluster cl).tables.length →
      ∃ t, exec (.copyCommandStart cl c.id) s = .next t ∧ t.mem = s1.mem ∧ (∀ x ∈ (t.cluster cl).copies, x.id ≠ c.id) ∧
        ∀ j, j < 256 → ((fmGet (0, false) ((t.cluster cl).tables.getD n []) j).1).toNat =
          (((bs.drop (2 * j)).take 2).zipIdx.foldl (fun a b => a + b.1.1.toNat * 256 ^ b.2) 0) % 65536)) ∧
  (∀ bytes dk sk dc, c.started = true → c.table = none → 0 < cpyPieceLen c bytes → quiet →
    c.dcrew = some dk → c.screw = some sk → s.crew dk = some dc → (s.crew sk).isSome = true → c.arr = none → cpyTableWaits k c = false →
    let n := cpyPieceLen c bytes
    let ready := fun (a : Nat) => !cpyLater c (cpyDst c) (cpyWd c) (c.moved + n) (a / 8)
    let ks := (List.range n).map (fun i => c.moved + i)
    cpyBehind s k c ((c.held.map (fun b => b.1) ++ ks.flatMap (fun i => (List.range (cpyWd c)).map (fun j => cpyDst c i + j))).filter ready)
      = false →
    ∀ s1 seen mv, cpyGather cl c [] ks s c.seen = .ok (s1, seen, mv) →
      let out := (c.held ++ mv.bytes).filter (fun b => ready b.1)
      ∃ t d, exec (.copyPieceCount cl c.id bytes) s = .next t ∧
        t.crews = (if out = [] then s1 else afterScratch (s1.modCrew dk (fun _ => d)) dk).crews ∧
        { d with sp := [], spBad := [] } = { dc with sp := [], spBad := [] } ∧
        (∀ a, (∀ b ∈ out, b.1 ≠ a) → memGet d.sp a = memGet dc.sp a) ∧
        ((out.map (fun b => b.1)).Nodup → ∀ b ∈ out, memGet d.sp b.1 = b.2.1) ∧ t.mem = s1.mem ∧
        (c.moved + n < cpyTotal c → ∃ x ∈ (t.cluster cl).copies, x.id = c.id ∧ x.moved = c.moved + n ∧ x.flags = c.flags ||| mv.flags ∧
          x.held = (c.held ++ mv.bytes).filter (fun b => !ready b.1)) ∧
        (c.moved + n = cpyTotal c → ∀ x ∈ (t.cluster cl).copies, x.id ≠ c.id)) ∧
  (∃ t f, exec (.copyAbandon cl c.id 6) s = .next t ∧ (∀ x ∈ (t.cluster cl).copies, x.id ≠ c.id) ∧ f ∈ t.faults ∧ f.ftype = 4 ∧
    f.reason = 6 ∧ f.unit = 1368 + cl ∧ f.info = BitVec.ofNat 64 (c.hd + 6 * 4096) ∧ t.mem = s.mem ∧
    (∀ w cr, s.warp c.key = some w → isGhost c.key = false → w.crew = c.crew → c.tm = true → s.crew w.crew = some cr → cr.ending = none →
      ∃ d, t.crew w.crew = some d ∧ d.ending.isSome = true) ∧
    ∀ w, s.warp c.key = some w → isGhost c.key = false → w.crew = c.crew → c.tm = false → t.crews = s.crews ∧ ∃ v r, t.warp c.key = some v ∧ r ∈ v.traps ∧ r.cause = cENGFAULT ∧ r.late = true ∧
      r.info = BitVec.ofNat 64 (c.hd + 6 * 4096) ∧ r.pc = c.pc ∧ v.cpyFlt = true)

/-! ## Events of Sprout, the fault rings and the dispatchers -/

/-- SPROUT_JOB: the head of an anchor's queue ends, its outcome and the count of jobs are left; a fault is reported, and the job waits with its
stage, as it does for a line that is locked or without room (R394, R395, R399, R402). A job that ends takes QUEUED from the blocks it leaves behind
first (R382). That a job is one step, the stage that a job which waits shows, and that the write of QUEUED waits at a locked line too, are the
model's choices (logs 25 and 87); so is that a job which meets a sealed line or an uncorrectable word is abandoned there with outcome 3 and a record
of type 6 (logs 94 and 100). -/
def Obligations.SproutResults : Prop := ∀ (d : Nat) (params : List (BitVec 16)) (s : State) (j : SproutJob) (rest : List SproutJob),
  (s.die d).queue = j :: rest → s.faults.any (fun f => f.waiter = .sprout d) = false →
  let e : Env := ⟨1520 + d, j.cregs, .sprout d⟩
  let waits := fun (n : Nat) (v : VErr) =>
    let s1 := s.setDie d { s.die d with queue := { j with stage := n } :: rest }
    (∀ lack, v = .wait lack → exec (.sproutJob d params) s = .next (evictFor s1 lack)) ∧
    (∀ ln wr, v = .held ln wr → exec (.sproutJob d params) s = .next (engineWait s1 (.sprout d) ln wr)) ∧
    (∀ va reason pte need, v = .fault va reason pte need →
      ∃ t f, exec (.sproutJob d params) s = .next t ∧ (t.die d).queue = { j with stage := n } :: rest ∧ t.faults = s.faults ++ [f] ∧
        f.ftype = 1 ∧ f.reason = reason ∧ f.va = va ∧ f.unit = 1520 + d ∧ f.waiter = .sprout d ∧ f.tag = s.nextTag + 1 ∧ t.mem = s.mem)
  let ends := fun (s1 : State) (done : Bool) (out : Nat) =>
    (∀ v, clearBits e s1 (queuedBlocks s d j done) = .error v → waits 4 v) ∧
    ∀ s2, clearBits e s1 (queuedBlocks s d j done) = .ok s2 →
      ∃ t, exec (.sproutJob d params) s = .next t ∧ (t.die d).queue = (s2.die d).queue.erase j ∧
        (t.die d).jobs = ((s2.die d).jobs + 1) % 65536 ∧ regionOut t j.ctx j.handle = out ∧ t.mem = s2.mem ∧ t.slices = s2.slices ∧
        (j.waiters = [] → t.warps = s2.warps)
  (∀ s1, runJob e s j params = .ok (.installed s1) → ends s1 true 1) ∧
  (∀ s1 out, runJob e s j params = .ok (.stopped s1 out) → ends s1 false out) ∧
  (∀ s1, runJob e s j params = .ok (.dropped s1) → ends s1 false 3 ∧
    ∀ s2, clearBits e s1 (queuedBlocks s d j false) = .ok s2 → ∃ t f, exec (.sproutJob d params) s = .next t ∧ f ∈ t.faults ∧ f.ftype = 6 ∧
      f.reason = 3 ∧ f.unit = 1520 + d ∧ f.info = BitVec.ofNat 64 (j.handle + 3 * 4096)) ∧
  (∀ n v, runJob e s j params = .error (n, v) → waits n v)

/-- FAULT_RECORD_WRITE: with room in its ring a record's 64 bytes are written at FHEAD, FHEAD and SEQ rise by one and the interrupt is raised;
a record that waits for an answer stays known; without room FSTAT counts the wait once (R405, R412, R413). -/
def Obligations.FaultRecordResults : Prop := ∀ (n : Nat) (s : State) (f : FaultRec), s.faults[n]? = some f → f.written = false →
  s.pkg.frozen = false →
  let i := faultRing f.asid
  let g := s.fring i
  let pa := g.base + 64 * (g.head % 2 ^ (g.cfg % 32))
  let v := (recordBytes f s.seq).foldr (fun b a => b.toNat + 256 * a) 0
  (∀ s1, fringRoom g = true → lineHeld s (.record i) f.unit (pa / 128) true = false →
    homeStore (engineGoes s (.record i) f.unit (pa / 128)) pa 64 v false true = .ok s1 →
    ∃ t l, exec (.faultRecordWrite n) s = .next t ∧ (t.fring i).head = (g.head + 1) % 2 ^ 64 ∧ (t.fring i).base = g.base ∧
      (t.fring i).tail = g.tail ∧ t.seq = s.seq + 1 ∧
      t.pkg.irqs = s.pkg.irqs ++ [if g.cfg.testBit 17 then (true, g.cfg / 2 ^ 20 % 32) else (false, i)] ∧
      t.faults = (if f.waiter = .nobody then s.faults.eraseIdx n else s.faults.set n { f with written := true }) ∧
      fmFind (t.slice (lineHome (pa / 128))).lines (pa / 128) = some l ∧ (pa % 128 ≤ 64 → lineTake l.data (pa % 128) 64 = v)) ∧
  (fringRoom g = false → ∃ t, exec (.faultRecordWrite n) s = .next t ∧ t.mem = s.mem ∧ t.slices = s.slices ∧
    (t.fring i).stat = (if f.counted then g.stat else (g.stat + 1) % 2 ^ 32) ∧ t.faults = s.faults.set n { f with counted := true })

/-- FRESP_RETRY and FRESP_ABORT (R414): the answered record is gone. ABORT 0: the access replays, a fetch or an engine tries again. ABORT 1: a
fetch traps PAGE at the held PC, a parked access is abandoned with a late PAGE trap, which goes before every other held trap but those like it, and one of an instruction
that had no effect is dropped, since it issues again (R192); a copy leaves
its queue with a record of type 4 (R323), a snapshot is abandoned (R352). A tag that names no waiting access is ignored. -/
def Obligations.FaultAnswers : Prop := ∀ (tag : Nat) (s : State),
  let clear : State := { s with faults := s.faults.filter (fun g => g.tag != tag) }
  (waitingRecord s tag = none → exec (.frespRetry tag) s = .next s ∧ exec (.frespAbort tag) s = .next s) ∧
  (∀ f, waitingRecord s tag = some f → s.pkg.frozen = false →
    (∀ k op, f.waiter = .access k op → exec (.frespRetry tag) s = .next (replayWarp (wakeCore clear (keyUnit k) 4) k)) ∧
    ((∀ k op, f.waiter ≠ .access k op) → ∃ t, exec (.frespRetry tag) s = .next t ∧ t.faults = clear.faults ∧
      { t with faults := [], cores := [] } = { s with faults := [], cores := [] }) ∧
    (∀ k pc w, f.waiter = .fetch k pc → s.warp k = some w → isGhost k = false → w.tm = false →
      let act := maskOf (fun l => w.pt.live.getLsbD l && w.pt.pcs.getD l 0 = pc)
      act ≠ 0 → ∃ t r, exec (.frespAbort tag) s = .next t ∧ t.warp k = some { w with traps := w.traps ++ [r], pairNext := none } ∧
        r.cause = cPAGE ∧ r.late = false ∧ r.info = BitVec.ofNat 64 f.va ∧ r.pc = pc ∧ r.act = act ∧ t.faults = clear.faults) ∧
    (∀ k op w p m sl, f.waiter = .access k op → s.warp k = some w → isGhost k = false → findPend w op = some p → p.late = .parked m sl → p.tm = false →
      ∃ u v r, exec (.frespAbort tag) s = .next (replayWarp u k) ∧ u.warp k = some v ∧
        v.traps = (w.traps.filter (fun x => x.late)).filter leads ++ r :: (w.traps.filter (fun x => x.late)).filter (fun x => !leads x) ∧
        r.cause = cPAGE ∧ r.late = true ∧ r.info = BitVec.ofNat 64 (m.fail.getD f.va) ∧ r.pc = p.pc ∧ r.exec = p.exec ∧ r.slots = some sl ∧
        v.pend = w.pend.filter (fun q => q.op != p.op) ∧ v.ctrs = ctrSub w.ctrs p.ctrs ∧ u.mem = s.mem ∧ u.faults = clear.faults) ∧
    (∀ cl id c, f.waiter = .copy cl id → (s.cluster cl).copies.find? (fun x => x.id = id) = some c → ∃ t g,
      exec (.frespAbort tag) s = .next t ∧ (∀ x ∈ (t.cluster cl).copies, x.id ≠ id) ∧ g ∈ t.faults ∧ g.ftype = 4 ∧
      g.reason = (if f.access.testBit 1 then 2 else if c.table.isSome then 5 else 1) ∧ g.unit = 1368 + cl) ∧
    (∀ id, f.waiter = .snap id → id < 16 → (s.snap id).active = true → ∃ t, exec (.frespAbort tag) s = .next t ∧
      (t.snap id).active = false ∧ (t.snap id).abandoned = true))

/-- DISPATCH and RREJ_CLEAR: the record at RHEAD of a ring that is enabled, not stopped and not empty is rejected with its lowest reason, RHEAD as
it was and the ring stopped; or taken, RHEAD past it: a no-op leaves nothing, any other record a launch; a record waits until every crew of its
AFTER launch has been placed (R421-R423, R425), and for a line of the record, the descriptor or the header that an STT has locked (R368; log 86). A header that cannot be read is rejected with the lowest reason that the rest gives, else 9, and leaves a record of type 7; a
malformed one is rejected with 5. Nothing is taken before boot is complete (R466). Clearing RREJ clears STOP. Choices of the model, log 38: a no-op waits
for its AFTER launch too, which unit reads which ring, and a record with an uncorrectable word is rejected with 9 and a record of type 7; log 100: one
whose context's descriptor is uncorrectable is rejected in the same way, with the lowest reason that the rest gives, else 9. -/
def Obligations.DispatchResults : Prop := ∀ (ring : Nat) (s : State),
  let g := s.ring ring
  let first := g.head % ringSlots g
  let s' := leavePlaces s (.dispatch ring)
  let (s0, w0, _) := walkRead s' (g.base + 128 * first)
  let len := w0 / 256 % 4
  let past := ringSlots g ≤ first + len
  let (s1, ws, unc) := recordWords s0 g first (if past then ringSlots g - first else len + 1)
  let r := recOf ws
  let wrongTag := ringClass g = 2 && (match g.tags.find? (fun t => t.1 = first) with
    | some t => t.2 != r.ctx
    | none => true)
  let open_ := ring < 32 ∧ s.pkg.boot.stage = 7 ∧ s.pkg.boot.fail = 0 ∧ s.pkg.frozen = false ∧ ringEnabled g = true ∧ ringLegal g = true ∧
    ringClass g ≠ 3 ∧ ringStopped g = false ∧ ringUsed g ≠ 0 ∧ recordReady s ring = true ∧
    dispatchWait s ring = none
  let early := lowestReason [(1, recReserved ws r || recLimits r), (2, past), (3, r.sys && ringClass g != 0),
    (4, s.pkg.ctxn ≤ r.ctx || wrongTag)]
  let clean := open_ ∧ unc = false ∧ early = none
  let crowded := 8 + 16 * r.len < recNeed r
  let ids := (List.range r.crews).map (recPlace r)
  let badId := (r.place = 1 && ids.any (fun i => Config.cores ≤ i)) || (r.place = 2 && ids.any (fun i => Config.clusters ≤ i))
  let twin := s.pkg.launches.any (fun l => l.ring = ring && l.lid = r.lid)
  let rejected := fun (t : State) (n : Nat) =>
    (t.ring ring).rej = n + first * 2 ^ 16 + r.lid * 2 ^ 32 + 2 ^ 63 ∧ (t.ring ring).head = g.head ∧ t.pkg.launches = s.pkg.launches
  let reports := fun (t : State) (va : Nat) => ∃ f ∈ t.faults, f.ftype = 7 ∧ f.reason = 9 ∧ f.va = va ∧ f.unit = dispUnit ring ∧ f.ring = ring ∧
    f.launchid = r.lid ∧ f.ctxid = r.ctx
  let desc := descWords s1 r.ctx
  let readable := clean ∧ r.kind ≠ 3 ∧ desc.2.2 = false
  let header := readHeader desc.1 (dispUnit ring) (descOf desc.2.1) r.kernel (r.kind = 2)
  (s.pkg.boot.stage ≠ 7 ∨ s.pkg.boot.fail ≠ 0 → exec (.dispatch ring) s = .next s) ∧
  (∀ ln, ring < 32 → s.pkg.boot.stage = 7 → s.pkg.boot.fail = 0 → s.pkg.frozen = false → ringEnabled g = true → ringLegal g = true →
    ringClass g ≠ 3 → ringStopped g = false → ringUsed g ≠ 0 → recordReady s ring = true → dispatchWait s ring = some ln →
    exec (.dispatch ring) s = .next (engineWait s (.dispatch ring) ln false)) ∧
  (ring < 32 → ∃ t, exec (.rrejClear ring) s = .next t ∧ t.ring ring = { g with rej := 0 } ∧ (∀ j, j ≠ ring → t.ring j = s.ring j)) ∧
  (open_ → unc = true → ∃ t, exec (.dispatch ring) s = .next t ∧ rejected t 9 ∧ reports t 0) ∧
  (open_ → unc = false → ∀ k, early = some k → ∃ t, exec (.dispatch ring) s = .next t ∧ rejected t k) ∧
  (clean → r.kind = 3 → crowded → ∃ t, exec (.dispatch ring) s = .next t ∧ rejected t 6) ∧
  (clean → r.kind = 3 → ¬ crowded → r.after = true → afterHolds s1 r.afterRing r.afterId = false → exec (.dispatch ring) s = .next s') ∧
  (clean → r.kind = 3 → ¬ crowded → (r.after = false ∨ afterHolds s1 r.afterRing r.afterId = true) → ∃ t, exec (.dispatch ring) s = .next t ∧
    t.pkg.launches = s.pkg.launches ∧ (t.ring ring).head = (first + r.len + 1) % ringSlots g ∧ (t.ring ring).rej = g.rej) ∧
  (clean → r.kind ≠ 3 → desc.2.2 = true → ∃ t, exec (.dispatch ring) s = .next t ∧
    rejected t ((lowestReason [(6, crowded), (7, badId), (8, twin)]).getD 9) ∧ reports t 0) ∧
  (readable → ∀ s3 va x pte, header = (s3, .unreadable va x pte) → ∃ t, exec (.dispatch ring) s = .next t ∧
    rejected t ((lowestReason [(6, crowded), (7, badId), (8, twin)]).getD 9) ∧ reports t va) ∧
  (readable → ∀ s3, header = (s3, .malformed) → ∃ t, exec (.dispatch ring) s = .next t ∧ rejected t 5) ∧
  (readable → ∀ s3 k, header = (s3, .ok k) →
    let cap := if r.kind = 2 then 1 else coreCapacity k r.warps
    let reason := lowestReason [
      (5, k.nqueues < r.nq || k.regs ≤ r.narg || (r.kind = 1 && (r.slots.take r.nq).any (fun e => !queueFits k e))),
      (6, crowded), (7, badId || cap = 0 || (r.gang && !gangCan r cap)), (8, twin)]
    (∀ n, reason = some n → ∃ t, exec (.dispatch ring) s = .next t ∧ rejected t n) ∧
    (reason = none → r.after = true → afterHolds s3 r.afterRing r.afterId = false → exec (.dispatch ring) s = .next s') ∧
    (reason = none → (r.after = false ∨ afterHolds s3 r.afterRing r.afterId = true) → ∃ t l, exec (.dispatch ring) s = .next t ∧
      t.pkg.launches = s.pkg.launches ++ [l] ∧ l.ring = ring ∧ l.lid = r.lid ∧ l.ctx = r.ctx ∧ l.kernel = k ∧ l.crews = r.crews ∧
      l.warps = r.warps ∧ l.waiting = List.range r.crews ∧ l.sys = r.sys ∧ l.acorn = (r.kind == 2) ∧ l.done = r.done ∧
      (t.ring ring).head = (first + r.len + 1) % ringSlots g))

/-- CREW_PLACEMENT and ACORN_PLACEMENT (R424-R426, R275): on a core with room the first waiting crew that PLACE lets go there gets the lowest free
warp slots, its rows, its scratchpad, and copies its role table (R206); each warp starts with all 32 lanes at the kernel's entry, its TVEC, class and frame address. An Acorn program
starts with one thread on a cluster whose accumulators are clear. That R425's order of the rings holds for the Acorn's place too is the model's
reading (log 38); which waiting crew and which free slots come first, and that a role table which cannot be read again leaves the entries read at
dispatch, are its choices (logs 39 and 74). -/
def Obligations.PlacementResults : Prop := ∀ (id : Nat) (s : State) (l : Launch), s.pkg.launches.find? (fun x => x.id = id) = some l →
  l.waiting ≠ [] → ringTurn s l = true → s.pkg.frozen = false →
  let starts := fun (w : Warp) (widx : Nat) (live : Mask) => w.crew = s.nextOp ∧ w.widx = widx ∧ w.tvec = l.tvec ∧ w.prio = l.cls ∧
    w.allot = l.kernel.regs ∧ w.pt.live = live ∧ (∀ i, i < 32 → pcLane w i = l.kernel.entry) ∧ w.tm = false ∧ w.fpmode = 0 ∧ w.pend = [] ∧
    w.c16 = l.kernel.c16 ∧ w.prot = l.kernel.prot
  (∀ core v b, l.acorn = false → core < Config.cores → crewFor s l core = some (v, b) → outranked s l core = false → l.gang = false →
    let slots := (freeSlots s core).take l.warps
    ∃ t d, exec (.crewPlacement id core) s = .next t ∧ t.crew s.nextOp = some d ∧ d.unit = core ∧ d.vcrew = v ∧ d.launch = l.id ∧
      d.slots = slots ∧ d.top = l.kernel.spBytes + Config.trapArea ∧ d.place = b ∧ d.ctx = l.ctx ∧ d.ending = none ∧
      (let desc := readDesc (enterContext s (core / 8) l.ctx) (dispUnit l.ring) l.ctx
       d.roles = (startRoles desc.1 core desc.2 l).2) ∧
      (t.core core).poolFree = (s.core core).poolFree - l.warps * l.kernel.regs ∧ (t.core core).gated = false ∧
      (∀ e ∈ slots.zipIdx, ∃ w, t.warp (32 * core + e.1) = some w ∧ starts w e.2 (BitVec.allOnes 32) ∧
        w.tframe = BitVec.ofNat 64 (l.kernel.spBytes + e.1 / 8 * 0x620) ∧
        ∀ i a, l.args[i]? = some a → ∀ n, n < 32 → rowGet (fmGet emptyRow w.regs i) n = ⟨a, 0⟩) ∧
      (∀ k, (∀ e ∈ slots, k ≠ 32 * core + e) → t.warp k = s.warp k) ∧
      t.pkg.launches = s.pkg.launches.map (fun x => if x.id = l.id then
        { x with waiting := x.waiting.filter (fun u => u != v), placed := x.placed ++ [(s.nextOp, core)] } else x)) ∧
  (∀ cl, cl < Config.clusters → acornFor s l cl = true → acornOutranked s l cl = false →
    ∃ t d w, exec (.acornPlacement id cl) s = .next t ∧ t.crew s.nextOp = some d ∧ d.unit = 1216 + cl ∧ d.ctx = l.ctx ∧ d.launch = l.id ∧
      t.warp (acornKey cl) = some w ∧ starts w 0 1 ∧ (t.cluster cl).ctx = some l.ctx ∧ (t.cluster cl).acc = [[], [], [], []] ∧
      (t.cluster cl).mxerr = (s.cluster cl).mxerr &&& 0x0000FFFFFFFFFFFF ∧ (t.cluster cl).halted = false ∧ (t.cluster cl).fmt = 0x0B ∧ (t.cluster cl).steps = 0 ∧ (t.cluster cl).wdir = [])

/-- LAUNCH_COMPLETION and CTXSAVE_WITHDRAW: once a launch's crews have ended and its stores, copies and fabric stores are done, the completion word
is written, LAUNCHID, DONE and the number of faulted crews, and the launch leaves (R427); a save that has not stopped its crew in time is
withdrawn, and the crew's held runs are candidates again (R432). -/
def Obligations.LaunchEndResults : Prop :=
  (∀ (id : Nat) (s : State) (l : Launch), s.pkg.launches.find? (fun x => x.id = id) = some l → launchOver s l = true → s.pkg.frozen = false →
    s.faults.any (fun f => f.waiter = .done id) = false →
    (l.done = 0 → ∃ t, exec (.launchCompletion id) s = .next t ∧ t.pkg.launches = s.pkg.launches.filter (fun x => x.id != l.id) ∧
      (l.ring, l.lid) ∈ t.pkg.finished ∧ { t with pkg := s.pkg } = s) ∧
    (l.done ≠ 0 → storesHome s l = false → exec (.launchCompletion id) s = .next s) ∧
    (l.done ≠ 0 → storesHome s l = true → l.done < 2 ^ 52 →
      let desc := readDesc s (dispUnit l.ring) l.ctx
      fabricVa desc.2 l.done = false → ∀ s2 pa s3, envTr ⟨dispUnit l.ring, desc.2, .done id⟩ desc.1 l.done permW = .ok (s2, pa) →
      lineHeld s2 (.done id) (dispUnit l.ring) (pa / 128) true = false → pa % 8 = 0 →
      homeStore (engineGoes s2 (.done id) (dispUnit l.ring) (pa / 128)) pa 8 (l.lid + 2 ^ 16 + (if l.faulted = 0 then 0 else 2 ^ 17) + l.faulted * 2 ^ 32) false true = .ok s3 →
      l.lid < 2 ^ 16 → l.faulted < 2 ^ 32 →
      ∃ t x, exec (.launchCompletion id) s = .next t ∧ t.pkg.launches = s.pkg.launches.filter (fun x => x.id != l.id) ∧
        (l.ring, l.lid) ∈ t.pkg.finished ∧ fmFind (t.slice (lineHome (pa / 128))).lines (pa / 128) = some x ∧
        lineTake x.data (pa % 128) 8 = l.lid + 2 ^ 16 + (if l.faulted = 0 then 0 else 2 ^ 17) + l.faulted * 2 ^ 32)) ∧
  (∀ (crew n : Nat) (s : State) (c : Crew), s.crew crew = some c → c.preempt = some n → n + Config.saveCycles ≤ s.cycle →
    crewStopped s crew c = false → s.pkg.frozen = false →
    ∃ t, exec (.ctxsaveWithdraw crew) s = .next t ∧ t.crew crew = some { c with preempt := none } ∧
      (∀ k, k ≠ crew → t.crew k = s.crew k) ∧ t.mem = s.mem ∧ t.pkg = s.pkg)

/-! ## Events of the fabric -/

/-- PACKET_RECEIVE, MARKER_GATHER, ACKNOWLEDGEMENT_ARRIVAL, RETRANSMISSION_TIMEOUT and CONNECTION_FAILURE. A packet applies once; a duplicate is
discarded; one of a context that is not open or of another job is rejected (R444, R448); one that has to wait stays at its port. Markers of every path
that was live when they were formed, with every packet below the limit, gather it, whichever of them comes last (R454). What is acknowledged or
rejected leaves, the rest stays; a rejection marks its command (R450, R452, R453). The eighth timeout in a row fails a path, and what was in
flight on it goes to live ones (R444). A connection of which nothing has been acknowledged for 100 ms while something waited fails and takes its
commands with it (R444, R452). Choices of the model: the form of the packets, and that one whose plan is not open yet is sent again (log 34); that a
packet of a context whose descriptor is uncorrectable is rejected (log 100); and what counts as waiting for a connection, which R444 does not say
(log 93, a deduction). -/
def Obligations.ConnectionResults : Prop :=
  -- v is k once every limit that is complete has been gathered (R454)
  let gathers := fun (k v : Conn) =>
    let whole := fun (m : Marker) => (∀ p, p < 64 → m.paths.testBit p = true → ∃ x ∈ k.markers, x.path = p ∧ x.limit = m.limit) ∧
      ∀ i, i < m.limit → i ∈ k.seen
    { v with markers := [], gathered := [] } = { k with markers := [], gathered := [] } ∧
    (∀ m ∈ k.markers, (whole m → m.limit ∈ v.gathered ∧ m ∉ v.markers) ∧ (¬ whole m → m ∈ v.markers)) ∧
    ∀ l, l ∈ v.gathered ↔ l ∈ k.gathered ∨ ∃ m ∈ k.markers, whole m ∧ m.limit = l
  (∀ (pk : Packet) (s : State),
    let k := s.conn pk.conn
    let twice := s.pkg.inbox.any (fun x => x.conn = pk.conn && x.psn = pk.psn)
    let quiet := k.failed = false ∧ pk.psn ∉ k.seen ∧ twice = false ∧ s.faults.any (fun f => f.waiter = .receive pk.conn pk.psn) = false
    let open_ := 6 ≤ s.pkg.boot.stage ∧ pk.ctx < s.pkg.ctxn ∧ pk.conn / 4096 = pk.ctx
    let s1 := (readDesc s (portsOf 0) pk.ctx).1
    let cr := (readDesc s (portsOf 0) pk.ctx).2
    let marked := (descWords s pk.ctx).2.2
    let ours := quiet ∧ open_ ∧ cr.fabric.toNat / 2 ^ 16 % 2 ^ 16 = pk.job ∧ marked = false
    let body := recvBody s1 cr pk
    let nack := { k with seen := k.seen ++ [pk.psn], nacked := k.nacked ++ [pk.psn] }
    (k.failed = true ∨ pk.psn ∈ k.seen ∨ twice = true → exec (.packetReceive pk) s = .next s) ∧
    (quiet → ¬ open_ → ∃ t, exec (.packetReceive pk) s = .next t ∧ gathers nack (t.conn pk.conn) ∧ { t with pkg := s.pkg } = s) ∧
    (quiet → open_ → cr.fabric.toNat / 2 ^ 16 % 2 ^ 16 ≠ pk.job ∨ marked = true → ∃ t, exec (.packetReceive pk) s = .next t ∧ gathers nack (t.conn pk.conn) ∧ t.mem = s1.mem) ∧
    (ours → ∀ s2, body = .applied s2 → ∃ t, exec (.packetReceive pk) s = .next t ∧
      gathers { s2.conn pk.conn with seen := (s2.conn pk.conn).seen ++ [pk.psn] } (t.conn pk.conn) ∧ { t with pkg := s2.pkg } = s2) ∧
    (ours → body = .rejected → ∃ t, exec (.packetReceive pk) s = .next t ∧ gathers nack (t.conn pk.conn)) ∧
    (ours → body = .refused → exec (.packetReceive pk) s = .next s) ∧
    (ours → ∀ v, body = .wait v → exec (.packetReceive pk) s =
      .next (v.waits ⟨portUnit 0, cr, .receive pk.conn pk.psn⟩ { s with pkg := { s.pkg with inbox := s.pkg.inbox ++ [pk] } }))) ∧
  (∀ (conn path : Nat) (limit : MarkerLimit) (s : State),
    let k := s.conn conn
    ∃ t, exec (.markerGather conn path limit) s = .next t ∧ (limit.psn ∈ k.gathered → t.conn conn = k) ∧ (∀ j, j ≠ conn → t.conn j = s.conn j) ∧
      (limit.psn ∉ k.gathered → ∃ ms,
        (∀ m, m ∈ ms ↔ m ∈ k.markers ∨ m = { path := path, limit := limit.psn, paths := limit.paths, via := path }) ∧
        gathers { k with markers := ms } (t.conn conn))) ∧
  (∀ (a : Ack) (s : State), (s.conn a.conn).failed = false →
    ∃ t, exec (.acknowledgementArrival a) s = .next t ∧ (t.conn a.conn).heard = s.cycle ∧
      (∀ p ∈ (t.conn a.conn).unacked, p.psn ∉ a.psns ∧ p.psn ∉ a.rejected) ∧
      (∀ p ∈ (s.conn a.conn).unacked, p.psn ∉ a.psns → p.psn ∉ a.rejected →
        ∃ q ∈ (t.conn a.conn).unacked, q.psn = p.psn ∧ q.body = p.body ∧ q.cmd = p.cmd) ∧
      (∀ p ∈ (s.conn a.conn).unacked, p.psn ∈ a.rejected → ∀ x ∈ t.pkg.fabric, p.cmd = some x.id → x.refused = true) ∧
      (∀ l, a.gathered = some l → l ∈ (t.conn a.conn).released ∧ ∀ m ∈ (t.conn a.conn).flying, l < m.limit) ∧
      (∀ l ∈ (s.conn a.conn).released, l ∈ (t.conn a.conn).released) ∧ (∀ e ∈ (t.conn a.conn).timeouts, e.1 ≠ a.path)) ∧
  (∀ (conn path : Nat) (s : State),
    let k := s.conn conn
    let n := ((k.timeouts.find? (fun e => e.1 = path)).elim 0 (fun e => e.2)) + 1
    let desc := readDesc s (portsOf 0) (conn / 4096)
    let npath := (peerPaths desc.1 desc.2 conn).2
    ∃ t, exec (.retransmissionTimeout conn path) s = .next t ∧ (path, n) ∈ (t.conn conn).timeouts ∧
      (path ∈ (t.conn conn).dead ↔ path ∈ k.dead ∨ 8 ≤ n) ∧ (∀ p, p ≠ path → (p ∈ (t.conn conn).dead ↔ p ∈ k.dead)) ∧
      (t.conn conn).unacked.map (fun p => (p.psn, p.body)) = k.unacked.map (fun p => (p.psn, p.body)) ∧ (t.conn conn).seen = k.seen ∧
      (t.conn conn).flying.map (fun m => (m.path, m.limit, m.paths)) = k.flying.map (fun m => (m.path, m.limit, m.paths)) ∧
      (path ∈ (t.conn conn).dead → (∃ p, p < npath ∧ p ∉ (t.conn conn).dead) →
        (∀ p ∈ (t.conn conn).unacked, p.path ≠ path) ∧ ∀ m ∈ (t.conn conn).flying, m.via ≠ path)) ∧
  (∀ (conn : Nat) (s : State), let k := s.conn conn
    (k.failed = false → connWaits s conn = true → k.heard + Config.silenceCycles ≤ s.cycle → ∃ t, exec (.connectionFailure conn) s = .next t ∧
      (t.conn conn).failed = true ∧ ∀ c ∈ t.pkg.fabric, c.conn ≠ some conn) ∧
    (connWaits s conn = false ∨ s.cycle < k.heard + Config.silenceCycles → exec (.connectionFailure conn) s = .next s))

/-- FABRIC_ABANDON, PLAN_ABORT and REDUCTION_CHUNK_COMBINE: an abandoned command leaves, with a record of type 4 and its reason (R452); an aborted
slot is marked and reported with reason 15, and each warp of its context that holds a contribution not yet combined takes ENGFAULT at its FRED (R460); a chunk
that this node and every child have contributed is summed, in the order of the children, once, and goes to the parent, or at the root into the
result, and there under OP 2 to the children, in packets of at most 4,096 bytes (R442, R459). Choices of the model, log 34: the form of the
packets, and the instruction that an ENGFAULT of an abort is taken at; log 94: a result that a sealed range rejects aborts the plan. -/
def Obligations.CollectiveResults : Prop :=
  (∀ (reason : Nat) (s : State) (c : FabCmd), s.pkg.fabric.find? (fun x => x.id = c.id) = some c →
    ((c.refused = true ∧ (reason = 13 ∨ reason = 14)) ∨ (reason = 12 ∧ ∃ n, c.conn = some n ∧ (s.conn n).failed = true)
      ∨ (reason = 3 ∧ c.kind = .load ∧ c.lcrew = none ∧ sealHit s (c.cregs.asid.toNat % 65536) (fabBase c.rl + c.lo) c.len = true)
      ∨ (reason = 4 ∧ ∃ k, c.lcrew = some k ∧ s.crew k = none)) →
    ∃ t f, exec (.fabricAbandon c.id reason) s = .next t ∧ (∀ x ∈ t.pkg.fabric, x.id ≠ c.id) ∧ f ∈ t.faults ∧ f.ftype = 4 ∧
      f.reason = reason ∧ f.info = BitVec.ofNat 64 (c.hr + reason * 4096) ∧ f.unit = portUnit (keyUnit c.key) ∧ t.mem = s.mem ∧
      ∀ w, s.warp c.key = some w → isGhost c.key = false → w.crew = c.crew → c.tm = false → ∃ v r, t.warp c.key = some v ∧ v.fabFail = true ∧
        r ∈ v.traps ∧ r.cause = cENGFAULT ∧ r.late = true ∧ r.pc = c.pc ∧ r.info = BitVec.ofNat 64 (c.hr + reason * 4096)) ∧
  (∀ (slot : Nat) (s : State) (q : Plan), s.plan? slot = some q → q.aborted = false →
    ∃ t f, exec (.planAbort slot) s = .next t ∧ t.plan? slot = some { q with aborted := true } ∧ f ∈ t.faults ∧ f.ftype = 4 ∧
      f.reason = 15 ∧ f.info = BitVec.ofNat 64 slot ∧ (∀ j, j ≠ slot → t.plan? j = s.plan? j) ∧ t.mem = s.mem ∧
      ∀ key w, s.warp key = some w → isGhost key = false →
        let gives := fun (x : ChunkSource) => x.key = key ∧ x.crew = w.crew ∧
          ((∃ m ∈ q.mine, m.src = some x ∧ ¬ (m.epoch = q.epoch ∧ m.index ∈ q.combined))
            ∨ ∃ c ∈ s.pkg.fabric, c.source = x ∧ c.ctx = q.ctx ∧ ∃ ch e, c.kind = .reduce slot ch e)
        (∃ x, gives x) → (∀ x, gives x → x.tm = false) →
        ∃ v r x, gives x ∧ t.warp key = some v ∧ r ∈ v.traps ∧ r.cause = cENGFAULT ∧ r.late = true ∧ r.info = BitVec.ofNat 64 slot ∧
          r.pc = x.pc ∧ r.word = x.word ∧ r.exec = x.exec ∧ v.pend = w.pend) ∧
  (∀ (slot ch : Nat) (s : State) (q : Plan) (m : Chunk), s.plan? slot = some q → q.aborted = false → ch ∉ q.combined →
    q.mine.find? (fun c => c.epoch = q.epoch && c.index = ch) = some m →
    (∀ i, i < q.kids.length → (childChunk q ch i).isSome = true) →
    let sum := ((List.range q.kids.length).map (childChunk q ch)).foldl (fun a k => match k with
      | some ws => chunkAdd q.fmt a ws
      | none => a) m.words
    (∀ up, q.parent = some up → ∃ t v, exec (.reductionChunkCombine slot ch) s = .next t ∧ t.plan? slot = some v ∧
      v.combined = q.combined ++ [ch] ∧ v.awaiting = q.awaiting ++ [ch] ∧ t.crews = s.crews ∧
      ∀ x ∈ packetPieces sum, ∃ p ∈ (t.conn (connOf q.ctx up)).unacked, p.body = .chunk q.planId q.op q.fmt q.nch q.chb q.epoch ch x.1 x.2) ∧
    (q.parent = none → ∃ t v, exec (.reductionChunkCombine slot ch) s = .next t ∧ t.plan? slot = some v ∧ v.combined = q.combined ++ [ch] ∧
      (q.op = 2 → ∀ k ∈ q.kids, ∀ x ∈ packetPieces sum, ∃ p ∈ (t.conn (connOf q.ctx k)).unacked,
        p.body = .result q.planId q.op q.fmt q.nch q.chb q.epoch ch x.1 x.2)) ∧
    (q.parent = none → q.op ≠ 2 → q.results = [] → q.due = [] → 0 < sum.length → sum.length ≤ 512 → 8 * sum.length = q.chb →
      s.faults.any (fun f => f.waiter = .plan slot) = false →
      (q.rescrew = none → sealHit s (q.cregs.asid.toNat % 65536) (fabBase q.resh + ch * q.chb) (8 * sum.length) = false) →
      let piece : Chunk := { epoch := q.epoch, index := ch, off := 0, child := 0, src := m.src, words := sum }
      ∀ s1 pas, fabPut (s.setPlan slot { q with combined := q.combined ++ [ch], results := [piece] }) (.plan slot) (portUnit (keyUnit q.key)) q.cregs
          q.rescrew (fabBase q.resh + ch * q.chb) sum = .done s1 pas → (∀ k x, q.arrcrew = some k → m.src = some x → fabHeld s1 k x.key x.op = false) →
        ∃ t v, exec (.reductionChunkCombine slot ch) s = .next t ∧ t.plan? slot = some v ∧ ch ∈ v.counted ∧ v.results = [] ∧
          t.slices = s1.slices ∧ t.mem = s1.mem))

/-! ## Boot, the device and the host link -/

/-- COLD_START, WARM_START, PACKAGE_RESET and IMAGE_FETCH_ATTEMPT (R466, R467, R469, R470): a reset clears every array and register on chip and
begins stage 1; second-tier memory, flash, the images in it and the unlocked scan network stay, and so do the numbers by which the model
names instructions and crews; after a freeze every reset is cold. Each stage
ends in the next one or in its failure code, and the eighth failed fetch ends boot. Stage 6 sets CTXTAB, CTXN and the rings that the image
lists, each enabled. Which rings those are, that a reset sets up no more than stage 6 says, and that it keeps the agenda are the model's choices
(logs 42 and 35). -/
def Obligations.BootResults : Prop := ∀ (s : State) (o : BootOutcome),
  let b := s.pkg.boot
  let clear := fun (e : Instr) (warm : Bool) => ∃ t, exec e s = .next t ∧ t.mem = s.mem ∧ t.memBad = s.memBad ∧ t.agenda = s.agenda ∧ t.foreign = s.foreign ∧
    t.nextOp = s.nextOp ∧
    { t with mem := [], memBad := [], draw := 0, agenda := [], foreign := [], nextOp := State.reset.nextOp, pkg := State.reset.pkg } = State.reset ∧
    t.pkg = { State.reset.pkg with
      debug := s.pkg.debug, images := s.pkg.images, crewNames := s.pkg.crewNames, flash := s.pkg.flash, boot := { Boot.start with stage := 1, warm := warm } }
  let goes := fun (e : Instr) (f : Boot → Boot) => ∃ t, exec e s = .next t ∧ t.pkg.boot = f b ∧ t.mem = s.mem ∧ t.pkg.frozen = false
  let stageTo := fun (n : Nat) (b : Boot) => { b with stage := n }
  let fails := fun (n : Nat) (b : Boot) => { b with fail := n }
  clear .coldStart false ∧ clear .warmStart (!s.pkg.frozen) ∧
  (s.pkg.frozen = true ∨ b.stage = 0 ∨ b.stage = 7 ∨ b.fail ≠ 0 → clear (.packageReset o) false) ∧
  (s.pkg.frozen = false → b.fail = 0 →
    (b.stage = 1 → goes (.packageReset .ok) (stageTo 2)) ∧
    (b.stage = 3 → goes (.packageReset .ok) (stageTo 4) ∧ goes (.packageReset .badSignature) (fails 4)) ∧
    (b.stage = 4 → goes (.packageReset .trainingFailed) (fails 5) ∧ goes (.packageReset .ok) (stageTo 5) ∧
      ∃ t, exec (.packageReset .ok) s = .next t ∧ t.retired = s.pkg.flash) ∧
    (b.stage = 5 → goes (.packageReset .badTable) (fails 6) ∧ ∃ t, exec (.packageReset .ok) s = .next t ∧ t.pkg.boot.stage = 6 ∧
      (s.pkg.table ≠ DecTable.shipped → t.pkg.table = s.pkg.table) ∧ t.pkg.table.emul = s.pkg.table.emul ∧ t.pkg.table.floors = s.pkg.table.floors) ∧
    (b.stage = 6 → goes (.packageReset .ok) (stageTo 7) ∧ ∃ t, exec (.packageReset .ok) s = .next t ∧ 1 ≤ t.pkg.ctxn ∧ t.pkg.ctxn < 2 ^ 16 ∧
      t.pkg.ctxtab % 4096 = 0 ∧ ∀ r, t.ring r ≠ Ring.start → r < 32 ∧ ringEnabled (t.ring r) = true ∧ ringLegal (t.ring r) = true ∧
        ringClass (t.ring r) ≠ 3 ∧ (t.ring r).head = 0 ∧ (t.ring r).tail = 0) ∧
    (b.stage = 2 → goes (.imageFetchAttempt .ok) (fun b => { b with stage := 3, tries := b.tries + 1 }) ∧
      (b.warm = true → b.tries = 0 → goes (.imageFetchAttempt .warmImage) (stageTo 3)) ∧
      ∀ e n, (e = .noLink ∧ n = 1) ∨ (e = .noAddress ∧ n = 2) ∨ (e = .httpError ∧ n = 3) →
        goes (.imageFetchAttempt e) (fun b => { b with tries := b.tries + 1, fail := if b.tries < 7 then 0 else n })))

/-- FREEZE, THERMAL_TRIP, SCAN_READOUT, DEBUG_UNLOCK, POWER_LIMIT, PATH_MONITOR_READ, PORT_LINK_CHANGE, REGISTER_WRITE and HOST_BAR2_ACCESS (R405,
R414, R463, R469-R472, R476-R478): each changes its own register and nothing else; LIMIT is set only with a margin below FLOOR; a freeze records the stop of each clock, 0 to 8 cycles
from the edge; a read through BAR2 gives the bytes at their homes, each with the mark of its word, a write puts them there; while an earlier access
of the host waits for its home, a later one and a host's RTAIL wait behind it; a read of the control window gives the register whole, and 0
for a write-only one. The unit under which the host reaches a home, that its reads stay behind its writes, the twelve clocks (of each compute and
base die, and two of each I/O die) and 0 for an unnamed offset are the model's choices (logs 38, 35 and 43). -/
def Obligations.DeviceResults : Prop := ∀ (s : State),
  let pkgOnly := fun (t : State) => { t with pkg := s.pkg } = s
  (s.pkg.frozen = false → ∃ t stops, exec .freeze s = .next t ∧ stops.length = 12 ∧ (∀ n ∈ stops, n ≤ 8) ∧
    { t with draw := s.draw } = { s with pkg := { s.pkg with frozen := true, edge := some s.cycle, stops := stops } } ∧
    exec .thermalTrip s = .next { t with pkg := { t.pkg with tripped := true } }) ∧
  (s.pkg.frozen = true → exec .freeze s = .next s ∧ exec .thermalTrip s = .next { s with pkg := { s.pkg with tripped := true } }) ∧
  (∀ n, exec (.scanReadout n) s = .next s) ∧
  (exec (.debugUnlock true) s = .next { s with pkg := { s.pkg with debug := true } } ∧ exec (.debugUnlock false) s = .next s) ∧
  (s.pkg.frozen = false → ∀ a, exec (.powerLimit a) s = .next { s with pkg := { s.pkg with slow := a } }) ∧
  (s.pkg.frozen = false → ∀ d margin worst vdd limit, d < 4 → worst < 38 → ∃ t, exec (.pathMonitorRead d margin worst vdd limit) s = .next t ∧
    let old := (s.die d).age
    let new := (t.die d).age
    new.extractLsb' 48 16 = BitVec.ofNat 16 vdd ∧ new.extractLsb' 40 8 = 0 ∧ new.getLsbD 39 = (limit && margin % 256 < (old.extractLsb' 16 8).toNat) ∧
    new.extractLsb' 32 7 = BitVec.ofNat 7 worst ∧ new.extractLsb' 24 8 = BitVec.ofNat 8 margin ∧
    new.extractLsb' 16 8 = old.extractLsb' 16 8 ∧ (new.extractLsb' 0 16).toNat =
      (if old.extractLsb' 48 16 = BitVec.ofNat 16 vdd then (old.extractLsb' 0 16).toNat else min ((old.extractLsb' 0 16).toNat + 1) 0xFFFF) ∧
    (∀ j, j ≠ d → t.die j = s.die j) ∧ { t with dies := [] } = { s with dies := [] }) ∧
  (s.pkg.frozen = false → ∀ n up, n < 12 → ∃ t, exec (.portLinkChange n up) s = .next t ∧ pkgOnly t ∧
    ∀ j, j < 12 → t.pkg.ports.getLsbD j = if j = n then up else s.pkg.ports.getLsbD j) ∧
  (s.pkg.frozen = false → ∀ (v : Word),
    (∃ t, exec (.registerWrite 0 v) s = .next t ∧ pkgOnly t ∧ t.pkg = { s.pkg with ctxtab := v.toNat / 4096 * 4096 % 2 ^ 48 }) ∧
    (∃ t, exec (.registerWrite 8 v) s = .next t ∧ pkgOnly t ∧ t.pkg = { s.pkg with ctxn := v.toNat % 65536 }) ∧
    (v ≠ 0x5741524D → v ≠ 0x434F4C44 → exec (.registerWrite 16 v) s = .next s) ∧
    exec (.registerWrite 16 0x5741524D) s = exec .warmStart s ∧ exec (.registerWrite 16 0x434F4C44) s = exec .coldStart s ∧
    ∀ r, (r < 32 → ∃ t1 t2 t3 t4, let at_ := fun n => 0x10000 + 0x100 * r + n
        exec (.registerWrite (at_ 0) v) s = .next t1 ∧ t1.ring r = { s.ring r with base := v.toNat / 4096 * 4096 % 2 ^ 48 } ∧
        exec (.registerWrite (at_ 8) v) s = .next t2 ∧
          t2.ring r = { s.ring r with cfg := v.toNat % 32 + v.toNat / 256 % 4 * 256 + v.toNat / 65536 % 2 * 65536 + v.toNat / 2 ^ 20 % 32 * 2 ^ 20 } ∧
        exec (.registerWrite (at_ 0x18) v) s = .next t3 ∧
          ((s.ring r).cfg / 256 % 4 ≠ 1 ∨ s.pkg.posted = [] → t3.ring r = { s.ring r with tail := v.toNat % 65536 }) ∧
        exec (.registerWrite (at_ 0x20) v) s = .next t4 ∧ t4.ring r = { s.ring r with rej := v.toNat } ∧
        exec (.registerWrite (at_ 0x10) v) s = .next s ∧ pkgOnly t1 ∧ pkgOnly t2 ∧
        ((s.ring r).cfg / 256 % 4 ≠ 1 ∨ s.pkg.posted = [] → pkgOnly t3) ∧ pkgOnly t4) ∧
      (r < 32 → (s.ring r).cfg / 256 % 4 = 1 → ∀ p rest e, s.pkg.posted = p :: rest →
        applyPosted { s with pkg := { s.pkg with posted := s.pkg.posted ++ [.tail r v.toNat] } } p = .error e →
        exec (.registerWrite (0x10000 + 0x100 * r + 0x18) v) s =
          .next (e.waitsAs .host { s with pkg := { s.pkg with posted := s.pkg.posted ++ [.tail r v.toNat] } })) ∧
      (r < 16 → ∃ t1, exec (.registerWrite (0x20000 + 0x100 * r + 0x18) v) s = .next t1 ∧
        t1.fring r = { s.fring r with tail := v.toNat } ∧ pkgOnly t1 ∧
        exec (.registerWrite (0x20000 + 0x100 * r + 0x20) v) s =
          exec (if v.toNat.testBit 32 then .frespAbort (v.toNat % 2 ^ 32) else .frespRetry (v.toNat % 2 ^ 32)) s)) ∧
  (s.pkg.frozen = false → ∀ pa, pa < Config.memTop →
    (∀ b s1, s.pkg.posted = [] → applyPosted { s with pkg := { s.pkg with posted := [.bytes pa [b]] } } (.bytes pa [b]) = .ok s1 → ∃ l,
      exec (.hostBar2Access pa (some [b]) 0) s = .next { s1 with pkg := { s1.pkg with posted := [] } } ∧
      fmFind (s1.slice (lineHome (pa / 128))).lines (pa / 128) = some l ∧ lineTake l.data (pa % 128) 1 = b.toNat) ∧
    (∀ bs p rest e, pa + bs.length ≤ Config.memTop → s.pkg.posted = p :: rest →
      applyPosted { s with pkg := { s.pkg with posted := s.pkg.posted ++ [.bytes pa bs] } } p = .error e →
      exec (.hostBar2Access pa (some bs) 0) s =
        .next (e.waitsAs .host { s with pkg := { s.pkg with posted := s.pkg.posted ++ [.bytes pa bs] } })) ∧
    (∀ n s1 bs, pa + n ≤ Config.memTop → s.pkg.posted = [] → hostRead pa n { s with pkg := { s.pkg with posted := [.read pa n] } } = .ok (s1, bs) →
      exec (.hostBar2Access pa none n) s = .next { s1 with pkg := { s1.pkg with hostRead := bs, posted := [] } }) ∧
    (∀ n p rest e, pa + n ≤ Config.memTop → s.pkg.posted = p :: rest →
      applyPosted { s with pkg := { s.pkg with posted := s.pkg.posted ++ [.read pa n] } } p = .error e →
      exec (.hostBar2Access pa none n) s =
        .next (e.waitsAs .host { s with pkg := { s.pkg with posted := s.pkg.posted ++ [.read pa n] } }))) ∧
  (s.pkg.frozen = false → secondWarp s = none → ∀ off rest, step { s with agenda := .windowRead off :: rest } =
    .next { s with agenda := rest, pkg := { s.pkg with hostRead := (bytesLE (windowRead s off) 8).map (fun b => (b, false)) } }) ∧
  (windowRead s 0 = s.pkg.ctxtab ∧ windowRead s 8 = s.pkg.ctxn ∧ windowRead s 16 = 0 ∧
    (∀ r, r < 32 → windowRead s (0x10000 + 0x100 * r) = (s.ring r).base ∧ windowRead s (0x10000 + 0x100 * r + 8) = (s.ring r).cfg ∧
      windowRead s (0x10000 + 0x100 * r + 0x10) = (s.ring r).head ∧ windowRead s (0x10000 + 0x100 * r + 0x18) = (s.ring r).tail ∧
      windowRead s (0x10000 + 0x100 * r + 0x20) = (s.ring r).rej) ∧
    ∀ i, i < 16 → windowRead s (0x20000 + 0x100 * i + 0x20) = 0 ∧ windowRead s (0x20000 + 0x100 * i + 0x10) = (s.fring i).head ∧
      windowRead s (0x20000 + 0x100 * i + 0x28) = (s.fring i).stat)

/-! ## Steps, words, choice -/

/-- A step runs the decoded instruction (R15, R19, R85, R88): where the warp that issues next has the line of its candidate's PC in its fetch buffer
and the word there decodes to i, the step is `exec` of i with the cursor at that PC, word and active set, the candidate counted as tried in this
cycle, the quad's other eligible warps as passed over (R86), and the pair decided; so is the machine's own step where the agenda is empty. The second
slot of a pair comes at once after its first, whatever the agenda holds. An event of the agenda runs as it stands, that of an engine that reaches
banks after what the warps have due there, and in the order of the units (R230). What the agenda is, what a turn of it skips, and that an event out of
the order of units waits for a later cycle are the model's choices (logs 41 and 51). -/
def Obligations.StepRunsInstruction : Prop :=
  (∀ (s : State) (key : Nat) (w : Warp) (c : Crew) (pc : Word) (act : Mask) (word : IWord) (i : Instr),
    s.warp key = some w → s.crewSeen w.crew = some c → secondWarp s = none → candidate c w = some (pc, act) → pcNamesSlot pc = true →
    wordAt w pc = some word → decode word = .ok i →
    let ready := fun (s : State) => { s.setWarp key { w with tried := some s.cycle, pairNext := none } with
      cur := { key := key, pc := pc, word := word, act := act } }
    (∀ rest, s.agenda = .issue key :: rest → mayIssue s key = true →
      step s = exec i (withPair exec (markSeen (ready { s with agenda := rest }) key))) ∧
    (s.agenda = [] → (∀ e ∈ s.warps, needsLine s e.1 e.2 = false) → nextIssue s = some key → step s = exec i (withPair exec (markSeen (ready s) key)))) ∧
  (∀ (s : State) (key : Nat) (w : Warp) (pc : Word) (act : Mask) (word : IWord) (i : Instr),
    secondWarp s = some key → s.warp key = some w → secondSlot s w = some (pc, act) → wordAt w pc = some word → decode word = .ok i →
    step s = exec i { s.setWarp key { w with tried := none } with cur := { key := key, pc := pc, word := word, act := act } }) ∧
  (∀ (s : State) (e : Instr) (rest : List Turn), secondWarp s = none → s.agenda = .event e :: rest → encode e = none → s.pkg.frozen = false →
    let s1 := { s with agenda := rest }
    (bankEngine s e = none → step s = exec e s1) ∧
    (∀ u, bankEngine s e = some u → banksDue s = false → nextIssue s = none →
      (¬ (s.lastEngine.1 = s.cycle ∧ u < s.lastEngine.2) → step s = exec e { s1 with lastEngine := (s.cycle, u) }) ∧
      (s.lastEngine.1 = s.cycle → u < s.lastEngine.2 → step s = .next (match e with
        | .packetReceive k => { s1 with pkg := { s.pkg with inbox := s.pkg.inbox ++ [k] } }
        | _ => s1))))

/-- Words written out bit by bit from R22 and R34 decode to the instructions that they stand for; a word of an opcode that R43 reserves (0x03F and
0x1EF), of function 3 of CSRW or COLL (R174, R458), or of function 3 of MSTEP (R285) decodes to none. -/
def Obligations.DecodedWords : Prop :=
  decode (0x001#12 ++ 3#4 ++ 6#4 ++ 1#1 ++ 0#2 ++ 7#4 ++ 15#4 ++ 0x005#9 ++ 0x02#8 ++ 0x010203000000#48) =
    .ok (.iadd ⟨1, 3, 6, 1, 0, 7, 15, 2⟩ ⟨1, 2, 3, 0, 0, 0⟩) ∧
  decode (0#12 ++ 0#4 ++ 0#4 ++ 0#1 ++ 0#2 ++ 7#4 ++ 7#4 ++ 0x0C0#9 ++ 0#8 ++ 0x00F0#16 ++ 0xFFFFFFFE#32) =
    .ok (.bra ⟨0, 0, 0, 0, 0, 7, 7, 0⟩ ⟨0, 0xF0, 0xFFFFFFFE⟩) ∧
  (∀ (w : IWord) (i : Instr), opcOf w = 0x03F ∨ opcOf w = 0x1EF ∨ ((opcOf w = 0x0CA ∨ opcOf w = 0x1C4) ∧ w.extractLsb' 48 2 = 3#2) ∨
    (opcOf w = 0x189 ∧ w.extractLsb' 0 2 = 3#2) → decode w ≠ .ok i) ∧
  decode (0#12 ++ 1#4 ++ 0#4 ++ 0#1 ++ 2#2 ++ 7#4 ++ 7#4 ++ 0x100#9 ++ 9#8 ++ 5#8 ++ 6#8 ++ 0x123#12 ++ 0x80000#20) =
    .ok (.ld ⟨0, 1, 0, 0, 2, 7, 7, 9⟩ ⟨5, 6, 0x123, 0x80000⟩)

/-- Decoding an encoded well-formed instruction gives it back, with every operand at every value, and every word that decodes is the encoding of what
it decodes to: each word has one meaning. -/
def Obligations.EncodingRoundTrip : Prop :=
  (∀ (i : Instr) (w : IWord), i.wellFormed = true → encode i = some w → decode w = .ok i) ∧
  (∀ (i : Instr) (w : IWord), decode w = .ok i → encode i = some w)

/-- After package reset a register that the spec gives a reset value holds it: every row of every pool is free, no deadlock, wake or error is
recorded, MCFG's format is 0x0B, no snapshot, plan, ring or connection is in use (R212, R219, R223, R286, R302, R324, R405, R466); memory has its canonical form.
That memory lists nothing, and the values of the rings, the fault rings, the connections and the debug state, to which the spec gives none, are the
model's choices (logs 1, 2 and 35). -/
def Obligations.ResetValues : Prop :=
  (∀ c, (State.reset.core c).poolFree = 2048 ∧ (State.reset.core c).deadlk = 0 ∧ (State.reset.core c).waker = 0 ∧
    (State.reset.core c).claims = []) ∧
  (∀ c, (State.reset.cluster c).mxerr = 0 ∧ (State.reset.cluster c).cpyerr = 0 ∧ (State.reset.cluster c).fmt = 0x0B ∧
    (State.reset.cluster c).cmds = [] ∧ (State.reset.cluster c).halted = false) ∧
  (∀ i, (State.reset.snap i).active = false ∧ State.reset.plan? i = none ∧ State.reset.warp i = none ∧ State.reset.crew i = none) ∧
  (∀ r, (State.reset.ring r).cfg = 0 ∧ (State.reset.ring r).rej = 0 ∧ (State.reset.fring r).cfg = 0 ∧ (State.reset.fring r).stat = 0) ∧
  (∀ n, (State.reset.conn n).failed = false ∧ (State.reset.conn n).unacked = [] ∧ (State.reset.conn n).flying = [] ∧
    (State.reset.conn n).seen = [] ∧ (State.reset.conn n).next = 0) ∧
  State.reset.pkg.frozen = false ∧ State.reset.pkg.debug = false ∧ State.reset.mem.wf = true

/-- A PC is a fetch line's byte address plus a slot number; after slot i of line A the next sequential PC is A + i + 1 when i is below 4, and A + 0x40 when
i is 4 (R16). -/
def Obligations.NextProgramCounter : Prop := ∀ (a : Word) (i : Nat), a.toNat % 64 = 0 → a.toNat < 2 ^ 52 → i < 5 →
  let pc := a + BitVec.ofNat 64 i
  pcNamesSlot pc = true ∧ pc.extractLsb' 3 3 = 0 ∧ pc.extractLsb' 52 12 = 0 ∧ pcLine pc = a.toNat ∧ pc.toNat % 8 = i ∧
  nextPc pc = if i < 4 then a + BitVec.ofNat 64 (i + 1) else a + 0x40

/-- A warp's candidate is the one at the PC of one run of its live threads: the run at the lowest PC while the largest skip count is below 32, else the
run of the thread with the largest count, at the lowest PC among several; every live thread at that PC is in the active set, and no other run is tried
in a cycle in which the candidate cannot issue (R88). -/
def Obligations.CandidateRun : Prop :=
  (∀ (c : Crew) (w : Warp) (pc : Word) (act : Mask), c.preempt = none → candidate c w = some (pc, act) →
    let live := fun (l : Nat) => l < 32 ∧ w.pt.live.getLsbD l = true
    let skip := fun (l : Nat) => w.pt.skips.getD l 0
    (∀ l, l < 32 → act.getLsbD l = (w.pt.live.getLsbD l && pcLane w l == pc)) ∧ act ≠ 0 ∧
    ((∀ l, live l → skip l < 32) → ∀ l, live l → pc.toNat ≤ (pcLane w l).toNat) ∧
    ((∃ l, live l ∧ 32 ≤ skip l) → (∃ l, live l ∧ pcLane w l = pc ∧ ∀ j, live j → skip j ≤ skip l) ∧
      ∀ l, live l → (∀ j, live j → skip j ≤ skip l) → pc.toNat ≤ (pcLane w l).toNat)) ∧
  (∀ (c : Crew) (w : Warp), c.preempt = none → (candidate c w = none ↔ w.pt.live = 0)) ∧
  (∀ (s : State) (key : Nat), eligible s key = false → secondWarp s = none → mayIssue s key = false) ∧
  (∀ (s : State) (key : Nat) (i : Instr) (t : State), prepare s key = .first i t → ∃ w c, s.warp key = some w ∧ s.crewSeen w.crew = some c ∧
    candidate c w = some (t.cur.pc, t.cur.act))

/-- Accesses of the banks (R229, R243, R247, R248). A store leaves in each element its data and in every other byte what was there; a load returns what each
element held, extended, and changes nothing; an atomic returns the old value and leaves the operation's result, and the lanes of an atomic act one after
another, so that lanes at one word each find what the lane before left. RED and REDS combine the lanes of one address in lane order and apply one
operation there, and return nothing. At its COMPLETION the access is performed, what it returns stands in the registers that the instruction
writes, and each write of a lane releases the AWAITs of its word whose generation has gone by (R249). -/
def Obligations.BankResults : Prop := ∀ (c : Crew) (m : MemOp),
  let sg := m.ety < 4
  let t := (etyOf m.ety).getD .n64
  (m.kind = .store → (bankOp c m).2 = [] ∧ { (bankOp c m).1 with sp := [], spBad := [] } = { c with sp := [], spBad := [] } ∧
    (∀ a, (∀ e ∈ m.els, a < e.pa ∨ e.pa + m.size ≤ a) → memGet (bankOp c m).1.sp a = memGet c.sp a) ∧
    (m.els.Pairwise (fun x y => x.pa + m.size ≤ y.pa ∨ y.pa + m.size ≤ x.pa) →
      ∀ e ∈ m.els, spRead (bankOp c m).1 e.pa m.size = e.data % 2 ^ (8 * m.size))) ∧
  (∀ sink, m.kind = .load sink → (bankOp c m).1 = c ∧ (bankOp c m).2.map (fun o => (o.1, o.2.lane)) =
    m.els.map (fun e => (e.idx, loadLane sg m.size (spRead c e.pa m.size) (spBadAt c e.pa m.size)))) ∧
  (∀ k e, m.kind = .atom k → m.els = [e] → spBadAt c e.pa m.size = false →
    (bankOp c m).2.map (fun o => (o.1, o.2.lane, o.2.pval)) = [(e.idx, loadLane sg m.size (spRead c e.pa m.size) false,
      (atomApply k t (spRead c e.pa m.size) e.data e.expect).2)] ∧
    (∀ o, k = .op o → spRead (bankOp c m).1 e.pa m.size = atomValue o t (spRead c e.pa m.size) e.data % 2 ^ (8 * m.size)) ∧
    (k = .cas → spRead (bankOp c m).1 e.pa m.size =
      if spRead c e.pa m.size = e.expect then e.data % 2 ^ (8 * m.size) else spRead c e.pa m.size) ∧
    (∀ a, a < e.pa ∨ e.pa + m.size ≤ a → memGet (bankOp c m).1.sp a = memGet c.sp a)) ∧
  (∀ k xs ys, m.kind = .atom k → m.els = xs ++ ys →
    let r := bankOp c { m with els := xs }
    (bankOp c m).1 = (bankOp r.1 { m with els := ys }).1 ∧ (bankOp c m).2.map (fun o => (o.1, o.2.lane, o.2.pval, o.2.ppoi)) =
      (r.2 ++ (bankOp r.1 { m with els := ys }).2).map (fun o => (o.1, o.2.lane, o.2.pval, o.2.ppoi))) ∧
  (∀ o, m.kind = .red o → (bankOp c m).2 = [] ∧
    (∀ a, (∀ e ∈ m.els, a < e.pa ∨ e.pa + m.size ≤ a) → memGet (bankOp c m).1.sp a = memGet c.sp a) ∧
    ((∀ x ∈ m.els, ∀ y ∈ m.els, x.pa = y.pa ∨ x.pa + m.size ≤ y.pa ∨ y.pa + m.size ≤ x.pa) → ∀ pa x rest,
      m.els.filter (fun e => e.pa = pa) = x :: rest → spBadAt c pa m.size = false → spRead (bankOp c m).1 pa m.size =
        atomValue o t (spRead c pa m.size) (rest.foldl (fun v y => atomValue o t v y.data) x.data) % 2 ^ (8 * m.size))) ∧
  (∀ (s : State) (unit slot crew : Nat) (w : Warp) (o : Crew) (p : Pend), let key := unit * 32 + slot
    s.warp key = some w → s.crew w.crew = some o → o.ending = none → s.crew crew = some c → findPend w p.op = some p → p.late = .banks m →
    m.space = .scratch crew → p.ready ≤ s.cycle → s.pkg.frozen = false → s.faults.any (fun f => f.waiter = .access key p.op) = false →
    scratchBusy w p.op = false → bankTurn s key p = true → quadFirst s key p = false → p.op ∉ w.restoring → ∃ s2 v, exec (.completion unit slot p.op) s = .next (match m.kind with
        | .load _ => s2
        | _ => afterScratch s2 crew) ∧ s2.crew crew = some (bankOp c m).1 ∧ (∀ k, k ≠ crew → s2.crew k = s.crew k) ∧ s2.warp key = some v ∧
      v.regs = w.regs ∧ v.pt = w.pt ∧
      { (bankOp c m).2.foldl (fun p o => putLane p m.pair o.1 o.2) p with late := .done, ready := max p.ready (s.cycle + 1) } ∈ v.pend ∧
      (bankSteps c m = [] → ∀ k, k ≠ key → s2.warp k = s.warp k) ∧
      (∀ k, k ≠ key → (s2.warp k).map (fun w => { w with pend := [] }) = (s.warp k).map (fun w => { w with pend := [] })) ∧
      (∀ k g e, (∃ d ∈ bankSteps c m, awGen (spRead d e.pa 8) ≠ g) → ∀ y, s2.warp k = some y → ∀ r ∈ y.pend, ∀ els,
        r.late = .await crew g els → e ∉ els) ∧ s2.mem = s.mem)

/-- Once every clock has stopped, which is within 8 cycles of the edge, a frozen package keeps every array and register (R469): no turn of the
agenda but a reset or an unlock changes anything, whatever it asks for, and the package stays frozen. The twelve clocks, and what still
advances between the edge and the stop of its clock, are the model's choices (log 35). -/
def Obligations.FrozenStays : Prop :=
  (∀ (s : State) (t0 : Nat), s.pkg.edge = some t0 → (∀ n ∈ s.pkg.stops, n ≤ 8) → t0 + 8 ≤ s.cycle → allStopped s = true) ∧
  (∀ (s0 s t : State), s.pkg.frozen = true → allStopped s = true → { s with agenda := [] } = { s0 with agenda := [] } →
    (∀ e, .event e ∈ s.agenda → whileFrozen e = false) → step s = .next t →
    t.pkg.frozen = true ∧ allStopped t = true ∧ { t with agenda := [] } = { s0 with agenda := [] } ∧ ∀ e, .event e ∈ t.agenda → whileFrozen e = false)

end Statements
end

