-- ==== Sys2Proof/Laws/FMap.lean ====
section
/-! SUPPORT. Laws of sparse tables and of byte memory: a read after a write, and the canonical form that every write keeps. -/

namespace Sys2Proof.Machine

@[simp] theorem fmFind_nil {α : Type} (k : Nat) : fmFind ([] : FMap α) k = none := rfl

theorem fmFind_cons {α : Type} (a : Nat) (v : α) (t : FMap α) (k : Nat) :
    fmFind ((a, v) :: t) k = if a = k then some v else fmFind t k := rfl

@[simp] theorem fmFind_fmPut_same {α : Type} (m : FMap α) (k : Nat) (v : α) : fmFind (fmPut m k v) k = some v := by
  induction m with
  | nil => simp [fmPut, fmFind]
  | cons e t ih =>
    obtain ⟨a, x⟩ := e
    simp only [fmPut]
    split
    · rename_i hlt
      simp [fmFind, Nat.ne_of_lt hlt, ih]
    · split <;> simp [fmFind]

theorem fmFind_fmPut_ne {α : Type} (m : FMap α) (k j : Nat) (v : α) (h : j ≠ k) : fmFind (fmPut m k v) j = fmFind m j := by
  induction m with
  | nil => simp [fmPut, fmFind, Ne.symm h]
  | cons e t ih =>
    obtain ⟨a, x⟩ := e
    simp only [fmPut]
    split
    · simp [fmFind, ih]
    · split
      · rename_i hk
        simp [fmFind, hk, Ne.symm h]
      · simp [fmFind, Ne.symm h]

theorem fmFind_fmPut {α : Type} (m : FMap α) (k j : Nat) (v : α) :
    fmFind (fmPut m k v) j = if j = k then some v else fmFind m j := by
  split
  · rename_i h; subst h; simp
  · exact fmFind_fmPut_ne m k j v ‹_›

theorem fmGet_fmPut {α : Type} (d : α) (m : FMap α) (k j : Nat) (v : α) :
    fmGet d (fmPut m k v) j = if j = k then v else fmGet d m j := by
  simp only [fmGet, fmFind_fmPut]
  split <;> rfl

@[simp] theorem fmGet_fmPut_same {α : Type} (d : α) (m : FMap α) (k : Nat) (v : α) : fmGet d (fmPut m k v) k = v := by
  simp [fmGet_fmPut]

theorem fmFind_fmErase {α : Type} (m : FMap α) (k j : Nat) :
    fmFind (fmErase m k) j = if j = k then none else fmFind m j := by
  induction m with
  | nil => simp [fmErase]
  | cons e t ih =>
    obtain ⟨a, x⟩ := e
    by_cases ha : a = k
    · simp only [fmErase, List.filter_cons, ha, bne_self_eq_false, Bool.false_eq_true, if_false]
      simp only [fmErase] at ih
      rw [ih, fmFind_cons]
      by_cases hj : j = k
      · simp [hj]
      · simp [hj, Ne.symm hj]
    · have hb : (a != k) = true := by simp [ha]
      simp only [fmErase, List.filter_cons, hb, if_true, fmFind_cons]
      simp only [fmErase] at ih
      rw [ih]
      by_cases hj : j = k
      · subst hj; simp [ha]
      · simp [hj]

/-- A byte read after a byte write (R4). -/
theorem memGet_memSet (m : Memory) (a j : Nat) (b : Byte) : memGet (memSet m a b) j = if j = a then b else memGet m j := by
  unfold memGet memSet fmSet
  split
  · rename_i hb
    simp only [fmGet, fmFind_fmErase]
    split
    · simp [hb]
    · rfl
  · exact fmGet_fmPut _ _ _ _ _

/-! ## The canonical form -/

theorem fmSorted_cons {α : Type} (a : Nat × α) (t : FMap α) :
    fmSorted (a :: t) = true ↔ (∀ e ∈ t, a.1 < e.1) ∧ fmSorted t = true := by
  induction t generalizing a with
  | nil => simp [fmSorted]
  | cons b t ih =>
    simp only [fmSorted, Bool.and_eq_true, decide_eq_true_eq, List.mem_cons, forall_eq_or_imp]
    rw [ih b]
    constructor
    · rintro ⟨h1, h2, h3⟩
      exact ⟨⟨h1, fun e he => Nat.lt_trans h1 (h2 e he)⟩, h2, h3⟩
    · rintro ⟨⟨h1, _⟩, h2, h3⟩
      exact ⟨h1, h2, h3⟩

theorem fmPut_mem {α : Type} (m : FMap α) (k : Nat) (v : α) (e : Nat × α) (h : e ∈ fmPut m k v) : e = (k, v) ∨ e ∈ m := by
  induction m with
  | nil => simp [fmPut] at h; exact Or.inl h
  | cons f t ih =>
    obtain ⟨a, x⟩ := f
    simp only [fmPut] at h
    split at h
    · rcases List.mem_cons.mp h with h | h
      · exact Or.inr (List.mem_cons.mpr (Or.inl h))
      · rcases ih h with h | h
        · exact Or.inl h
        · exact Or.inr (List.mem_cons.mpr (Or.inr h))
    · split at h
      · rcases List.mem_cons.mp h with h | h
        · exact Or.inl h
        · exact Or.inr (List.mem_cons.mpr (Or.inr h))
      · rcases List.mem_cons.mp h with h | h
        · exact Or.inl h
        · exact Or.inr h

theorem fmSorted_fmPut {α : Type} (m : FMap α) (k : Nat) (v : α) (h : fmSorted m = true) : fmSorted (fmPut m k v) = true := by
  induction m with
  | nil => simp [fmPut, fmSorted]
  | cons e t ih =>
    obtain ⟨a, x⟩ := e
    have hc := (fmSorted_cons _ _).mp h
    simp only [fmPut]
    split
    · rename_i hlt
      refine (fmSorted_cons _ _).mpr ⟨fun e he => ?_, ih hc.2⟩
      rcases fmPut_mem t k v e he with he | he
      · rw [he]; exact hlt
      · exact hc.1 e he
    · split
      · rename_i heq
        exact (fmSorted_cons _ _).mpr ⟨fun e he => by have := hc.1 e he; simp only at this ⊢; omega, hc.2⟩
      · rename_i h1 h2
        refine (fmSorted_cons _ _).mpr ⟨fun e he => ?_, h⟩
        rcases List.mem_cons.mp he with he | he
        · rw [he]; simp only; omega
        · have := hc.1 e he; simp only at this ⊢; omega

theorem fmSorted_filter {α : Type} (m : FMap α) (p : Nat × α → Bool) (h : fmSorted m = true) : fmSorted (m.filter p) = true := by
  induction m with
  | nil => simp [fmSorted]
  | cons e t ih =>
    have hc := (fmSorted_cons _ _).mp h
    rw [List.filter_cons]
    split
    · exact (fmSorted_cons _ _).mpr ⟨fun f hf => hc.1 f (List.mem_filter.mp hf).1, ih hc.2⟩
    · exact ih hc.2

theorem wf_iff (m : Memory) : m.wf = true ↔ fmSorted m = true ∧ ∀ e ∈ m, e.2 ≠ memDefault := by
  simp [Memory.wf]

/-- Writing a byte keeps the canonical form. -/
theorem wf_memSet (m : Memory) (a : Nat) (b : Byte) (h : m.wf = true) : (memSet m a b).wf = true := by
  rw [wf_iff] at h ⊢
  unfold memSet fmSet
  split
  · exact ⟨fmSorted_filter _ _ h.1, fun e he => h.2 e (List.mem_filter.mp he).1⟩
  · rename_i hb
    refine ⟨fmSorted_fmPut _ _ _ h.1, fun e he => ?_⟩
    rcases fmPut_mem _ _ _ _ he with he | he
    · rw [he]; exact hb
    · exact h.2 e he

/-- Writing a number keeps the canonical form. -/
theorem wf_memWrite (m : Memory) (a v n : Nat) (h : m.wf = true) : (memWrite m a v n).wf = true := by
  induction n generalizing a v with
  | zero => exact h
  | succ n ih => exact wf_memSet _ _ _ (ih _ _)

/-- Removing entries keeps the canonical form. -/
theorem wf_filter (m : Memory) (p : Nat × Byte → Bool) (h : m.wf = true) : Memory.wf (m.filter p) = true := by
  rw [wf_iff] at h ⊢
  exact ⟨fmSorted_filter _ _ h.1, fun e he => h.2 e (List.mem_filter.mp he).1⟩

end Sys2Proof.Machine
end

