-- ==== Sys2Proof/Laws/Ops.lean ====
section
/-! SUPPORT. What the shared operations of an issue do, each said once: reading after writing a register or a predicate, retiring an
instruction, and the whole effect of an instruction that issues. -/

namespace Sys2Proof.Machine

/-! ## Masks and rows -/

theorem maskUpTo_getLsbD (p : Nat → Bool) (n l : Nat) (hn : n ≤ 32) :
    (maskUpTo p n).getLsbD l = (decide (l < n) && p l) := by
  induction n with
  | zero => simp [maskUpTo]
  | succ n ih =>
    simp only [maskUpTo, BitVec.getLsbD_or, ih (by omega)]
    by_cases hl : l = n
    · subst hl
      by_cases hp : p l <;> simp [hp, BitVec.getLsbD_shiftLeft]; omega
    · by_cases hp : p n
      · simp only [hp, if_true, BitVec.getLsbD_shiftLeft, BitVec.getLsbD_one]
        by_cases h1 : l < n
        · simp [h1, show l < n + 1 by omega]
        · simp [h1, show ¬ (l < n + 1) by omega, show ¬ (l - n = 0) by omega]
      · simp only [hp, Bool.false_eq_true, if_false, BitVec.getLsbD_zero, Bool.or_false]
        by_cases h1 : l < n
        · simp [h1, show l < n + 1 by omega]
        · simp [h1, show ¬ (l < n + 1) by omega]

@[simp] theorem maskOf_getLsbD (p : Nat → Bool) (l : Nat) : (maskOf p).getLsbD l = (decide (l < 32) && p l) :=
  maskUpTo_getLsbD p 32 l (Nat.le_refl _)

theorem rowGet_mkRow (f : Nat → Lane) (l : Nat) (h : l < 32) : rowGet (mkRow f) l = f l := by
  simp [rowGet, mkRow, List.getD_eq_getElem?_getD, h]

theorem rowGet_rowSet (r : Row) (m : Mask) (f : Nat → Lane) (l : Nat) (h : l < 32) :
    rowGet (rowSet r m f) l = if m.getLsbD l then f l else rowGet r l := by
  simp [rowSet, rowGet_mkRow _ _ h]

theorem getD_range_map {α : Type} (f : Nat → α) (d : α) (l : Nat) (h : l < 32) :
    ((List.range 32).map f).getD l d = f l := by
  simp [List.getD_eq_getElem?_getD, h]

/-! ## Warps, quads and cores after an update -/

@[simp] theorem warp_setWarp_same (s : State) (k : Nat) (w : Warp) : (s.setWarp k w).warp k = some w := by
  simp [State.warp, State.setWarp]
theorem warp_setWarp_ne (s : State) (k j : Nat) (w : Warp) (h : j ≠ k) : (s.setWarp k w).warp j = s.warp j := by
  simp [State.warp, State.setWarp, fmFind_fmPut_ne _ _ _ _ h]
@[simp] theorem quad_setWarp (s : State) (k : Nat) (w : Warp) (q : Nat) : (s.setWarp k w).quad q = s.quad q := rfl
@[simp] theorem quad_setQuad_same (s : State) (k : Nat) (v : Quad) : (s.setQuad k v).quad k = v := by
  simp [State.quad, State.setQuad]
theorem quad_setQuad_ne (s : State) (k j : Nat) (v : Quad) (h : j ≠ k) : (s.setQuad k v).quad j = s.quad j := by
  simp [State.quad, State.setQuad, fmGet_fmPut, h]
@[simp] theorem warp_setQuad (s : State) (k : Nat) (v : Quad) (j : Nat) : (s.setQuad k v).warp j = s.warp j := rfl

theorem modWarp_some (s : State) (k : Nat) (w : Warp) (f : Warp → Warp) (h : s.warp k = some w) : s.modWarp k f = s.setWarp k (f w) := by
  simp [State.modWarp, h]

/-! ## Retiring an instruction -/

theorem warp_retire (s : State) (key : Nat) (w : Warp) (cur : Cursor) (h : Hdr) (info : Info) (floor : Nat) (exec : Mask) :
    (retire s key w cur h info floor exec).warp key = some (retired s w cur h info floor exec) :=
  warp_setWarp_same s key _

theorem warp_retire_ne (s : State) (key : Nat) (w : Warp) (cur : Cursor) (h : Hdr) (info : Info) (floor : Nat) (exec : Mask) (k : Nat) (hk : k ≠ key) :
    (retire s key w cur h info floor exec).warp k = s.warp k :=
  warp_setWarp_ne s key k _ hk

theorem quad_retire (s : State) (key : Nat) (w : Warp) (cur : Cursor) (h : Hdr) (info : Info) (floor : Nat) (exec : Mask) (q : Nat) :
    ((retire s key w cur h info floor exec).quad q).bank = (s.quad q).bank ∧
      (q ≠ keyQuad key → (retire s key w cur h info floor exec).quad q = s.quad q) := by
  by_cases hq : q = keyQuad key
  · subst hq
    refine ⟨?_, fun hn => absurd rfl hn⟩
    show (State.quad (State.setQuad (s.setWarp key _) (keyQuad key) _) (keyQuad key)).bank = _
    rw [quad_setQuad_same]
    rfl
  · have : (retire s key w cur h info floor exec).quad q = s.quad q := quad_setQuad_ne _ _ _ _ hq
    exact ⟨by rw [this], fun _ => this⟩

/-- A retired warp: an issue moves the PCs of the active set and its bookkeeping, and adds at most one entry to the list of incomplete
instructions. -/
theorem retired_fields (s : State) (w : Warp) (cur : Cursor) (h : Hdr) (info : Info) (floor : Nat) (exec : Mask) :
    let v := retired s w cur h info floor exec
    (v.kept = w.kept ∧ v.regs = w.regs ∧ v.preds = w.preds ∧ v.gens = w.gens ∧ v.genPoi = w.genPoi ∧ v.fpstat = w.fpstat ∧ v.flagsDue = w.flagsDue) ∧
    v.pt.live = w.pt.live ∧
    (∀ l, l < 32 → pcLane v l = if cur.act.getLsbD l then nextPc cur.pc else pcLane w l) ∧
    (∀ p ∈ w.pend, p ∈ v.pend) := by
  intro v
  by_cases hc : ((info.pipe != .m) && h.setf != 0) || (!(info.pipe != .m) && exec = 0)
  all_goals simp only [v, retired, hc, if_true, if_false, Bool.false_eq_true]
  · exact ⟨⟨rfl, rfl, rfl, rfl, rfl, rfl, rfl⟩, rfl,
      fun l hl => getD_range_map (fun l => if cur.act.getLsbD l then nextPc cur.pc else w.pt.pcs.getD l 0) 0 l hl,
      fun p hp => List.mem_append_left _ hp⟩
  · exact ⟨⟨rfl, rfl, rfl, rfl, rfl, rfl, rfl⟩, rfl,
      fun l hl => getD_range_map (fun l => if cur.act.getLsbD l then nextPc cur.pc else w.pt.pcs.getD l 0) 0 l hl,
      fun p hp => hp⟩

/-- Flags that nothing touches. -/
theorem flags_same {v w : Warp} {at' : Nat} (h : v.fpstat = w.fpstat) (hd : v.flagsDue = w.flagsDue) :
    v.fpstat = w.fpstat ∧ ∀ n, statNow v n = statSet (statNow w n) (if at' ≤ n then 0 else 0) := by
  refine ⟨h, fun n => ?_⟩
  simp [statNow, flagsBy, h, hd, statSet]

/-- Retiring an instruction advances the PCs of the active set and changes nothing but the bookkeeping of an issue. -/
theorem retire_changes (i : Instr) (h : Hdr) (s : State) (w : Warp) :
    ∃ v, (retire s s.cur.key w s.cur h (instrInfo i) (floorOf s.pkg.table i) (guardMask s w h s.cur.act)).warp s.cur.key = some v ∧
      Changes (issueCtx i h s w) (retire s s.cur.key w s.cur h (instrInfo i) (floorOf s.pkg.table i) (guardMask s w h s.cur.act)) v {} ∧
      Rest (issueCtx i h s w) (retire s s.cur.key w s.cur h (instrInfo i) (floorOf s.pkg.table i) (guardMask s w h s.cur.act)) s := by
  obtain ⟨⟨hf, h1, h2, h3, h4, h5, h6⟩, hl, hp, hk⟩ := retired_fields s w s.cur h (instrInfo i) (floorOf s.pkg.table i) (guardMask s w h s.cur.act)
  refine ⟨_, warp_retire _ _ _ _ _ _ _ _, ?_, ?_⟩
  · constructor
    · intro r l _
      simp only [regLane, Option.getD_none, issueCtx, h1, (quad_retire s s.cur.key w s.cur h _ _ _ _).1]
    · intro p l _ _; simp [predLane, predRow, h2, issueCtx]
    · intro l _; simp [genOf, h3, issueCtx]
    · intro l _; simp [h4, issueCtx]
    · intro l h32; exact hp l h32
    · exact flags_same h5 h6
    · exact hf
    · exact hl
    · exact fun p hp => ⟨p, hk p hp, rfl, rfl, rfl, rfl⟩
  · exact ⟨rfl, fun k hk => warp_retire_ne _ _ _ _ _ _ _ _ k hk, fun q hq => (quad_retire s s.cur.key w s.cur h _ _ _ q).2 hq⟩

/-! ## One effect after another -/

theorem getD_or {α : Type} (a b : Option α) (d : α) : (a.or b).getD d = a.getD (b.getD d) := by cases a <;> rfl

theorem Changes.tm {c : Ctx} {t : State} {v : Warp} {u : Update} (h : Changes c t v u) : v.tm = c.w.tm :=
  show v.kept.tm = c.w.kept.tm from congrArg Warp.tm h.frame

theorem clobberRegs_entries (ps : List Pend) (r : Nat) (m : Mask) (p : Pend) (h : p ∈ ps) :
    ∃ q ∈ clobberRegs ps r m, q.op = p.op ∧ q.late = p.late ∧ q.word = p.word ∧ q.ready = p.ready :=
  ⟨_, List.mem_map.mpr ⟨p, h, rfl⟩, rfl, rfl, rfl, rfl⟩

theorem clobberPreds_entries (ps : List Pend) (r : Nat) (m : Mask) (p : Pend) (h : p ∈ ps) :
    ∃ q ∈ clobberPreds ps r m, q.op = p.op ∧ q.late = p.late ∧ q.word = p.word ∧ q.ready = p.ready :=
  ⟨_, List.mem_map.mpr ⟨p, h, rfl⟩, rfl, rfl, rfl, rfl⟩

/-- Flags over flags. -/
theorem statSet_twice (w : Word) (a b : Flags) : statSet (statSet w a) b = statSet w (a ||| b) := by
  simp only [statSet, BitVec.setWidth_or, BitVec.or_assoc]

/-- Flags due in a cycle stand in FPSTAT from that cycle on. -/
theorem statNow_due (w : Warp) (at' n : Nat) (fl : Flags) :
    statNow { w with flagsDue := w.flagsDue ++ [(at', fl)] } n = statSet (statNow w n) (if at' ≤ n then fl else 0) := by
  simp only [statNow, flagsBy, List.foldl_append, List.foldl_cons, List.foldl_nil]
  split
  · rw [statSet_twice]
  · simp [statSet]

/-- A later effect sets its flags over those of the earlier ones. -/
theorem Changes.flags_then {c : Ctx} {t : State} {v v' : Warp} {u x : Update} (hC : Changes c t v u)
    (h : v'.fpstat = v.fpstat ∧ ∀ n, statNow v' n = statSet (statNow v n) (if c.s.cycle + c.floor ≤ n then x.flags else 0)) :
    v'.fpstat = c.w.fpstat ∧ ∀ n, statNow v' n = statSet (statNow c.w n) (if c.s.cycle + c.floor ≤ n then (u.then x).flags else 0) := by
  refine ⟨h.1.trans hC.flags.1, fun n => ?_⟩
  rw [h.2, hC.flags.2, statSet_twice]
  by_cases hn : c.s.cycle + c.floor ≤ n <;> simp [hn, Update.then]

/-- A register write: the lanes of the register that the byte names, and nothing else. -/
theorem changes_writeReg {c : Ctx} {t b : State} {v : Warp} {u : Update} (a : Byte) (m : Mask) (f : Nat → Lane)
    (hv : t.warp c.key = some v) (hC : Changes c t v u) (hR : Rest c t b) :
    ∃ v', (writeReg t c.key a m f).warp c.key = some v' ∧
      Changes c (writeReg t c.key a m f) v' (u.then { regs := onReg c.w a m f }) ∧ Rest c (writeReg t c.key a m f) b := by
  have htm := hC.tm
  have hid : regId v a.toNat = regId c.w a.toNat := by simp [regId, htm]
  by_cases ha : 240 ≤ a.toNat
  · have hw : writeReg t c.key a m f = t := by simp [writeReg, ha]
    rw [hw]
    refine ⟨v, hv, ⟨?_, ?_, ?_, ?_, ?_, ?_, hC.frame, hC.live, hC.pend⟩, hR⟩
    · intro r l hl
      simp [Update.then, onReg, show ¬ a.toNat < 240 by omega, hC.regs r l hl]
    · exact fun p l hp hl => hC.preds p l hp hl
    · exact fun l hl => hC.gens l hl
    · exact fun l hl => hC.genPoi l hl
    · exact fun l hl => hC.pcs l hl
    · exact hC.flags_then (flags_same rfl rfl)
  · by_cases hr : regId c.w a.toNat < 256
    · have hw : writeReg t c.key a m f = (t.setWarp c.key { v with pend := clobberRegs v.pend (regId c.w a.toNat) m }).setWarp c.key
          { v with
            pend := clobberRegs v.pend (regId c.w a.toNat) m
            regs := fmPut v.regs (regId c.w a.toNat) (rowSet (fmGet emptyRow v.regs (regId c.w a.toNat)) m f) } := by
        simp [writeReg, ha, hv, hid, storeReg, hr, State.modWarp]
      rw [hw]
      refine ⟨_, warp_setWarp_same _ _ _, ⟨?_, ?_, ?_, ?_, ?_, ?_, hC.frame, hC.live, ?_⟩, ⟨hR.state, ?_, fun q hq => hR.quads q hq⟩⟩
      · intro r l hl
        simp only [Update.then, getD_or, ← hC.regs r l hl]
        by_cases hx : r = regId c.w a.toNat
        · subst hx
          simp only [regLane, hr, if_true, fmGet_fmPut_same, rowGet_rowSet _ _ _ _ hl, onReg, show a.toNat < 240 by omega, true_and]
          split <;> rfl
        · simp [regLane, onReg, hx, fmGet_fmPut]
      · exact fun p l hp hl => hC.preds p l hp hl
      · exact fun l hl => hC.gens l hl
      · exact fun l hl => hC.genPoi l hl
      · exact fun l hl => hC.pcs l hl
      · exact hC.flags_then (flags_same rfl rfl)
      · intro p hp
        obtain ⟨q, hq, h1, h2, h3, h4⟩ := hC.pend p hp
        obtain ⟨q', hq', g1, g2, g3, g4⟩ := clobberRegs_entries v.pend (regId c.w a.toNat) m q hq
        exact ⟨q', hq', g1.trans h1, g2.trans h2, g3.trans h3, g4.trans h4⟩
      · intro k hk
        rw [warp_setWarp_ne _ _ _ _ hk, warp_setWarp_ne _ _ _ _ hk, hR.warps k hk]
    · have hw : writeReg t c.key a m f = (t.setWarp c.key { v with pend := clobberRegs v.pend (regId c.w a.toNat) m }).setQuad (keyQuad c.key)
          { t.quad (keyQuad c.key) with
            bank := fmPut (t.quad (keyQuad c.key)).bank (regId c.w a.toNat - 256)
              (rowSet (fmGet emptyRow (t.quad (keyQuad c.key)).bank (regId c.w a.toNat - 256)) m f) } := by
        simp [writeReg, ha, hv, hid, storeReg, hr]
      rw [hw]
      refine ⟨{ v with pend := clobberRegs v.pend (regId c.w a.toNat) m }, warp_setWarp_same _ _ _,
        ⟨?_, ?_, ?_, ?_, ?_, ?_, hC.frame, hC.live, ?_⟩, ⟨hR.state, ?_, ?_⟩⟩
      · intro r l hl
        simp only [Update.then, getD_or, ← hC.regs r l hl]
        by_cases hx : r = regId c.w a.toNat
        · subst hx
          simp only [regLane, hr, if_false, quad_setQuad_same, fmGet_fmPut_same, rowGet_rowSet _ _ _ _ hl, onReg,
            show a.toNat < 240 by omega, true_and]
          split <;> rfl
        · by_cases h2 : r < 256
          · simp [regLane, onReg, hx, h2]
          · simp [regLane, onReg, hx, h2, fmGet_fmPut, show ¬ (r - 256 = regId c.w a.toNat - 256) by omega]
      · exact fun p l hp hl => hC.preds p l hp hl
      · exact fun l hl => hC.gens l hl
      · exact fun l hl => hC.genPoi l hl
      · exact fun l hl => hC.pcs l hl
      · exact hC.flags_then (flags_same rfl rfl)
      · intro p hp
        obtain ⟨q, hq, h1, h2, h3, h4⟩ := hC.pend p hp
        obtain ⟨q', hq', g1, g2, g3, g4⟩ := clobberRegs_entries v.pend (regId c.w a.toNat) m q hq
        exact ⟨q', hq', g1.trans h1, g2.trans h2, g3.trans h3, g4.trans h4⟩
      · intro k hk
        rw [warp_setQuad, warp_setWarp_ne _ _ _ _ hk, hR.warps k hk]
      · intro q hq
        rw [quad_setQuad_ne _ _ _ _ hq, quad_setWarp, hR.quads q hq]

/-- A change of the cursor's warp that writes no register. -/
theorem changes_setWarp {c : Ctx} {t b : State} {v : Warp} {u : Update} (x : Update) (v' : Warp)
    (hC : Changes c t v u) (hR : Rest c t b) (hx : x.regs = fun _ _ => none)
    (hkept : v'.kept = v.kept) (hlive : v'.pt.live = v.pt.live) (hregs : v'.regs = v.regs)
    (hpreds : ∀ p l, p < 7 → l < 32 → predLane v' p l = (x.preds p l).getD (predLane v p l))
    (hgens : ∀ l, l < 32 → genOf v' l = (x.gens l).getD (genOf v l))
    (hgp : ∀ l, l < 32 → v'.genPoi.getLsbD l = (x.genPoi l).getD (v.genPoi.getLsbD l))
    (hpcs : ∀ l, l < 32 → pcLane v' l = (x.jumps l).getD (pcLane v l))
    (hflags : v'.fpstat = v.fpstat ∧ ∀ n, statNow v' n = statSet (statNow v n) (if c.s.cycle + c.floor ≤ n then x.flags else 0))
    (hpend : ∀ p ∈ v.pend, ∃ q ∈ v'.pend, q.op = p.op ∧ q.late = p.late ∧ q.word = p.word ∧ q.ready = p.ready) :
    Changes c (t.setWarp c.key v') v' (u.then x) ∧ Rest c (t.setWarp c.key v') b := by
  refine ⟨⟨?_, ?_, ?_, ?_, ?_, ?_, hkept.trans hC.frame, hlive.trans hC.live, ?_⟩, ⟨hR.state, ?_, fun q hq => hR.quads q hq⟩⟩
  · intro r l hl
    rw [show (u.then x).regs r l = u.regs r l by simp [Update.then, hx], ← hC.regs r l hl]
    simp [regLane, hregs]
  · intro p l hp hl
    rw [show (u.then x).preds p l = (x.preds p l).or (u.preds p l) from rfl, getD_or, ← hC.preds p l hp hl, hpreds p l hp hl]
  · intro l hl
    rw [show (u.then x).gens l = (x.gens l).or (u.gens l) from rfl, getD_or, ← hC.gens l hl, hgens l hl]
  · intro l hl
    rw [show (u.then x).genPoi l = (x.genPoi l).or (u.genPoi l) from rfl, getD_or, ← hC.genPoi l hl, hgp l hl]
  · intro l hl
    rw [show (u.then x).jumps l = (x.jumps l).or (u.jumps l) from rfl, getD_or, ← hC.pcs l hl, hpcs l hl]
  · exact hC.flags_then hflags
  · intro p hp
    obtain ⟨q, hq, h1, h2, h3, h4⟩ := hC.pend p hp
    obtain ⟨q', hq', g1, g2, g3, g4⟩ := hpend q hq
    exact ⟨q', hq', g1.trans h1, g2.trans h2, g3.trans h3, g4.trans h4⟩
  · intro k hk
    rw [warp_setWarp_ne _ _ _ _ hk, hR.warps k hk]

theorem keep_pend (ps : List Pend) : ∀ p ∈ ps, ∃ q ∈ ps, q.op = p.op ∧ q.late = p.late ∧ q.word = p.word ∧ q.ready = p.ready :=
  fun p hp => ⟨p, hp, rfl, rfl, rfl, rfl⟩

/-- Raising flags at completion: FPSTAT only, from that cycle on (R70). -/
theorem changes_raiseFlags {c : Ctx} {t b : State} {v : Warp} {u : Update} (fl : Flags)
    (hv : t.warp c.key = some v) (hC : Changes c t v u) (hR : Rest c t b) :
    ∃ v', (raiseFlags t c.key (c.s.cycle + c.floor) fl).warp c.key = some v' ∧
      Changes c (raiseFlags t c.key (c.s.cycle + c.floor) fl) v' (u.then { flags := fl }) ∧
      Rest c (raiseFlags t c.key (c.s.cycle + c.floor) fl) b := by
  have hw : raiseFlags t c.key (c.s.cycle + c.floor) fl =
      t.setWarp c.key { v with flagsDue := v.flagsDue ++ [(c.s.cycle + c.floor, fl)] } := modWarp_some _ _ _ _ hv
  rw [hw]
  exact ⟨_, warp_setWarp_same _ _ _, changes_setWarp _ _ hC hR rfl rfl rfl rfl (fun _ _ _ _ => rfl) (fun _ _ => rfl) (fun _ _ => rfl)
    (fun _ _ => rfl) ⟨rfl, fun n => statNow_due v _ n fl⟩ (keep_pend _)⟩

theorem predLane_storePred (w : Warp) (n : Nat) (m val poi : Mask) (p l : Nat) (hp : p < 7) (hn : n < 7) :
    predLane (storePred w n m val poi) p l =
      if p = n ∧ m.getLsbD l = true then (val.getLsbD l, poi.getLsbD l) else predLane w p l := by
  have h1 : predRow (storePred w n m val poi) p = if p = n then
      ⟨((predRow w n).val &&& ~~~m) ||| (val &&& m), ((predRow w n).poi &&& ~~~m) ||| (poi &&& m)⟩ else predRow w p := by
    simp only [predRow, storePred, show ¬ p = 7 by omega, if_false]
    rw [List.getD_eq_getElem?_getD, List.getElem?_map, List.getElem?_range hp]
    simp [show ¬ p = 7 by omega]
  simp only [predLane, h1]
  by_cases hpn : p = n
  · subst hpn
    simp only [if_true, true_and]
    by_cases hl : l < 32
    · cases hm : m.getLsbD l <;> simp [hm, hl, BitVec.getLsbD_or, BitVec.getLsbD_and, BitVec.getLsbD_not, -BitVec.getLsbD_eq_getElem]
    · simp [BitVec.getLsbD_of_ge _ _ (show 32 ≤ l by omega)]
  · simp [hpn]

/-- A predicate write: the lanes of the predicate that the byte names; p7 discards. -/
theorem changes_writePred {c : Ctx} {t b : State} {v : Warp} {u : Update} (a : Byte) (m val poi : Mask)
    (hv : t.warp c.key = some v) (hC : Changes c t v u) (hR : Rest c t b) :
    ∃ v', (writePred t c.key a m val poi).warp c.key = some v' ∧
      Changes c (writePred t c.key a m val poi) v' (u.then { preds := onPred a m (fun l => (val.getLsbD l, poi.getLsbD l)) }) ∧
      Rest c (writePred t c.key a m val poi) b := by
  by_cases ha : a.toNat < 248 ∨ a.toNat = 255
  · have hw : writePred t c.key a m val poi = t := by simp [writePred, ha]
    rw [hw]
    refine ⟨v, hv, ⟨fun r l hl => hC.regs r l hl, ?_, fun l hl => hC.gens l hl, fun l hl => hC.genPoi l hl, fun l hl => hC.pcs l hl, ?_,
      hC.frame, hC.live, hC.pend⟩, hR⟩
    · intro p l hp hl
      have : onPred a m (fun l => (val.getLsbD l, poi.getLsbD l)) p l = none := by
        unfold onPred; rw [if_neg]; omega
      simp [Update.then, this, hC.preds p l hp hl]
    · exact hC.flags_then (flags_same rfl rfl)
  · have h8 : a.toNat - 248 < 7 := by have := a.isLt; omega
    have hw : writePred t c.key a m val poi =
        t.setWarp c.key (storePred { v with pend := clobberPreds v.pend (a.toNat - 248) m } (a.toNat - 248) m val poi) := by
      simp only [writePred]
      rw [if_neg (by simpa using ha)]
      exact modWarp_some _ _ _ _ hv
    rw [hw]
    refine ⟨_, warp_setWarp_same _ _ _, changes_setWarp _ _ hC hR rfl rfl rfl rfl ?_ (fun _ _ => rfl) (fun _ _ => rfl) (fun _ _ => rfl)
      (flags_same rfl rfl) (clobberPreds_entries _ _ _)⟩
    · intro p l hp hl
      rw [predLane_storePred _ _ _ _ _ _ _ hp h8]
      simp only [onPred, show 248 ≤ a.toNat by omega, show a.toNat < 255 by have := a.isLt; omega, true_and]
      split <;> rfl

/-- New generator states in the lanes of a mask (R67). -/
theorem changes_setGens {c : Ctx} {t b : State} {v : Warp} {u : Update} (m : Mask) (f : Nat → Word)
    (hv : t.warp c.key = some v) (hC : Changes c t v u) (hR : Rest c t b) :
    ∃ v', (setGens t c.key m f).warp c.key = some v' ∧
      Changes c (setGens t c.key m f) v' (u.then { gens := fun l => if m.getLsbD l then some (f l) else none }) ∧
      Rest c (setGens t c.key m f) b := by
  have hw : setGens t c.key m f = t.setWarp c.key
      { v with gens := (List.range 32).map (fun l => if m.getLsbD l then f l else genOf v l) } := modWarp_some _ _ _ _ hv
  rw [hw]
  refine ⟨_, warp_setWarp_same _ _ _, changes_setWarp _ _ hC hR rfl rfl rfl rfl (fun _ _ _ _ => rfl) ?_ (fun _ _ => rfl)
    (fun _ _ => rfl) (flags_same rfl rfl) (keep_pend _)⟩
  intro l hl
  have h : genOf { v with gens := (List.range 32).map (fun l => if m.getLsbD l then f l else genOf v l) } l
      = if m.getLsbD l then f l else genOf v l :=
    getD_range_map (fun l => if m.getLsbD l then f l else genOf v l) 0 l hl
  rw [h]
  by_cases hm : m.getLsbD l = true <;> simp [hm]

/-! ## The whole effect of an instruction that issues -/

/-- Where i issues, and its body answers a state that holds `u` over the retired one, exec's answer is that state. -/
theorem issueWith_next {i : Instr} {h : Hdr} {s : State} {w : Warp} {early : Ctx → Bool} {extra : Ctx → Option Nat} {body : Ctx → State → Res}
    (hi : issuesWith i h s w early extra) (hm : (instrInfo i).pipe ≠ .m ∨ guardMask s w h s.cur.act ≠ 0) {t : State}
    (hb : body (issueCtx i h s w) (retire s s.cur.key w s.cur h (instrInfo i) (floorOf s.pkg.table i) (guardMask s w h s.cur.act)) = .ok t) :
    issueWith i h s early extra body = .next t := by
  obtain ⟨hw, hd⟩ := hi
  have hn : ¬ ((instrInfo i).pipe = .m ∧ guardMask s w h s.cur.act = 0) := by
    rintro ⟨h1, h2⟩
    rcases hm with hm | hm
    · exact hm h1
    · exact hm h2
  unfold issueWith
  simp only [hw]
  unfold issueCtx at hd hb
  rw [hd]
  simp only
  rw [if_neg (by simpa using hn), hb]

/-- The same effect under another name. -/
theorem Changes.congr {c : Ctx} {t : State} {v : Warp} {u x : Update} (h : Changes c t v u) (e : u = x) : Changes c t v x := e ▸ h

/-- Where the body of a fixed-latency instruction turns the retired state into one that holds `u`, the instruction gives `u`. -/
theorem givesWith_body {i : Instr} {h : Hdr} {s : State} {early : Ctx → Bool} {extra : Ctx → Option Nat} {body : Ctx → State → Res}
    {u : Ctx → Update} {b : Ctx → State} (he : exec i s = issueWith i h s early extra body)
    (hp : ∀ w, issuesWith i h s w early extra → ((instrInfo i).pipe == .m) = false ∨ guardMask s w h s.cur.act ≠ 0)
    (hb : ∀ w, issuesWith i h s w early extra → ∀ s1 v0, s1.warp s.cur.key = some v0 → Changes (issueCtx i h s w) s1 v0 {} →
      Rest (issueCtx i h s w) s1 s →
      ∃ t v, body (issueCtx i h s w) s1 = .ok t ∧ t.warp s.cur.key = some v ∧ Changes (issueCtx i h s w) t v (u (issueCtx i h s w)) ∧
        Rest (issueCtx i h s w) t (b (issueCtx i h s w))) :
    GivesWith i h s early extra u b := by
  intro w hi
  obtain ⟨v0, hv0, hC0, hR0⟩ := retire_changes i h s w
  obtain ⟨t, v, h1, h2, h3, h4⟩ := hb w hi _ v0 hv0 hC0 hR0
  exact ⟨t, v, he.trans (issueWith_next hi ((hp w hi).imp (fun hq => by simpa using hq) id) h1), h2, h3, h4⟩

theorem gives_body {i : Instr} {h : Hdr} {s : State} {body : Ctx → State → Res} {u : Ctx → Update}
    (he : exec i s = issue i h s body) (hp : ((instrInfo i).pipe == .m) = false)
    (hb : ∀ w, issues i h s w → ∀ s1 v0, s1.warp s.cur.key = some v0 → Changes (issueCtx i h s w) s1 v0 {} → Rest (issueCtx i h s w) s1 s →
      ∃ t v, body (issueCtx i h s w) s1 = .ok t ∧ t.warp s.cur.key = some v ∧ Changes (issueCtx i h s w) t v (u (issueCtx i h s w)) ∧
        Rest (issueCtx i h s w) t s) :
    Gives i h s u :=
  givesWith_body he (fun _ _ => Or.inl hp) hb

/-- An instruction that writes one register from lane results gives exactly them (R70, R72), whatever its operands. -/
theorem gives_issueLanes {i : Instr} {h : Hdr} {b : Byte} {s : State} {f : Ctx → Nat → LaneRes} {u : Ctx → Update}
    (he : exec i s = issueLanes i h b s f) (hp : ((instrInfo i).pipe == .m) = false) (hu : ∀ c, u c = laneUpdate c b (f c)) :
    Gives i h s u := by
  refine gives_body he hp (fun w _ s1 v0 hv0 hC0 hR0 => ?_)
  obtain ⟨v1, hv1, hC1, hR1⟩ := changes_writeReg b (issueCtx i h s w).exec (fun l => (f (issueCtx i h s w) l).lane) hv0 hC0 hR0
  obtain ⟨v2, hv2, hC2, hR2⟩ := changes_raiseFlags
    ((lanesOf (issueCtx i h s w).exec).foldl (fun fl l => fl ||| (f (issueCtx i h s w) l).flags) 0) hv1 hC1 hR1
  exact ⟨_, v2, rfl, hv2, hC2.congr (by simp [Update.then, laneUpdate, hu]), hR2⟩

/-- A lane result without flags is a clean write. -/
theorem laneUpdate_clean (c : Ctx) (b : Byte) (f : Nat → LaneRes) (hf : ∀ l, (f l).flags = 0) :
    laneUpdate c b f = cleanUpdate c b (fun l => (f l).lane) := by
  simp [laneUpdate, cleanUpdate, hf]

/-- An instruction that writes one register from lane results without flags. -/
theorem gives_cleanLanes {i : Instr} {h : Hdr} {b : Byte} {s : State} {f : Ctx → Nat → LaneRes} {g : Ctx → Nat → Lane}
    (he : exec i s = issueLanes i h b s f) (hp : ((instrInfo i).pipe == .m) = false) (hf : ∀ c l, (f c l).flags = 0)
    (hg : ∀ c l, (f c l).lane = g c l) : Gives i h s (fun c => cleanUpdate c b (g c)) :=
  gives_issueLanes he hp (fun c => by rw [laneUpdate_clean _ _ _ (hf c)]; simp [hg])

/-- An instruction that writes one register and raises no flag. -/
theorem gives_clean {i : Instr} {h : Hdr} {s : State} {b : Byte} {f : Ctx → Nat → Lane}
    (he : exec i s = issue i h s (fun c s1 => .ok (writeClean c s1 b (f c)))) (hp : ((instrInfo i).pipe == .m) = false) :
    Gives i h s (fun c => cleanUpdate c b (f c)) := by
  refine gives_body he hp (fun w _ s1 v0 hv hC hR => ?_)
  obtain ⟨v1, hv1, hC1, hR1⟩ := changes_writeReg b (issueCtx i h s w).exec (f (issueCtx i h s w)) hv hC hR
  exact ⟨_, v1, rfl, hv1, hC1.congr (by simp [Update.then, cleanUpdate]), hR1⟩

/-- A predicate write in the participating lanes. -/
theorem changes_writePreds {c : Ctx} {t b : State} {v : Warp} {u : Update} (a : Byte) (val poi : Nat → Bool)
    (hv : t.warp c.key = some v) (hC : Changes c t v u) (hR : Rest c t b) :
    ∃ v', (writePreds c t a val poi).warp c.key = some v' ∧
      Changes c (writePreds c t a val poi) v' (u.then { preds := onPred a c.exec (fun l => (val l, poi l)) }) ∧
      Rest c (writePreds c t a val poi) b := by
  obtain ⟨v1, hv1, hC1, hR1⟩ := changes_writePred a c.exec (maskOf val) (maskOf poi) hv hC hR
  refine ⟨v1, hv1, hC1.congr ?_, hR1⟩
  simp only [Update.then]
  congr 1
  funext p l
  congr 1
  simp only [onPred]
  by_cases hl : l < 32
  · simp only [maskOf_getLsbD, hl, decide_true, Bool.true_and]
  · simp [BitVec.getLsbD_of_ge _ _ (show 32 ≤ l by omega)]

end Sys2Proof.Machine
end

