-- ==== Sys2Proof/Laws/Answers.lean ====
section
/-! SUPPORT. From an instruction's body to its answer: one lemma for every instruction that goes through the shared issue. -/

namespace Sys2Proof.Machine

/-- Where the body of an instruction does what the rule says, the instruction answers as the rule says. -/
theorem answersWith_body {i : Instr} {h : Hdr} {s : State} {early : Ctx → Bool} {extra : Ctx → Option Nat} {body : Ctx → State → Res}
    {rule : Ctx → State → Option State} (he : exec i s = issueWith i h s early extra body)
    (hz : ((instrInfo i).pipe == .m) = true ∨ ∀ c s1, c.exec = 0 → body c s1 = .ok s1)
    (hb : ∀ w t, (issueCtx i h s w).exec ≠ 0 → rule (issueCtx i h s w) (issued i h s w) = some t →
      body (issueCtx i h s w) (issued i h s w) = .ok t) : AnswersWith i h s early extra rule := by
  intro w hi
  refine ⟨fun h0 => ?_, fun hne t ht => ?_⟩
  · obtain ⟨hw, hd⟩ := hi
    have h0' : guardMask s w h s.cur.act = 0 := h0
    rcases hz with hz | hz
    · rw [he]
      unfold issueWith
      simp only [hw]
      unfold issueCtx at hd
      rw [hd]
      simp only [issued]
      rw [if_pos (by simpa [h0'] using hz)]
    · rw [he]
      by_cases hm : ((instrInfo i).pipe == .m) = true
      · unfold issueWith
        simp only [hw]
        unfold issueCtx at hd
        rw [hd]
        simp only [issued]
        rw [if_pos (by simpa [h0'] using hm)]
      · exact issueWith_next ⟨hw, hd⟩ (Or.inl (by simpa using hm)) (hz _ _ h0)
  · rw [he]
    exact issueWith_next hi (Or.inr hne) (hb w t hne ht)

/-- The same for an instruction of the M pipe without decode checks of its own. -/
theorem answers_body {i : Instr} {h : Hdr} {s : State} {body : Ctx → State → Res} {rule : Ctx → State → Option State}
    (he : exec i s = issue i h s body) (hz : ((instrInfo i).pipe == .m) = true)
    (hb : ∀ w t, (issueCtx i h s w).exec ≠ 0 → rule (issueCtx i h s w) (issued i h s w) = some t →
      body (issueCtx i h s w) (issued i h s w) = .ok t) : Answers i h s rule :=
  answersWith_body he (Or.inl hz) hb

/-- A protected comparison that finds nothing lets the body go on. -/
theorem protGuard_calm {c : Ctx} {vals : Nat → List Word} {k : Res} (h : calm c vals = true) : protGuard c vals k = k := by
  unfold protGuard
  rw [if_neg]
  unfold calm at h
  intro hc
  rw [hc] at h
  cases h

/-- What an instruction does keeps the copies of the records that it looked up. -/
@[simp] theorem keeping_ok (s t : State) : Res.keeping s (.ok t) = .ok t := rfl

/-- What a lookup finds is what the instruction's own lookup answers. -/
theorem lookedUp_some {c : Ctx} {s : State} {cr : CtxRegs} {n : Nat} {l : State × Found} (h : lookedUp c s cr n = some l) :
    lookupFor c s cr n = .ok l := by
  unfold lookedUp at h
  unfold lookupFor
  cases hw : lookupWait s (.fetch c.key c.cur.pc) c.unit cr n <;> simp [hw] at h ⊢
  exact h

/-- A record that is found goes to what follows; where that traps, the copy stays (R236). -/
theorem withRecord_found {c : Ctx} {s1 s2 : State} {n : Nat} {r : Tensor} {k : State → Tensor → Res} (h : found c s1 n = some (s2, r)) :
    withRecord c s1 n k = (k s2 r).keeping s2 := by
  unfold found at h
  unfold withRecord
  cases hcr : s1.crew c.w.crew with
  | none => simp [hcr] at h
  | some cr =>
    simp only [hcr] at h ⊢
    cases hl : lookedUp c s1 cr.cregs n with
    | none => simp [hl] at h
    | some l =>
    rw [lookedUp_some hl]
    obtain ⟨s3, f⟩ := l
    cases f with
    | fault va p q => simp [hl] at h
    | found r' bad =>
      by_cases h0 : bad = 0
      · obtain ⟨rfl, rfl⟩ : s3 = s2 ∧ r' = r := by simpa [hl, h0] using h
        simp [h0]
      · have h1 : ¬bad = 0#4 := h0
        simp [hl, h1] at h

theorem passed_some {k : Checked} {es : List MemEl} {sp : Space} (h : passed k = some (es, sp)) : k = .ok es sp := by
  cases k <;> simp_all [passed]

theorem addressed_some {k : Except (Nat × Word) Nat} {a : Nat} (h : addressed k = some a) : k = .ok a := by
  cases k <;> simp_all [addressed]

/-- A check of a rule that holds. -/
theorem guard_some (p : Prop) [Decidable p] (a : Unit) : (guard p : Option Unit) = some a ↔ p := by
  unfold guard
  split <;> simp_all [failure]

end Sys2Proof.Machine
end

