-- ==== Sys2Proof/Laws/Memory.lean ====
section
/-! SUPPORT. Reads after writes, in memory and in a crew's scratchpad. -/

namespace Sys2Proof.Machine

/-- A byte read after a number is written: byte j of the number inside, the byte that was there outside (R4). -/
theorem memGet_memWrite (m : Memory) (a v n j : Nat) :
    memGet (memWrite m a v n) j = if a ≤ j ∧ j < a + n then BitVec.ofNat 8 (v / 256 ^ (j - a)) else memGet m j := by
  induction n generalizing a v with
  | zero => simp [memWrite]
  | succ n ih =>
    simp only [memWrite, memGet_memSet, ih]
    by_cases h : j = a
    · subst h; simp
    · rw [if_neg h]
      by_cases h1 : a + 1 ≤ j ∧ j < a + 1 + n
      · rw [if_pos h1, if_pos (by omega), show j - a = (j - (a + 1)) + 1 by omega, Nat.pow_succ, Nat.div_div_eq_div_mul,
          Nat.mul_comm 256]
      · rw [if_neg h1, if_neg (by omega)]

/-- A number is read from its bytes alone. -/
theorem memRead_congr (m k : Memory) (a n : Nat) (h : ∀ j, a ≤ j → j < a + n → memGet m j = memGet k j) : memRead m a n = memRead k a n := by
  induction n generalizing a with
  | zero => rfl
  | succ n ih =>
    simp only [memRead]
    rw [h a (by omega) (by omega), ih (a + 1) (fun j h1 h2 => h j (by omega) (by omega))]

/-- A number written is read back, as far as its width goes (R4). -/
theorem memRead_memWrite (m : Memory) (a v n : Nat) : memRead (memWrite m a v n) a n = v % 2 ^ (8 * n) := by
  induction n generalizing a v with
  | zero => simp [memRead, Nat.mod_one]
  | succ n ih =>
    have h1 : memRead (memWrite m a v (n + 1)) (a + 1) n = memRead (memWrite m (a + 1) (v / 256) n) (a + 1) n := by
      refine memRead_congr _ _ _ _ (fun j h1 h2 => ?_)
      simp only [memWrite, memGet_memSet]
      rw [if_neg (by omega)]
    simp only [memRead]
    rw [h1, ih, memGet_memWrite, if_pos (by omega)]
    simp only [Nat.sub_self, Nat.pow_zero, Nat.div_one, BitVec.toNat_ofNat]
    rw [show 8 * (n + 1) = 8 + 8 * n by omega, Nat.pow_add, Nat.mod_mul, show (2 : Nat) ^ 8 = 256 from rfl]

/-- A number that lies apart from what is written reads as before. -/
theorem memRead_memWrite_apart (m : Memory) (a v n b k : Nat) (h : a + n ≤ b ∨ b + k ≤ a) :
    memRead (memWrite m a v n) b k = memRead m b k := by
  refine memRead_congr _ _ _ _ (fun j h1 h2 => ?_)
  rw [memGet_memWrite, if_neg (by omega)]

@[simp] theorem spRead_spWrite (c : Crew) (a v n : Nat) : spRead (spWrite c a v n) a n = v % 2 ^ (8 * n) := memRead_memWrite _ _ _ _
theorem spRead_spWrite_apart (c : Crew) (a v n b k : Nat) (h : a + n ≤ b ∨ b + k ≤ a) : spRead (spWrite c a v n) b k = spRead c b k :=
  memRead_memWrite_apart _ _ _ _ _ _ h

/-- A store to the scratchpad leaves every other byte, and nothing of the crew but its bytes and marks. -/
theorem spWrite_frame (c : Crew) (a v n : Nat) : (∀ j, j < a ∨ a + n ≤ j → memGet (spWrite c a v n).sp j = memGet c.sp j) ∧
    { spWrite c a v n with sp := [], spBad := [] } = { c with sp := [], spBad := [] } := by
  refine ⟨fun j hj => ?_, rfl⟩
  simp only [spWrite]
  rw [memGet_memWrite, if_neg (by omega)]

/-- A scratchpad write keeps the canonical form. -/
theorem wf_spWrite (c : Crew) (a v n : Nat) (h : c.sp.wf = true) : (spWrite c a v n).sp.wf = true := wf_memWrite _ _ _ _ h

end Sys2Proof.Machine
end

