-- ==== Sys2Proof/Laws/PerInstr.lean ====
section
/-! SUPPORT. The fields of an encoded instruction, instruction by instruction: a word is laid out as R22 lays it out, and each field is read
back as it was written. A step without an encoding has no word. -/

namespace Sys2Proof

/-- Bits of the upper part of an append, and of the lower part. -/
theorem extract_append_hi {n m : Nat} (x : BitVec n) (y : BitVec m) (k w : Nat) (h : m ≤ k) :
    (x ++ y).extractLsb' k w = x.extractLsb' (k - m) w := by
  apply BitVec.eq_of_getLsbD_eq
  intro i hi
  simp only [BitVec.getLsbD_extractLsb', BitVec.getLsbD_append]
  rw [if_neg (by omega), show k + i - m = k - m + i by omega]
theorem extract_append_lo {n m : Nat} (x : BitVec n) (y : BitVec m) (k w : Nat) (h : k + w ≤ m) :
    (x ++ y).extractLsb' k w = y.extractLsb' k w := by
  apply BitVec.eq_of_getLsbD_eq
  intro i hi
  simp only [BitVec.getLsbD_extractLsb', BitVec.getLsbD_append]
  rw [if_pos (by omega)]
theorem extract_all {n : Nat} (x : BitVec n) : x.extractLsb' 0 n = x := by simp

/-- OPC, the other fields and the operand area of R22 are read back from the word that holds them. -/
theorem fields_wordOf (opc : BitVec 9) (h : Hdr) (a : BitVec 48) :
    opcOf (wordOf opc h a) = opc ∧ hdrOf (wordOf opc h a) = h ∧ areaOf (wordOf opc h a) = a := by
  obtain ⟨wait, setf, dist, sw, hint, ga, gb, f⟩ := h
  simp only [opcOf, hdrOf, areaOf, wordOf, Hdr.mk.injEq]
  refine ⟨?_, ⟨?_, ?_, ?_, ?_, ?_, ?_, ?_, ?_⟩, ?_⟩ <;>
    simp (disch := omega) only [extract_append_hi, extract_append_lo, Nat.reduceSub, Nat.sub_self, extract_all]

namespace Laws

/-- What an encoding holds: where an instruction has a word, the word's fields are those that it was written from. -/
def Encoding.Statement (i : Instr) : Prop :=
  ∀ w, encode i = some w → ∃ opc h a, w = wordOf opc h a ∧ opcOf w = opc ∧ hdrOf w = h ∧ areaOf w = a

/-- A word written from its fields. -/
theorem Encoding.of_word {i : Instr} {opc : BitVec 9} {h : Hdr} {a : BitVec 48} (he : encode i = some (wordOf opc h a)) : Encoding.Statement i := by
  intro w hw
  obtain rfl : wordOf opc h a = w := Option.some.inj (he.symm.trans hw)
  obtain ⟨h1, h2, h3⟩ := fields_wordOf opc h a
  exact ⟨opc, h, a, rfl, h1, h2, h3⟩

/-- A step without an encoding. -/
theorem Encoding.of_none {i : Instr} (he : encode i = none) : Encoding.Statement i := by
  intro w hw
  rw [he] at hw
  cases hw

theorem Encoding.fetchLine (unit slot : Nat) : Encoding.Statement (.fetchLine unit slot) := Encoding.of_none rfl
theorem Encoding.nop (h : Hdr) (o : OpR) : Encoding.Statement (.nop h o) := Encoding.of_word rfl
theorem Encoding.mov (h : Hdr) (o : OpR) : Encoding.Statement (.mov h o) := Encoding.of_word rfl
theorem Encoding.movi (h : Hdr) (o : OpI) : Encoding.Statement (.movi h o) := Encoding.of_word rfl
theorem Encoding.movhi (h : Hdr) (o : OpI) : Encoding.Statement (.movhi h o) := Encoding.of_word rfl
theorem Encoding.sel (h : Hdr) (o : OpR) : Encoding.Statement (.sel h o) := Encoding.of_word rfl
theorem Encoding.iadd (h : Hdr) (o : OpR) : Encoding.Statement (.iadd h o) := Encoding.of_word rfl
theorem Encoding.isub (h : Hdr) (o : OpR) : Encoding.Statement (.isub h o) := Encoding.of_word rfl
theorem Encoding.iadds (h : Hdr) (o : OpR) : Encoding.Statement (.iadds h o) := Encoding.of_word rfl
theorem Encoding.isubs (h : Hdr) (o : OpR) : Encoding.Statement (.isubs h o) := Encoding.of_word rfl
theorem Encoding.iadc (h : Hdr) (o : OpR) : Encoding.Statement (.iadc h o) := Encoding.of_word rfl
theorem Encoding.imul (h : Hdr) (o : OpR) : Encoding.Statement (.imul h o) := Encoding.of_word rfl
theorem Encoding.imulh (h : Hdr) (o : OpR) : Encoding.Statement (.imulh h o) := Encoding.of_word rfl
theorem Encoding.imad (h : Hdr) (o : OpR) : Encoding.Statement (.imad h o) := Encoding.of_word rfl
theorem Encoding.imadw (h : Hdr) (o : OpR) : Encoding.Statement (.imadw h o) := Encoding.of_word rfl
theorem Encoding.idp4 (h : Hdr) (o : OpR) : Encoding.Statement (.idp4 h o) := Encoding.of_word rfl
theorem Encoding.iabs (h : Hdr) (o : OpR) : Encoding.Statement (.iabs h o) := Encoding.of_word rfl
theorem Encoding.imin (h : Hdr) (o : OpR) : Encoding.Statement (.imin h o) := Encoding.of_word rfl
theorem Encoding.imax (h : Hdr) (o : OpR) : Encoding.Statement (.imax h o) := Encoding.of_word rfl
theorem Encoding.isad (h : Hdr) (o : OpR) : Encoding.Statement (.isad h o) := Encoding.of_word rfl
theorem Encoding.imax3 (h : Hdr) (o : OpR) : Encoding.Statement (.imax3 h o) := Encoding.of_word rfl
theorem Encoding.and (h : Hdr) (o : OpR) : Encoding.Statement (.and h o) := Encoding.of_word rfl
theorem Encoding.or (h : Hdr) (o : OpR) : Encoding.Statement (.or h o) := Encoding.of_word rfl
theorem Encoding.xor (h : Hdr) (o : OpR) : Encoding.Statement (.xor h o) := Encoding.of_word rfl
theorem Encoding.andn (h : Hdr) (o : OpR) : Encoding.Statement (.andn h o) := Encoding.of_word rfl
theorem Encoding.lop3 (h : Hdr) (o : OpR) : Encoding.Statement (.lop3 h o) := Encoding.of_word rfl
theorem Encoding.shl (h : Hdr) (o : OpR) : Encoding.Statement (.shl h o) := Encoding.of_word rfl
theorem Encoding.shr (h : Hdr) (o : OpR) : Encoding.Statement (.shr h o) := Encoding.of_word rfl
theorem Encoding.sar (h : Hdr) (o : OpR) : Encoding.Statement (.sar h o) := Encoding.of_word rfl
theorem Encoding.rotl (h : Hdr) (o : OpR) : Encoding.Statement (.rotl h o) := Encoding.of_word rfl
theorem Encoding.fshf (h : Hdr) (o : OpR) : Encoding.Statement (.fshf h o) := Encoding.of_word rfl
theorem Encoding.bfx (h : Hdr) (o : OpR) : Encoding.Statement (.bfx h o) := Encoding.of_word rfl
theorem Encoding.bfi (h : Hdr) (o : OpR) : Encoding.Statement (.bfi h o) := Encoding.of_word rfl
theorem Encoding.popc (h : Hdr) (o : OpR) : Encoding.Statement (.popc h o) := Encoding.of_word rfl
theorem Encoding.clz (h : Hdr) (o : OpR) : Encoding.Statement (.clz h o) := Encoding.of_word rfl
theorem Encoding.ctz (h : Hdr) (o : OpR) : Encoding.Statement (.ctz h o) := Encoding.of_word rfl
theorem Encoding.brev (h : Hdr) (o : OpR) : Encoding.Statement (.brev h o) := Encoding.of_word rfl
theorem Encoding.icmp (h : Hdr) (o : OpR) : Encoding.Statement (.icmp h o) := Encoding.of_word rfl
theorem Encoding.icmpm (h : Hdr) (o : OpR) : Encoding.Statement (.icmpm h o) := Encoding.of_word rfl
theorem Encoding.fcmp (h : Hdr) (o : OpR) : Encoding.Statement (.fcmp h o) := Encoding.of_word rfl
theorem Encoding.lea (h : Hdr) (o : OpR) : Encoding.Statement (.lea h o) := Encoding.of_word rfl
theorem Encoding.fadd (h : Hdr) (o : OpR) : Encoding.Statement (.fadd h o) := Encoding.of_word rfl
theorem Encoding.fsub (h : Hdr) (o : OpR) : Encoding.Statement (.fsub h o) := Encoding.of_word rfl
theorem Encoding.fmul (h : Hdr) (o : OpR) : Encoding.Statement (.fmul h o) := Encoding.of_word rfl
theorem Encoding.ffma (h : Hdr) (o : OpR) : Encoding.Statement (.ffma h o) := Encoding.of_word rfl
theorem Encoding.fmin (h : Hdr) (o : OpR) : Encoding.Statement (.fmin h o) := Encoding.of_word rfl
theorem Encoding.fmax (h : Hdr) (o : OpR) : Encoding.Statement (.fmax h o) := Encoding.of_word rfl
theorem Encoding.fclass (h : Hdr) (o : OpR) : Encoding.Statement (.fclass h o) := Encoding.of_word rfl
theorem Encoding.frnd (h : Hdr) (o : OpR) : Encoding.Statement (.frnd h o) := Encoding.of_word rfl
theorem Encoding.fscale (h : Hdr) (o : OpR) : Encoding.Statement (.fscale h o) := Encoding.of_word rfl
theorem Encoding.fgetexp (h : Hdr) (o : OpR) : Encoding.Statement (.fgetexp h o) := Encoding.of_word rfl
theorem Encoding.fdot2 (h : Hdr) (o : OpR) : Encoding.Statement (.fdot2 h o) := Encoding.of_word rfl
theorem Encoding.fdot4 (h : Hdr) (o : OpR) : Encoding.Statement (.fdot4 h o) := Encoding.of_word rfl
theorem Encoding.fhadd (h : Hdr) (o : OpR) : Encoding.Statement (.fhadd h o) := Encoding.of_word rfl
theorem Encoding.frcp (h : Hdr) (o : OpR) : Encoding.Statement (.frcp h o) := Encoding.of_word rfl
theorem Encoding.frsq (h : Hdr) (o : OpR) : Encoding.Statement (.frsq h o) := Encoding.of_word rfl
theorem Encoding.dadd (h : Hdr) (o : OpR) : Encoding.Statement (.dadd h o) := Encoding.of_word rfl
theorem Encoding.dmul (h : Hdr) (o : OpR) : Encoding.Statement (.dmul h o) := Encoding.of_word rfl
theorem Encoding.dfma (h : Hdr) (o : OpR) : Encoding.Statement (.dfma h o) := Encoding.of_word rfl
theorem Encoding.fabs (h : Hdr) (o : OpR) : Encoding.Statement (.fabs h o) := Encoding.of_word rfl
theorem Encoding.fneg (h : Hdr) (o : OpR) : Encoding.Statement (.fneg h o) := Encoding.of_word rfl
theorem Encoding.cvt (h : Hdr) (o : OpR) : Encoding.Statement (.cvt h o) := Encoding.of_word rfl
theorem Encoding.cvtsr (h : Hdr) (o : OpR) : Encoding.Statement (.cvtsr h o) := Encoding.of_word rfl
theorem Encoding.cvti (h : Hdr) (o : OpR) : Encoding.Statement (.cvti h o) := Encoding.of_word rfl
theorem Encoding.pack (h : Hdr) (o : OpR) : Encoding.Statement (.pack h o) := Encoding.of_word rfl
theorem Encoding.unpk (h : Hdr) (o : OpR) : Encoding.Statement (.unpk h o) := Encoding.of_word rfl
theorem Encoding.bscale (h : Hdr) (o : OpR) : Encoding.Statement (.bscale h o) := Encoding.of_word rfl
theorem Encoding.qnt (h : Hdr) (o : OpR) : Encoding.Statement (.qnt h o) := Encoding.of_word rfl
theorem Encoding.dqnt (h : Hdr) (o : OpR) : Encoding.Statement (.dqnt h o) := Encoding.of_word rfl
theorem Encoding.cbld (h : Hdr) (o : OpM) : Encoding.Statement (.cbld h o) := Encoding.of_word rfl
theorem Encoding.cbdec (h : Hdr) (o : OpR) : Encoding.Statement (.cbdec h o) := Encoding.of_word rfl
theorem Encoding.fexp2 (h : Hdr) (o : OpR) : Encoding.Statement (.fexp2 h o) := Encoding.of_word rfl
theorem Encoding.flog2 (h : Hdr) (o : OpR) : Encoding.Statement (.flog2 h o) := Encoding.of_word rfl
theorem Encoding.fsin (h : Hdr) (o : OpR) : Encoding.Statement (.fsin h o) := Encoding.of_word rfl
theorem Encoding.fcos (h : Hdr) (o : OpR) : Encoding.Statement (.fcos h o) := Encoding.of_word rfl
theorem Encoding.ftanh (h : Hdr) (o : OpR) : Encoding.Statement (.ftanh h o) := Encoding.of_word rfl
theorem Encoding.fsig (h : Hdr) (o : OpR) : Encoding.Statement (.fsig h o) := Encoding.of_word rfl
theorem Encoding.act (h : Hdr) (o : OpR) : Encoding.Statement (.act h o) := Encoding.of_word rfl
theorem Encoding.actld (h : Hdr) (o : OpM) : Encoding.Statement (.actld h o) := Encoding.of_word rfl
theorem Encoding.actsw (h : Hdr) (o : OpR) : Encoding.Statement (.actsw h o) := Encoding.of_word rfl
theorem Encoding.rngseed (h : Hdr) (o : OpR) : Encoding.Statement (.rngseed h o) := Encoding.of_word rfl
theorem Encoding.rng (h : Hdr) (o : OpR) : Encoding.Statement (.rng h o) := Encoding.of_word rfl
theorem Encoding.shfl (h : Hdr) (o : OpR) : Encoding.Statement (.shfl h o) := Encoding.of_word rfl
theorem Encoding.bcst (h : Hdr) (o : OpR) : Encoding.Statement (.bcst h o) := Encoding.of_word rfl
theorem Encoding.perm (h : Hdr) (o : OpR) : Encoding.Statement (.perm h o) := Encoding.of_word rfl
theorem Encoding.zip (h : Hdr) (o : OpR) : Encoding.Statement (.zip h o) := Encoding.of_word rfl
theorem Encoding.unzip (h : Hdr) (o : OpR) : Encoding.Statement (.unzip h o) := Encoding.of_word rfl
theorem Encoding.vote (h : Hdr) (o : OpR) : Encoding.Statement (.vote h o) := Encoding.of_word rfl
theorem Encoding.matchLanes (h : Hdr) (o : OpR) : Encoding.Statement (.matchLanes h o) := Encoding.of_word rfl
theorem Encoding.redl (h : Hdr) (o : OpR) : Encoding.Statement (.redl h o) := Encoding.of_word rfl
theorem Encoding.scanl (h : Hdr) (o : OpR) : Encoding.Statement (.scanl h o) := Encoding.of_word rfl
theorem Encoding.plop (h : Hdr) (o : OpR) : Encoding.Statement (.plop h o) := Encoding.of_word rfl
theorem Encoding.pmovV (h : Hdr) (o : OpR) : Encoding.Statement (.pmovV h o) := Encoding.of_word rfl
theorem Encoding.pmovP (h : Hdr) (o : OpR) : Encoding.Statement (.pmovP h o) := Encoding.of_word rfl
theorem Encoding.actm (h : Hdr) (o : OpR) : Encoding.Statement (.actm h o) := Encoding.of_word rfl
theorem Encoding.elect (h : Hdr) (o : OpR) : Encoding.Statement (.elect h o) := Encoding.of_word rfl
theorem Encoding.bra (h : Hdr) (o : OpB) : Encoding.Statement (.bra h o) := Encoding.of_word rfl
theorem Encoding.call (h : Hdr) (o : OpB) : Encoding.Statement (.call h o) := Encoding.of_word rfl
theorem Encoding.brx (h : Hdr) (o : OpR) : Encoding.Statement (.brx h o) := Encoding.of_word rfl
theorem Encoding.callx (h : Hdr) (o : OpR) : Encoding.Statement (.callx h o) := Encoding.of_word rfl
theorem Encoding.ret (h : Hdr) (o : OpR) : Encoding.Statement (.ret h o) := Encoding.of_word rfl
theorem Encoding.exit (h : Hdr) (o : OpR) : Encoding.Statement (.exit h o) := Encoding.of_word rfl
theorem Encoding.yield (h : Hdr) (o : OpR) : Encoding.Statement (.yield h o) := Encoding.of_word rfl
theorem Encoding.trap (h : Hdr) (o : OpI) : Encoding.Statement (.trap h o) := Encoding.of_word rfl
theorem Encoding.brkpt (h : Hdr) (o : OpI) : Encoding.Statement (.brkpt h o) := Encoding.of_word rfl
theorem Encoding.tret (h : Hdr) (o : OpR) : Encoding.Statement (.tret h o) := Encoding.of_word rfl
theorem Encoding.csrr (h : Hdr) (o : OpS) : Encoding.Statement (.csrr h o) := Encoding.of_word rfl
theorem Encoding.csrw (h : Hdr) (o : OpS) : Encoding.Statement (.csrw h o) := Encoding.of_word rfl
theorem Encoding.csrs (h : Hdr) (o : OpS) : Encoding.Statement (.csrs h o) := Encoding.of_word rfl
theorem Encoding.csrc (h : Hdr) (o : OpS) : Encoding.Statement (.csrc h o) := Encoding.of_word rfl
theorem Encoding.clock (h : Hdr) (o : OpR) : Encoding.Statement (.clock h o) := Encoding.of_word rfl
theorem Encoding.join (h : Hdr) (o : OpR) : Encoding.Statement (.join h o) := Encoding.of_word rfl
theorem Encoding.leave (h : Hdr) (o : OpR) : Encoding.Statement (.leave h o) := Encoding.of_word rfl
theorem Encoding.gbar (h : Hdr) (o : OpR) : Encoding.Statement (.gbar h o) := Encoding.of_word rfl
theorem Encoding.gcount (h : Hdr) (o : OpR) : Encoding.Statement (.gcount h o) := Encoding.of_word rfl
theorem Encoding.role (h : Hdr) (o : OpR) : Encoding.Statement (.role h o) := Encoding.of_word rfl
theorem Encoding.regclaim (h : Hdr) (o : OpI) : Encoding.Statement (.regclaim h o) := Encoding.of_word rfl
theorem Encoding.reggive (h : Hdr) (o : OpI) : Encoding.Statement (.reggive h o) := Encoding.of_word rfl
theorem Encoding.sleep (h : Hdr) (o : OpI) : Encoding.Statement (.sleep h o) := Encoding.of_word rfl
theorem Encoding.wake (h : Hdr) (o : OpR) : Encoding.Statement (.wake h o) := Encoding.of_word rfl
theorem Encoding.prio (h : Hdr) (o : OpI) : Encoding.Statement (.prio h o) := Encoding.of_word rfl
theorem Encoding.ld (h : Hdr) (o : OpM) : Encoding.Statement (.ld h o) := Encoding.of_word rfl
theorem Encoding.st (h : Hdr) (o : OpM) : Encoding.Statement (.st h o) := Encoding.of_word rfl
theorem Encoding.lda (h : Hdr) (o : OpM) : Encoding.Statement (.lda h o) := Encoding.of_word rfl
theorem Encoding.sta (h : Hdr) (o : OpM) : Encoding.Statement (.sta h o) := Encoding.of_word rfl
theorem Encoding.lds (h : Hdr) (o : OpM) : Encoding.Statement (.lds h o) := Encoding.of_word rfl
theorem Encoding.sts (h : Hdr) (o : OpM) : Encoding.Statement (.sts h o) := Encoding.of_word rfl
theorem Encoding.ldt (h : Hdr) (o : OpT) : Encoding.Statement (.ldt h o) := Encoding.of_word rfl
theorem Encoding.stt (h : Hdr) (o : OpT) : Encoding.Statement (.stt h o) := Encoding.of_word rfl
theorem Encoding.pref (h : Hdr) (o : OpM) : Encoding.Statement (.pref h o) := Encoding.of_word rfl
theorem Encoding.recset (h : Hdr) (o : OpM) : Encoding.Statement (.recset h o) := Encoding.of_word rfl
theorem Encoding.recget (h : Hdr) (o : OpM) : Encoding.Statement (.recget h o) := Encoding.of_word rfl
theorem Encoding.recinv (h : Hdr) (o : OpM) : Encoding.Statement (.recinv h o) := Encoding.of_word rfl
theorem Encoding.recgen (h : Hdr) (o : OpM) : Encoding.Statement (.recgen h o) := Encoding.of_word rfl
theorem Encoding.spalloc (h : Hdr) (o : OpI) : Encoding.Statement (.spalloc h o) := Encoding.of_word rfl
theorem Encoding.spfree (h : Hdr) (o : OpI) : Encoding.Statement (.spfree h o) := Encoding.of_word rfl
theorem Encoding.spfence (h : Hdr) (o : OpR) : Encoding.Statement (.spfence h o) := Encoding.of_word rfl
theorem Encoding.atom (h : Hdr) (o : OpM) : Encoding.Statement (.atom h o) := Encoding.of_word rfl
theorem Encoding.cas (h : Hdr) (o : OpM) : Encoding.Statement (.cas h o) := Encoding.of_word rfl
theorem Encoding.red (h : Hdr) (o : OpM) : Encoding.Statement (.red h o) := Encoding.of_word rfl
theorem Encoding.atoms (h : Hdr) (o : OpM) : Encoding.Statement (.atoms h o) := Encoding.of_word rfl
theorem Encoding.cass (h : Hdr) (o : OpM) : Encoding.Statement (.cass h o) := Encoding.of_word rfl
theorem Encoding.reds (h : Hdr) (o : OpM) : Encoding.Statement (.reds h o) := Encoding.of_word rfl
theorem Encoding.awinit (h : Hdr) (o : OpI) : Encoding.Statement (.awinit h o) := Encoding.of_word rfl
theorem Encoding.arrive (h : Hdr) (o : OpI) : Encoding.Statement (.arrive h o) := Encoding.of_word rfl
theorem Encoding.arrdrop (h : Hdr) (o : OpI) : Encoding.Statement (.arrdrop h o) := Encoding.of_word rfl
theorem Encoding.await (h : Hdr) (o : OpI) : Encoding.Statement (.await h o) := Encoding.of_word rfl
theorem Encoding.awtest (h : Hdr) (o : OpI) : Encoding.Statement (.awtest h o) := Encoding.of_word rfl
theorem Encoding.qinit (h : Hdr) (o : OpI) : Encoding.Statement (.qinit h o) := Encoding.of_word rfl
theorem Encoding.push (h : Hdr) (o : OpR) : Encoding.Statement (.push h o) := Encoding.of_word rfl
theorem Encoding.pop (h : Hdr) (o : OpR) : Encoding.Statement (.pop h o) := Encoding.of_word rfl
theorem Encoding.trypush (h : Hdr) (o : OpR) : Encoding.Statement (.trypush h o) := Encoding.of_word rfl
theorem Encoding.trypop (h : Hdr) (o : OpR) : Encoding.Statement (.trypop h o) := Encoding.of_word rfl
theorem Encoding.qstat (h : Hdr) (o : OpR) : Encoding.Statement (.qstat h o) := Encoding.of_word rfl
theorem Encoding.acq (h : Hdr) (o : OpR) : Encoding.Statement (.acq h o) := Encoding.of_word rfl
theorem Encoding.rel (h : Hdr) (o : OpR) : Encoding.Statement (.rel h o) := Encoding.of_word rfl
theorem Encoding.acqr (h : Hdr) (o : OpR) : Encoding.Statement (.acqr h o) := Encoding.of_word rfl
theorem Encoding.fence (h : Hdr) (o : OpR) : Encoding.Statement (.fence h o) := Encoding.of_word rfl
theorem Encoding.seal (h : Hdr) (o : OpM) : Encoding.Statement (.seal h o) := Encoding.of_word rfl
theorem Encoding.unseal (h : Hdr) (o : OpM) : Encoding.Statement (.unseal h o) := Encoding.of_word rfl
theorem Encoding.frfit (h : Hdr) (o : OpM) : Encoding.Statement (.frfit h o) := Encoding.of_word rfl
theorem Encoding.frstat (h : Hdr) (o : OpM) : Encoding.Statement (.frstat h o) := Encoding.of_word rfl
theorem Encoding.frinit (h : Hdr) (o : OpM) : Encoding.Statement (.frinit h o) := Encoding.of_word rfl
theorem Encoding.snap (h : Hdr) (o : OpM) : Encoding.Statement (.snap h o) := Encoding.of_word rfl
theorem Encoding.snapwait (h : Hdr) (o : OpI) : Encoding.Statement (.snapwait h o) := Encoding.of_word rfl
theorem Encoding.llcstat (h : Hdr) (o : OpR) : Encoding.Statement (.llcstat h o) := Encoding.of_word rfl
theorem Encoding.mma (h : Hdr) (o : OpT) : Encoding.Statement (.mma h o) := Encoding.of_word rfl
theorem Encoding.mmas (h : Hdr) (o : OpT) : Encoding.Statement (.mmas h o) := Encoding.of_word rfl
theorem Encoding.mzero (h : Hdr) (o : OpR) : Encoding.Statement (.mzero h o) := Encoding.of_word rfl
theorem Encoding.mdrain (h : Hdr) (o : OpT) : Encoding.Statement (.mdrain h o) := Encoding.of_word rfl
theorem Encoding.wload (h : Hdr) (o : OpT) : Encoding.Statement (.wload h o) := Encoding.of_word rfl
theorem Encoding.winv (h : Hdr) (o : OpM) : Encoding.Statement (.winv h o) := Encoding.of_word rfl
theorem Encoding.mstat (h : Hdr) (o : OpR) : Encoding.Statement (.mstat h o) := Encoding.of_word rfl
theorem Encoding.mwait (h : Hdr) (o : OpR) : Encoding.Statement (.mwait h o) := Encoding.of_word rfl
theorem Encoding.mcfg (h : Hdr) (o : OpI) : Encoding.Statement (.mcfg h o) := Encoding.of_word rfl
theorem Encoding.mstepRd (h : Hdr) (o : OpR) : Encoding.Statement (.mstepRd h o) := Encoding.of_word rfl
theorem Encoding.mstepHalt (h : Hdr) (o : OpR) : Encoding.Statement (.mstepHalt h o) := Encoding.of_word rfl
theorem Encoding.mstepGo (h : Hdr) (o : OpR) : Encoding.Statement (.mstepGo h o) := Encoding.of_word rfl
theorem Encoding.cpy (h : Hdr) (o : OpT) : Encoding.Statement (.cpy h o) := Encoding.of_word rfl
theorem Encoding.cpyt (h : Hdr) (o : OpT) : Encoding.Statement (.cpyt h o) := Encoding.of_word rfl
theorem Encoding.cvttab (h : Hdr) (o : OpM) : Encoding.Statement (.cvttab h o) := Encoding.of_word rfl
theorem Encoding.cpystat (h : Hdr) (o : OpR) : Encoding.Statement (.cpystat h o) := Encoding.of_word rfl
theorem Encoding.launch (h : Hdr) (o : OpM) : Encoding.Statement (.launch h o) := Encoding.of_word rfl
theorem Encoding.tlbinv (h : Hdr) (o : OpR) : Encoding.Statement (.tlbinv h o) := Encoding.of_word rfl
theorem Encoding.ctxsave (h : Hdr) (o : OpM) : Encoding.Statement (.ctxsave h o) := Encoding.of_word rfl
theorem Encoding.ctxload (h : Hdr) (o : OpM) : Encoding.Statement (.ctxload h o) := Encoding.of_word rfl
theorem Encoding.frameret (h : Hdr) (o : OpR) : Encoding.Statement (.frameret h o) := Encoding.of_word rfl
theorem Encoding.fstore (h : Hdr) (o : OpT) : Encoding.Statement (.fstore h o) := Encoding.of_word rfl
theorem Encoding.fload (h : Hdr) (o : OpT) : Encoding.Statement (.fload h o) := Encoding.of_word rfl
theorem Encoding.fred (h : Hdr) (o : OpT) : Encoding.Statement (.fred h o) := Encoding.of_word rfl
theorem Encoding.frel (h : Hdr) (o : OpR) : Encoding.Statement (.frel h o) := Encoding.of_word rfl
theorem Encoding.collOpen (h : Hdr) (o : OpM) : Encoding.Statement (.collOpen h o) := Encoding.of_word rfl
theorem Encoding.collNext (h : Hdr) (o : OpM) : Encoding.Statement (.collNext h o) := Encoding.of_word rfl
theorem Encoding.collClose (h : Hdr) (o : OpM) : Encoding.Statement (.collClose h o) := Encoding.of_word rfl
theorem Encoding.fstat (h : Hdr) (o : OpR) : Encoding.Statement (.fstat h o) := Encoding.of_word rfl
theorem Encoding.vendorDebug (h : Hdr) (op : BitVec 4) (area : BitVec 48) : Encoding.Statement (.vendorDebug h op area) := Encoding.of_word rfl
theorem Encoding.ageOverride (unit slot : Nat) : Encoding.Statement (.ageOverride unit slot) := Encoding.of_none rfl
theorem Encoding.yieldExpiry (unit slot : Nat) : Encoding.Statement (.yieldExpiry unit slot) := Encoding.of_none rfl
theorem Encoding.completion (unit slot op : Nat) : Encoding.Statement (.completion unit slot op) := Encoding.of_none rfl
theorem Encoding.trapEntry (unit slot : Nat) : Encoding.Statement (.trapEntry unit slot) := Encoding.of_none rfl
theorem Encoding.crewEnd (crew : Nat) : Encoding.Statement (.crewEnd crew) := Encoding.of_none rfl
theorem Encoding.warpEnd (unit slot : Nat) : Encoding.Statement (.warpEnd unit slot) := Encoding.of_none rfl
theorem Encoding.claimGrant (core : Nat) : Encoding.Statement (.claimGrant core) := Encoding.of_none rfl
theorem Encoding.reggiveReturn (unit slot op : Nat) : Encoding.Statement (.reggiveReturn unit slot op) := Encoding.of_none rfl
theorem Encoding.sleepTimer (unit slot half : Nat) : Encoding.Statement (.sleepTimer unit slot half) := Encoding.of_none rfl
theorem Encoding.clockGate (core : Nat) : Encoding.Statement (.clockGate core) := Encoding.of_none rfl
theorem Encoding.coreWake (core : Nat) (reason : BitVec 8) : Encoding.Statement (.coreWake core reason) := Encoding.of_none rfl
theorem Encoding.deadlockReport (core crew : Nat) : Encoding.Statement (.deadlockReport core crew) := Encoding.of_none rfl
theorem Encoding.registration (req : Nat) : Encoding.Statement (.registration req) := Encoding.of_none rfl
theorem Encoding.homeRead (req : Nat) : Encoding.Statement (.homeRead req) := Encoding.of_none rfl
theorem Encoding.writeBack (req : Nat) : Encoding.Statement (.writeBack req) := Encoding.of_none rfl
theorem Encoding.sliceWrite (req : Nat) : Encoding.Statement (.sliceWrite req) := Encoding.of_none rfl
theorem Encoding.lineFill (line : Nat) : Encoding.Statement (.lineFill line) := Encoding.of_none rfl
theorem Encoding.drainLineSend (snap index : Nat) : Encoding.Statement (.drainLineSend snap index) := Encoding.of_none rfl
theorem Encoding.snapshotFinish (snap : Nat) : Encoding.Statement (.snapshotFinish snap) := Encoding.of_none rfl
theorem Encoding.snapshotAbandon (snap reason : Nat) : Encoding.Statement (.snapshotAbandon snap reason) := Encoding.of_none rfl
theorem Encoding.tileLockGrant (tile : Nat) : Encoding.Statement (.tileLockGrant tile) := Encoding.of_none rfl
theorem Encoding.tileCommit (tile : Nat) : Encoding.Statement (.tileCommit tile) := Encoding.of_none rfl
theorem Encoding.sequencerCommandStart (cluster cmd : Nat) : Encoding.Statement (.sequencerCommandStart cluster cmd) := Encoding.of_none rfl
theorem Encoding.engineStep (cluster : Nat) (check : MatrixCheck) : Encoding.Statement (.engineStep cluster check) := Encoding.of_none rfl
theorem Encoding.drainPieceCount (cluster bytes : Nat) : Encoding.Statement (.drainPieceCount cluster bytes) := Encoding.of_none rfl
theorem Encoding.copyCommandStart (cluster cmd : Nat) : Encoding.Statement (.copyCommandStart cluster cmd) := Encoding.of_none rfl
theorem Encoding.copyPieceCount (cluster cmd bytes : Nat) : Encoding.Statement (.copyPieceCount cluster cmd bytes) := Encoding.of_none rfl
theorem Encoding.copyAbandon (cluster cmd reason : Nat) : Encoding.Statement (.copyAbandon cluster cmd reason) := Encoding.of_none rfl
theorem Encoding.sproutJob (die : Nat) (params : List (BitVec 16)) : Encoding.Statement (.sproutJob die params) := Encoding.of_none rfl
theorem Encoding.faultRecordWrite (index : Nat) : Encoding.Statement (.faultRecordWrite index) := Encoding.of_none rfl
theorem Encoding.frespRetry (tag : Nat) : Encoding.Statement (.frespRetry tag) := Encoding.of_none rfl
theorem Encoding.frespAbort (tag : Nat) : Encoding.Statement (.frespAbort tag) := Encoding.of_none rfl
theorem Encoding.dispatch (ring : Nat) : Encoding.Statement (.dispatch ring) := Encoding.of_none rfl
theorem Encoding.rrejClear (ring : Nat) : Encoding.Statement (.rrejClear ring) := Encoding.of_none rfl
theorem Encoding.crewPlacement (launch core : Nat) : Encoding.Statement (.crewPlacement launch core) := Encoding.of_none rfl
theorem Encoding.acornPlacement (launch cluster : Nat) : Encoding.Statement (.acornPlacement launch cluster) := Encoding.of_none rfl
theorem Encoding.launchCompletion (launch : Nat) : Encoding.Statement (.launchCompletion launch) := Encoding.of_none rfl
theorem Encoding.ctxsaveWithdraw (crew : Nat) : Encoding.Statement (.ctxsaveWithdraw crew) := Encoding.of_none rfl
theorem Encoding.warmStart : Encoding.Statement (.warmStart) := Encoding.of_none rfl
theorem Encoding.coldStart : Encoding.Statement (.coldStart) := Encoding.of_none rfl
theorem Encoding.packageReset (stage : BootOutcome) : Encoding.Statement (.packageReset stage) := Encoding.of_none rfl
theorem Encoding.imageFetchAttempt (outcome : BootOutcome) : Encoding.Statement (.imageFetchAttempt outcome) := Encoding.of_none rfl
theorem Encoding.freeze : Encoding.Statement (.freeze) := Encoding.of_none rfl
theorem Encoding.scanReadout (segment : Nat) : Encoding.Statement (.scanReadout segment) := Encoding.of_none rfl
theorem Encoding.debugUnlock (signatureValid : Bool) : Encoding.Statement (.debugUnlock signatureValid) := Encoding.of_none rfl
theorem Encoding.pathMonitorRead (die margin worst vdd : Nat) (limit : Bool) : Encoding.Statement (.pathMonitorRead die margin worst vdd limit) := Encoding.of_none rfl
theorem Encoding.powerLimit (above : Bool) : Encoding.Statement (.powerLimit above) := Encoding.of_none rfl
theorem Encoding.thermalTrip : Encoding.Statement (.thermalTrip) := Encoding.of_none rfl
theorem Encoding.hostBar2Access (pa : Nat) (write : Option (List Byte)) (count : Nat) : Encoding.Statement (.hostBar2Access pa write count) := Encoding.of_none rfl
theorem Encoding.packetReceive (packet : Packet) : Encoding.Statement (.packetReceive packet) := Encoding.of_none rfl
theorem Encoding.markerGather (conn path : Nat) (limit : MarkerLimit) : Encoding.Statement (.markerGather conn path limit) := Encoding.of_none rfl
theorem Encoding.retransmissionTimeout (conn path : Nat) : Encoding.Statement (.retransmissionTimeout conn path) := Encoding.of_none rfl
theorem Encoding.connectionFailure (conn : Nat) : Encoding.Statement (.connectionFailure conn) := Encoding.of_none rfl
theorem Encoding.fabricAbandon (cmd reason : Nat) : Encoding.Statement (.fabricAbandon cmd reason) := Encoding.of_none rfl
theorem Encoding.reductionChunkCombine (slot chunk : Nat) : Encoding.Statement (.reductionChunkCombine slot chunk) := Encoding.of_none rfl
theorem Encoding.planAbort (slot : Nat) : Encoding.Statement (.planAbort slot) := Encoding.of_none rfl
theorem Encoding.registerWrite (offset : Nat) (value : Word) : Encoding.Statement (.registerWrite offset value) := Encoding.of_none rfl
theorem Encoding.acknowledgementArrival (ack : Ack) : Encoding.Statement (.acknowledgementArrival ack) := Encoding.of_none rfl
theorem Encoding.portLinkChange (port : Nat) (up : Bool) : Encoding.Statement (.portLinkChange port up) := Encoding.of_none rfl

end Laws

end Sys2Proof
end

