-- ==== Sys2Proof/Laws/State.lean ====
section
/-! SUPPORT. What each named update of the state does to each field, one lemma a field: the updated field takes its value, every other field
stays. Then the tables: what is read back after a write at the same key and at another. -/

namespace Sys2Proof.Machine

/-! ## Fields -/

@[simp] theorem State.setWarp_cycle (s : State) (k : Nat) (w : Warp) : (s.setWarp k w).cycle = s.cycle := rfl
@[simp] theorem State.setWarp_draw (s : State) (k : Nat) (w : Warp) : (s.setWarp k w).draw = s.draw := rfl
@[simp] theorem State.setWarp_nextOp (s : State) (k : Nat) (w : Warp) : (s.setWarp k w).nextOp = s.nextOp := rfl
@[simp] theorem State.setWarp_lastEngine (s : State) (k : Nat) (w : Warp) : (s.setWarp k w).lastEngine = s.lastEngine := rfl
@[simp] theorem State.setWarp_agenda (s : State) (k : Nat) (w : Warp) : (s.setWarp k w).agenda = s.agenda := rfl
@[simp] theorem State.setWarp_cur (s : State) (k : Nat) (w : Warp) : (s.setWarp k w).cur = s.cur := rfl
@[simp] theorem State.setWarp_mem (s : State) (k : Nat) (w : Warp) : (s.setWarp k w).mem = s.mem := rfl
@[simp] theorem State.setWarp_memBad (s : State) (k : Nat) (w : Warp) : (s.setWarp k w).memBad = s.memBad := rfl
@[simp] theorem State.setWarp_warps (s : State) (k : Nat) (w : Warp) : (s.setWarp k w).warps = fmPut s.warps k w := rfl
@[simp] theorem State.setWarp_quads (s : State) (k : Nat) (w : Warp) : (s.setWarp k w).quads = s.quads := rfl
@[simp] theorem State.setWarp_crews (s : State) (k : Nat) (w : Warp) : (s.setWarp k w).crews = s.crews := rfl
@[simp] theorem State.setWarp_cores (s : State) (k : Nat) (w : Warp) : (s.setWarp k w).cores = s.cores := rfl
@[simp] theorem State.setWarp_clusters (s : State) (k : Nat) (w : Warp) : (s.setWarp k w).clusters = s.clusters := rfl
@[simp] theorem State.setWarp_dies (s : State) (k : Nat) (w : Warp) : (s.setWarp k w).dies = s.dies := rfl
@[simp] theorem State.setWarp_outs (s : State) (k : Nat) (w : Warp) : (s.setWarp k w).outs = s.outs := rfl
@[simp] theorem State.setWarp_foreign (s : State) (k : Nat) (w : Warp) : (s.setWarp k w).foreign = s.foreign := rfl
@[simp] theorem State.setWarp_net (s : State) (k : Nat) (w : Warp) : (s.setWarp k w).net = s.net := rfl
@[simp] theorem State.setWarp_slices (s : State) (k : Nat) (w : Warp) : (s.setWarp k w).slices = s.slices := rfl
@[simp] theorem State.setWarp_snaps (s : State) (k : Nat) (w : Warp) : (s.setWarp k w).snaps = s.snaps := rfl
@[simp] theorem State.setWarp_seals (s : State) (k : Nat) (w : Warp) : (s.setWarp k w).seals = s.seals := rfl
@[simp] theorem State.setWarp_tlb (s : State) (k : Nat) (w : Warp) : (s.setWarp k w).tlb = s.tlb := rfl
@[simp] theorem State.setWarp_tlbinv (s : State) (k : Nat) (w : Warp) : (s.setWarp k w).tlbinv = s.tlbinv := rfl
@[simp] theorem State.setWarp_retired (s : State) (k : Nat) (w : Warp) : (s.setWarp k w).retired = s.retired := rfl
@[simp] theorem State.setWarp_faults (s : State) (k : Nat) (w : Warp) : (s.setWarp k w).faults = s.faults := rfl
@[simp] theorem State.setWarp_nextTag (s : State) (k : Nat) (w : Warp) : (s.setWarp k w).nextTag = s.nextTag := rfl
@[simp] theorem State.setWarp_seq (s : State) (k : Nat) (w : Warp) : (s.setWarp k w).seq = s.seq := rfl
@[simp] theorem State.setWarp_tiles (s : State) (k : Nat) (w : Warp) : (s.setWarp k w).tiles = s.tiles := rfl
@[simp] theorem State.setWarp_pkg (s : State) (k : Nat) (w : Warp) : (s.setWarp k w).pkg = s.pkg := rfl

@[simp] theorem State.setQuad_cycle (s : State) (k : Nat) (v : Quad) : (s.setQuad k v).cycle = s.cycle := rfl
@[simp] theorem State.setQuad_draw (s : State) (k : Nat) (v : Quad) : (s.setQuad k v).draw = s.draw := rfl
@[simp] theorem State.setQuad_nextOp (s : State) (k : Nat) (v : Quad) : (s.setQuad k v).nextOp = s.nextOp := rfl
@[simp] theorem State.setQuad_lastEngine (s : State) (k : Nat) (v : Quad) : (s.setQuad k v).lastEngine = s.lastEngine := rfl
@[simp] theorem State.setQuad_agenda (s : State) (k : Nat) (v : Quad) : (s.setQuad k v).agenda = s.agenda := rfl
@[simp] theorem State.setQuad_cur (s : State) (k : Nat) (v : Quad) : (s.setQuad k v).cur = s.cur := rfl
@[simp] theorem State.setQuad_mem (s : State) (k : Nat) (v : Quad) : (s.setQuad k v).mem = s.mem := rfl
@[simp] theorem State.setQuad_memBad (s : State) (k : Nat) (v : Quad) : (s.setQuad k v).memBad = s.memBad := rfl
@[simp] theorem State.setQuad_warps (s : State) (k : Nat) (v : Quad) : (s.setQuad k v).warps = s.warps := rfl
@[simp] theorem State.setQuad_quads (s : State) (k : Nat) (v : Quad) : (s.setQuad k v).quads = fmPut s.quads k v := rfl
@[simp] theorem State.setQuad_crews (s : State) (k : Nat) (v : Quad) : (s.setQuad k v).crews = s.crews := rfl
@[simp] theorem State.setQuad_cores (s : State) (k : Nat) (v : Quad) : (s.setQuad k v).cores = s.cores := rfl
@[simp] theorem State.setQuad_clusters (s : State) (k : Nat) (v : Quad) : (s.setQuad k v).clusters = s.clusters := rfl
@[simp] theorem State.setQuad_dies (s : State) (k : Nat) (v : Quad) : (s.setQuad k v).dies = s.dies := rfl
@[simp] theorem State.setQuad_outs (s : State) (k : Nat) (v : Quad) : (s.setQuad k v).outs = s.outs := rfl
@[simp] theorem State.setQuad_foreign (s : State) (k : Nat) (v : Quad) : (s.setQuad k v).foreign = s.foreign := rfl
@[simp] theorem State.setQuad_net (s : State) (k : Nat) (v : Quad) : (s.setQuad k v).net = s.net := rfl
@[simp] theorem State.setQuad_slices (s : State) (k : Nat) (v : Quad) : (s.setQuad k v).slices = s.slices := rfl
@[simp] theorem State.setQuad_snaps (s : State) (k : Nat) (v : Quad) : (s.setQuad k v).snaps = s.snaps := rfl
@[simp] theorem State.setQuad_seals (s : State) (k : Nat) (v : Quad) : (s.setQuad k v).seals = s.seals := rfl
@[simp] theorem State.setQuad_tlb (s : State) (k : Nat) (v : Quad) : (s.setQuad k v).tlb = s.tlb := rfl
@[simp] theorem State.setQuad_tlbinv (s : State) (k : Nat) (v : Quad) : (s.setQuad k v).tlbinv = s.tlbinv := rfl
@[simp] theorem State.setQuad_retired (s : State) (k : Nat) (v : Quad) : (s.setQuad k v).retired = s.retired := rfl
@[simp] theorem State.setQuad_faults (s : State) (k : Nat) (v : Quad) : (s.setQuad k v).faults = s.faults := rfl
@[simp] theorem State.setQuad_nextTag (s : State) (k : Nat) (v : Quad) : (s.setQuad k v).nextTag = s.nextTag := rfl
@[simp] theorem State.setQuad_seq (s : State) (k : Nat) (v : Quad) : (s.setQuad k v).seq = s.seq := rfl
@[simp] theorem State.setQuad_tiles (s : State) (k : Nat) (v : Quad) : (s.setQuad k v).tiles = s.tiles := rfl
@[simp] theorem State.setQuad_pkg (s : State) (k : Nat) (v : Quad) : (s.setQuad k v).pkg = s.pkg := rfl

@[simp] theorem State.setCrew_cycle (s : State) (k : Nat) (v : Crew) : (s.setCrew k v).cycle = s.cycle := rfl
@[simp] theorem State.setCrew_draw (s : State) (k : Nat) (v : Crew) : (s.setCrew k v).draw = s.draw := rfl
@[simp] theorem State.setCrew_nextOp (s : State) (k : Nat) (v : Crew) : (s.setCrew k v).nextOp = s.nextOp := rfl
@[simp] theorem State.setCrew_lastEngine (s : State) (k : Nat) (v : Crew) : (s.setCrew k v).lastEngine = s.lastEngine := rfl
@[simp] theorem State.setCrew_agenda (s : State) (k : Nat) (v : Crew) : (s.setCrew k v).agenda = s.agenda := rfl
@[simp] theorem State.setCrew_cur (s : State) (k : Nat) (v : Crew) : (s.setCrew k v).cur = s.cur := rfl
@[simp] theorem State.setCrew_mem (s : State) (k : Nat) (v : Crew) : (s.setCrew k v).mem = s.mem := rfl
@[simp] theorem State.setCrew_memBad (s : State) (k : Nat) (v : Crew) : (s.setCrew k v).memBad = s.memBad := rfl
@[simp] theorem State.setCrew_warps (s : State) (k : Nat) (v : Crew) : (s.setCrew k v).warps = s.warps := rfl
@[simp] theorem State.setCrew_quads (s : State) (k : Nat) (v : Crew) : (s.setCrew k v).quads = s.quads := rfl
@[simp] theorem State.setCrew_crews (s : State) (k : Nat) (v : Crew) : (s.setCrew k v).crews = fmPut s.crews k v := rfl
@[simp] theorem State.setCrew_cores (s : State) (k : Nat) (v : Crew) : (s.setCrew k v).cores = s.cores := rfl
@[simp] theorem State.setCrew_clusters (s : State) (k : Nat) (v : Crew) : (s.setCrew k v).clusters = s.clusters := rfl
@[simp] theorem State.setCrew_dies (s : State) (k : Nat) (v : Crew) : (s.setCrew k v).dies = s.dies := rfl
@[simp] theorem State.setCrew_outs (s : State) (k : Nat) (v : Crew) : (s.setCrew k v).outs = s.outs := rfl
@[simp] theorem State.setCrew_foreign (s : State) (k : Nat) (v : Crew) : (s.setCrew k v).foreign = s.foreign := rfl
@[simp] theorem State.setCrew_net (s : State) (k : Nat) (v : Crew) : (s.setCrew k v).net = s.net := rfl
@[simp] theorem State.setCrew_slices (s : State) (k : Nat) (v : Crew) : (s.setCrew k v).slices = s.slices := rfl
@[simp] theorem State.setCrew_snaps (s : State) (k : Nat) (v : Crew) : (s.setCrew k v).snaps = s.snaps := rfl
@[simp] theorem State.setCrew_seals (s : State) (k : Nat) (v : Crew) : (s.setCrew k v).seals = s.seals := rfl
@[simp] theorem State.setCrew_tlb (s : State) (k : Nat) (v : Crew) : (s.setCrew k v).tlb = s.tlb := rfl
@[simp] theorem State.setCrew_tlbinv (s : State) (k : Nat) (v : Crew) : (s.setCrew k v).tlbinv = s.tlbinv := rfl
@[simp] theorem State.setCrew_retired (s : State) (k : Nat) (v : Crew) : (s.setCrew k v).retired = s.retired := rfl
@[simp] theorem State.setCrew_faults (s : State) (k : Nat) (v : Crew) : (s.setCrew k v).faults = s.faults := rfl
@[simp] theorem State.setCrew_nextTag (s : State) (k : Nat) (v : Crew) : (s.setCrew k v).nextTag = s.nextTag := rfl
@[simp] theorem State.setCrew_seq (s : State) (k : Nat) (v : Crew) : (s.setCrew k v).seq = s.seq := rfl
@[simp] theorem State.setCrew_tiles (s : State) (k : Nat) (v : Crew) : (s.setCrew k v).tiles = s.tiles := rfl
@[simp] theorem State.setCrew_pkg (s : State) (k : Nat) (v : Crew) : (s.setCrew k v).pkg = s.pkg := rfl

@[simp] theorem State.setCore_cycle (s : State) (k : Nat) (v : Core) : (s.setCore k v).cycle = s.cycle := rfl
@[simp] theorem State.setCore_draw (s : State) (k : Nat) (v : Core) : (s.setCore k v).draw = s.draw := rfl
@[simp] theorem State.setCore_nextOp (s : State) (k : Nat) (v : Core) : (s.setCore k v).nextOp = s.nextOp := rfl
@[simp] theorem State.setCore_lastEngine (s : State) (k : Nat) (v : Core) : (s.setCore k v).lastEngine = s.lastEngine := rfl
@[simp] theorem State.setCore_agenda (s : State) (k : Nat) (v : Core) : (s.setCore k v).agenda = s.agenda := rfl
@[simp] theorem State.setCore_cur (s : State) (k : Nat) (v : Core) : (s.setCore k v).cur = s.cur := rfl
@[simp] theorem State.setCore_mem (s : State) (k : Nat) (v : Core) : (s.setCore k v).mem = s.mem := rfl
@[simp] theorem State.setCore_memBad (s : State) (k : Nat) (v : Core) : (s.setCore k v).memBad = s.memBad := rfl
@[simp] theorem State.setCore_warps (s : State) (k : Nat) (v : Core) : (s.setCore k v).warps = s.warps := rfl
@[simp] theorem State.setCore_quads (s : State) (k : Nat) (v : Core) : (s.setCore k v).quads = s.quads := rfl
@[simp] theorem State.setCore_crews (s : State) (k : Nat) (v : Core) : (s.setCore k v).crews = s.crews := rfl
@[simp] theorem State.setCore_cores (s : State) (k : Nat) (v : Core) : (s.setCore k v).cores = fmPut s.cores k v := rfl
@[simp] theorem State.setCore_clusters (s : State) (k : Nat) (v : Core) : (s.setCore k v).clusters = s.clusters := rfl
@[simp] theorem State.setCore_dies (s : State) (k : Nat) (v : Core) : (s.setCore k v).dies = s.dies := rfl
@[simp] theorem State.setCore_outs (s : State) (k : Nat) (v : Core) : (s.setCore k v).outs = s.outs := rfl
@[simp] theorem State.setCore_foreign (s : State) (k : Nat) (v : Core) : (s.setCore k v).foreign = s.foreign := rfl
@[simp] theorem State.setCore_net (s : State) (k : Nat) (v : Core) : (s.setCore k v).net = s.net := rfl
@[simp] theorem State.setCore_slices (s : State) (k : Nat) (v : Core) : (s.setCore k v).slices = s.slices := rfl
@[simp] theorem State.setCore_snaps (s : State) (k : Nat) (v : Core) : (s.setCore k v).snaps = s.snaps := rfl
@[simp] theorem State.setCore_seals (s : State) (k : Nat) (v : Core) : (s.setCore k v).seals = s.seals := rfl
@[simp] theorem State.setCore_tlb (s : State) (k : Nat) (v : Core) : (s.setCore k v).tlb = s.tlb := rfl
@[simp] theorem State.setCore_tlbinv (s : State) (k : Nat) (v : Core) : (s.setCore k v).tlbinv = s.tlbinv := rfl
@[simp] theorem State.setCore_retired (s : State) (k : Nat) (v : Core) : (s.setCore k v).retired = s.retired := rfl
@[simp] theorem State.setCore_faults (s : State) (k : Nat) (v : Core) : (s.setCore k v).faults = s.faults := rfl
@[simp] theorem State.setCore_nextTag (s : State) (k : Nat) (v : Core) : (s.setCore k v).nextTag = s.nextTag := rfl
@[simp] theorem State.setCore_seq (s : State) (k : Nat) (v : Core) : (s.setCore k v).seq = s.seq := rfl
@[simp] theorem State.setCore_tiles (s : State) (k : Nat) (v : Core) : (s.setCore k v).tiles = s.tiles := rfl
@[simp] theorem State.setCore_pkg (s : State) (k : Nat) (v : Core) : (s.setCore k v).pkg = s.pkg := rfl

@[simp] theorem State.modCore_cycle (s : State) (k : Nat) (f : Core → Core) : (s.modCore k f).cycle = s.cycle := rfl
@[simp] theorem State.modCore_draw (s : State) (k : Nat) (f : Core → Core) : (s.modCore k f).draw = s.draw := rfl
@[simp] theorem State.modCore_nextOp (s : State) (k : Nat) (f : Core → Core) : (s.modCore k f).nextOp = s.nextOp := rfl
@[simp] theorem State.modCore_lastEngine (s : State) (k : Nat) (f : Core → Core) : (s.modCore k f).lastEngine = s.lastEngine := rfl
@[simp] theorem State.modCore_agenda (s : State) (k : Nat) (f : Core → Core) : (s.modCore k f).agenda = s.agenda := rfl
@[simp] theorem State.modCore_cur (s : State) (k : Nat) (f : Core → Core) : (s.modCore k f).cur = s.cur := rfl
@[simp] theorem State.modCore_mem (s : State) (k : Nat) (f : Core → Core) : (s.modCore k f).mem = s.mem := rfl
@[simp] theorem State.modCore_memBad (s : State) (k : Nat) (f : Core → Core) : (s.modCore k f).memBad = s.memBad := rfl
@[simp] theorem State.modCore_warps (s : State) (k : Nat) (f : Core → Core) : (s.modCore k f).warps = s.warps := rfl
@[simp] theorem State.modCore_quads (s : State) (k : Nat) (f : Core → Core) : (s.modCore k f).quads = s.quads := rfl
@[simp] theorem State.modCore_crews (s : State) (k : Nat) (f : Core → Core) : (s.modCore k f).crews = s.crews := rfl
@[simp] theorem State.modCore_cores (s : State) (k : Nat) (f : Core → Core) : (s.modCore k f).cores = fmPut s.cores k (f (s.core k)) := rfl
@[simp] theorem State.modCore_clusters (s : State) (k : Nat) (f : Core → Core) : (s.modCore k f).clusters = s.clusters := rfl
@[simp] theorem State.modCore_dies (s : State) (k : Nat) (f : Core → Core) : (s.modCore k f).dies = s.dies := rfl
@[simp] theorem State.modCore_outs (s : State) (k : Nat) (f : Core → Core) : (s.modCore k f).outs = s.outs := rfl
@[simp] theorem State.modCore_foreign (s : State) (k : Nat) (f : Core → Core) : (s.modCore k f).foreign = s.foreign := rfl
@[simp] theorem State.modCore_net (s : State) (k : Nat) (f : Core → Core) : (s.modCore k f).net = s.net := rfl
@[simp] theorem State.modCore_slices (s : State) (k : Nat) (f : Core → Core) : (s.modCore k f).slices = s.slices := rfl
@[simp] theorem State.modCore_snaps (s : State) (k : Nat) (f : Core → Core) : (s.modCore k f).snaps = s.snaps := rfl
@[simp] theorem State.modCore_seals (s : State) (k : Nat) (f : Core → Core) : (s.modCore k f).seals = s.seals := rfl
@[simp] theorem State.modCore_tlb (s : State) (k : Nat) (f : Core → Core) : (s.modCore k f).tlb = s.tlb := rfl
@[simp] theorem State.modCore_tlbinv (s : State) (k : Nat) (f : Core → Core) : (s.modCore k f).tlbinv = s.tlbinv := rfl
@[simp] theorem State.modCore_retired (s : State) (k : Nat) (f : Core → Core) : (s.modCore k f).retired = s.retired := rfl
@[simp] theorem State.modCore_faults (s : State) (k : Nat) (f : Core → Core) : (s.modCore k f).faults = s.faults := rfl
@[simp] theorem State.modCore_nextTag (s : State) (k : Nat) (f : Core → Core) : (s.modCore k f).nextTag = s.nextTag := rfl
@[simp] theorem State.modCore_seq (s : State) (k : Nat) (f : Core → Core) : (s.modCore k f).seq = s.seq := rfl
@[simp] theorem State.modCore_tiles (s : State) (k : Nat) (f : Core → Core) : (s.modCore k f).tiles = s.tiles := rfl
@[simp] theorem State.modCore_pkg (s : State) (k : Nat) (f : Core → Core) : (s.modCore k f).pkg = s.pkg := rfl

@[simp] theorem State.setDie_cycle (s : State) (k : Nat) (v : Die) : (s.setDie k v).cycle = s.cycle := rfl
@[simp] theorem State.setDie_draw (s : State) (k : Nat) (v : Die) : (s.setDie k v).draw = s.draw := rfl
@[simp] theorem State.setDie_nextOp (s : State) (k : Nat) (v : Die) : (s.setDie k v).nextOp = s.nextOp := rfl
@[simp] theorem State.setDie_lastEngine (s : State) (k : Nat) (v : Die) : (s.setDie k v).lastEngine = s.lastEngine := rfl
@[simp] theorem State.setDie_agenda (s : State) (k : Nat) (v : Die) : (s.setDie k v).agenda = s.agenda := rfl
@[simp] theorem State.setDie_cur (s : State) (k : Nat) (v : Die) : (s.setDie k v).cur = s.cur := rfl
@[simp] theorem State.setDie_mem (s : State) (k : Nat) (v : Die) : (s.setDie k v).mem = s.mem := rfl
@[simp] theorem State.setDie_memBad (s : State) (k : Nat) (v : Die) : (s.setDie k v).memBad = s.memBad := rfl
@[simp] theorem State.setDie_warps (s : State) (k : Nat) (v : Die) : (s.setDie k v).warps = s.warps := rfl
@[simp] theorem State.setDie_quads (s : State) (k : Nat) (v : Die) : (s.setDie k v).quads = s.quads := rfl
@[simp] theorem State.setDie_crews (s : State) (k : Nat) (v : Die) : (s.setDie k v).crews = s.crews := rfl
@[simp] theorem State.setDie_cores (s : State) (k : Nat) (v : Die) : (s.setDie k v).cores = s.cores := rfl
@[simp] theorem State.setDie_clusters (s : State) (k : Nat) (v : Die) : (s.setDie k v).clusters = s.clusters := rfl
@[simp] theorem State.setDie_dies (s : State) (k : Nat) (v : Die) : (s.setDie k v).dies = fmPut s.dies k v := rfl
@[simp] theorem State.setDie_outs (s : State) (k : Nat) (v : Die) : (s.setDie k v).outs = s.outs := rfl
@[simp] theorem State.setDie_foreign (s : State) (k : Nat) (v : Die) : (s.setDie k v).foreign = s.foreign := rfl
@[simp] theorem State.setDie_net (s : State) (k : Nat) (v : Die) : (s.setDie k v).net = s.net := rfl
@[simp] theorem State.setDie_slices (s : State) (k : Nat) (v : Die) : (s.setDie k v).slices = s.slices := rfl
@[simp] theorem State.setDie_snaps (s : State) (k : Nat) (v : Die) : (s.setDie k v).snaps = s.snaps := rfl
@[simp] theorem State.setDie_seals (s : State) (k : Nat) (v : Die) : (s.setDie k v).seals = s.seals := rfl
@[simp] theorem State.setDie_tlb (s : State) (k : Nat) (v : Die) : (s.setDie k v).tlb = s.tlb := rfl
@[simp] theorem State.setDie_tlbinv (s : State) (k : Nat) (v : Die) : (s.setDie k v).tlbinv = s.tlbinv := rfl
@[simp] theorem State.setDie_retired (s : State) (k : Nat) (v : Die) : (s.setDie k v).retired = s.retired := rfl
@[simp] theorem State.setDie_faults (s : State) (k : Nat) (v : Die) : (s.setDie k v).faults = s.faults := rfl
@[simp] theorem State.setDie_nextTag (s : State) (k : Nat) (v : Die) : (s.setDie k v).nextTag = s.nextTag := rfl
@[simp] theorem State.setDie_seq (s : State) (k : Nat) (v : Die) : (s.setDie k v).seq = s.seq := rfl
@[simp] theorem State.setDie_tiles (s : State) (k : Nat) (v : Die) : (s.setDie k v).tiles = s.tiles := rfl
@[simp] theorem State.setDie_pkg (s : State) (k : Nat) (v : Die) : (s.setDie k v).pkg = s.pkg := rfl

@[simp] theorem State.setSlice_cycle (s : State) (k : Nat) (v : Slice) : (s.setSlice k v).cycle = s.cycle := rfl
@[simp] theorem State.setSlice_draw (s : State) (k : Nat) (v : Slice) : (s.setSlice k v).draw = s.draw := rfl
@[simp] theorem State.setSlice_nextOp (s : State) (k : Nat) (v : Slice) : (s.setSlice k v).nextOp = s.nextOp := rfl
@[simp] theorem State.setSlice_lastEngine (s : State) (k : Nat) (v : Slice) : (s.setSlice k v).lastEngine = s.lastEngine := rfl
@[simp] theorem State.setSlice_agenda (s : State) (k : Nat) (v : Slice) : (s.setSlice k v).agenda = s.agenda := rfl
@[simp] theorem State.setSlice_cur (s : State) (k : Nat) (v : Slice) : (s.setSlice k v).cur = s.cur := rfl
@[simp] theorem State.setSlice_mem (s : State) (k : Nat) (v : Slice) : (s.setSlice k v).mem = s.mem := rfl
@[simp] theorem State.setSlice_memBad (s : State) (k : Nat) (v : Slice) : (s.setSlice k v).memBad = s.memBad := rfl
@[simp] theorem State.setSlice_warps (s : State) (k : Nat) (v : Slice) : (s.setSlice k v).warps = s.warps := rfl
@[simp] theorem State.setSlice_quads (s : State) (k : Nat) (v : Slice) : (s.setSlice k v).quads = s.quads := rfl
@[simp] theorem State.setSlice_crews (s : State) (k : Nat) (v : Slice) : (s.setSlice k v).crews = s.crews := rfl
@[simp] theorem State.setSlice_cores (s : State) (k : Nat) (v : Slice) : (s.setSlice k v).cores = s.cores := rfl
@[simp] theorem State.setSlice_clusters (s : State) (k : Nat) (v : Slice) : (s.setSlice k v).clusters = s.clusters := rfl
@[simp] theorem State.setSlice_dies (s : State) (k : Nat) (v : Slice) : (s.setSlice k v).dies = s.dies := rfl
@[simp] theorem State.setSlice_outs (s : State) (k : Nat) (v : Slice) : (s.setSlice k v).outs = s.outs := rfl
@[simp] theorem State.setSlice_foreign (s : State) (k : Nat) (v : Slice) : (s.setSlice k v).foreign = s.foreign := rfl
@[simp] theorem State.setSlice_net (s : State) (k : Nat) (v : Slice) : (s.setSlice k v).net = s.net := rfl
@[simp] theorem State.setSlice_slices (s : State) (k : Nat) (v : Slice) : (s.setSlice k v).slices = fmPut s.slices k v := rfl
@[simp] theorem State.setSlice_snaps (s : State) (k : Nat) (v : Slice) : (s.setSlice k v).snaps = s.snaps := rfl
@[simp] theorem State.setSlice_seals (s : State) (k : Nat) (v : Slice) : (s.setSlice k v).seals = s.seals := rfl
@[simp] theorem State.setSlice_tlb (s : State) (k : Nat) (v : Slice) : (s.setSlice k v).tlb = s.tlb := rfl
@[simp] theorem State.setSlice_tlbinv (s : State) (k : Nat) (v : Slice) : (s.setSlice k v).tlbinv = s.tlbinv := rfl
@[simp] theorem State.setSlice_retired (s : State) (k : Nat) (v : Slice) : (s.setSlice k v).retired = s.retired := rfl
@[simp] theorem State.setSlice_faults (s : State) (k : Nat) (v : Slice) : (s.setSlice k v).faults = s.faults := rfl
@[simp] theorem State.setSlice_nextTag (s : State) (k : Nat) (v : Slice) : (s.setSlice k v).nextTag = s.nextTag := rfl
@[simp] theorem State.setSlice_seq (s : State) (k : Nat) (v : Slice) : (s.setSlice k v).seq = s.seq := rfl
@[simp] theorem State.setSlice_tiles (s : State) (k : Nat) (v : Slice) : (s.setSlice k v).tiles = s.tiles := rfl
@[simp] theorem State.setSlice_pkg (s : State) (k : Nat) (v : Slice) : (s.setSlice k v).pkg = s.pkg := rfl

@[simp] theorem State.modSlice_cycle (s : State) (k : Nat) (f : Slice → Slice) : (s.modSlice k f).cycle = s.cycle := rfl
@[simp] theorem State.modSlice_draw (s : State) (k : Nat) (f : Slice → Slice) : (s.modSlice k f).draw = s.draw := rfl
@[simp] theorem State.modSlice_nextOp (s : State) (k : Nat) (f : Slice → Slice) : (s.modSlice k f).nextOp = s.nextOp := rfl
@[simp] theorem State.modSlice_lastEngine (s : State) (k : Nat) (f : Slice → Slice) : (s.modSlice k f).lastEngine = s.lastEngine := rfl
@[simp] theorem State.modSlice_agenda (s : State) (k : Nat) (f : Slice → Slice) : (s.modSlice k f).agenda = s.agenda := rfl
@[simp] theorem State.modSlice_cur (s : State) (k : Nat) (f : Slice → Slice) : (s.modSlice k f).cur = s.cur := rfl
@[simp] theorem State.modSlice_mem (s : State) (k : Nat) (f : Slice → Slice) : (s.modSlice k f).mem = s.mem := rfl
@[simp] theorem State.modSlice_memBad (s : State) (k : Nat) (f : Slice → Slice) : (s.modSlice k f).memBad = s.memBad := rfl
@[simp] theorem State.modSlice_warps (s : State) (k : Nat) (f : Slice → Slice) : (s.modSlice k f).warps = s.warps := rfl
@[simp] theorem State.modSlice_quads (s : State) (k : Nat) (f : Slice → Slice) : (s.modSlice k f).quads = s.quads := rfl
@[simp] theorem State.modSlice_crews (s : State) (k : Nat) (f : Slice → Slice) : (s.modSlice k f).crews = s.crews := rfl
@[simp] theorem State.modSlice_cores (s : State) (k : Nat) (f : Slice → Slice) : (s.modSlice k f).cores = s.cores := rfl
@[simp] theorem State.modSlice_clusters (s : State) (k : Nat) (f : Slice → Slice) : (s.modSlice k f).clusters = s.clusters := rfl
@[simp] theorem State.modSlice_dies (s : State) (k : Nat) (f : Slice → Slice) : (s.modSlice k f).dies = s.dies := rfl
@[simp] theorem State.modSlice_outs (s : State) (k : Nat) (f : Slice → Slice) : (s.modSlice k f).outs = s.outs := rfl
@[simp] theorem State.modSlice_foreign (s : State) (k : Nat) (f : Slice → Slice) : (s.modSlice k f).foreign = s.foreign := rfl
@[simp] theorem State.modSlice_net (s : State) (k : Nat) (f : Slice → Slice) : (s.modSlice k f).net = s.net := rfl
@[simp] theorem State.modSlice_slices (s : State) (k : Nat) (f : Slice → Slice) : (s.modSlice k f).slices = fmPut s.slices k (f (s.slice k)) := rfl
@[simp] theorem State.modSlice_snaps (s : State) (k : Nat) (f : Slice → Slice) : (s.modSlice k f).snaps = s.snaps := rfl
@[simp] theorem State.modSlice_seals (s : State) (k : Nat) (f : Slice → Slice) : (s.modSlice k f).seals = s.seals := rfl
@[simp] theorem State.modSlice_tlb (s : State) (k : Nat) (f : Slice → Slice) : (s.modSlice k f).tlb = s.tlb := rfl
@[simp] theorem State.modSlice_tlbinv (s : State) (k : Nat) (f : Slice → Slice) : (s.modSlice k f).tlbinv = s.tlbinv := rfl
@[simp] theorem State.modSlice_retired (s : State) (k : Nat) (f : Slice → Slice) : (s.modSlice k f).retired = s.retired := rfl
@[simp] theorem State.modSlice_faults (s : State) (k : Nat) (f : Slice → Slice) : (s.modSlice k f).faults = s.faults := rfl
@[simp] theorem State.modSlice_nextTag (s : State) (k : Nat) (f : Slice → Slice) : (s.modSlice k f).nextTag = s.nextTag := rfl
@[simp] theorem State.modSlice_seq (s : State) (k : Nat) (f : Slice → Slice) : (s.modSlice k f).seq = s.seq := rfl
@[simp] theorem State.modSlice_tiles (s : State) (k : Nat) (f : Slice → Slice) : (s.modSlice k f).tiles = s.tiles := rfl
@[simp] theorem State.modSlice_pkg (s : State) (k : Nat) (f : Slice → Slice) : (s.modSlice k f).pkg = s.pkg := rfl

@[simp] theorem State.setCluster_cycle (s : State) (k : Nat) (v : Cluster) : (s.setCluster k v).cycle = s.cycle := rfl
@[simp] theorem State.setCluster_draw (s : State) (k : Nat) (v : Cluster) : (s.setCluster k v).draw = s.draw := rfl
@[simp] theorem State.setCluster_nextOp (s : State) (k : Nat) (v : Cluster) : (s.setCluster k v).nextOp = s.nextOp := rfl
@[simp] theorem State.setCluster_lastEngine (s : State) (k : Nat) (v : Cluster) : (s.setCluster k v).lastEngine = s.lastEngine := rfl
@[simp] theorem State.setCluster_agenda (s : State) (k : Nat) (v : Cluster) : (s.setCluster k v).agenda = s.agenda := rfl
@[simp] theorem State.setCluster_cur (s : State) (k : Nat) (v : Cluster) : (s.setCluster k v).cur = s.cur := rfl
@[simp] theorem State.setCluster_mem (s : State) (k : Nat) (v : Cluster) : (s.setCluster k v).mem = s.mem := rfl
@[simp] theorem State.setCluster_memBad (s : State) (k : Nat) (v : Cluster) : (s.setCluster k v).memBad = s.memBad := rfl
@[simp] theorem State.setCluster_warps (s : State) (k : Nat) (v : Cluster) : (s.setCluster k v).warps = s.warps := rfl
@[simp] theorem State.setCluster_quads (s : State) (k : Nat) (v : Cluster) : (s.setCluster k v).quads = s.quads := rfl
@[simp] theorem State.setCluster_crews (s : State) (k : Nat) (v : Cluster) : (s.setCluster k v).crews = s.crews := rfl
@[simp] theorem State.setCluster_cores (s : State) (k : Nat) (v : Cluster) : (s.setCluster k v).cores = s.cores := rfl
@[simp] theorem State.setCluster_clusters (s : State) (k : Nat) (v : Cluster) : (s.setCluster k v).clusters = fmPut s.clusters k v := rfl
@[simp] theorem State.setCluster_dies (s : State) (k : Nat) (v : Cluster) : (s.setCluster k v).dies = s.dies := rfl
@[simp] theorem State.setCluster_outs (s : State) (k : Nat) (v : Cluster) : (s.setCluster k v).outs = s.outs := rfl
@[simp] theorem State.setCluster_foreign (s : State) (k : Nat) (v : Cluster) : (s.setCluster k v).foreign = s.foreign := rfl
@[simp] theorem State.setCluster_net (s : State) (k : Nat) (v : Cluster) : (s.setCluster k v).net = s.net := rfl
@[simp] theorem State.setCluster_slices (s : State) (k : Nat) (v : Cluster) : (s.setCluster k v).slices = s.slices := rfl
@[simp] theorem State.setCluster_snaps (s : State) (k : Nat) (v : Cluster) : (s.setCluster k v).snaps = s.snaps := rfl
@[simp] theorem State.setCluster_seals (s : State) (k : Nat) (v : Cluster) : (s.setCluster k v).seals = s.seals := rfl
@[simp] theorem State.setCluster_tlb (s : State) (k : Nat) (v : Cluster) : (s.setCluster k v).tlb = s.tlb := rfl
@[simp] theorem State.setCluster_tlbinv (s : State) (k : Nat) (v : Cluster) : (s.setCluster k v).tlbinv = s.tlbinv := rfl
@[simp] theorem State.setCluster_retired (s : State) (k : Nat) (v : Cluster) : (s.setCluster k v).retired = s.retired := rfl
@[simp] theorem State.setCluster_faults (s : State) (k : Nat) (v : Cluster) : (s.setCluster k v).faults = s.faults := rfl
@[simp] theorem State.setCluster_nextTag (s : State) (k : Nat) (v : Cluster) : (s.setCluster k v).nextTag = s.nextTag := rfl
@[simp] theorem State.setCluster_seq (s : State) (k : Nat) (v : Cluster) : (s.setCluster k v).seq = s.seq := rfl
@[simp] theorem State.setCluster_tiles (s : State) (k : Nat) (v : Cluster) : (s.setCluster k v).tiles = s.tiles := rfl
@[simp] theorem State.setCluster_pkg (s : State) (k : Nat) (v : Cluster) : (s.setCluster k v).pkg = s.pkg := rfl

@[simp] theorem State.modCluster_cycle (s : State) (k : Nat) (f : Cluster → Cluster) : (s.modCluster k f).cycle = s.cycle := rfl
@[simp] theorem State.modCluster_draw (s : State) (k : Nat) (f : Cluster → Cluster) : (s.modCluster k f).draw = s.draw := rfl
@[simp] theorem State.modCluster_nextOp (s : State) (k : Nat) (f : Cluster → Cluster) : (s.modCluster k f).nextOp = s.nextOp := rfl
@[simp] theorem State.modCluster_lastEngine (s : State) (k : Nat) (f : Cluster → Cluster) : (s.modCluster k f).lastEngine = s.lastEngine := rfl
@[simp] theorem State.modCluster_agenda (s : State) (k : Nat) (f : Cluster → Cluster) : (s.modCluster k f).agenda = s.agenda := rfl
@[simp] theorem State.modCluster_cur (s : State) (k : Nat) (f : Cluster → Cluster) : (s.modCluster k f).cur = s.cur := rfl
@[simp] theorem State.modCluster_mem (s : State) (k : Nat) (f : Cluster → Cluster) : (s.modCluster k f).mem = s.mem := rfl
@[simp] theorem State.modCluster_memBad (s : State) (k : Nat) (f : Cluster → Cluster) : (s.modCluster k f).memBad = s.memBad := rfl
@[simp] theorem State.modCluster_warps (s : State) (k : Nat) (f : Cluster → Cluster) : (s.modCluster k f).warps = s.warps := rfl
@[simp] theorem State.modCluster_quads (s : State) (k : Nat) (f : Cluster → Cluster) : (s.modCluster k f).quads = s.quads := rfl
@[simp] theorem State.modCluster_crews (s : State) (k : Nat) (f : Cluster → Cluster) : (s.modCluster k f).crews = s.crews := rfl
@[simp] theorem State.modCluster_cores (s : State) (k : Nat) (f : Cluster → Cluster) : (s.modCluster k f).cores = s.cores := rfl
@[simp] theorem State.modCluster_clusters (s : State) (k : Nat) (f : Cluster → Cluster) : (s.modCluster k f).clusters = fmPut s.clusters k (f (s.cluster k)) := rfl
@[simp] theorem State.modCluster_dies (s : State) (k : Nat) (f : Cluster → Cluster) : (s.modCluster k f).dies = s.dies := rfl
@[simp] theorem State.modCluster_outs (s : State) (k : Nat) (f : Cluster → Cluster) : (s.modCluster k f).outs = s.outs := rfl
@[simp] theorem State.modCluster_foreign (s : State) (k : Nat) (f : Cluster → Cluster) : (s.modCluster k f).foreign = s.foreign := rfl
@[simp] theorem State.modCluster_net (s : State) (k : Nat) (f : Cluster → Cluster) : (s.modCluster k f).net = s.net := rfl
@[simp] theorem State.modCluster_slices (s : State) (k : Nat) (f : Cluster → Cluster) : (s.modCluster k f).slices = s.slices := rfl
@[simp] theorem State.modCluster_snaps (s : State) (k : Nat) (f : Cluster → Cluster) : (s.modCluster k f).snaps = s.snaps := rfl
@[simp] theorem State.modCluster_seals (s : State) (k : Nat) (f : Cluster → Cluster) : (s.modCluster k f).seals = s.seals := rfl
@[simp] theorem State.modCluster_tlb (s : State) (k : Nat) (f : Cluster → Cluster) : (s.modCluster k f).tlb = s.tlb := rfl
@[simp] theorem State.modCluster_tlbinv (s : State) (k : Nat) (f : Cluster → Cluster) : (s.modCluster k f).tlbinv = s.tlbinv := rfl
@[simp] theorem State.modCluster_retired (s : State) (k : Nat) (f : Cluster → Cluster) : (s.modCluster k f).retired = s.retired := rfl
@[simp] theorem State.modCluster_faults (s : State) (k : Nat) (f : Cluster → Cluster) : (s.modCluster k f).faults = s.faults := rfl
@[simp] theorem State.modCluster_nextTag (s : State) (k : Nat) (f : Cluster → Cluster) : (s.modCluster k f).nextTag = s.nextTag := rfl
@[simp] theorem State.modCluster_seq (s : State) (k : Nat) (f : Cluster → Cluster) : (s.modCluster k f).seq = s.seq := rfl
@[simp] theorem State.modCluster_tiles (s : State) (k : Nat) (f : Cluster → Cluster) : (s.modCluster k f).tiles = s.tiles := rfl
@[simp] theorem State.modCluster_pkg (s : State) (k : Nat) (f : Cluster → Cluster) : (s.modCluster k f).pkg = s.pkg := rfl

@[simp] theorem State.setSnap_cycle (s : State) (k : Nat) (v : Snap) : (s.setSnap k v).cycle = s.cycle := rfl
@[simp] theorem State.setSnap_draw (s : State) (k : Nat) (v : Snap) : (s.setSnap k v).draw = s.draw := rfl
@[simp] theorem State.setSnap_nextOp (s : State) (k : Nat) (v : Snap) : (s.setSnap k v).nextOp = s.nextOp := rfl
@[simp] theorem State.setSnap_lastEngine (s : State) (k : Nat) (v : Snap) : (s.setSnap k v).lastEngine = s.lastEngine := rfl
@[simp] theorem State.setSnap_agenda (s : State) (k : Nat) (v : Snap) : (s.setSnap k v).agenda = s.agenda := rfl
@[simp] theorem State.setSnap_cur (s : State) (k : Nat) (v : Snap) : (s.setSnap k v).cur = s.cur := rfl
@[simp] theorem State.setSnap_mem (s : State) (k : Nat) (v : Snap) : (s.setSnap k v).mem = s.mem := rfl
@[simp] theorem State.setSnap_memBad (s : State) (k : Nat) (v : Snap) : (s.setSnap k v).memBad = s.memBad := rfl
@[simp] theorem State.setSnap_warps (s : State) (k : Nat) (v : Snap) : (s.setSnap k v).warps = s.warps := rfl
@[simp] theorem State.setSnap_quads (s : State) (k : Nat) (v : Snap) : (s.setSnap k v).quads = s.quads := rfl
@[simp] theorem State.setSnap_crews (s : State) (k : Nat) (v : Snap) : (s.setSnap k v).crews = s.crews := rfl
@[simp] theorem State.setSnap_cores (s : State) (k : Nat) (v : Snap) : (s.setSnap k v).cores = s.cores := rfl
@[simp] theorem State.setSnap_clusters (s : State) (k : Nat) (v : Snap) : (s.setSnap k v).clusters = s.clusters := rfl
@[simp] theorem State.setSnap_dies (s : State) (k : Nat) (v : Snap) : (s.setSnap k v).dies = s.dies := rfl
@[simp] theorem State.setSnap_outs (s : State) (k : Nat) (v : Snap) : (s.setSnap k v).outs = s.outs := rfl
@[simp] theorem State.setSnap_foreign (s : State) (k : Nat) (v : Snap) : (s.setSnap k v).foreign = s.foreign := rfl
@[simp] theorem State.setSnap_net (s : State) (k : Nat) (v : Snap) : (s.setSnap k v).net = s.net := rfl
@[simp] theorem State.setSnap_slices (s : State) (k : Nat) (v : Snap) : (s.setSnap k v).slices = s.slices := rfl
@[simp] theorem State.setSnap_snaps (s : State) (k : Nat) (v : Snap) : (s.setSnap k v).snaps = (List.range 16).map (fun i => if i = k then v else s.snap i) := rfl
@[simp] theorem State.setSnap_seals (s : State) (k : Nat) (v : Snap) : (s.setSnap k v).seals = s.seals := rfl
@[simp] theorem State.setSnap_tlb (s : State) (k : Nat) (v : Snap) : (s.setSnap k v).tlb = s.tlb := rfl
@[simp] theorem State.setSnap_tlbinv (s : State) (k : Nat) (v : Snap) : (s.setSnap k v).tlbinv = s.tlbinv := rfl
@[simp] theorem State.setSnap_retired (s : State) (k : Nat) (v : Snap) : (s.setSnap k v).retired = s.retired := rfl
@[simp] theorem State.setSnap_faults (s : State) (k : Nat) (v : Snap) : (s.setSnap k v).faults = s.faults := rfl
@[simp] theorem State.setSnap_nextTag (s : State) (k : Nat) (v : Snap) : (s.setSnap k v).nextTag = s.nextTag := rfl
@[simp] theorem State.setSnap_seq (s : State) (k : Nat) (v : Snap) : (s.setSnap k v).seq = s.seq := rfl
@[simp] theorem State.setSnap_tiles (s : State) (k : Nat) (v : Snap) : (s.setSnap k v).tiles = s.tiles := rfl
@[simp] theorem State.setSnap_pkg (s : State) (k : Nat) (v : Snap) : (s.setSnap k v).pkg = s.pkg := rfl

@[simp] theorem State.modPkg_cycle (s : State) (f : Pkg → Pkg) : (s.modPkg f).cycle = s.cycle := rfl
@[simp] theorem State.modPkg_draw (s : State) (f : Pkg → Pkg) : (s.modPkg f).draw = s.draw := rfl
@[simp] theorem State.modPkg_nextOp (s : State) (f : Pkg → Pkg) : (s.modPkg f).nextOp = s.nextOp := rfl
@[simp] theorem State.modPkg_lastEngine (s : State) (f : Pkg → Pkg) : (s.modPkg f).lastEngine = s.lastEngine := rfl
@[simp] theorem State.modPkg_agenda (s : State) (f : Pkg → Pkg) : (s.modPkg f).agenda = s.agenda := rfl
@[simp] theorem State.modPkg_cur (s : State) (f : Pkg → Pkg) : (s.modPkg f).cur = s.cur := rfl
@[simp] theorem State.modPkg_mem (s : State) (f : Pkg → Pkg) : (s.modPkg f).mem = s.mem := rfl
@[simp] theorem State.modPkg_memBad (s : State) (f : Pkg → Pkg) : (s.modPkg f).memBad = s.memBad := rfl
@[simp] theorem State.modPkg_warps (s : State) (f : Pkg → Pkg) : (s.modPkg f).warps = s.warps := rfl
@[simp] theorem State.modPkg_quads (s : State) (f : Pkg → Pkg) : (s.modPkg f).quads = s.quads := rfl
@[simp] theorem State.modPkg_crews (s : State) (f : Pkg → Pkg) : (s.modPkg f).crews = s.crews := rfl
@[simp] theorem State.modPkg_cores (s : State) (f : Pkg → Pkg) : (s.modPkg f).cores = s.cores := rfl
@[simp] theorem State.modPkg_clusters (s : State) (f : Pkg → Pkg) : (s.modPkg f).clusters = s.clusters := rfl
@[simp] theorem State.modPkg_dies (s : State) (f : Pkg → Pkg) : (s.modPkg f).dies = s.dies := rfl
@[simp] theorem State.modPkg_outs (s : State) (f : Pkg → Pkg) : (s.modPkg f).outs = s.outs := rfl
@[simp] theorem State.modPkg_foreign (s : State) (f : Pkg → Pkg) : (s.modPkg f).foreign = s.foreign := rfl
@[simp] theorem State.modPkg_net (s : State) (f : Pkg → Pkg) : (s.modPkg f).net = s.net := rfl
@[simp] theorem State.modPkg_slices (s : State) (f : Pkg → Pkg) : (s.modPkg f).slices = s.slices := rfl
@[simp] theorem State.modPkg_snaps (s : State) (f : Pkg → Pkg) : (s.modPkg f).snaps = s.snaps := rfl
@[simp] theorem State.modPkg_seals (s : State) (f : Pkg → Pkg) : (s.modPkg f).seals = s.seals := rfl
@[simp] theorem State.modPkg_tlb (s : State) (f : Pkg → Pkg) : (s.modPkg f).tlb = s.tlb := rfl
@[simp] theorem State.modPkg_tlbinv (s : State) (f : Pkg → Pkg) : (s.modPkg f).tlbinv = s.tlbinv := rfl
@[simp] theorem State.modPkg_retired (s : State) (f : Pkg → Pkg) : (s.modPkg f).retired = s.retired := rfl
@[simp] theorem State.modPkg_faults (s : State) (f : Pkg → Pkg) : (s.modPkg f).faults = s.faults := rfl
@[simp] theorem State.modPkg_nextTag (s : State) (f : Pkg → Pkg) : (s.modPkg f).nextTag = s.nextTag := rfl
@[simp] theorem State.modPkg_seq (s : State) (f : Pkg → Pkg) : (s.modPkg f).seq = s.seq := rfl
@[simp] theorem State.modPkg_tiles (s : State) (f : Pkg → Pkg) : (s.modPkg f).tiles = s.tiles := rfl
@[simp] theorem State.modPkg_pkg (s : State) (f : Pkg → Pkg) : (s.modPkg f).pkg = f s.pkg := rfl

@[simp] theorem State.setRing_cycle (s : State) (k : Nat) (v : Ring) : (s.setRing k v).cycle = s.cycle := rfl
@[simp] theorem State.setRing_draw (s : State) (k : Nat) (v : Ring) : (s.setRing k v).draw = s.draw := rfl
@[simp] theorem State.setRing_nextOp (s : State) (k : Nat) (v : Ring) : (s.setRing k v).nextOp = s.nextOp := rfl
@[simp] theorem State.setRing_lastEngine (s : State) (k : Nat) (v : Ring) : (s.setRing k v).lastEngine = s.lastEngine := rfl
@[simp] theorem State.setRing_agenda (s : State) (k : Nat) (v : Ring) : (s.setRing k v).agenda = s.agenda := rfl
@[simp] theorem State.setRing_cur (s : State) (k : Nat) (v : Ring) : (s.setRing k v).cur = s.cur := rfl
@[simp] theorem State.setRing_mem (s : State) (k : Nat) (v : Ring) : (s.setRing k v).mem = s.mem := rfl
@[simp] theorem State.setRing_memBad (s : State) (k : Nat) (v : Ring) : (s.setRing k v).memBad = s.memBad := rfl
@[simp] theorem State.setRing_warps (s : State) (k : Nat) (v : Ring) : (s.setRing k v).warps = s.warps := rfl
@[simp] theorem State.setRing_quads (s : State) (k : Nat) (v : Ring) : (s.setRing k v).quads = s.quads := rfl
@[simp] theorem State.setRing_crews (s : State) (k : Nat) (v : Ring) : (s.setRing k v).crews = s.crews := rfl
@[simp] theorem State.setRing_cores (s : State) (k : Nat) (v : Ring) : (s.setRing k v).cores = s.cores := rfl
@[simp] theorem State.setRing_clusters (s : State) (k : Nat) (v : Ring) : (s.setRing k v).clusters = s.clusters := rfl
@[simp] theorem State.setRing_dies (s : State) (k : Nat) (v : Ring) : (s.setRing k v).dies = s.dies := rfl
@[simp] theorem State.setRing_outs (s : State) (k : Nat) (v : Ring) : (s.setRing k v).outs = s.outs := rfl
@[simp] theorem State.setRing_foreign (s : State) (k : Nat) (v : Ring) : (s.setRing k v).foreign = s.foreign := rfl
@[simp] theorem State.setRing_net (s : State) (k : Nat) (v : Ring) : (s.setRing k v).net = s.net := rfl
@[simp] theorem State.setRing_slices (s : State) (k : Nat) (v : Ring) : (s.setRing k v).slices = s.slices := rfl
@[simp] theorem State.setRing_snaps (s : State) (k : Nat) (v : Ring) : (s.setRing k v).snaps = s.snaps := rfl
@[simp] theorem State.setRing_seals (s : State) (k : Nat) (v : Ring) : (s.setRing k v).seals = s.seals := rfl
@[simp] theorem State.setRing_tlb (s : State) (k : Nat) (v : Ring) : (s.setRing k v).tlb = s.tlb := rfl
@[simp] theorem State.setRing_tlbinv (s : State) (k : Nat) (v : Ring) : (s.setRing k v).tlbinv = s.tlbinv := rfl
@[simp] theorem State.setRing_retired (s : State) (k : Nat) (v : Ring) : (s.setRing k v).retired = s.retired := rfl
@[simp] theorem State.setRing_faults (s : State) (k : Nat) (v : Ring) : (s.setRing k v).faults = s.faults := rfl
@[simp] theorem State.setRing_nextTag (s : State) (k : Nat) (v : Ring) : (s.setRing k v).nextTag = s.nextTag := rfl
@[simp] theorem State.setRing_seq (s : State) (k : Nat) (v : Ring) : (s.setRing k v).seq = s.seq := rfl
@[simp] theorem State.setRing_tiles (s : State) (k : Nat) (v : Ring) : (s.setRing k v).tiles = s.tiles := rfl
@[simp] theorem State.setRing_pkg (s : State) (k : Nat) (v : Ring) : (s.setRing k v).pkg = { s.pkg with rings := fmPut s.pkg.rings k v } := rfl

@[simp] theorem State.setFring_cycle (s : State) (k : Nat) (v : FRing) : (s.setFring k v).cycle = s.cycle := rfl
@[simp] theorem State.setFring_draw (s : State) (k : Nat) (v : FRing) : (s.setFring k v).draw = s.draw := rfl
@[simp] theorem State.setFring_nextOp (s : State) (k : Nat) (v : FRing) : (s.setFring k v).nextOp = s.nextOp := rfl
@[simp] theorem State.setFring_lastEngine (s : State) (k : Nat) (v : FRing) : (s.setFring k v).lastEngine = s.lastEngine := rfl
@[simp] theorem State.setFring_agenda (s : State) (k : Nat) (v : FRing) : (s.setFring k v).agenda = s.agenda := rfl
@[simp] theorem State.setFring_cur (s : State) (k : Nat) (v : FRing) : (s.setFring k v).cur = s.cur := rfl
@[simp] theorem State.setFring_mem (s : State) (k : Nat) (v : FRing) : (s.setFring k v).mem = s.mem := rfl
@[simp] theorem State.setFring_memBad (s : State) (k : Nat) (v : FRing) : (s.setFring k v).memBad = s.memBad := rfl
@[simp] theorem State.setFring_warps (s : State) (k : Nat) (v : FRing) : (s.setFring k v).warps = s.warps := rfl
@[simp] theorem State.setFring_quads (s : State) (k : Nat) (v : FRing) : (s.setFring k v).quads = s.quads := rfl
@[simp] theorem State.setFring_crews (s : State) (k : Nat) (v : FRing) : (s.setFring k v).crews = s.crews := rfl
@[simp] theorem State.setFring_cores (s : State) (k : Nat) (v : FRing) : (s.setFring k v).cores = s.cores := rfl
@[simp] theorem State.setFring_clusters (s : State) (k : Nat) (v : FRing) : (s.setFring k v).clusters = s.clusters := rfl
@[simp] theorem State.setFring_dies (s : State) (k : Nat) (v : FRing) : (s.setFring k v).dies = s.dies := rfl
@[simp] theorem State.setFring_outs (s : State) (k : Nat) (v : FRing) : (s.setFring k v).outs = s.outs := rfl
@[simp] theorem State.setFring_foreign (s : State) (k : Nat) (v : FRing) : (s.setFring k v).foreign = s.foreign := rfl
@[simp] theorem State.setFring_net (s : State) (k : Nat) (v : FRing) : (s.setFring k v).net = s.net := rfl
@[simp] theorem State.setFring_slices (s : State) (k : Nat) (v : FRing) : (s.setFring k v).slices = s.slices := rfl
@[simp] theorem State.setFring_snaps (s : State) (k : Nat) (v : FRing) : (s.setFring k v).snaps = s.snaps := rfl
@[simp] theorem State.setFring_seals (s : State) (k : Nat) (v : FRing) : (s.setFring k v).seals = s.seals := rfl
@[simp] theorem State.setFring_tlb (s : State) (k : Nat) (v : FRing) : (s.setFring k v).tlb = s.tlb := rfl
@[simp] theorem State.setFring_tlbinv (s : State) (k : Nat) (v : FRing) : (s.setFring k v).tlbinv = s.tlbinv := rfl
@[simp] theorem State.setFring_retired (s : State) (k : Nat) (v : FRing) : (s.setFring k v).retired = s.retired := rfl
@[simp] theorem State.setFring_faults (s : State) (k : Nat) (v : FRing) : (s.setFring k v).faults = s.faults := rfl
@[simp] theorem State.setFring_nextTag (s : State) (k : Nat) (v : FRing) : (s.setFring k v).nextTag = s.nextTag := rfl
@[simp] theorem State.setFring_seq (s : State) (k : Nat) (v : FRing) : (s.setFring k v).seq = s.seq := rfl
@[simp] theorem State.setFring_tiles (s : State) (k : Nat) (v : FRing) : (s.setFring k v).tiles = s.tiles := rfl
@[simp] theorem State.setFring_pkg (s : State) (k : Nat) (v : FRing) : (s.setFring k v).pkg = { s.pkg with frings := fmPut s.pkg.frings k v } := rfl

@[simp] theorem State.setPlan_cycle (s : State) (k : Nat) (v : Plan) : (s.setPlan k v).cycle = s.cycle := rfl
@[simp] theorem State.setPlan_draw (s : State) (k : Nat) (v : Plan) : (s.setPlan k v).draw = s.draw := rfl
@[simp] theorem State.setPlan_nextOp (s : State) (k : Nat) (v : Plan) : (s.setPlan k v).nextOp = s.nextOp := rfl
@[simp] theorem State.setPlan_lastEngine (s : State) (k : Nat) (v : Plan) : (s.setPlan k v).lastEngine = s.lastEngine := rfl
@[simp] theorem State.setPlan_agenda (s : State) (k : Nat) (v : Plan) : (s.setPlan k v).agenda = s.agenda := rfl
@[simp] theorem State.setPlan_cur (s : State) (k : Nat) (v : Plan) : (s.setPlan k v).cur = s.cur := rfl
@[simp] theorem State.setPlan_mem (s : State) (k : Nat) (v : Plan) : (s.setPlan k v).mem = s.mem := rfl
@[simp] theorem State.setPlan_memBad (s : State) (k : Nat) (v : Plan) : (s.setPlan k v).memBad = s.memBad := rfl
@[simp] theorem State.setPlan_warps (s : State) (k : Nat) (v : Plan) : (s.setPlan k v).warps = s.warps := rfl
@[simp] theorem State.setPlan_quads (s : State) (k : Nat) (v : Plan) : (s.setPlan k v).quads = s.quads := rfl
@[simp] theorem State.setPlan_crews (s : State) (k : Nat) (v : Plan) : (s.setPlan k v).crews = s.crews := rfl
@[simp] theorem State.setPlan_cores (s : State) (k : Nat) (v : Plan) : (s.setPlan k v).cores = s.cores := rfl
@[simp] theorem State.setPlan_clusters (s : State) (k : Nat) (v : Plan) : (s.setPlan k v).clusters = s.clusters := rfl
@[simp] theorem State.setPlan_dies (s : State) (k : Nat) (v : Plan) : (s.setPlan k v).dies = s.dies := rfl
@[simp] theorem State.setPlan_outs (s : State) (k : Nat) (v : Plan) : (s.setPlan k v).outs = s.outs := rfl
@[simp] theorem State.setPlan_foreign (s : State) (k : Nat) (v : Plan) : (s.setPlan k v).foreign = s.foreign := rfl
@[simp] theorem State.setPlan_net (s : State) (k : Nat) (v : Plan) : (s.setPlan k v).net = s.net := rfl
@[simp] theorem State.setPlan_slices (s : State) (k : Nat) (v : Plan) : (s.setPlan k v).slices = s.slices := rfl
@[simp] theorem State.setPlan_snaps (s : State) (k : Nat) (v : Plan) : (s.setPlan k v).snaps = s.snaps := rfl
@[simp] theorem State.setPlan_seals (s : State) (k : Nat) (v : Plan) : (s.setPlan k v).seals = s.seals := rfl
@[simp] theorem State.setPlan_tlb (s : State) (k : Nat) (v : Plan) : (s.setPlan k v).tlb = s.tlb := rfl
@[simp] theorem State.setPlan_tlbinv (s : State) (k : Nat) (v : Plan) : (s.setPlan k v).tlbinv = s.tlbinv := rfl
@[simp] theorem State.setPlan_retired (s : State) (k : Nat) (v : Plan) : (s.setPlan k v).retired = s.retired := rfl
@[simp] theorem State.setPlan_faults (s : State) (k : Nat) (v : Plan) : (s.setPlan k v).faults = s.faults := rfl
@[simp] theorem State.setPlan_nextTag (s : State) (k : Nat) (v : Plan) : (s.setPlan k v).nextTag = s.nextTag := rfl
@[simp] theorem State.setPlan_seq (s : State) (k : Nat) (v : Plan) : (s.setPlan k v).seq = s.seq := rfl
@[simp] theorem State.setPlan_tiles (s : State) (k : Nat) (v : Plan) : (s.setPlan k v).tiles = s.tiles := rfl
@[simp] theorem State.setPlan_pkg (s : State) (k : Nat) (v : Plan) : (s.setPlan k v).pkg = { s.pkg with plans := fmPut s.pkg.plans k v } := rfl

@[simp] theorem State.modConn_cycle (s : State) (k : Nat) (f : Conn → Conn) : (s.modConn k f).cycle = s.cycle := rfl
@[simp] theorem State.modConn_draw (s : State) (k : Nat) (f : Conn → Conn) : (s.modConn k f).draw = s.draw := rfl
@[simp] theorem State.modConn_nextOp (s : State) (k : Nat) (f : Conn → Conn) : (s.modConn k f).nextOp = s.nextOp := rfl
@[simp] theorem State.modConn_lastEngine (s : State) (k : Nat) (f : Conn → Conn) : (s.modConn k f).lastEngine = s.lastEngine := rfl
@[simp] theorem State.modConn_agenda (s : State) (k : Nat) (f : Conn → Conn) : (s.modConn k f).agenda = s.agenda := rfl
@[simp] theorem State.modConn_cur (s : State) (k : Nat) (f : Conn → Conn) : (s.modConn k f).cur = s.cur := rfl
@[simp] theorem State.modConn_mem (s : State) (k : Nat) (f : Conn → Conn) : (s.modConn k f).mem = s.mem := rfl
@[simp] theorem State.modConn_memBad (s : State) (k : Nat) (f : Conn → Conn) : (s.modConn k f).memBad = s.memBad := rfl
@[simp] theorem State.modConn_warps (s : State) (k : Nat) (f : Conn → Conn) : (s.modConn k f).warps = s.warps := rfl
@[simp] theorem State.modConn_quads (s : State) (k : Nat) (f : Conn → Conn) : (s.modConn k f).quads = s.quads := rfl
@[simp] theorem State.modConn_crews (s : State) (k : Nat) (f : Conn → Conn) : (s.modConn k f).crews = s.crews := rfl
@[simp] theorem State.modConn_cores (s : State) (k : Nat) (f : Conn → Conn) : (s.modConn k f).cores = s.cores := rfl
@[simp] theorem State.modConn_clusters (s : State) (k : Nat) (f : Conn → Conn) : (s.modConn k f).clusters = s.clusters := rfl
@[simp] theorem State.modConn_dies (s : State) (k : Nat) (f : Conn → Conn) : (s.modConn k f).dies = s.dies := rfl
@[simp] theorem State.modConn_outs (s : State) (k : Nat) (f : Conn → Conn) : (s.modConn k f).outs = s.outs := rfl
@[simp] theorem State.modConn_foreign (s : State) (k : Nat) (f : Conn → Conn) : (s.modConn k f).foreign = s.foreign := rfl
@[simp] theorem State.modConn_net (s : State) (k : Nat) (f : Conn → Conn) : (s.modConn k f).net = s.net := rfl
@[simp] theorem State.modConn_slices (s : State) (k : Nat) (f : Conn → Conn) : (s.modConn k f).slices = s.slices := rfl
@[simp] theorem State.modConn_snaps (s : State) (k : Nat) (f : Conn → Conn) : (s.modConn k f).snaps = s.snaps := rfl
@[simp] theorem State.modConn_seals (s : State) (k : Nat) (f : Conn → Conn) : (s.modConn k f).seals = s.seals := rfl
@[simp] theorem State.modConn_tlb (s : State) (k : Nat) (f : Conn → Conn) : (s.modConn k f).tlb = s.tlb := rfl
@[simp] theorem State.modConn_tlbinv (s : State) (k : Nat) (f : Conn → Conn) : (s.modConn k f).tlbinv = s.tlbinv := rfl
@[simp] theorem State.modConn_retired (s : State) (k : Nat) (f : Conn → Conn) : (s.modConn k f).retired = s.retired := rfl
@[simp] theorem State.modConn_faults (s : State) (k : Nat) (f : Conn → Conn) : (s.modConn k f).faults = s.faults := rfl
@[simp] theorem State.modConn_nextTag (s : State) (k : Nat) (f : Conn → Conn) : (s.modConn k f).nextTag = s.nextTag := rfl
@[simp] theorem State.modConn_seq (s : State) (k : Nat) (f : Conn → Conn) : (s.modConn k f).seq = s.seq := rfl
@[simp] theorem State.modConn_tiles (s : State) (k : Nat) (f : Conn → Conn) : (s.modConn k f).tiles = s.tiles := rfl
@[simp] theorem State.modConn_pkg (s : State) (k : Nat) (f : Conn → Conn) : (s.modConn k f).pkg = { s.pkg with conns := fmMod Conn.start s.pkg.conns k f } := rfl

@[simp] theorem State.modWarp_cycle (s : State) (k : Nat) (f : Warp → Warp) : (s.modWarp k f).cycle = s.cycle := by unfold State.modWarp; split <;> rfl
@[simp] theorem State.modWarp_draw (s : State) (k : Nat) (f : Warp → Warp) : (s.modWarp k f).draw = s.draw := by unfold State.modWarp; split <;> rfl
@[simp] theorem State.modWarp_nextOp (s : State) (k : Nat) (f : Warp → Warp) : (s.modWarp k f).nextOp = s.nextOp := by unfold State.modWarp; split <;> rfl
@[simp] theorem State.modWarp_lastEngine (s : State) (k : Nat) (f : Warp → Warp) : (s.modWarp k f).lastEngine = s.lastEngine := by unfold State.modWarp; split <;> rfl
@[simp] theorem State.modWarp_agenda (s : State) (k : Nat) (f : Warp → Warp) : (s.modWarp k f).agenda = s.agenda := by unfold State.modWarp; split <;> rfl
@[simp] theorem State.modWarp_cur (s : State) (k : Nat) (f : Warp → Warp) : (s.modWarp k f).cur = s.cur := by unfold State.modWarp; split <;> rfl
@[simp] theorem State.modWarp_mem (s : State) (k : Nat) (f : Warp → Warp) : (s.modWarp k f).mem = s.mem := by unfold State.modWarp; split <;> rfl
@[simp] theorem State.modWarp_memBad (s : State) (k : Nat) (f : Warp → Warp) : (s.modWarp k f).memBad = s.memBad := by unfold State.modWarp; split <;> rfl
@[simp] theorem State.modWarp_quads (s : State) (k : Nat) (f : Warp → Warp) : (s.modWarp k f).quads = s.quads := by unfold State.modWarp; split <;> rfl
@[simp] theorem State.modWarp_crews (s : State) (k : Nat) (f : Warp → Warp) : (s.modWarp k f).crews = s.crews := by unfold State.modWarp; split <;> rfl
@[simp] theorem State.modWarp_cores (s : State) (k : Nat) (f : Warp → Warp) : (s.modWarp k f).cores = s.cores := by unfold State.modWarp; split <;> rfl
@[simp] theorem State.modWarp_clusters (s : State) (k : Nat) (f : Warp → Warp) : (s.modWarp k f).clusters = s.clusters := by unfold State.modWarp; split <;> rfl
@[simp] theorem State.modWarp_dies (s : State) (k : Nat) (f : Warp → Warp) : (s.modWarp k f).dies = s.dies := by unfold State.modWarp; split <;> rfl
@[simp] theorem State.modWarp_outs (s : State) (k : Nat) (f : Warp → Warp) : (s.modWarp k f).outs = s.outs := by unfold State.modWarp; split <;> rfl
@[simp] theorem State.modWarp_foreign (s : State) (k : Nat) (f : Warp → Warp) : (s.modWarp k f).foreign = s.foreign := by unfold State.modWarp; split <;> rfl
@[simp] theorem State.modWarp_net (s : State) (k : Nat) (f : Warp → Warp) : (s.modWarp k f).net = s.net := by unfold State.modWarp; split <;> rfl
@[simp] theorem State.modWarp_slices (s : State) (k : Nat) (f : Warp → Warp) : (s.modWarp k f).slices = s.slices := by unfold State.modWarp; split <;> rfl
@[simp] theorem State.modWarp_snaps (s : State) (k : Nat) (f : Warp → Warp) : (s.modWarp k f).snaps = s.snaps := by unfold State.modWarp; split <;> rfl
@[simp] theorem State.modWarp_seals (s : State) (k : Nat) (f : Warp → Warp) : (s.modWarp k f).seals = s.seals := by unfold State.modWarp; split <;> rfl
@[simp] theorem State.modWarp_tlb (s : State) (k : Nat) (f : Warp → Warp) : (s.modWarp k f).tlb = s.tlb := by unfold State.modWarp; split <;> rfl
@[simp] theorem State.modWarp_tlbinv (s : State) (k : Nat) (f : Warp → Warp) : (s.modWarp k f).tlbinv = s.tlbinv := by unfold State.modWarp; split <;> rfl
@[simp] theorem State.modWarp_retired (s : State) (k : Nat) (f : Warp → Warp) : (s.modWarp k f).retired = s.retired := by unfold State.modWarp; split <;> rfl
@[simp] theorem State.modWarp_faults (s : State) (k : Nat) (f : Warp → Warp) : (s.modWarp k f).faults = s.faults := by unfold State.modWarp; split <;> rfl
@[simp] theorem State.modWarp_nextTag (s : State) (k : Nat) (f : Warp → Warp) : (s.modWarp k f).nextTag = s.nextTag := by unfold State.modWarp; split <;> rfl
@[simp] theorem State.modWarp_seq (s : State) (k : Nat) (f : Warp → Warp) : (s.modWarp k f).seq = s.seq := by unfold State.modWarp; split <;> rfl
@[simp] theorem State.modWarp_tiles (s : State) (k : Nat) (f : Warp → Warp) : (s.modWarp k f).tiles = s.tiles := by unfold State.modWarp; split <;> rfl
@[simp] theorem State.modWarp_pkg (s : State) (k : Nat) (f : Warp → Warp) : (s.modWarp k f).pkg = s.pkg := by unfold State.modWarp; split <;> rfl

@[simp] theorem State.modCrew_cycle (s : State) (k : Nat) (f : Crew → Crew) : (s.modCrew k f).cycle = s.cycle := by unfold State.modCrew; split <;> rfl
@[simp] theorem State.modCrew_draw (s : State) (k : Nat) (f : Crew → Crew) : (s.modCrew k f).draw = s.draw := by unfold State.modCrew; split <;> rfl
@[simp] theorem State.modCrew_nextOp (s : State) (k : Nat) (f : Crew → Crew) : (s.modCrew k f).nextOp = s.nextOp := by unfold State.modCrew; split <;> rfl
@[simp] theorem State.modCrew_lastEngine (s : State) (k : Nat) (f : Crew → Crew) : (s.modCrew k f).lastEngine = s.lastEngine := by unfold State.modCrew; split <;> rfl
@[simp] theorem State.modCrew_agenda (s : State) (k : Nat) (f : Crew → Crew) : (s.modCrew k f).agenda = s.agenda := by unfold State.modCrew; split <;> rfl
@[simp] theorem State.modCrew_cur (s : State) (k : Nat) (f : Crew → Crew) : (s.modCrew k f).cur = s.cur := by unfold State.modCrew; split <;> rfl
@[simp] theorem State.modCrew_mem (s : State) (k : Nat) (f : Crew → Crew) : (s.modCrew k f).mem = s.mem := by unfold State.modCrew; split <;> rfl
@[simp] theorem State.modCrew_memBad (s : State) (k : Nat) (f : Crew → Crew) : (s.modCrew k f).memBad = s.memBad := by unfold State.modCrew; split <;> rfl
@[simp] theorem State.modCrew_warps (s : State) (k : Nat) (f : Crew → Crew) : (s.modCrew k f).warps = s.warps := by unfold State.modCrew; split <;> rfl
@[simp] theorem State.modCrew_quads (s : State) (k : Nat) (f : Crew → Crew) : (s.modCrew k f).quads = s.quads := by unfold State.modCrew; split <;> rfl
@[simp] theorem State.modCrew_cores (s : State) (k : Nat) (f : Crew → Crew) : (s.modCrew k f).cores = s.cores := by unfold State.modCrew; split <;> rfl
@[simp] theorem State.modCrew_clusters (s : State) (k : Nat) (f : Crew → Crew) : (s.modCrew k f).clusters = s.clusters := by unfold State.modCrew; split <;> rfl
@[simp] theorem State.modCrew_dies (s : State) (k : Nat) (f : Crew → Crew) : (s.modCrew k f).dies = s.dies := by unfold State.modCrew; split <;> rfl
@[simp] theorem State.modCrew_outs (s : State) (k : Nat) (f : Crew → Crew) : (s.modCrew k f).outs = s.outs := by unfold State.modCrew; split <;> rfl
@[simp] theorem State.modCrew_foreign (s : State) (k : Nat) (f : Crew → Crew) : (s.modCrew k f).foreign = s.foreign := by unfold State.modCrew; split <;> rfl
@[simp] theorem State.modCrew_net (s : State) (k : Nat) (f : Crew → Crew) : (s.modCrew k f).net = s.net := by unfold State.modCrew; split <;> rfl
@[simp] theorem State.modCrew_slices (s : State) (k : Nat) (f : Crew → Crew) : (s.modCrew k f).slices = s.slices := by unfold State.modCrew; split <;> rfl
@[simp] theorem State.modCrew_snaps (s : State) (k : Nat) (f : Crew → Crew) : (s.modCrew k f).snaps = s.snaps := by unfold State.modCrew; split <;> rfl
@[simp] theorem State.modCrew_seals (s : State) (k : Nat) (f : Crew → Crew) : (s.modCrew k f).seals = s.seals := by unfold State.modCrew; split <;> rfl
@[simp] theorem State.modCrew_tlb (s : State) (k : Nat) (f : Crew → Crew) : (s.modCrew k f).tlb = s.tlb := by unfold State.modCrew; split <;> rfl
@[simp] theorem State.modCrew_tlbinv (s : State) (k : Nat) (f : Crew → Crew) : (s.modCrew k f).tlbinv = s.tlbinv := by unfold State.modCrew; split <;> rfl
@[simp] theorem State.modCrew_retired (s : State) (k : Nat) (f : Crew → Crew) : (s.modCrew k f).retired = s.retired := by unfold State.modCrew; split <;> rfl
@[simp] theorem State.modCrew_faults (s : State) (k : Nat) (f : Crew → Crew) : (s.modCrew k f).faults = s.faults := by unfold State.modCrew; split <;> rfl
@[simp] theorem State.modCrew_nextTag (s : State) (k : Nat) (f : Crew → Crew) : (s.modCrew k f).nextTag = s.nextTag := by unfold State.modCrew; split <;> rfl
@[simp] theorem State.modCrew_seq (s : State) (k : Nat) (f : Crew → Crew) : (s.modCrew k f).seq = s.seq := by unfold State.modCrew; split <;> rfl
@[simp] theorem State.modCrew_tiles (s : State) (k : Nat) (f : Crew → Crew) : (s.modCrew k f).tiles = s.tiles := by unfold State.modCrew; split <;> rfl
@[simp] theorem State.modCrew_pkg (s : State) (k : Nat) (f : Crew → Crew) : (s.modCrew k f).pkg = s.pkg := by unfold State.modCrew; split <;> rfl

/-! ## Tables -/

@[simp] theorem State.setQuad_same (s : State) (k : Nat) (v : Quad) : (s.setQuad k v).quad k = v := fmGet_fmPut_same _ _ _ _
theorem State.setQuad_ne (s : State) (k : Nat) (v : Quad) (j : Nat) (h : j ≠ k) : (s.setQuad k v).quad j = s.quad j := by
  simp [State.quad, fmGet_fmPut, h]
@[simp] theorem State.setCore_same (s : State) (k : Nat) (v : Core) : (s.setCore k v).core k = v := fmGet_fmPut_same _ _ _ _
theorem State.setCore_ne (s : State) (k : Nat) (v : Core) (j : Nat) (h : j ≠ k) : (s.setCore k v).core j = s.core j := by
  simp [State.core, fmGet_fmPut, h]
@[simp] theorem State.setDie_same (s : State) (k : Nat) (v : Die) : (s.setDie k v).die k = v := fmGet_fmPut_same _ _ _ _
theorem State.setDie_ne (s : State) (k : Nat) (v : Die) (j : Nat) (h : j ≠ k) : (s.setDie k v).die j = s.die j := by
  simp [State.die, fmGet_fmPut, h]
@[simp] theorem State.setSlice_same (s : State) (k : Nat) (v : Slice) : (s.setSlice k v).slice k = v := fmGet_fmPut_same _ _ _ _
theorem State.setSlice_ne (s : State) (k : Nat) (v : Slice) (j : Nat) (h : j ≠ k) : (s.setSlice k v).slice j = s.slice j := by
  simp [State.slice, fmGet_fmPut, h]
@[simp] theorem State.setCluster_same (s : State) (k : Nat) (v : Cluster) : (s.setCluster k v).cluster k = v := fmGet_fmPut_same _ _ _ _
theorem State.setCluster_ne (s : State) (k : Nat) (v : Cluster) (j : Nat) (h : j ≠ k) : (s.setCluster k v).cluster j = s.cluster j := by
  simp [State.cluster, fmGet_fmPut, h]
@[simp] theorem State.setRing_same (s : State) (k : Nat) (v : Ring) : (s.setRing k v).ring k = v := fmGet_fmPut_same _ _ _ _
theorem State.setRing_ne (s : State) (k : Nat) (v : Ring) (j : Nat) (h : j ≠ k) : (s.setRing k v).ring j = s.ring j := by
  simp [State.ring, fmGet_fmPut, h]
@[simp] theorem State.setFring_same (s : State) (k : Nat) (v : FRing) : (s.setFring k v).fring k = v := fmGet_fmPut_same _ _ _ _
theorem State.setFring_ne (s : State) (k : Nat) (v : FRing) (j : Nat) (h : j ≠ k) : (s.setFring k v).fring j = s.fring j := by
  simp [State.fring, fmGet_fmPut, h]
@[simp] theorem State.setCrew_same (s : State) (k : Nat) (v : Crew) : (s.setCrew k v).crew k = some v := fmFind_fmPut_same _ _ _
theorem State.setCrew_ne (s : State) (k : Nat) (v : Crew) (j : Nat) (h : j ≠ k) : (s.setCrew k v).crew j = s.crew j := fmFind_fmPut_ne _ _ _ _ h
@[simp] theorem State.setPlan_same (s : State) (k : Nat) (v : Plan) : (s.setPlan k v).plan? k = some v := fmFind_fmPut_same _ _ _
theorem State.setPlan_ne (s : State) (k : Nat) (v : Plan) (j : Nat) (h : j ≠ k) : (s.setPlan k v).plan? j = s.plan? j := fmFind_fmPut_ne _ _ _ _ h
@[simp] theorem State.modConn_same (s : State) (k : Nat) (f : Conn → Conn) : (s.modConn k f).conn k = f (s.conn k) := fmGet_fmPut_same _ _ _ _
theorem State.modConn_ne (s : State) (k : Nat) (f : Conn → Conn) (j : Nat) (h : j ≠ k) : (s.modConn k f).conn j = s.conn j := by
  simp [State.conn, fmMod, fmGet_fmPut, h]
theorem State.setSnap_snap (s : State) (k : Nat) (v : Snap) (j : Nat) (hj : j < 16) : (s.setSnap k v).snap j = if j = k then v else s.snap j := by
  simp [State.snap, List.getD_eq_getElem?_getD, List.getElem?_map, List.getElem?_range hj]
theorem State.modCrew_some (s : State) (k : Nat) (c : Crew) (f : Crew → Crew) (h : s.crew k = some c) : s.modCrew k f = s.setCrew k (f c) := by
  simp [State.modCrew, h]
@[simp] theorem State.modCore_same (s : State) (k : Nat) (f : Core → Core) : (s.modCore k f).core k = f (s.core k) := State.setCore_same _ _ _
@[simp] theorem State.modSlice_same (s : State) (k : Nat) (f : Slice → Slice) : (s.modSlice k f).slice k = f (s.slice k) := State.setSlice_same _ _ _
@[simp] theorem State.modCluster_same (s : State) (k : Nat) (f : Cluster → Cluster) : (s.modCluster k f).cluster k = f (s.cluster k) :=
  State.setCluster_same _ _ _

/-! ## Memory keeps its canonical form -/

/-- The canonical order, as a statement about pairs of entries. -/
theorem fmSorted_pairwise {α : Type} (m : FMap α) : fmSorted m = true ↔ m.Pairwise (fun x y => x.1 < y.1) := by
  induction m with
  | nil => simp [fmSorted]
  | cons e t ih => rw [fmSorted_cons, List.pairwise_cons, ih]

/-- The cells of a block: their addresses rise, and lie in the block. -/
theorem zipIdx_pairwise (bs : List Byte) (a : Nat) :
    (bs.zipIdx a).Pairwise (fun x y => x.2 < y.2) ∧ ∀ e ∈ bs.zipIdx a, a ≤ e.2 ∧ e.2 < a + bs.length := by
  induction bs generalizing a with
  | nil => simp
  | cons b t ih =>
    obtain ⟨h1, h2⟩ := ih (a + 1)
    simp only [List.zipIdx_cons, List.pairwise_cons, List.mem_cons, List.length_cons, forall_eq_or_imp]
    exact ⟨⟨fun e he => (h2 e he).1, h1⟩, ⟨by omega, by omega⟩, fun e he => by have := h2 e he; omega⟩

/-- Writing a list of bytes keeps the canonical form. -/
theorem wf_memBlock (m : Memory) (a : Nat) (bs : List Byte) (h : m.wf = true) : (memBlock m a bs).wf = true := by
  rw [wf_iff, fmSorted_pairwise] at h ⊢
  obtain ⟨hz, hb⟩ := zipIdx_pairwise bs a
  have hc : ∀ e ∈ ((bs.zipIdx a).filter (fun e => e.1 != memDefault)).map (fun e => (e.2, e.1)),
      a ≤ e.1 ∧ e.1 < a + bs.length ∧ e.2 ≠ memDefault := by
    intro e he
    obtain ⟨x, hx, rfl⟩ := List.mem_map.mp he
    have hm := List.mem_filter.mp hx
    exact ⟨(hb x hm.1).1, (hb x hm.1).2, by simpa using hm.2⟩
  unfold memBlock
  simp only
  refine ⟨List.pairwise_append.mpr ⟨List.pairwise_append.mpr ⟨h.1.filter _, ?_, ?_⟩, h.1.filter _, ?_⟩, ?_⟩
  · exact List.Pairwise.map _ (fun x y hxy => hxy) (hz.filter _)
  · intro x hx y hy
    have h1 := (List.mem_filter.mp hx).2
    have h2 := hc y hy
    simp only [decide_eq_true_eq] at h1
    omega
  · intro x hx y hy
    have h1 := (List.mem_filter.mp hy).2
    simp only [decide_eq_true_eq] at h1
    rcases List.mem_append.mp hx with hx | hx
    · have h2 := (List.mem_filter.mp hx).2
      simp only [decide_eq_true_eq] at h2
      omega
    · have h2 := hc x hx
      omega
  · intro e he
    rcases List.mem_append.mp he with he | he
    · rcases List.mem_append.mp he with he | he
      · exact h.2 e (List.mem_filter.mp he).1
      · exact (hc e he).2.2
    · exact h.2 e (List.mem_filter.mp he).1

theorem fmFind_append {α : Type} (m n : FMap α) (k : Nat) : fmFind (m ++ n) k = (fmFind m k).or (fmFind n k) := by
  induction m with
  | nil => rfl
  | cons e t ih =>
    obtain ⟨a, x⟩ := e
    simp only [List.cons_append, fmFind_cons, ih]
    split <;> rfl

theorem fmFind_filter {α : Type} (m : FMap α) (p : Nat → Bool) (k : Nat) :
    fmFind (m.filter (fun e => p e.1)) k = if p k = true then fmFind m k else none := by
  induction m with
  | nil => simp
  | cons e t ih =>
    obtain ⟨a, x⟩ := e
    by_cases ha : p a = true
    · simp only [List.filter_cons, ha, if_true, fmFind_cons, ih]
      by_cases hk : a = k
      · simp [← hk, ha]
      · simp [hk]
    · have ha' : p a = false := by simpa using ha
      simp only [List.filter_cons, ha', Bool.false_eq_true, if_false, fmFind_cons, ih]
      by_cases hk : a = k
      · simp [← hk, ha']
      · simp [hk]

/-- What is found is an entry. -/
theorem fmFind_mem {α : Type} (m : FMap α) (k : Nat) (v : α) (h : fmFind m k = some v) : (k, v) ∈ m := by
  induction m with
  | nil => cases h
  | cons e t ih =>
    obtain ⟨a, x⟩ := e
    rw [fmFind_cons] at h
    split at h
    · rename_i hk; subst hk; obtain rfl := Option.some.inj h; exact List.mem_cons_self
    · exact List.mem_cons_of_mem _ (ih h)

/-- The cells of a block as a table: a byte that is not the default stands at its address. -/
theorem fmGet_cells (bs : List Byte) (a j : Nat) :
    fmGet memDefault (((bs.zipIdx a).filter (fun e => e.1 != memDefault)).map (fun e => (e.2, e.1))) j =
      if a ≤ j ∧ j < a + bs.length then bs.getD (j - a) memDefault else memDefault := by
  induction bs generalizing a with
  | nil => simp [fmGet]
  | cons b t ih =>
    have ih' := ih (a + 1)
    by_cases hb : b = memDefault
    · simp only [List.zipIdx_cons, List.filter_cons, hb, bne_self_eq_false, Bool.false_eq_true, if_false, ih']
      by_cases hj : a = j
      · subst hj; simp
      · by_cases h1 : a + 1 ≤ j ∧ j < a + 1 + t.length
        · rw [if_pos h1, if_pos ⟨by omega, by simp; omega⟩, show j - a = (j - (a + 1)) + 1 by omega]; rfl
        · rw [if_neg h1, if_neg (by simp; omega)]
    · have hb' : (b != memDefault) = true := by simp [hb]
      simp only [List.zipIdx_cons, List.filter_cons, hb', if_true, List.map_cons]
      by_cases hj : a = j
      · subst hj; simp [fmGet, fmFind]
      · have : ∀ m : FMap Byte, fmGet memDefault ((a, b) :: m) j = fmGet memDefault m j := by intro m; simp [fmGet, fmFind_cons, hj]
        rw [this, ih']
        by_cases h1 : a + 1 ≤ j ∧ j < a + 1 + t.length
        · rw [if_pos h1, if_pos ⟨by omega, by simp; omega⟩, show j - a = (j - (a + 1)) + 1 by omega]; rfl
        · rw [if_neg h1, if_neg (by simp; omega)]

/-- A byte read after a block is written. -/
theorem memGet_memBlock (m : Memory) (a : Nat) (bs : List Byte) (j : Nat) :
    memGet (memBlock m a bs) j = if a ≤ j ∧ j < a + bs.length then bs.getD (j - a) memDefault else memGet m j := by
  have hc := fmGet_cells bs a j
  have ho : ∀ v, fmFind (((bs.zipIdx a).filter (fun e => e.1 != memDefault)).map (fun e => (e.2, e.1))) j = some v →
      a ≤ j ∧ j < a + bs.length := by
    intro v hv
    obtain ⟨y, hy, he⟩ := List.mem_map.mp (fmFind_mem _ _ _ hv)
    have := (zipIdx_pairwise bs a).2 y (List.mem_filter.mp hy).1
    simp only [Prod.mk.injEq] at he
    omega
  unfold memGet memBlock
  simp only [fmGet, fmFind_append, fmFind_filter m (fun x => decide (x < a)), fmFind_filter m (fun x => decide (a + bs.length ≤ x))]
    at hc ⊢
  cases hf : fmFind (((bs.zipIdx a).filter (fun e => e.1 != memDefault)).map (fun e => (e.2, e.1))) j with
  | some v =>
    have hj := ho v hf
    simp only [hf, hj, and_self, if_true, Option.getD_some] at hc
    have h1 : ¬ j < a := by omega
    simp only [hj, and_self, h1, decide_false, Bool.false_eq_true, if_false, if_true, Option.none_or, Option.some_or, Option.getD_some, hc]
  | none =>
    simp only [hf, Option.getD_none] at hc
    by_cases h1 : j < a
    · have h2 : ¬ a + bs.length ≤ j := by omega
      have h3 : ¬ (a ≤ j ∧ j < a + bs.length) := by omega
      simp [h1, h2, h3]
    · by_cases h2 : a + bs.length ≤ j
      · have h3 : ¬ (a ≤ j ∧ j < a + bs.length) := by omega
        simp [h1, h2, h3]
      · have h3 : a ≤ j ∧ j < a + bs.length := by omega
        rw [if_pos h3] at hc
        rw [if_pos h3, ← hc]
        simp [h1, h2]
/-- A write-back to second-tier memory keeps the canonical form (R328). -/
theorem wf_cxlWrite (s : State) (ln : Nat) (d : Line) (bad : BitVec 16) (h : s.mem.wf = true) : (cxlWrite s ln d bad).mem.wf = true := by
  unfold cxlWrite
  split
  · exact h
  · exact wf_memBlock _ _ _ h

/-- So do the write-backs of evicted lines. -/
theorem wf_writeBacks (vs : List (Nat × SLine)) (s : State) (h : s.mem.wf = true) : (writeBacks s vs).mem.wf = true := by
  unfold writeBacks
  induction vs generalizing s with
  | nil => exact h
  | cons v t ih =>
    refine ih _ ?_
    dsimp only
    split
    · exact wf_cxlWrite _ _ _ _ h
    · exact h

/-- A line placed in its slice keeps it, whatever it evicts (R328-R330). -/
theorem wf_slPut {s t : State} {ln : Nat} {d : Line} {bad : BitVec 16} {dirty : Bool} (h : s.mem.wf = true)
    (ht : slPut s ln d bad dirty = .ok t) : t.mem.wf = true := by
  unfold slPut at ht
  simp only at ht
  split at ht
  · cases ht
  · obtain rfl := Except.ok.inj ht
    exact wf_writeBacks _ _ h

/-- After reset memory has it. -/
theorem wf_reset : State.reset.mem.wf = true := rfl

end Sys2Proof.Machine
end

