-- ==== Sys2Proof/Tests/Slice0.lean ====
section
/-! SUPPORT. Tests on fixed values: words written out from the encoding tables, ill-formed terms, single steps, and for every statement with
conditions a state and operands that meet them. -/

namespace Sys2Proof.Tests
open Sys2Proof Sys2Proof.Machine
set_option Elab.async false

/-! ## Encoding: words laid out by R22 and R34, opcodes by R43 -/

/-- No counter awaited or set, no guard, the header of R22 otherwise zero. -/
def word (opc : BitVec 9) (f : Byte) (area : BitVec 48) : IWord := 0#12 ++ 0#4 ++ 0#4 ++ 0#1 ++ 0#2 ++ 7#4 ++ 7#4 ++ opc ++ f ++ area
/-- The same fields as a header. -/
def plain (f : Byte) : Hdr := { wait := 0, setf := 0, dist := 0, sw := 0, hint := 0, ga := 7, gb := 7, f := f }
/-- A word stands for an instruction. -/
def reads (w : IWord) (i : Instr) : Bool := match decode w with
  | .ok j => j = i
  | .error _ => false

theorem test_decode_header : reads (0xABC#12 ++ 5#4 ++ 9#4 ++ 1#1 ++ 2#2 ++ 0xB#4 ++ 0x4#4 ++ 0x005#9 ++ 0x42#8 ++ 0x010203000081#48)
    (.iadd ⟨0xABC, 5, 9, 1, 2, 0xB, 0x4, 0x42⟩ ⟨1, 2, 3, 0, 0, 0x81⟩) = true := by decide +kernel
theorem test_decode_arith : [
    reads (word 0x001 0 (4#8 ++ 3#8 ++ 0#32)) (.mov (plain 0) ⟨4, 3, 0, 0, 0, 0⟩),
    reads (word 0x002 0x24 (4#8 ++ 0#8 ++ 0xDEADBEEF#32)) (.movi (plain 0x24) ⟨4, 0, 0xDEADBEEF⟩),
    reads (word 0x00C 2 (1#8 ++ 2#8 ++ 3#8 ++ 4#8 ++ 0#8 ++ 0#8)) (.imad (plain 2) ⟨1, 2, 3, 4, 0, 0⟩),
    reads (word 0x012 0 (1#8 ++ 2#8 ++ 3#8 ++ 4#8 ++ 0#8 ++ 0#8)) (.idp4 (plain 0) ⟨1, 2, 3, 4, 0, 0⟩),
    reads (word 0x023 0x10 (249#8 ++ 2#8 ++ 7#8 ++ 0#16 ++ 0x80#8)) (.icmp (plain 0x10) ⟨249, 2, 7, 0, 0, 0x80⟩),
    reads (word 0x043 9 (1#8 ++ 2#8 ++ 3#8 ++ 4#8 ++ 0#16)) (.ffma (plain 9) ⟨1, 2, 3, 4, 0, 0⟩),
    reads (word 0x052 8 (1#8 ++ 2#8 ++ 3#8 ++ 4#8 ++ 0#16)) (.dfma (plain 8) ⟨1, 2, 3, 4, 0, 0⟩)].all (fun b => b) = true := by
  decide +kernel
theorem test_decode_convert : [
    reads (word 0x080 9 (1#8 ++ 2#8 ++ 0#24 ++ 0x1A#8)) (.cvt (plain 9) ⟨1, 2, 0, 0, 0, 0x1A⟩),
    reads (word 0x089 0 (0#8 ++ 3#8 ++ 0x123#12 ++ 0xFFFFC#20)) (.cbld (plain 0) ⟨0, 3, 0x123, 0xFFFFC⟩),
    reads (word 0x0A7 4 (1#8 ++ 2#8 ++ 0#24 ++ 3#8)) (.redl (plain 4) ⟨1, 2, 0, 0, 0, 3⟩)].all (fun b => b) = true := by decide +kernel
theorem test_decode_control : [
    reads (word 0x0C0 0 (0#16 ++ 0xFFFFFFFE#32)) (.bra (plain 0) ⟨0, 0, 0xFFFFFFFE⟩),
    reads (word 0x0C7 0 (0#16 ++ 77#32)) (.trap (plain 0) ⟨0, 0, 77⟩),
    reads (word 0x0C9 0 (4#8 ++ 0#8 ++ 0x021#12 ++ 0#20)) (.csrr (plain 0) ⟨4, 0, 0x021, 0⟩),
    reads (word 0x0CA 4 (0#16 ++ 0x011#12 ++ 0x3F#20)) (.csrw (plain 4) ⟨0, 0, 0x011, 0x3F⟩)].all (fun b => b) = true := by decide +kernel
theorem test_decode_core : [
    reads (word 0x0E0 0 (0#40 ++ 5#8)) (.join (plain 0) ⟨0, 0, 0, 0, 0, 5⟩),
    reads (word 0x0E5 0 (0#16 ++ 16#32)) (.regclaim (plain 0) ⟨0, 0, 16⟩),
    reads (word 0x100 5 (4#8 ++ 3#8 ++ 0x0AB#12 ++ 0x80000#20)) (.ld (plain 5) ⟨4, 3, 0x0AB, 0x80000⟩),
    reads (word 0x140 0x14 (8#8 ++ 3#8 ++ 1#12 ++ 8#20)) (.atom (plain 0x14) ⟨8, 3, 1, 8⟩),
    reads (word 0x147 0 (4#8 ++ 3#8 ++ 1#32)) (.arrive (plain 0) ⟨4, 3, 1⟩),
    reads (word 0x14C 0 (0#8 ++ 3#8 ++ 0#24 ++ 7#8)) (.push (plain 0) ⟨0, 3, 0, 0, 0, 7⟩),
    reads (word 0x163 0 0#48) (.fence (plain 0) ⟨0, 0, 0, 0, 0, 0⟩)].all (fun b => b) = true := by decide +kernel
theorem test_decode_units : [
    reads (word 0x106 0 (240#8 ++ 3#8 ++ 0x123#12 ++ 0x456#12 ++ 0#8)) (.ldt (plain 0) ⟨240, 3, 0x123, 0x456, 0⟩),
    reads (word 0x173 0 (4#8 ++ 3#8 ++ 6#12 ++ 0#20)) (.snap (plain 0) ⟨4, 3, 6, 0⟩),
    reads (word 0x180 0 (0#8 ++ 3#8 ++ 8#12 ++ 9#12 ++ 2#8)) (.mma (plain 0) ⟨0, 3, 8, 9, 2⟩),
    reads (word 0x1A0 0 (240#8 ++ 3#8 ++ 1#12 ++ 2#12 ++ 0#8)) (.cpy (plain 0) ⟨240, 3, 1, 2, 0⟩),
    reads (word 0x1B0 0 (4#8 ++ 3#8 ++ 1#12 ++ 0#20)) (.launch (plain 0) ⟨4, 3, 1, 0⟩),
    reads (word 0x1C0 0 (240#8 ++ 3#8 ++ 12#12 ++ 1#12 ++ 0#8)) (.fstore (plain 0) ⟨240, 3, 12, 1, 0⟩),
    reads (word 0x1F3 0x5A 0x123456789ABC#48) (.vendorDebug (plain 0x5A) 3 0x123456789ABC)].all (fun b => b) = true := by decide +kernel
theorem test_decode_reserved : [0x026, 0x03D, 0x03F, 0x055, 0x07F, 0x095, 0x0AD, 0x0CD, 0x0EA, 0x110, 0x151, 0x166, 0x176, 0x18A, 0x1A4,
    0x1B5].all (fun c => match decode (word (BitVec.ofNat 9 c) 0 0) with
      | .ok _ => false
      | .error _ => true) = true := by decide +kernel
/-- Opcodes and functions that DecodedWords names, with functions beside them that have a meaning (R174, R285, R458). -/
theorem test_decode_reserved_functions : ([word 0x1EF 0 0, word 0x0CA 3 0, word 0x1C4 3 0, word 0x189 0 3, word 0x0CA 2 0, word 0x1C4 2 0, word 0x189 0 2].map
    (fun w => (decode w).toOption.isSome)) = [false, false, false, false, true, true, true] := by decide +kernel
/-- The low byte of the first word is the lowest byte of the slot (R4, R12). -/
theorem test_table_word : decodeTableWord 96 (word 0x005 2 (1#8 ++ 2#8 ++ 3#8 ++ 0#24)).toNat = some (.iadd (plain 2) ⟨1, 2, 3, 0, 0, 0⟩) := by
  decide +kernel

/-! ## Ill-formed terms (R22, R31-R40) -/

theorem test_wf_good : (Instr.iadd (plain 2) ⟨1, 2, 3, 0, 0, 0⟩).wellFormed = true := by decide +kernel
theorem test_wf_setf : (Instr.iadd { plain 2 with setf := 13 } ⟨1, 2, 3, 0, 0, 0⟩).wellFormed = false := by decide +kernel
theorem test_wf_hint : (Instr.iadd { plain 2 with hint := 1 } ⟨1, 2, 3, 0, 0, 0⟩).wellFormed = false := by decide +kernel
theorem test_wf_unused_operand : (Instr.iadd (plain 2) ⟨1, 2, 3, 1, 0, 0⟩).wellFormed = false := by decide +kernel
theorem test_wf_source_byte : (Instr.iadd (plain 2) ⟨1, 246, 3, 0, 0, 0⟩).wellFormed = false := by decide +kernel
theorem test_wf_destination_byte : (Instr.iadd (plain 2) ⟨241, 2, 3, 0, 0, 0⟩).wellFormed = false := by decide +kernel
theorem test_wf_register_group : (Instr.recget (plain 0) ⟨237, 0, 1, 0⟩).wellFormed = false := by decide +kernel
theorem test_wf_predicate_byte : (Instr.icmp (plain 0x10) ⟨4, 2, 7, 0, 0, 0⟩).wellFormed = false := by decide +kernel
theorem test_wf_immediate_form : (Instr.iadd (plain 2) ⟨1, 2, 3, 0, 0, 0x40⟩).wellFormed = false := by decide +kernel
theorem test_wf_type : (Instr.fadd (plain 2) ⟨1, 2, 3, 0, 0, 0⟩).wellFormed = false := by decide +kernel
theorem test_wf_modifier : (Instr.mov (plain 0x40) ⟨4, 3, 0, 0, 0, 0⟩).wellFormed = false := by decide +kernel
theorem test_wf_condition : (Instr.icmp (plain 0x60) ⟨249, 2, 7, 0, 0, 0⟩).wellFormed = false := by decide +kernel
theorem test_wf_conversion : (Instr.cvt (plain 9) ⟨1, 2, 0, 0, 0, 9⟩).wellFormed = false := by decide +kernel
theorem test_wf_atomic : (Instr.atom (plain 0x60) ⟨8, 3, 1, 0⟩).wellFormed = true ∧ (Instr.red (plain 0x60) ⟨2, 3, 1, 0⟩).wellFormed = false := by
  decide +kernel

/-! ## States that the instructions of one warp issue in: what the first two groups of statements assume -/

/-- The state in which a word stands ready to issue, the only instruction of a warp of 32 lanes on core 0 or of the Acorn's one (log 42). -/
def ready (w : IWord) : State :=
  let unit := match decode w with
    | .ok i => if (instrInfo i).onCore then 0 else 1216
    | .error _ => 0
  match prepare (placeWord State.reset w) (32 * unit) with
  | .first _ s => s
  | _ => State.reset

/-- The word of an instruction. -/
def wordFor (i : Instr) : IWord := (encode i).getD 0

/-- What `issuesWith` asks. -/
def issuesAt (s : State) (early : Ctx → Bool) (extra : Ctx → Option Nat) : Bool :=
  match decode s.cur.word, s.warp s.cur.key with
  | .ok i, some w => (decodeTrap i s s.cur.key w (hdrOf s.cur.word) s.cur.act (early (issueCtx i (hdrOf s.cur.word) s w))
      (extra (issueCtx i (hdrOf s.cur.word) s w))).isNone
  | _, _ => false
def issuesAll (ws : List IWord) : Bool := ws.all (fun w => issuesAt (ready w) (fun _ => false) (fun _ => none))

/-- MOV MOVI MOVHI SEL LEA. -/
theorem test_issue_moves : issuesAll [
  0x000000EE0100040300000000#96, 0x000000EE0200040000000000#96, 0x000000EE0300040000000000#96, 0x000000EE0400040304F90000#96,
  0x000000EE2500040304000000#96] = true := by decide +kernel
/-- IADD ISUB IMUL IMULH IMAD IMADW IDP4 IABS IMIN IMAX ISAD ICMPM. -/
theorem test_issue_integers : issuesAll [
  0x000000EE0500040304000000#96, 0x000000EE0600040304000000#96, 0x000000EE0A00040304000000#96, 0x000000EE0B00040304000000#96,
  0x000000EE0C00040304050000#96, 0x000000EE0D01040304050000#96, 0x000000EE1203040304050000#96, 0x000000EE0E00040300000000#96,
  0x000000EE0F00040304000000#96, 0x000000EE1000040304000000#96, 0x000000EE1100040304050000#96, 0x000000EE2400040304000000#96] = true := by decide +kernel
/-- IADDS ISUBS IADC. -/
theorem test_issue_carries : issuesAll [
  0x000000EE0700040304FA0000#96, 0x000000EE0800040304FA0000#96, 0x000000EE0900040304F9FA00#96] = true := by decide +kernel
/-- AND OR XOR ANDN LOP3 SHL SHR SAR ROTL FSHF BFX BFI POPC CLZ CTZ BREV. -/
theorem test_issue_bits : issuesAll [
  0x000000EE1300040304000000#96, 0x000000EE1400040304000000#96, 0x000000EE1500040304000000#96, 0x000000EE1600040304000000#96,
  0x000000EE1700040304050000#96, 0x000000EE1800040304000000#96, 0x000000EE1900040304000000#96, 0x000000EE1A00040304000000#96,
  0x000000EE1B00040304000000#96, 0x000000EE1C04040304050000#96, 0x000000EE1D00040304050000#96, 0x000000EE1E00040304050600#96,
  0x000000EE1F00040300000000#96, 0x000000EE2000040300000000#96, 0x000000EE2100040300000000#96, 0x000000EE2200040300000000#96] = true := by decide +kernel
/-- ICMP FCMP PLOP. -/
theorem test_issue_predicates : issuesAll [
  0x000000EE2300FA0304000000#96, 0x000000EE4608FA0304000000#96, 0x000000EEA900FAF9F9F90000#96] = true := by decide +kernel
/-- FADD FSUB FMUL FFMA DADD DMUL DFMA FMIN FMAX FCLASS FRND FSCALE FGETEXP FDOT2 FDOT4 FHADD FRCP FRSQ FABS FNEG. -/
theorem test_issue_floats : issuesAll [
  0x000000EE4009040304000000#96, 0x000000EE4109040304000000#96, 0x000000EE4209040304000000#96, 0x000000EE4309040304050000#96,
  0x000000EE5008040304000000#96, 0x000000EE5108040304000000#96, 0x000000EE5208040304050000#96, 0x000000EE4408040304000000#96,
  0x000000EE4508040304000000#96, 0x000000EE4708040300000000#96, 0x000000EE4808040300000000#96, 0x000000EE4908040304000000#96,
  0x000000EE4A08040300000000#96, 0x000000EE4B0A040304050000#96, 0x000000EE4C0C040304050000#96, 0x000000EE4D09040304000000#96,
  0x000000EE4E09040300000000#96, 0x000000EE4F09040300000000#96, 0x000000EE5308040300000000#96, 0x000000EE5408040300000000#96] = true := by decide +kernel
/-- CVT CVTI PACK UNPK BSCALE QNT DQNT CBDEC. -/
theorem test_issue_conversions : issuesAll [
  0x000000EE8009040304000008#96, 0x000000EE8201040304000000#96, 0x000000EE8301040304000000#96, 0x000000EE8401040300000000#96,
  0x000000EE850C040300000000#96, 0x000000EE860C040304050600#96, 0x000000EE870C040304000000#96, 0x000000EE880C040300000000#96] = true := by decide +kernel
/-- FEXP2 FLOG2 FSIN FCOS FTANH FSIG ACT. -/
theorem test_issue_special_functions : issuesAll [
  0x000000EE8A09040300000000#96, 0x000000EE8B09040300000000#96, 0x000000EE8C09040300000000#96, 0x000000EE8D09040300000000#96,
  0x000000EE8E09040300000000#96, 0x000000EE8F09040300000000#96, 0x000000EE9009040300000000#96] = true := by decide +kernel
/-- RNGSEED RNG CVTSR. -/
theorem test_issue_random : issuesAll [
  0x000000EE9300000300000000#96, 0x000000EE9404040000000000#96, 0x000000EE810A040304000009#96] = true := by decide +kernel
/-- SHFL BCST PERM ZIP UNZIP VOTE MATCH REDL SCANL PMOVV ACTM ELECT. -/
theorem test_issue_cross_lane : issuesAll [
  0x000000EEA000040304000000#96, 0x000000EEA100040304000000#96, 0x000000EEA200040304050000#96, 0x000000EEA300402000000002#96,
  0x000000EEA400402000000002#96, 0x000000EEA500FAF900000000#96, 0x000000EEA6000403FA000000#96, 0x000000EEA700040300000000#96,
  0x000000EEA800040300000000#96, 0x000000EEAA00040000000000#96, 0x000000EEAB00040000000000#96, 0x000000EEAC00FA0400000000#96] = true := by decide +kernel
/-- NOP CLOCK. -/
theorem test_issue_plain : issuesAll [
  0x000000EE0000000000000000#96, 0x000000EECC00040000000000#96] = true := by decide +kernel
/-- PMOV.p, which writes the predicates of its mask. -/
theorem test_issue_predicates_from_register : issuesAll [wordFor (.pmovP (plain 0) ⟨0, 3, 0, 0, 0, 0x87⟩)] = true := by decide +kernel
/-- A vendor debug opcode in debug mode (R45). -/
theorem test_issue_vendor_debug : (let s := ready (word 0x1F3 0 0)
    issuesAt { s with pkg := { s.pkg with debug := true } } (fun c => !c.s.pkg.debug) (fun _ => none)) = true := by decide +kernel

/-! ## States with records: what the statements that name units assume -/

/-- A record (R234). -/
structure Rec where
  cls : Nat
  base : Nat
  extent : Nat := 0x1000
  stride0 : Nat := 0
  fmt : Nat := 6
  coh : Nat := 0
  scale : Nat := 0
  dim0 : Nat := 0
  dim1 : Nat := 0
  tile : Nat := 0
  snap : Nat := 0
def Rec.bits (r : Rec) : Tensor := BitVec.ofNat 256 (r.base + r.cls * 2 ^ 57 + r.extent * 2 ^ 64 + r.stride0 * 2 ^ 104 + r.fmt * 2 ^ 160
  + r.coh * 2 ^ 170 + r.scale * 2 ^ 172 + r.dim0 * 2 ^ 200 + r.dim1 * 2 ^ 216 + r.tile * 2 ^ 232 + r.snap * 2 ^ 240)

/-- The records of the tests, by handle. -/
def records : List Rec := [
  { cls := 1, base := 0x200000 },                                                                     -- 1: linear
  { cls := 5, base := 0x100, extent := 0x800, stride0 := 64, dim0 := 16, dim1 := 8 },                  -- 2: scratchpad of crew 0 of core 0
  { cls := 6, base := 0x80 },                                                                         -- 3: its queue
  { cls := 2, base := 0x210000, extent := 0x400, stride0 := 128, dim0 := 32, dim1 := 8, tile := 0x11 }, -- 4: a tensor with 2 x 2 tiles
  { cls := 3, base := 0x240000, extent := 0x241, fmt := 9 },                                           -- 5: a fitted region
  { cls := 1, base := 0x220000, extent := 0x100, snap := 1 },                                          -- 6: a source of snapshots
  { cls := 1, base := 0x230000, extent := 0x100 },                                                    -- 7: a destination
  { cls := 5, base := 0x100, extent := 0x400, stride0 := 64, fmt := 0xB, dim0 := 32, dim1 := 8, scale := 10 },   -- 8: A
  { cls := 2, base := 0x250000, extent := 0x400, stride0 := 16, fmt := 0xB, dim0 := 8, dim1 := 32 },   -- 9: B
  { cls := 5, base := 0x600, extent := 0x100, stride0 := 8, fmt := 7, dim0 := 8, dim1 := 8 },          -- 10: scales
  { cls := 5, base := 0x700, extent := 0x400, stride0 := 32, fmt := 9, dim0 := 8, dim1 := 8 },         -- 11: results
  { cls := 1, base := 0x1000000000000, extent := 0x1000 },                                            -- 12: peer slot 0
  { cls := 1, base := 0x260000, extent := 0x1000, fmt := 9 },                                          -- 13: a source of fits
  { cls := 1, base := 0x250000, extent := 0x400, fmt := 9 }]                                           -- 14: a plan block

/-- The state in which i stands ready, with the records in the cluster's record cache, registers that hold a value in every lane, the fabric
tag 1 and a peer table at 0x300000, a second crew on core 0 that an Acorn program follows, and a queue. -/
def bed (i : Instr) (regs : List (Nat × Word)) : State :=
  let s := ready (wordFor i)
  let cr := { plainContext with fabric := BitVec.ofNat 64 (0x30 * 2 ^ 32 + 1) }
  let q : QueueEnt := { qcw := 0x80, base := 0x400, d := 5, size := 8 }
  let give := fun (c : Crew) => { c with
    cregs := cr, after := some (0, 0), vcrew := if 1216 ≤ c.unit then 7 else 0, queues := [some q], qhandles := [3], nroles := 2
    top := 0x8000, spBytes := 4096, roles := [⟨0, 8, 0⟩, ⟨0, 16, 1⟩] }
  let s1 := { s with
    crews := s.crews.map (fun (e : Nat × Crew) => (e.1, give e.2)) ++ (if s.cur.key = 0 then [] else [(9, give (oneCrew 0))])
    warps := s.warps.map (fun (e : Nat × Warp) => (e.1, { e.2 with
      regs := regs.foldl (fun (m : FMap Row) (r : Nat × Word) => fmPut m r.1 (mkRow (fun _ => ⟨r.2, 0⟩))) e.2.regs }))
    mem := memBlock s.mem 0x300008 [1, 1] }
  s1.modCluster 0 (fun k => { k with
    recs := (records.zipIdx).map (fun (r : Rec × Nat) => { handle := r.2 + 1, data := r.1.bits })
    wdir := [{ handle := 9, gen := 0, off := 0, len := 1024, fmt := 0xB, k := 32, n := 8, scales := true }] })

/-- The conditions of a rule hold where the instruction stands ready with these registers. -/
def okWith (early : Ctx → Bool) (extra : Ctx → Option Nat) (i : Instr) (f : Byte) (regs : List (Nat × Word))
    (rule : Ctx → State → Option State) : Bool := meets i (plain f) (bed i regs) early extra rule
def ok : Instr → Byte → List (Nat × Word) → (Ctx → State → Option State) → Bool := okWith (fun _ => false) (fun _ => none)
def okIn (s : State → State) (i : Instr) (f : Byte) (regs : List (Nat × Word)) (rule : Ctx → State → Option State) : Bool :=
  meets i (plain f) (s (bed i regs)) (fun _ => false) (fun _ => none) rule

/-! ## The statements of instructions that act through a unit: their conditions are met -/

def opM (o1 o2 : Byte) (h : BitVec 12) : OpM := ⟨o1, o2, h, 0⟩
def opR (o1 o2 o3 o4 o5 x : Byte) : OpR := ⟨o1, o2, o3, o4, o5, x⟩
def opI (o1 o2 : Byte) (imm : BitVec 32) : OpI := ⟨o1, o2, imm⟩
def opT (o1 o2 : Byte) (ha hb : BitVec 12) (x : Byte) : OpT := ⟨o1, o2, ha, hb, x⟩
def opS (o1 o2 : Byte) (csr : BitVec 12) (imm : BitVec 20) : OpS := ⟨o1, o2, csr, imm⟩

theorem test_meets_control : [
    ok (.trap (plain 0) (opI 0 0 77)) 0 [] (fun c _ => some (raised (.trap (plain 0) (opI 0 0 77)) c cTRAPI 77)),
    ok (.brkpt (plain 0) (opI 0 0 77)) 0 [] (fun c s1 => some (if c.w.bken then raised (.brkpt (plain 0) (opI 0 0 77)) c cBRKPT 77 else s1)),
    ok (.yield (plain 0) (opR 0 0 0 0 0 0)) 0 [] (fun c s1 => some (s1.modWarp c.key (fun w => w))),
    ok (.exit (plain 0) (opR 0 0 0 0 0 0)) 0 [] ruleExit,
    okIn (fun s => s.modWarp 0 (fun w => { w with tm := true })) (.exit (plain 0) (opR 0 0 0 0 0 0)) 0 [] ruleExitTrap,
    meets (.tret (plain 0) (opR 0 0 0 0 0 0)) (plain 0)
      ((bed (.tret (plain 0) (opR 0 0 0 0 0 0)) []).modWarp 0 (fun w => { w with tm := true })) (fun c => !c.w.tm) (fun _ => none) ruleTret,
    ok (.csrr (plain 0) (opS 4 0 0x011 0)) 0 [] (ruleCsrr (opS 4 0 0x011 0)),
    ok (.csrr (plain 0) (opS 4 0 0x104 0)) 0 [] (ruleCsrr (opS 4 0 0x104 0)),
    ok (.csrw (plain 0) (opS 0 3 0x010 0)) 0 [] (ruleCsrw (opS 0 3 0x010 0)),
    ok (.csrw (plain 4) (opS 0 0 0x104 1)) 4 [] (ruleCsrw (opS 0 0 0x104 1)),
    ok (.csrs (plain 1) (opS 0 3 0x010 0)) 1 [] (ruleCsrw (opS 0 3 0x010 0)),
    ok (.csrc (plain 2) (opS 0 3 0x010 0)) 2 [] (ruleCsrw (opS 0 3 0x010 0))].all (fun b => b) = true := by decide +kernel

theorem test_meets_groups : (
    let grp := okWith (fun _ => false) (fun c => grpBound c.s c.w 5)
    [grp (.join (plain 0) (opR 0 0 0 0 0 5)) 0 [] (ruleGroup 5 .join (fun _ => [])),
     grp (.leave (plain 0) (opR 0 0 0 0 0 5)) 0 [] (ruleGroup 5 .leave (fun _ => [])),
     grp (.gbar (plain 0) (opR 0 0 0 0 0 5)) 0 [] (ruleGroup 5 .gbar (fun _ => [])),
     grp (.gcount (plain 0) (opR 4 0 0 0 0 5)) 0 [] (ruleGroup 5 .gcount (fun c => laterReg c 4)),
     okWith (fun c => match c.s.crew c.w.crew with
       | some cr => cr.nroles ≤ 1
       | none => false) (fun c => grpBound c.s c.w 0x15) (.role (plain 0) (opR 0 0 0 0 0 0x15)) 0 [] (ruleRole (opR 0 0 0 0 0 0x15))].all
    (fun b => b)) = true := by decide +kernel

theorem test_meets_pool_and_sleep : [
    meets (.regclaim (plain 0) (opI 0 0 8)) (plain 0)
      ((bed (.regclaim (plain 0) (opI 0 0 8)) []).modWarp 0 (fun w => { w with allot := 64 })) (fun _ => false)
      (fun c => if 240 < c.w.allot + claimRows (c.s.core c.unit) c.key + 8 then some cREGBOUND else none) (ruleRegclaim (opI 0 0 8)),
    okWith (fun _ => false) (fun c => if c.w.allot ≤ 8 then some cREGBOUND else none)
      (.reggive (plain 0) (opI 0 0 8)) 0 [] (ruleReggive (opI 0 0 8)),
    ok (.sleep (plain 0) (opI 0 0 9)) 0 [] (ruleSleep (opI 0 0 9)), ok (.wake (plain 0) (opR 0 3 0 0 0 0)) 0 [] (ruleWake (opR 0 3 0 0 0 0)),
    ok (.wake (plain 0) (opR 0 0 0 0 0 1)) 0 [] (ruleWake (opR 0 0 0 0 0 1)),
    ok (.prio (plain 0) (opI 0 0 2)) 0 [] (rulePrio (opI 0 0 2))].all (fun b => b) = true := by decide +kernel

theorem test_meets_access : (
    let sp := fun (i : Instr) (h : BitVec 12) => okWith (fun c => c.acorn && h = 0) (fun c => spEarly c (h = 0) 3 0) i
    [ok (.ld (plain 6) (opM 4 3 1)) 6 [] (ruleLoad (.record 1) (opM 4 3 1) [1, 2, 4, 5]),
     ok (.ld (plain 9) (opM 4 3 5)) 9 [] (ruleRegion false (opM 4 3 5)),
     ok (.st (plain 6) (opM 2 3 1)) 6 [] (ruleStore (.record 1) (opM 2 3 1) [1, 2, 4, 5]),
     ok (.st (plain 9) (opM 2 3 5)) 9 [] (ruleRegion true (opM 2 3 5)),
     ok (.lda (plain 6) (opM 4 3 0)) 6 [(3, 0x1000)] (ruleLoad .raw (opM 4 3 0) []),
     ok (.sta (plain 6) (opM 2 3 0)) 6 [(3, 0x1000)] (ruleStore .raw (opM 2 3 0) []),
     ok (.atom (plain 4) (opM 8 3 1)) 4 [] (ruleAtom (.record 1) (opM 8 3 1) [1, 2, 4, 5]),
     ok (.cas (plain 4) (opM 8 3 1)) 4 [] (ruleCas (.record 1) (opM 8 3 1) [1, 2, 4, 5]),
     ok (.red (plain 4) (opM 2 3 1)) 4 [] (ruleRed (.record 1) (opM 2 3 1) [1, 2, 4, 5]),
     sp (.lds (plain 6) (opM 4 3 0)) 0 6 [] (ruleLoad (spNames 0) (opM 4 3 0) [5]),
     sp (.sts (plain 6) (opM 2 3 2)) 2 6 [] (ruleStore (spNames 2) (opM 2 3 2) [5]),
     sp (.atoms (plain 4) (opM 8 3 0)) 0 4 [] (ruleAtom (spNames 0) (opM 8 3 0) [5]),
     sp (.cass (plain 4) (opM 8 3 0)) 0 4 [] (ruleCas (spNames 0) (opM 8 3 0) [5]),
     sp (.reds (plain 4) (opM 2 3 0)) 0 4 [] (ruleRed (spNames 0) (opM 2 3 0) [5]),
     ok (.pref (plain 0) (opM 0 3 1)) 0 [] (rulePref (opM 0 3 1))].all (fun b => b)) = true := by decide +kernel

theorem test_meets_records_and_tables : [
    ok (.recset (plain 0) (opM 0 32 20)) 0 [] (ruleRecset (opM 0 32 20)), ok (.recget (plain 0) (opM 64 0 1)) 0 [] (ruleRecget (opM 64 0 1)),
    ok (.recinv (plain 0) (opM 0 0 1)) 0 [] (fun _ s1 => some s1), ok (.recgen (plain 0) (opM 4 0 1)) 0 [] (ruleRecgen (opM 4 0 1)),
    ok (.cbld (plain 0) (opM 0 3 1)) 0 [] (ruleTable (opM 0 3 1) 256 (fun _ => .codebook)),
    ok (.actld (plain 0) (opM 0 3 1)) 0 [] (ruleTable (opM 0 3 1) 514 (fun _ => .actTable 0)),
    ok (.actsw (plain 0) (opR 0 0 0 0 0 0)) 0 [] (fun _ s1 => some s1)].all (fun b => b) = true := by decide +kernel

theorem test_meets_scratch_and_order : (let r0 := opR 0 0 0 0 0 0
    [ok (.spalloc (plain 0) (opI 4 0 128)) 0 [] (ruleSpalloc (opI 4 0 128)), ok (.spfree (plain 0) (opI 0 0 128)) 0 [] (ruleSpfree (opI 0 0 128)),
     ok (.spfence (plain 0) (opR 0 3 4 0 0 0)) 0 [(4, 64)] (ruleSpfence (opR 0 3 4 0 0 0)), ok (.acq (plain 0) r0) 0 [] ruleAcq,
     ok (.rel (plain 0) r0) 0 [] (ruleWaits (.rel false) (fun _ => [])), ok (.acqr (plain 0) (opR 0 3 0 0 0 0)) 0 [(3, 1215)] (ruleAcqr (opR 0 3 0 0 0 0)),
     ok (.fence (plain 0) r0) 0 [] ruleFence].all (fun b => b)) = true := by decide +kernel

theorem test_meets_arrivals_and_queues : (
    let arr := okWith (fun _ => false) (fun c => spEarly c true 3 0)
    let que := fun (b : Byte) => okWith (fun _ => false) (fun c => queueExtra c 0 (some b) true)
    let push := opR 0 3 0 0 0 0
    let pop := opR 4 0 0 0 0 0
    let res := fun (c : Ctx) => laterReg c 4
    [arr (.awinit (plain 0) (opI 0 3 32)) 0 [] (ruleArrival (.init 32) 3 (fun _ => [])), arr (.arrive (plain 0) (opI 4 3 1)) 0 [] (ruleArrival (.arrive 1) 3 res),
     arr (.arrdrop (plain 0) (opI 4 3 1)) 0 [] (ruleArrival (.drop 1) 3 res), arr (.await (plain 0) (opI 4 3 0)) 0 [] (ruleArrival (.await 0) 3 res),
     arr (.awtest (plain 0) (opI 4 3 0)) 0 [] (ruleArrival .test 3 res),
     okWith (fun _ => false) (fun c => match c.s.crew c.w.crew with
       | some cr => if cr.nqueues ≤ 0 then some cQBOUND else none
       | none => none) (.qinit (plain 0) (opI 0 3 0x00500400)) 0 [(3, 0x80)] (ruleQinit (opI 0 3 0x00500400)),
     que 3 (.push (plain 4) push) 4 [] (rulePush push (fun cr n d => .queueReq cr n .push d) (fun _ => [])),
     que 4 (.pop (plain 4) pop) 4 [] (rulePop pop (fun cr n => .queueReq cr n .pop []) (fun _ => [])),
     que 3 (.trypush (plain 4) (opR 0 3 250 0 0 0)) 4 []
       (rulePush (opR 0 3 250 0 0 0) (fun cr n d => .queueTry cr n .push d) (fun c => predWr 250 c.exec 0 0)),
     que 4 (.trypop (plain 4) (opR 4 0 250 0 0 0)) 4 []
       (rulePop (opR 4 0 250 0 0 0) (fun cr n => .queueTry cr n .pop []) (fun c => predWr 250 c.exec 0 0)),
     okWith (fun _ => false) (fun c => queueExtra c 0 none false) (.qstat (plain 0) pop) 0 [] (ruleQstat pop)].all (fun b => b)) = true := by
  decide +kernel

theorem test_meets_die : [
    ok (.ldt (plain 0) (opT 240 3 4 2 0)) 0 [] (ruleTile (opT 240 3 4 2 0) false), ok (.stt (plain 0) (opT 240 3 4 2 0)) 0 [] (ruleTile (opT 240 3 4 2 0) true),
    ok (.seal (plain 0) (opM 4 0 6)) 0 [] (ruleSeal (opM 4 0 6)), ok (.unseal (plain 0) (opM 0 0 6)) 0 [] (ruleUnseal (opM 0 0 6)),
    ok (.snap (plain 0) (opM 4 3 6)) 0 [(3, 7 + 0x20 * 4096)] (ruleSnap (opM 4 3 6)),
    ok (.snap (plain 0) (opM 4 3 6)) 0 [(3, 7 + 2 ^ 32)] (ruleSnap (opM 4 3 6)),
    ok (.snapwait (plain 0) (opI 4 3 0)) 0 [(3, 15)] (ruleSnapwait (opI 4 3 0)), ok (.llcstat (plain 0) (opR 64 3 0 0 0 0)) 0 [(3, 383)] (ruleLlcstat (opR 64 3 0 0 0 0)),
    ok (.llcstat (plain 0) (opR 64 3 0 0 0 1)) 0 [(3, 3)] (ruleLlcstat (opR 64 3 0 0 0 1))].all (fun b => b) = true := by decide +kernel

/-- A fitted region's block: INIT at byte 6, and for FRINIT its dimensions, arena and extents (R381-R383, R400). -/
def withBlock (s : State) : State := { s with
  mem := memBlock s.mem 0x240000 (bytesLE (1 + 2 ^ 8 + 2 ^ 48 + 16 * 2 ^ 64 + 0x240000 * 2 ^ (8 * 0x40) + 2 ^ (8 * 0x48)) 80) }

theorem test_meets_regions : [
    okIn withBlock (.frfit (plain 0) (opM 4 0 5)) 0 [] (ruleFrfit (opM 4 0 5)), okIn withBlock (.frstat (plain 0) (opM 4 0 5)) 0 [] (ruleFrstat (opM 4 0 5)),
    okIn withBlock (.frinit (plain 0) (opM 4 3 5)) 0 [(3, 13)] (ruleFrinit (opM 4 3 5))].all (fun b => b) = true := by decide +kernel

theorem test_meets_cluster : [
    ok (.mma (plain 0) (opT 0 3 8 9 2)) 0 [] (ruleMma (opT 0 3 8 9 2) false), ok (.mmas (plain 0) (opT 0 3 8 9 2)) 0 [] (ruleMma (opT 0 3 8 9 2) true),
     ok (.mzero (plain 0) (opR 0 0 0 0 0 1)) 0 [] (ruleCommand (.mzero 1)), ok (.mdrain (plain 0) (opT 0 3 11 0 2)) 0 [(3, 0x40)] (ruleMdrain (opT 0 3 11 0 2)),
     ok (.wload (plain 0) (opT 0 3 9 0 0)) 0 [] (ruleWload (opT 0 3 9 0 0)), ok (.winv (plain 0) (opM 0 0 9)) 0 [] (ruleCommand (.winv (some 9))),
     ok (.mcfg (plain 0) (opI 0 0 0xC)) 0 [] (fun _ s1 => some s1), ok (.mstat (plain 0) (opR 4 0 0 0 0 0)) 0 [] (fun _ s1 => some s1),
     ok (.mwait (plain 0) (opR 0 0 0 0 0 1)) 0 [] (ruleMwait (opR 0 0 0 0 0 1)), ok (.mstepRd (plain 0) (opR 4 0 0 0 0 0)) 0 [] (fun _ s1 => some s1),
     ok (.mstepHalt (plain 0) (opR 4 0 0 0 0 1)) 0 [] (fun _ s1 => some s1), ok (.mstepGo (plain 0) (opR 0 0 0 0 0 2)) 0 [] (fun _ s1 => some s1),
     ok (.cpy (plain 0) (opT 240 3 2 1 0)) 0 [(3, 64 * 2 ^ 32 + 0x20)] (ruleCopy (opT 240 3 2 1 0) false),
     ok (.cpyt (plain 0) (opT 240 3 2 4 0)) 0 [(3, (2 * 65536 + 4) * 2 ^ 32 + 2 ^ 20)] (ruleCopy (opT 240 3 2 4 0) true),
     ok (.cvttab (plain 0) (opM 0 3 1)) 0 [] (ruleCvttab (opM 0 3 1)), ok (.cpystat (plain 0) (opR 4 0 0 0 0 2)) 0 [] (ruleCpystat (opR 4 0 0 0 0 2))].all (fun b => b) = true := by decide +kernel

/-- A plan block: op sum, F32, one chunk of 256 bytes, no parent, no child, the result in record 1, the arrival word in record 2 (R457). -/
def withPlanBlock (s : State) : State :=
  { s with mem := memBlock s.mem 0x250000 (bytesLE (1 + 9 * 2 ^ 8 + 1 * 2 ^ 32 + 256 * 2 ^ 64 + 0xFFFF * 2 ^ 96 + 1 * 2 ^ 192 + 2 * 2 ^ 208) 64) }
/-- That plan, open in slot 0. -/
def somePlan (parent : Option Nat) : Plan :=
  { ctx := 0, cregs := plainContext, crew := 0, key := 0, op := 1, fmt := 9, planId := 0, nch := 1, chb := 256, parent := parent, kids := []
    resh := (Rec.bits { cls := 1, base := 0x200000 }), rescrew := none, arrcrew := some 0, arr := 0x100, epoch := 0
    mine := [], theirs := [], combined := [], awaiting := [], results := [], due := [], tally := [], counted := [], given := [], aborted := false }
def withPlan (s : State) : State := s.setPlan 0 (somePlan none)

theorem test_meets_package : [
    ok (.fstore (plain 0) (opT 240 3 12 1 0)) 0 [(3, 64 * 2 ^ 32)] (ruleFabric (opT 240 3 12 1 0) false),
    ok (.fload (plain 0) (opT 240 3 1 12 0)) 0 [(3, 64 * 2 ^ 32 + 0x20)] (ruleFabric (opT 240 3 1 12 0) true),
    okIn withPlan (.fred (plain 0) (opT 0 3 1 0 0)) 0 [] (ruleFred (opT 0 3 1 0 0)),
    ok (.frel (plain 0) (opR 0 0 0 0 0 1)) 0 [] (ruleFrel (opR 0 0 0 0 0 1)), ok (.frel (plain 0) (opR 0 3 0 0 0 0)) 0 [] (ruleFrel (opR 0 3 0 0 0 0)),
    ok (.fstat (plain 0) (opR 4 0 0 0 0 0)) 0 [] (ruleFstat (opR 4 0 0 0 0 0)), ok (.fstat (plain 0) (opR 4 3 0 0 0 1)) 0 [(3, 63)] (ruleFstat (opR 4 3 0 0 0 1)),
    okIn withPlanBlock (.collOpen (plain 0) (opM 4 3 14)) 0 [] (ruleCollOpen (opM 4 3 14)),
    okIn withPlan (.collNext (plain 1) (opM 4 3 0)) 1 [] (ruleColl (opM 4 3 0) .collNext (fun c => laterReg c 4)),
    okIn withPlan (.collClose (plain 2) (opM 0 3 0)) 2 [] (ruleColl (opM 0 3 0) .collClose (fun _ => [])),
    ok (.launch (plain 0) (opM 4 3 1)) 0 [] (ruleLaunch (opM 4 3 1)),
    ok (.tlbinv (plain 0) (opR 0 3 4 5 0 0)) 0 [(3, 0x10000), (4, 0x10000)] (ruleTlbinv (opR 0 3 4 5 0 0)),
    ok (.frameret (plain 0) (opR 4 3 4 5 6 0)) 0 [(3, 0x1000)] (ruleFrameret (opR 4 3 4 5 6 0)),
    ok (.ctxsave (plain 0) (opM 4 3 1)) 0 [] (ruleCtxsave (opM 4 3 1)), ok (.ctxload (plain 0) (opM 4 0 1)) 0 [] (ruleCtxload (opM 4 0 1))].all
    (fun b => b) = true := by decide +kernel

/-! ## Branches, traps, groups, incomplete instructions: the conditions of the statements are met -/

/-- The context in which the word of a ready state issues. -/
def ctxOf (s : State) (f : Ctx → Bool) : Bool := match s.warp s.cur.key with
  | some w => (match decode s.cur.word with
    | .ok i => f (issueCtx i (hdrOf s.cur.word) s w)
    | .error _ => false)
  | none => false
/-- The warp of a key satisfies a test. -/
def warpIs (s : State) (key : Nat) (f : Warp → Bool) : Bool := match s.warp key with
  | some w => f w
  | none => false

theorem test_witness_branches : (
    let direct := fun (i : Instr) => (let s := ready (wordFor i)
      issuesAt s (fun _ => false) (fun _ => none) && (match pcOffset s.cur.pc 4 with
        | some t => ctxOf s (fun c => c.exec != 0 && calm c (fun _ => []) && (targetWait c t).isNone && targetOk s c.key c.w t)
        | none => false))
    let indirect := fun (i : Instr) => (let s := bed i [(3, 2)]
      issuesAt s (fun _ => false) (fun _ => none) && ctxOf s (fun c => calm c (fun l => [(c.val 3 l).val]) && (List.range 32).all (fun l =>
        (c.val 3 l).poi = 0 && (targetWait c (c.val 3 l).val).isNone && targetOk s c.key c.w (c.val 3 l).val)))
    let untaken := fun (i : Instr) => (let s := ready (wordFor i)
      issuesAt s (fun _ => false) (fun _ => none) && ctxOf s (fun c => c.exec = 0))
    [untaken (.bra { plain 0 with ga := 0 } ⟨0, 0, 0xFFFFFFFF⟩), untaken (.call { plain 0 with ga := 0 } ⟨4, 0, 0xFFFFFFFF⟩),
     untaken (.brx { plain 0 with ga := 0 } (opR 0 3 0 0 0 0)), direct (.bra (plain 0) ⟨0, 0, 4⟩), direct (.call (plain 0) ⟨4, 0, 4⟩), indirect (.brx (plain 0) (opR 0 3 0 0 0 0)),
     indirect (.callx (plain 0) (opR 4 3 0 0 0 0)), indirect (.ret (plain 0) (opR 0 3 0 0 0 0))].all (fun b => b)) = true := by decide +kernel

theorem test_witness_branch_traps : (
    let direct := fun (i : Instr) => (let s := ready (wordFor i)
      issuesAt s (fun _ => false) (fun _ => none) && ctxOf s (fun c => c.exec != 0 && calm c (fun _ => [])) && (pcOffset s.cur.pc 0xFFFFFFFF).isNone)
    let poisoned := fun (i : Instr) => (
      let s := (bed i []).modWarp 0 (fun w => { w with regs := fmPut w.regs 3 (mkRow (fun l => ⟨0, if l = 5 then 1 else 0⟩)) })
      issuesAt s (fun _ => false) (fun _ => none) && ctxOf s (fun c => calm c (fun l => [(c.val 3 l).val])
        && maskOf (fun l => c.exec.getLsbD l && (c.val 3 l).poi != 0) = 32))
    let astray := fun (i : Instr) => (let s := bed i [(3, 7)]
      issuesAt s (fun _ => false) (fun _ => none) && ctxOf s (fun c => calm c (fun l => [(c.val 3 l).val]) && (List.range 32).all (fun l =>
        decide ((c.val 3 l).poi = 0) && (targetWait c (c.val 3 l).val).isNone) && maskOf (fun l => c.exec.getLsbD l && !targetOk s s.cur.key c.w (c.val 3 l).val) != 0))
    [astray (.brx (plain 0) (opR 0 3 0 0 0 0)), astray (.callx (plain 0) (opR 4 3 0 0 0 0)), astray (.ret (plain 0) (opR 0 3 0 0 0 0)),
     direct (.bra (plain 0) ⟨0, 0, 0xFFFFFFFF⟩), direct (.call (plain 0) ⟨4, 0, 0xFFFFFFFF⟩), poisoned (.brx (plain 0) (opR 0 3 0 0 0 0)),
     poisoned (.callx (plain 0) (opR 4 3 0 0 0 0)), poisoned (.ret (plain 0) (opR 0 3 0 0 0 0))].all (fun b => b)) = true := by decide +kernel

/-- One warp of 32 lanes on core 0, with nothing incomplete, in cycle 5. -/
def calmState : State := { bed (.nop (plain 0) (opR 0 0 0 0 0 0)) [] with cycle := 5 }
/-- The same with another warp. -/
def withWarp (f : Warp → Warp) : State := calmState.modWarp 0 f

/-- DecodeTraps: a state for each check, the earlier ones passed. -/
theorem test_witness_decode_traps : (
    let s := calmState
    let user := s.modCrew 0 (fun c => { c with sys := false })
    let runs := fun (i : Instr) => (instrInfo i).onCore
    let past := fun (s : State) (i : Instr) (h : Hdr) => runs i && check4 i h && !emulated s.pkg.table i
    let mov : Instr := .mov (plain 0) (opR 4 3 0 0 0 0)
    let none4 : Instr := .mov { plain 0 with setf := 14 } (opR 4 3 0 0 0 0)
    let max3 : Instr := .imax3 (plain 2) (opR 4 3 4 5 0 0)
    let bad : Instr := .mov (plain 0) (opR 4 3 0 0 0 1)
    let far : Instr := .mov (plain 0) (opR 200 3 0 0 0 0)
    let ld : Instr := .ld (plain 5) ⟨4, 3, 0x0AB, 0⟩
    let inv : Instr := .tlbinv (plain 0) (opR 0 2 3 4 0 0)
    let ctx : Instr := .csrw (plain 0) ⟨0, 3, 0x400, 0⟩
    [!runs (.mma (plain 0) ⟨0, 3, 8, 9, 2⟩), runs none4 && !check4 none4 { plain 0 with setf := 14 },
     runs max3 && check4 max3 (plain 2) && emulated s.pkg.table max3, past s mov (plain 0) && past s bad (plain 0) && !(instrShape bad).ok,
     past user inv (plain 0) && (instrShape inv).ok && (instrInfo inv).priv, past user ctx (plain 0) && (instrShape ctx).ok,
     (match user.crew 0 with
      | some c => !c.sys
      | none => false),
     past s far (plain 0) && (instrShape far).ok && warpIs (withWarp (fun w => { w with allot := 100 })) 0 (fun w => decide (w.allot ≤ 200) && !w.tm),
     past s ld (plain 5) && (instrShape ld).ok && warpIs s 0 (fun w => decide (4 < w.allot)) && (match (s.modCrew 0 (fun c => { c with
        cregs := { c.cregs with trtn := 5 } })).crew 0 with
      | some c => decide (c.cregs.trtn.toNat ≤ 0x0AB)
      | none => false),
     (let u := { ready (wordFor max3) with pkg := { State.reset.pkg with table := { DecTable.shipped with emul := [] } } }
      (match u.warp u.cur.key with
        | some w => (decodeTrap max3 u u.cur.key w (plain 2) u.cur.act false none).isNone
        | none => false))].all (fun b => b)) = true := by decide +kernel

/-- A trap of lane 0. -/
def someTrap : TrapRec := { cause := cTRAPI, stage := .execution, late := false, info := 7, pc := 1, act := 1, exec := 1, word := 0, slots := none, cycle := 0 }

theorem test_witness_raised_traps : warpIs calmState 0 (fun w => !w.tm) = true ∧ warpIs (withWarp (fun w => { w with tm := true })) 0 (fun w => w.tm
    && (match calmState.crew w.crew with
      | some c => c.ending = none
      | none => false)) = true ∧
    warpIs ((withWarp (fun w => { w with tm := true })).modCrew 0 (fun c => { c with ending := some ⟨1, 0, 0, 0⟩ })) 0 (fun w => w.tm) = true := by
  decide +kernel

theorem test_witness_trap_entry : (
    let s := withWarp (fun w => { w with traps := [someTrap], tvec := 64 })
    let u := withWarp (fun w => { w with traps := [someTrap], tvec := 0 })
    [trapReady s 0, warpIs s 0 (fun w => w.traps = [someTrap] && w.tvec != 0), trapReady u 0, warpIs u 0 (fun w => w.tvec = 0),
     (match u.crew 0 with
      | some c => c.ending = none
      | none => false)].all (fun b => b)) = true := by decide +kernel

/-- A handler of the calm state whose frame holds these bytes. -/
def inHandler (tpc : Word) (frame : List (Nat × Byte)) : State :=
  let s := withWarp (fun w => { w with tm := true, tpc := tpc, tmask := 3, saved := w.pt })
  match s.warp 0 with
  | some w => s.modCrew 0 (fun c => { c with sp := frame.foldl (fun m e => memSet m (w.tframe.toNat + e.1) e.2) c.sp })
  | none => s

/-- TretState: a frame with a dirty register, a late one, a resume PC that names no slot, and an Acorn. -/
theorem test_witness_tret : (
    let resume := fun (s : State) (w : Warp) => if (frameByte s w 2).testBit 0 then nextPc w.tpc else w.tpc
    let s := inHandler 1 [(3, 2), (0x2D, 4)]
    let late := inHandler 7 [(2, 8)]
    let astray := inHandler 7 []
    let a := (bed (.mzero (plain 0) (opR 0 0 0 0 0 1)) [])
    [warpIs s 0 (fun w => !keyAcorn 0 && !(frameByte s w 2).testBit 3 && pcNamesSlot (resume s w) && (frameByte s w 3).testBit 1
       && decide (frameByte s w 0x2D < w.allot) && decide (frameByte s w 0x2D = 4)),
     warpIs late 0 (fun w => (frameByte late w 2).testBit 3),
     warpIs astray 0 (fun w => !(frameByte astray w 2).testBit 3 && !pcNamesSlot (resume astray w)),
     keyAcorn a.cur.key && warpIs a a.cur.key (fun w => pcNamesSlot w.tpc)].all (fun b => b)) = true := by decide +kernel

/-- A CSR of each kind that a write leaves alone, and one that it changes. -/
theorem test_witness_csr : (0x020 : Nat) ≠ 0x010 ∧ (0x020 : Nat) ≠ 0x011 ∧ (0x020 : Nat) ≠ 0x021 ∧ (0x020 : Nat) ≠ 0x027 ∧ (0x020 : Nat) ≠ 0x028 ∧
    (0x103 : Nat) ≠ 0x104 ∧ ¬ (0x400 ≤ (0x103 : Nat)) ∧ fpmodeMask.getLsbD 0 = true := by decide +kernel

theorem test_witness_group_members : (warpIs calmState 0 (fun w => !grpWaits calmState w.crew 5) && ctxOf calmState (fun c =>
    decide ((pendOf c 6 (.group 5 .join) [] []).late ≠ .done))) = true := by decide +kernel

theorem test_witness_incomplete : (let s := ready (wordFor (.fence (plain 0) (opR 0 0 0 0 0 0)))
    (instrInfo (.fence (plain 0) (opR 0 0 0 0 0 0))).pipe = .m ∧
    warpIs s s.cur.key (fun w => guardMask s w (plain 0) s.cur.act != 0) = true) := by decide +kernel

/-! ## Events of warps, cores and crews -/

/-- The set of a line is full at a slice, and nothing of it may go. -/
def fullSet (s : State) (ln : Nat) : State :=
  let lns := (List.range 16).map (fun k => ln + (k + 1) * 2 ^ 26)
  s.modSlice (lineHome ln) (fun sl => { sl with
    lines := lns.map (fun l => (l, { data := 0, bad := 0, sectors := [], dirty := false, stamp := 0, low := false }))
    locks := [{ tile := 9, lines := lns, store := false, granted := true, place := 0 }] })

/-- FetchResults: a line that a lock holds, one without room, sound and damaged ones, one with a marked word, and a failed translation. -/
theorem test_witness_fetch : (
    let s := withWarp (fun w => { w with fetch := none })
    let far := withWarp (fun w => { w with fetch := none, pt := { w.pt with pcs := List.replicate 32 0x80000000000 } })
    let at_ := fun (s : State) (line : Crew → Word → Except VErr (State × BitVec 512 × Bool) → Bool) => warpIs s 0 (fun w => match s.crewSeen w.crew with
      | some c => (match candidate c w with
        | some (pc, _) => pcNamesSlot pc && !isGhost 0 && c.ending.isNone && (lineAt w pc).isNone && !fetchHeld s 0 pc
            && line c pc (readCode ⟨0, c.cregs, .fetch 0 pc⟩ s (pcLine pc))
        | none => false)
      | none => false)
    let reads_ := fun (s : State) (f : BitVec 512 → Bool → Bool) => at_ s (fun _ _ r => match r with
      | .ok (s1, d, bad) => warpIs s1 0 (fun v => !v.tm) && f d bad
      | .error _ => false)
    let held := s.modSlice (lineHome 0) (fun sl => { sl with locks := [{ tile := 9, lines := [0], store := true, granted := true, place := 0 }] })
    [at_ held (fun c pc r => (walkWait held (.fetch 0 pc) 0 c.cregs (pcLine pc)).isNone && held.slices.all (fun e => e.2.waits.isEmpty)
       && (match (translate held 0 c.cregs (pcLine pc) permX).2, r with
         | .ok pa, .error (.held _ _) => sttHeld held [pa / 128]
         | _, _ => false)),
     at_ (fullSet s 0) (fun _ _ r => match r with
       | .error (.wait _) => true
       | _ => false),
     reads_ s (fun d bad => !bad && lineXor d = 0 && lineVersionOk d), reads_ { s with mem := memSet s.mem 3 1 } (fun d _ => lineXor d != 0),
     reads_ { s with mem := memSet (memSet s.mem 1 0x80) 3 (memGet s.mem 3 ^^^ 0x80) } (fun d _ => lineXor d = 0 && !lineVersionOk d),
     reads_ { s with memBad := [(0, true)] } (fun d bad => bad && lineXor d = 0),
     at_ far (fun _ _ r => match r with
       | .error (.fault _ _ _ _) => true
       | _ => false)].all (fun b => b)) = true := by decide +kernel

theorem test_witness_timers : (
    let s := withWarp (fun w => { w with age := 256 })
    let half := { asleep := true, until? := some 4, wakePending := false : Sleep }
    [decide (agedWarp s 0 = some 0), decide ((s.quad 0).issued ≠ some s.cycle), !quadPassed s 0, warpIs calmState 0 (fun w => w.holdUntil ≤ calmState.cycle),
     warpIs (withWarp (fun w => { w with sleepLo := half })) 0 (fun w => w.sleepLo.asleep && w.sleepLo.until? = some 4),
     warpIs (withWarp (fun w => { w with sleepHi := half })) 0 (fun w => w.sleepHi.asleep && w.sleepHi.until? = some 4)].all (fun b => b)) = true := by
  decide +kernel

/-- An incomplete instruction of the calm state, with its number, what it waits for and the row that it writes. -/
def pendAs (op : Nat) (late : Late) (regs : List RegWr) : Pend :=
  { op := op, word := 0, pc := 0, act := BitVec.allOnes 32, exec := 1, ctrs := [3], mpipe := true, tm := false, ready := 5, late := late, regs := regs,
    preds := [], slots := [], cregs := plainContext }
def withPends (ps : List Pend) : State := withWarp (fun w => { w with pend := ps, ctrs := [0, 0, 0, 1, 0, 0, 0, 0, 0, 0, 0, 0] })

theorem test_witness_completion : ([Late.done, .replies 0, .mxWait [], .sleep, .fence].all (fun k =>
    let s := withPends [pendAs 1 k [⟨4, 1, mkRow (fun _ => ⟨9, 0⟩), 0⟩]]
    warpIs s 0 (fun w => match s.crew w.crew, findPend w 1 with
      | some c, some p => c.ending = none && decide (p.ready ≤ s.cycle) && !w.restoring.contains p.op && !s.pkg.frozen && !s.faults.any (fun f => f.waiter = .access 0 p.op)
          && p.late = k && sleepOver w p && !coreOut w p.op
      | _, _ => false))) = true := by decide +kernel

theorem test_witness_pool : (
    let claim := fun (s : State) => s.modCore 0 (fun k => { k with claims := [⟨0, 1, 8⟩], poolFree := 8 })
    let s := claim (withPends [pendAs 1 (.claim 8) []])
    let r := claim (withWarp (fun w => { w with switching := some 1 }))
    let g := withPends [pendAs 1 (.give 232 8) []]
    [(s.core 0).claims = [⟨0, 1, 8⟩] && decide ((s.core 0).poolAt ≤ s.cycle ∧ keyUnit 0 = 0) && warpIs s 0 (fun w => (findPend w 1).isSome), warpIs r 0 (fun w => (findPend w 1).isNone && w.switching = some 1
        && !w.tm && w.traps.isEmpty && (r.crew w.crew).isSome),
     (let h := r.modWarp 0 (fun w => { w with tm := true })
      (h.core 0).claims = [⟨0, 1, 8⟩] && warpIs h 0 (fun w => (findPend w 1).isNone && w.switching = some 1 && w.tm)),
     warpIs g 0 (fun w => giveReady w 1 232 8 && (findPend w 1).isSome)].all (fun b => b)) = true := by decide +kernel

/-- A store of the calm state. -/
def aMemOp : MemOp :=
  { kind := .store, ety := 1, size := 4, space := .cached, fills := false, keep := false, seals := false, pair := false, tensor := none, fail := none
    els := [{ idx := 0, va := 0x200000, pa := 0, data := 0, expect := 0 }] }

/-- EndResults: the last warp, one beside another, with a store that it leaves, and the ends of a crew and of an Acorn program. -/
theorem test_witness_ends : (
    let ended := fun (ps : List Pend) => (withPends ps).modWarp 0 (fun w => { w with pt := { w.pt with live := 0 }, ctrs := List.replicate 12 0 })
    let two := fun (s : State) => { s with warps := fmPut s.warps 1 ((s.warp 0).getD (startWarp 0 0 (oneKernel 0) 0 0 4096 1 [])) }
    let alone := fun (s : State) => !(crewWarps s 0).any (fun e => e.1 != 0)
    let over_ := fun (s : State) => warpIs s 0 (fun w => warpOver w && w.crew = 0) && !s.pkg.frozen && !isGhost 0
    let store := ended [pendAs 1 (.banks { aMemOp with space := .scratch 0, els := [] }) []]
    let holds := ended [pendAs 1 (.replies 1) [], pendAs 2 (.held { aMemOp with els := [] }) []]
    let ghost := fun (s : State) => (s.warp 0).any (fun w => ghostHolds { w with pend := w.pend.filter lasts })
    let e := fun (s : State) (id : Nat) => s.modCrew id (fun c => { c with ending := some ⟨5, 1, 7, 0⟩ })
    let a := e (bed (.mzero (plain 0) (opR 0 0 0 0 0 1)) []) 0
    [over_ (ended []) && alone (ended []) && !(ended []).warps.any (fun e => isGhost e.1), over_ (two (ended [])) && !alone (two (ended [])),
     over_ (two store) && !alone (two store) && warpIs store 0 (fun w => w.pend.filter lasts != []),
     over_ holds && alone holds && ghost holds && warpIs holds 0 (fun w => w.pend.filter lasts != []),
     (match (e calmState 0).crew 0 with
      | some c => c.ending = some ⟨5, 1, 7, 0⟩ && decide (c.unit < 1216)
      | none => false),
     (match a.crew 0 with
      | some c => c.ending = some ⟨5, 1, 7, 0⟩ && decide (c.unit = 1216) && (a.cluster 0).cmds.isEmpty
      | none => false)].all (fun b => b)) = true := by decide +kernel

theorem test_witness_clock : (
    let s := withWarp (fun w => { w with sleepLo := { asleep := true, until? := none, wakePending := false } })
    let g := calmState.modCore 0 (fun k => { k with gated := true })
    let d0 := withPends [pendAs 1 (.await 0 0 [{ idx := 0, va := 0, pa := 0, data := 0, expect := 0 }]) []]
    let d1 := (d0.modWarp 0 (fun w => { w with stopLo := true })).modCrew 0 (fun c => { c with blocked := some 0 })
    let d := { d1 with cycle := 5000 }
    [!(s.core 0).gated && coreIdle s 0, (g.core 0).gated && g.crews.any (fun e => e.2.unit = 0), (match d.crew 0 with
      | some c => decide (c.blocked = some 0) && crewDeadlocked d 0 c && !d.pkg.frozen
      | none => false),
     warpIs d 0 (fun w => w.crew = 0 && w.pend.filter (blockedIn d 0 w) = w.pend && w.pend != [] && w.pend.all (fun q => match q.late with
        | .role _ _ => false
        | _ => true))].all (fun b => b)) = true := by
  decide +kernel

/-! ## Events of the slices, the tiles, the matrix array, the copy engine -/

/-- A request to the home of line 0x4000. -/
def aReq (k : ReqKind) : Req := { id := 1, unit := 0, key := 0, op := 1, line := 0x4000, kind := k, place := none }
def withReq (k : ReqKind) : State := { calmState with net := [aReq k] }
def aLock (store granted : Bool) : TileLock := { tile := 9, lines := [0x4000], store := store, granted := granted, place := 0 }

theorem test_witness_slices : (
    let g : StoreReg := { mask := 3, part := 0, was := 0, old := 0, known := 0, bad := 0 }
    let kinds : List ReqKind := [.register g, .registerObj 1 0 g, .writeBack 1 0xF 7 0, .read false false false false, .write 3 7,
      .atoms (.op 0) 1 [{ idx := 0, addr := 0x200000, b := 1, expect := 0 }] false, .recSet 0 0 0 1, .recGen 0 0 1]
    let r := fun (k : ReqKind) => aReq k
    let named := fun (s : State) (k : ReqKind) => decide (s.net.find? (fun q => q.id = 1) = some (r k)) && reqFirst s (r k) && !tileHolds s (r k) && !regionAhead s (r k)
    let h := lineHome 0x4000
    let held := fun (s : State) (k : ReqKind) => (reqLines (r k)).any (fun ln => heldBack s ln (reqWrites k) none)
    [kinds.all (fun k => let s := withReq k
      named s k && !held s k && !servedLater s 0x4000 0 && (applyReq s (r k)).toOption.isSome && decide (snapsNeeding s 0x4000 = [])
        && (dirEnt s 0x4000).isNone && (objEnt s 0x4000).isNone && (slGet s 0x4000).toOption.isSome && (s.warp 0).isSome && (s.slice h).dir.isEmpty),
     kinds.all (fun k => let s := (withReq k).modSlice h (fun sl => { sl with locks := [aLock true true] })
      named s k && held s k),
     kinds.all (fun k => let s := (withReq k).modSlice h (fun sl => { sl with servedAt := 5, served := [(0x4000, 7)] })
      named s k && !held s k && servedLater s 0x4000 0),
     (let s := fullSet (withReq (.write 3 7)) 0x4000
      named s (.write 3 7) && !held s (.write 3 7) && !servedLater s 0x4000 0 && !(applyReq s (r (.write 3 7))).toOption.isSome),
     (let s := (withReq (.register g)).modSlice h (fun sl => { sl with lines := [(0x4000, { data := 7, bad := 0, sectors := [], dirty := true, stamp := 0, low := false })] })
      named s (.register g) && !held s (.register g) && (fmFind (s.slice h).lines 0x4000).isSome && decide (snapsNeeding s 0x4000 = []) && g.mask != 0 && g.part = 0),
     (let s := withReq (.read false false false false)
      s.net.any (fun q => q.line = 0x4000) && (fmFind (s.slice h).lines 0x4000).isNone && (slGet s 0x4000).toOption.isSome)].all (fun b => b)) = true := by
  decide +kernel

/-- A snapshot of two lines at 0x220000 into the record at 0x230000, or into peer slot 0. -/
def aSnap (fabric : Bool) : Snap := { Snap.free with
  active := true, cregs := { plainContext with fabric := BitVec.ofNat 64 (0x30 * 2 ^ 32 + 1) }, base := 0x220000, len := 256, src := [0x4400, 0x4401]
  dst := if fabric then 0x1000000000000 else 0x230000, fabric := fabric }
def withSnap (x : Snap) : State := { calmState with snaps := x :: List.replicate 15 Snap.free }

theorem test_witness_snapshots : (
    let line := fun (s : State) (x : Snap) => snapEntered s 0 && decide (x.src[1]? = some 0x4401) && !x.sent.contains 1
      && !s.faults.any (fun f => f.waiter = .snap 0) && !snapCountHeld s x
    [(let x := aSnap false; let s := withSnap x
      line s x && !x.fabric && !sealHit s (x.cregs.asid.toNat % 65536) (x.dst + 128) 128 && (match envTr ⟨lineDrain 0x4401, x.cregs, .snap 0⟩ s (x.dst + 128) permW with
        | .ok (s1, pa) => (match snapLine s1 0 1 0x4401 with
          | .ok (s2, d, bad) => (let s3 := s2.setSnap 0 { x with sent := x.sent ++ [1] }
              !lineHeld s3 (.snap 0) (lineDrain 0x4401) (pa / 128) true
              && (homeWrite (engineGoes s3 (.snap 0) (lineDrain 0x4401) (pa / 128)) (pa / 128) (BitVec.allOnes 128) d bad true).toOption.isSome)
          | .error _ => false)
        | _ => false)),
     (let x := aSnap true; let s := withSnap x
      line s x && x.fabric && !(s.conn (connOf x.ctx (fabSlot (x.dst + 128)))).failed && (snapLine s 0 1 0x4401).toOption.isSome),
     (let x := { aSnap false with sent := [0, 1] }; let s := withSnap x
      snapEntered s 0 && x.sent.length = x.src.length && x.unacked.isEmpty),
     (let x := aSnap false; let s := { withSnap x with seals := [{ asid := 0, base := 0x230080, len := 128, handle := 7, closing := false }] }
      x.active && !x.fabric && sealHit s (x.cregs.asid.toNat % 65536) x.dst x.len),
     (let x := aSnap true; let s := (withSnap x).modConn (connOf x.ctx (fabSlot x.dst)) (fun k => { k with failed := true })
      x.active && x.fabric && (s.conn (connOf x.ctx (fabSlot x.dst))).failed)].all (fun b => b)) = true := by decide +kernel

/-- A tile of one element at 0x210000. -/
def aTile (store : Bool) (todo : List Nat) : Tile :=
  { id := 1, unit := 0, key := 0, op := 1, store := store, low := false, sealed := false, keep := false, asid := 0, va0 := 0x210000, lane := 0, crew := 0
    es := 4, els := [{ va := 0x210000, pa := 0x210000, sp := 0x100 }], zeros := [], seals := false, coh2 := false, data := if store then [(7, false)] else [], todo := todo }
def withTile (t : Tile) : State := { withPends [pendAs 1 (.tile 1 false) []] with tiles := [t] }

theorem test_witness_tiles : (
    let h := lineHome 0x4200
    let mine : TileLock := { tile := 1, lines := tileAt (aTile true [h]) h, store := true, granted := false, place := 0 }
    let named := fun (s : State) (t : Tile) => decide (s.tiles.find? (fun x => x.id = t.id) = some t) && !tileUnread s t
    let isSealed := fun (s : State) (t : Tile) => t.store && t.els.any (fun e => lineHome (e.pa / 128) = h && sealHit s t.asid e.va t.es)
    let quiet := fun (s : State) (t : Tile) => named s t && !s.net.any (fun r => r.unit = t.unit && r.id < t.id && lineHome r.line = h)
      && (tilesBefore s t h).all (fun x => (s.slice h).locks.any (fun k => k.tile = x.id))
      && !(tileAt t h).any (fun ln => servedLater s ln t.unit)
    let may := fun (s : State) (t : Tile) => if t.sealed then tileSealed s t else !(tileLines t).any (fun ln => servedLater s ln t.unit)
    let cached := { aTile false [] with sealed := true, seals := true, coh2 := true }
    let t := aTile true [h]
    let s := withTile t
    let held := s.modSlice h (fun sl => { sl with locks := [{ aLock true true with lines := [0x4200] }] })
    let sealed_ := { s with seals := [{ asid := 0, base := 0x210000, len := 128, handle := 4, closing := false }] }
    [quiet s t && !isSealed s t && ((s.slice h).locks.find? (fun k => k.tile = t.id)).isNone && lockFree s h mine && (tilesBefore s t h).isEmpty && (recallLines s mine.lines).toOption.isSome,
     (let u := { withTile { t with id := 4 } with tiles := [aTile true [], { t with id := 4 }] }
      let u := u.modSlice h (fun sl => { sl with locks := [{ mine with granted := true }] })
      quiet u { t with id := 4 } && !isSealed u { t with id := 4 } && !(tilesBefore u { t with id := 4 } h).isEmpty),
     quiet held t && !isSealed held t && ((held.slice h).locks.find? (fun k => k.tile = t.id)).isNone && !lockFree held h mine,
     quiet sealed_ t && isSealed sealed_ t && (match tilePend sealed_ t with
       | some p => !p.tm
       | none => false) && (sealed_.warp 0).isSome && !isGhost t.key,
     named (withTile cached) cached && may (withTile cached) cached && !tileWaits (withTile cached) cached && (tileMove (withTile cached) cached).toOption.isSome,
     named (withTile (aTile true [])) (aTile true []) && may (withTile (aTile true [])) (aTile true []) && !tileWaits (withTile (aTile true [])) (aTile true [])
       && (tileMove (withTile (aTile true [])) (aTile true [])).toOption.isSome,
     named (withTile (aTile false [])) (aTile false []) && (tileMove (withTile (aTile false [])) (aTile false [])).toOption.isSome
       && !tileWaits (withTile (aTile false [])) (aTile false [])
       && (tilePend (withTile (aTile false [])) (aTile false [])).isSome].all (fun b => b)) = true := by decide +kernel

/-- The record of a handle. -/
def recOf' (h : Nat) : Tensor := match records[h - 1]? with
  | some r => r.bits
  | none => 0
/-- A command of the sequencer of cluster 0. -/
def aCmd (k : MxKind) (started : Bool) : MxCmd := { id := 1, kind := k, word := 0, pc := 0, cregs := plainContext, ctx := 0, started := started, kb := 0, rg := 0, left := 0, tm := false }
def withCmd (c : MxCmd) : State := calmState.modCluster 0 (fun k => { k with cmds := [c] })
def anMma : MxKind := .mma true 0 0 1 (recOf' 8) 0 8 9 (recOf' 10) 0 0xB
def aDrain : MxKind := .mdrain 0 0 0 0x200 (recOf' 11) 0 0 0

theorem test_witness_matrix : (
    let starts := fun (k : MxKind) => (let c := aCmd k false; let s := withCmd c
      decide ((s.cluster 0).cmds.find? (fun x => x.id = c.id) = some c) && mxMayStart (s.cluster 0) c && !mxPaused s 0 && !s.faults.any (fun f => f.waiter = .matrix 0))
    let w : MxKind := .wload 9 (recOf' 9) 0 none
    let run := withCmd (aCmd anMma true)
    let dr := withCmd { aCmd aDrain true with left := 64 }
    [starts (.mzero 3) && starts anMma && starts (.winv none) && starts (.winv (some 9)) && starts w && starts aDrain,
     (match wloadRun ((withCmd (aCmd w false)).modCluster 0 (fun k => { k with
         cmds := k.cmds.map (fun x => if x.id = 1 then { x with started := true, left := 0 } else x), wdir := dirClear k.wdir w }))
         0 ⟨1216, plainContext, .matrix 0⟩ w with
      | .ok _ => true
      | .error _ => false),
     decide (mxActive (run.cluster 0) = some (aCmd anMma true)) && !(run.cluster 0).halted && !mxPaused run 0 && decide (0 < (run.cluster 0).acc.length)
       && (match (run.cluster 0).wdir.find? (fun x => x.handle = 9) with
         | some e => decide (e.n ≤ 256)
         | none => false),
     decide ((dr.cluster 0).cmds.find? (fun y => y.started && mxDrains y.kind) = some { aCmd aDrain true with left := 64 })].all (fun b => b)) = true := by
  decide +kernel

/-- A copy of sixteen elements between places of the crew's scratchpad; a load of a conversion table. -/
def aCopy : CpyCmd :=
  { id := 1, key := 0, op := 1, crew := 0, word := 0, pc := 1, act := 1, exec := 1, tm := false, cregs := plainContext, ctx := 0, table := none, rect := false, hd := 2
    hs := 2, rd := recOf' 2, rs := recOf' 2, dcrew := some 0, screw := some 0, f := 0, x := 0, cols := 16, rows := 1, so := (0, 0), dst := (64, 0)
    arr := none, started := false, moved := 0, seen := [], held := [], due := 0, flags := 0 }
def withCopy (c : CpyCmd) : State := calmState.modCluster 0 (fun k => { k with copies := [c] })

theorem test_witness_copies : (
    let named := fun (c : CpyCmd) => (let s := withCopy c
      decide ((s.cluster 0).copies.find? (fun x => x.id = c.id) = some c) && !s.faults.any (fun f => f.waiter = .copy 0 c.id))
    let may := fun (c : CpyCmd) => (let s := withCopy c
      named c && cpyMayStart s (s.cluster 0) c && !(cpyEarlier (s.cluster 0) c).any (cpyMayStart s (s.cluster 0)))
    let tab := { aCopy with table := some (1, 0x200000) }
    let go := { aCopy with started := true }
    let piece := fun (bytes : Nat) => (let n := cpyPieceLen go bytes; let s := withCopy go
      let ks := (List.range n).map (fun i => go.moved + i)
      let as := ks.flatMap (fun i => (List.range (cpyWd go)).map (fun j => cpyDst go i + j))
      let ready := fun (a : Nat) => !cpyLater go (cpyDst go) (cpyWd go) (go.moved + n) (a / 8)
      named go && decide (0 < n) && (s.crew 0).isSome && !cpyTableWaits (s.cluster 0) go && !cpyBehind s (s.cluster 0) go (as.filter ready)
        && (match cpyGather 0 go [] ks s go.seen with
          | .ok (_, _, mv) => (let out := mv.bytes.filter (fun b => ready b.1)
            decide (out ≠ []) && decide (out.map (fun b => b.1)).Nodup)
          | .error _ => false))
    [may aCopy && decide (aCopy.moved < cpyTotal aCopy), may tab && !cpyTableWaits ((withCopy tab).cluster 0) { tab with started := true }
      && (match vmRdBytes ⟨1368, tab.cregs, .copy 0 1⟩ 512 (setCopy (withCopy tab) 0 { tab with started := true }) 0x200000 with
        | .ok (s1, _) => decide (1 < (s1.cluster 0).tables.length)
        | .error _ => false),
     piece 8 && decide (go.moved + cpyPieceLen go 8 < cpyTotal go), piece 32 && decide (go.moved + cpyPieceLen go 32 = cpyTotal go),
     warpIs (withCopy go) 0 (fun w => w.crew = 0 && !isGhost go.key && decide (w.crew = go.crew) && (match calmState.crew w.crew with
       | some c => c.ending.isNone
       | none => false)), (let late := { go with tm := true }
       named late && late.tm)].all (fun b => b)) = true := by decide +kernel

/-! ## Events of Sprout, the fault rings and the dispatchers -/

/-- 64-bit words in memory. -/
def putWords (s : State) (a : Nat) (ws : List Nat) : State := { s with mem := memBlock s.mem a (ws.flatMap (fun w => bytesLE w 8)) }
/-- Boot complete, with the descriptor of context 0 at 0x2B0000. -/
def booted : State :=
  let s := putWords calmState 0x2B0000 [0, 0x03FFFFFF0007, 0, 0, 0, 0x100000, 4096, 0x30 * 2 ^ 32 + 1]
  { s with pkg := { s.pkg with ctxtab := 0x2B0000, ctxn := 1, boot := { s.pkg.boot with stage := 7 } } }

/-- A job of the region of handle 5, on die 0, in a context that maps memory, or none of it. -/
def aJob (heapl : Word) : SproutJob :=
  { ctx := 0, cregs := { plainContext with heapl := heapl }, handle := 5, source := none, pblk := 0x240000, waiters := [], more := [], stage := 2, crew := 0 }
def withJob (s : State) (j : SproutJob) : State := s.setDie 0 { s.die 0 with queue := [j] }

theorem test_witness_sprout : (
    let ready_ := fun (s : State) (j : SproutJob) => decide ((s.die 0).queue = [j]) && !s.faults.any (fun f => f.waiter = .sprout 0) && j.waiters.isEmpty
    let j := aJob plainContext.heapl
    [(let s := withJob calmState j
      ready_ s j && (match runJob ⟨1520, j.cregs, .sprout 0⟩ s j [] with
        | .ok (.stopped _ _) => true
        | _ => false)),
     (let s := withJob { calmState with memBad := [(0x240608 / 8, true)] } j
      ready_ s j && (match runJob ⟨1520, j.cregs, .sprout 0⟩ s j [] with
        | .ok (.dropped s1) => (clearBits ⟨1520, j.cregs, .sprout 0⟩ s1 (queuedBlocks s 0 j false)).toOption.isSome
        | _ => false)),
     (let s := withJob (fullSet calmState ((0x100000 + 32 * 5) / 128)) j
      ready_ s j && (match runJob ⟨1520, j.cregs, .sprout 0⟩ s j [] with
        | .error (_, .wait _) => true
        | _ => false)),
     (let k := aJob 0; let s := withJob calmState k
      ready_ s k && (match runJob ⟨1520, k.cregs, .sprout 0⟩ s k [] with
        | .error (_, .fault _ _ _ _) => true
        | _ => false))].all (fun b => b)) = true := by decide +kernel

/-- A fault record that waits to be written, or has been, for a waiter. -/
def aFault (w : Waiter) (written : Bool) : FaultRec :=
  { ftype := 1, reason := 1, access := 2, asid := 0, ctxid := 0, va := 0x200000, tag := 3, unit := 0, wslot := 0, ring := 0, launchid := 0, vcrew := 0
    pc := 1, info := 0, waiter := w, written := written, counted := false }

theorem test_witness_fault_records : (
    let f := aFault .nobody false
    let room := { (calmState.setFring 0 { FRing.start with base := 0x280000, cfg := 2 ^ 16 + 4 }) with faults := [f] }
    let none_ := { calmState with faults := [f] }
    let pa := 0x280000
    [decide (room.faults[0]? = some f) && !f.written && !room.pkg.frozen && fringRoom (room.fring (faultRing f.asid)) && !lineHeld room (.record (faultRing f.asid)) f.unit (pa / 128) true
       && (homeStore (engineGoes room (.record (faultRing f.asid)) f.unit (pa / 128)) pa 64 ((recordBytes f room.seq).foldr (fun b a => b.toNat + 256 * a) 0) false true).toOption.isSome,
     decide (none_.faults[0]? = some f) && !fringRoom (none_.fring (faultRing f.asid))].all (fun b => b)) = true := by decide +kernel

theorem test_witness_fault_answers : (
    let known := fun (s : State) (w : Waiter) => (let u := { s with faults := [aFault w true] }
      decide (waitingRecord u 3 = some (aFault w true)) && !u.pkg.frozen)
    let parked := withPends [pendAs 1 (.parked aMemOp []) []]
    let copies := withCopy { aCopy with started := true }
    let snaps := withSnap (aSnap false)
    [(waitingRecord calmState 3).isNone, known calmState (.fetch 0 0) && warpIs calmState 0 (fun w => !w.tm && !isGhost 0
        && maskOf (fun l => w.pt.live.getLsbD l && w.pt.pcs.getD l 0 = 0) != 0),
     known parked (.access 0 1) && warpIs parked 0 (fun w => !w.tm && (match findPend w 1 with
        | some p => p.late = .parked aMemOp [] && !p.tm
        | none => false)),
     known copies (.copy 0 1) && ((copies.cluster 0).copies.find? (fun x => x.id = 1)).isSome,
     known snaps (.snap 0) && (snaps.snap 0).active].all (fun b => b)) = true := by decide +kernel

/-- Ring 0 with the record of these words in its first slot, the kernel of one crew of one warp at 0x2A0000. -/
def withRecord1 (ws : List Nat) : State :=
  let s := putWords booted 0x290000 ws
  let s := putWords s 0x2A0000 [0x4E4C + 2 ^ 16 + 16 * 2 ^ 32 + 2 ^ 40, 128, 64 + 0x80 * 2 ^ 32, 0]
  let s := putWords s 0x2A0080 [1, 40, 64]
  s.setRing 0 { Ring.start with base := 0x290000, cfg := 2 ^ 16 + 3, tail := 1 }

/-- What DispatchResults asks: the record in order, the first reason, its header. -/
structure Taken where
  open_ : Bool
  unc : Bool
  early : Option Nat
  rec_ : LaunchRec
  at_ : State
  marked : Bool
  header : State × HeaderRead
def taken (s : State) : Taken :=
  let g := s.ring 0
  let first := g.head % ringSlots g
  let (s0, w0, _) := walkRead s (g.base + 128 * first)
  let len := w0 / 256 % 4
  let past := ringSlots g ≤ first + len
  let (s1, ws, unc) := recordWords s0 g first (if past then ringSlots g - first else len + 1)
  let r := recOf ws
  { open_ := decide (s.pkg.boot.stage = 7 ∧ s.pkg.boot.fail = 0 ∧ s.pkg.frozen = false) && ringEnabled g && ringLegal g && decide (ringClass g = 0)
      && !ringStopped g && decide (ringUsed g ≠ 0) && recordReady s 0 && (dispatchWait s 0).isNone
    unc := unc, rec_ := r, at_ := s1
    early := lowestReason [(1, recReserved ws r || recLimits r), (2, past), (3, r.sys && ringClass g != 0), (4, s.pkg.ctxn ≤ r.ctx)]
    marked := (descWords s1 r.ctx).2.2
    header := readHeader (descWords s1 r.ctx).1 (dispUnit 0) (descOf (descWords s1 r.ctx).2.1) r.kernel (r.kind = 2) }

/-- DispatchResults: a locked line, an uncorrectable word, an early reason, no-ops, a marked descriptor, headers of each kind, a late reason, AFTER,
and a launch. -/
theorem test_witness_dispatch : (
    let clean := fun (s : State) (f : Taken → Bool) => (let t := taken s
      t.open_ && !t.unc && decide (t.early = none) && f t)
    let crowded := fun (t : Taken) => decide (8 + 16 * t.rec_.len < recNeed t.rec_)
    let waits := fun (t : Taken) (s : State) => t.rec_.after && !afterHolds s t.rec_.afterRing t.rec_.afterId
    let reason := fun (s : State) (t : Taken) (k : Kernel) => (let r := t.rec_
      let cap := coreCapacity k r.warps
      lowestReason [(5, k.nqueues < r.nq || k.regs ≤ r.narg || (r.kind = 1 && (r.slots.take r.nq).any (fun e => !queueFits k e))),
        (6, crowded t), (7, cap = 0), (8, s.pkg.launches.any (fun l => l.ring = 0 && l.lid = r.lid))])
    let header := fun (s : State) (f : Taken → State → Kernel → Bool) => clean s (fun t => t.rec_.kind = 1 && !t.marked && (match t.header with
      | (s3, .ok k) => f t s3 k
      | _ => false))
    let bad := fun (s : State) => { s with memBad := [(0x290000 / 8, true)] }
    let done := fun (s : State) => s.modPkg (fun p => { p with finished := [(0, 0)] })
    let follows := withRecord1 [1 + 2 ^ 17, 0x2A0000, 1]
    let one := withRecord1 [1, 0x2A0000, 1]
    [decide (calmState.pkg.boot.stage ≠ 7), clean { one with memBad := [(0x2B0000 / 8, true)] } (fun t => t.rec_.kind = 1 && t.marked),
     (let s := one.modSlice (lineHome (0x290000 / 128)) (fun sl => { sl with locks := [{ aLock true true with lines := [0x290000 / 128] }] })
      (dispatchWait s 0).isSome && recordReady s 0), (let t := taken (bad (withRecord1 [1, 0x2A0000, 1]))
      t.open_ && t.unc),
     (let t := taken (withRecord1 [1, 0x2A0000, 1, 0, 0, 0, 1])
      t.open_ && !t.unc && decide (t.early = some 1)),
     clean (withRecord1 [3, 0, 9 * 2 ^ 26]) (fun t => t.rec_.kind = 3 && crowded t),
     clean (withRecord1 [3 + 2 ^ 17]) (fun t => t.rec_.kind = 3 && !crowded t && waits t t.at_),
     clean (withRecord1 [3]) (fun t => t.rec_.kind = 3 && !crowded t && !t.rec_.after),
     clean (done (withRecord1 [3 + 2 ^ 17])) (fun t => t.rec_.kind = 3 && !crowded t && t.rec_.after && !waits t t.at_),
     clean (withRecord1 [1, 0x80000000000, 1]) (fun t => t.rec_.kind = 1 && !t.marked && (match t.header with
       | (_, .unreadable _ _ _) => true
       | _ => false)),
     clean (withRecord1 [1, 0x2A0040, 1]) (fun t => t.rec_.kind = 1 && !t.marked && (match t.header with
       | (_, .malformed) => true
       | _ => false)),
     (let s := withRecord1 [1, 0x2A0000, 1 + 2 ^ 26]
      header s (fun t _ k => decide (reason s t k = some 5))),
     header follows (fun t s3 k => decide (reason follows t k = none) && waits t s3),
     (let s := withRecord1 [1, 0x2A0000, 1]
      header s (fun t _ k => decide (reason s t k = none) && !t.rec_.after)),
     header (done follows) (fun t s3 k => decide (reason (done follows) t k = none) && t.rec_.after && !waits t s3)].all (fun b => b)) = true := by
  decide +kernel

/-- A launch of one crew of one warp, or of an Acorn program. -/
def aLaunch (acorn : Bool) : Launch :=
  { id := 1, ring := 0, lid := 0, acorn := acorn, sys := false, notify := false, gang := false, after := none, ctx := 0
    kernel := oneKernel (if acorn then 1216 else 0), tvec := 0, done := 0, crews := 1, warps := 1, cls := 0, place := 0, queues := [], args := [7], places := []
    waiting := [0], placed := [], ended := 0, faulted := 0, gone := [] }
def withLaunch (s : State) (l : Launch) : State := { s with pkg := { s.pkg with launches := [l] } }

theorem test_witness_placement : (
    let named := fun (s : State) (l : Launch) => decide (s.pkg.launches.find? (fun x => x.id = 1) = some l) && decide (l.waiting ≠ []) && ringTurn s l && !s.pkg.frozen
    [(let l := aLaunch false; let s := withLaunch State.reset l
      named s l && !l.acorn && (crewFor s l 5).isSome && !outranked s l 5 && !l.gang),
     (let l := aLaunch true; let s := withLaunch State.reset l
      named s l && acornFor s l 5 && !acornOutranked s l 5)].all
    (fun b => b)) = true := by decide +kernel

theorem test_witness_launch_ends : (
    let l := { aLaunch false with waiting := [], ended := 1 }
    let over_ := fun (l : Launch) => (let s := withLaunch booted l
      decide (s.pkg.launches.find? (fun x => x.id = 1) = some l) && launchOver s l && !s.pkg.frozen && !s.faults.any (fun f => f.waiter = .done 1))
    let d := { l with done := 0x2C0000 }
    let x := readDesc (withLaunch booted d) (dispUnit 0) 0
    let u := { (calmState.modCrew 0 (fun c => { c with preempt := some 5 })) with cycle := 2000000 }
    let stores := { withLaunch booted { d with gone := [(0, 9)] } with net := [{ aReq (.write 1 0) with id := 3 }] }
    [over_ l && decide (l.done = 0), launchOver stores { d with gone := [(0, 9)] } && !storesHome stores { d with gone := [(0, 9)] }, over_ d && decide (d.done < 2 ^ 52 ∧ d.lid < 2 ^ 16 ∧ d.faulted < 2 ^ 32) && !fabricVa x.2 d.done && (match envTr ⟨dispUnit 0, x.2, .done 1⟩ x.1 d.done permW with
        | .ok (s2, pa) => storesHome (withLaunch booted d) d && !lineHeld s2 (.done 1) (dispUnit 0) (pa / 128) true && decide (pa % 8 = 0)
          && (homeStore (engineGoes s2 (.done 1) (dispUnit 0) (pa / 128)) pa 8 (2 ^ 16) false true).toOption.isSome
        | _ => false),
     (match u.crew 0 with
      | some c => decide (c.preempt = some 5) && decide (5 + Config.saveCycles ≤ u.cycle) && !crewStopped u 0 c && !u.pkg.frozen
      | none => false)].all (fun b => b)) = true := by decide +kernel

/-- A region of one point, with a network of one unit, no exceptions, and its new half to be written. -/
def aRegion : State :=
  let s := putWords calmState (0x100000 + 32 * 5) ((List.range 4).map (fun i => (recOf' 5).toNat / 2 ^ (64 * i) % 2 ^ 64))
  let s := putWords s 0x240000 [0x0001000000000101, 1, 0, 0x7F7FFFFF]
  putWords s 0x240040 [0x240000, 1]

theorem test_witness_sprout_install : (let j := aJob plainContext.heapl
    (match runJob ⟨1520, j.cregs, .sprout 0⟩ (withJob aRegion j) j [] with
      | .ok (.installed _) => true
      | _ => false) && decide (((withJob aRegion j).die 0).queue = [j])
    && (let s := (withJob aRegion j).modSlice (lineHome 0x4800) (fun sl => { sl with locks := [{ aLock true true with lines := [0x4800] }] })
      match runJob ⟨1520, j.cregs, .sprout 0⟩ s j [] with
      | .error (_, .held 0x4800 _) => true
      | _ => false)) = true := by decide +kernel

/-! ## Events of the fabric -/

def aPacket (b : PacketBody) (job : Nat) : Packet := { conn := 0, ctx := 0, job := job, psn := 4, body := b }

/-- ConnectionResults: every way that a packet is received, markers, a silent connection and a quiet one. -/
theorem test_witness_packets : (
    let quiet := fun (s : State) (pk : Packet) => !(s.conn 0).failed && !(s.conn 0).seen.contains 4 && s.pkg.inbox.isEmpty
      && !s.faults.any (fun f => f.waiter = .receive pk.conn pk.psn)
    let is_open := fun (s : State) (pk : Packet) => decide (6 ≤ s.pkg.boot.stage ∧ pk.ctx < s.pkg.ctxn ∧ pk.conn / 4096 = pk.ctx)
    let job := fun (s : State) => (readDesc s (portsOf 0) 0).2.fabric.toNat / 2 ^ 16 % 2 ^ 16
    let w := aPacket (.write 0x200000 [(7, false)]) 0
    let sealed_ := { booted with seals := [{ asid := 0, base := 0x200000, len := 128, handle := 4, closing := false }] }
    let marked := { booted with memBad := [(0x2B0000 / 8, true)] }
    let locked := booted.modSlice (lineHome 0x4000) (fun sl => { sl with locks := [aLock true true] })
    let unopened := aPacket (.chunk 3 1 6 1 8 0 0 0 [(7, false)]) 0
    let arrives := fun (s : State) (pk : Packet) (f : Recv → Bool) => quiet s pk && is_open s pk && decide (job s = pk.job)
      && !(descWords s 0).2.2 && f (recvBody (readDesc s (portsOf 0) 0).1 (readDesc s (portsOf 0) 0).2 pk)
    let silent := { (calmState.modConn 0 (fun k => { k with flying := [{ path := 0, limit := 0, paths := 1, via := 0 }] })) with
      cycle := Config.silenceCycles }
    [quiet calmState w && !is_open calmState w, quiet booted (aPacket w.body 9) && is_open booted w && decide (job booted ≠ 9),
     quiet marked w && is_open marked w && (descWords marked 0).2.2,
     arrives booted w (fun r => match r with
       | .applied _ => true
       | _ => false),
     arrives sealed_ w (fun r => match r with
       | .rejected => true
       | _ => false),
     arrives locked w (fun r => match r with
       | .wait _ => true
       | _ => false),
     arrives booted unopened (fun r => match r with
       | .refused => true
       | _ => false),
     ((booted.modConn 0 (fun k => { k with failed := true })).conn 0).failed, ((booted.modConn 0 (fun k => { k with seen := [4] })).conn 0).seen.contains 4,
     !(calmState.conn 0).failed && !(calmState.conn 0).gathered.contains 5, ((calmState.modConn 0 (fun k => { k with gathered := [5] })).conn 0).gathered.contains 5,
     !(silent.conn 0).failed && connWaits silent 0 && decide ((silent.conn 0).heard + Config.silenceCycles ≤ silent.cycle),
     !connWaits calmState 0].all (fun b => b)) = true := by decide +kernel

/-- A fabric command of the calm state's warp, and a plan of two chunks. -/
def aFab (refused : Bool) : FabCmd :=
  { id := 1, key := 0, op := 1, crew := 0, word := 0, pc := 1, act := 1, exec := 1, tm := false, cregs := plainContext, ctx := 0, kind := .store, conn := some 0, hr := 12
    rl := recOf' 2, lcrew := some 77, ro := 0, lo := 0, len := 8, arr := none, moved := 0, req := none, due := 0, refused := refused, data := [] }
def withFab (c : FabCmd) : State := { calmState with pkg := { calmState.pkg with fabric := [c] } }
/-- The FRED that contributed to it. -/
def aSource : ChunkSource := { key := 0, crew := 0, op := 1, word := 0, pc := 1, act := 1, exec := 1, tm := false }
def aPlan (parent : Option Nat) : Plan :=
  { ctx := 0, cregs := { plainContext with fabric := BitVec.ofNat 64 (0x30 * 2 ^ 32 + 1) }, crew := 0, key := 0, op := 0, fmt := 6, planId := 1, nch := 2
    chb := 8, parent := parent, kids := [1], resh := recOf' 2, rescrew := some 0, arrcrew := none, arr := 0, epoch := 0
    mine := [{ epoch := 0, index := 1, off := 0, child := 0, src := some aSource, words := [(5, false)] }]
    theirs := [{ epoch := 0, index := 1, off := 0, child := 0, src := none, words := [(6, false)] }]
    combined := [], awaiting := [], results := [], due := [], tally := [], counted := [], given := [1], aborted := false }

theorem test_witness_collective : (
    let f := withFab (aFab true)
    let g := (withFab (aFab false)).modConn 0 (fun k => { k with failed := true })
    let named := fun (s : State) (refused : Bool) => decide (s.pkg.fabric.find? (fun x => x.id = 1) = some (aFab refused)) && warpIs s 0 (fun w => w.crew = 0)
    let plan := fun (parent : Option Nat) => calmState.setPlan 0 (aPlan parent)
    let full := fun (parent : Option Nat) => (let q := aPlan parent
      decide ((plan parent).plan? 0 = some q) && !q.aborted && !q.combined.contains 1 && (q.mine.find? (fun c => c.epoch = q.epoch && c.index = 1)).isSome
        && (q.theirs.find? (fun c => c.epoch = q.epoch && c.index = 1 && c.child = 0)).isSome)
    let aborts := fun (s : State) (more : Warp → Bool) => ((s.plan? 0).any (fun q => !q.aborted) && !isGhost 0 && warpIs s 0 (fun w => more w && w.crew = aSource.crew))
    let reducing := { aFab false with kind := .reduce 0 1 0, ctx := 0 }
    let pieces : List (BitVec 64 × Bool) := chunkAdd 6 [(5, false)] [(6, false)]
    [aborts (plan none) (fun _ => (aPlan none).mine.all (fun m => m.src = some aSource && !aSource.tm && decide (m.index ∉ (aPlan none).combined))),
     aborts ((withFab reducing).setPlan 0 { aPlan none with mine := [] }) (fun _ => reducing.source = aSource && decide (reducing.ctx = 0) && !reducing.tm && decide (reducing.kind = .reduce 0 1 0)),
     (let q := aPlan none
      let piece : Chunk := { epoch := 0, index := 1, off := 0, child := 0, src := some aSource, words := pieces }
      q.op != 2 && q.results.isEmpty && q.due.isEmpty && decide (pieces.length = 1 ∧ 8 * pieces.length = q.chb) && q.arrcrew.isNone
        && (match fabPut ((plan none).setPlan 0 { q with combined := [1], results := [piece] }) (.plan 0) (portUnit 0) q.cregs q.rescrew (fabBase q.resh + 8) pieces with
          | .done _ _ => true
          | _ => false)),
     named f true && (aFab true).refused && !isGhost (aFab true).key && !(aFab true).tm, named g false && (g.conn 0).failed, named (withFab (aFab false)) false && ((withFab (aFab false)).crew 77).isNone,
     full (some 3), full none].all (fun b => b)) = true := by
  decide +kernel

/-! ## Boot, the device, steps, choice -/

theorem test_witness_boot : ([1, 2, 3, 4, 5, 6].all (fun n => (let s := { calmState with pkg := { calmState.pkg with boot := { Boot.start with stage := n, warm := true } } }
    !s.pkg.frozen && decide (s.pkg.boot.fail = 0) && decide (s.pkg.boot.stage = n) && decide (s.pkg.boot.tries = 0))) = true) ∧
    calmState.pkg.boot.stage = 0 := by decide +kernel

/-- DeviceResults: the host's accesses go ahead, wait, or wait behind others. -/
theorem test_witness_device : (
    let p : Posted := .bytes 0x200000 [7]
    let with_ := fun (s : State) (ps : List Posted) => s.modPkg (fun k => { k with posted := ps })
    let s := (with_ calmState [p]).modSlice (lineHome 0x4000) (fun sl => { sl with locks := [aLock true true] })
    let t := s.setRing 3 { s.ring 3 with cfg := 256 }
    let frozen := freezeAt calmState
    let waits := fun (s : State) (n : Posted) => decide (s.pkg.posted = [p]) && (match applyPosted (with_ s [p, n]) p with
      | .error _ => true
      | .ok _ => false)
    [!calmState.pkg.frozen && frozen.pkg.frozen, decide ((0x200000 : Nat) < Config.memTop ∧ (37 : Nat) < 38),
     (applyPosted (with_ calmState [p]) p).toOption.isSome, (hostRead 0x200000 4 (with_ calmState [.read 0x200000 4])).toOption.isSome,
     decide ((0 : Word) ≠ 0x5741524D ∧ (0 : Word) ≠ 0x434F4C44), waits t (.tail 3 7) && decide ((t.ring 3).cfg / 256 % 4 = 1),
     waits s (.bytes 0x300000 [1, 2]), waits s (.read 0x300000 2), decide (secondWarp calmState = none)].all (fun b => b)) = true := by decide +kernel

/-- A step on the calm state: its edge, its stops and the registers of a freeze. -/
theorem test_freeze : (let s := freezeAt calmState
    (s.pkg.edge, s.pkg.stops.length, s.mem.length)) = (some 5, 12, calmState.mem.length) := by decide +kernel
/-- LIMIT needs a margin below FLOOR (R471): FLOOR 20, margins 19 and 20. -/
theorem test_age_limit : ((ageOf 0x140000 19 0 0 true).getLsbD 39, (ageOf 0x140000 20 0 0 true).getLsbD 39) = (true, false) := by decide +kernel

/-- StepRunsInstruction: an issue in the agenda, one of the machine's own, the second slot of a pair, events. -/
theorem test_witness_step : (
    let s := { placeWord State.reset (wordFor (.nop (plain 0) (opR 0 0 0 0 0 0))) with agenda := [] }
    let t := { s with agenda := [.issue 0] }
    let quiet := { s with warps := [] }
    let second := s.modWarp 0 (fun w => { w with lastIssue := some s.cycle, tried := some s.cycle, pairNext := some (0, BitVec.allOnes 32) })
    let decodes := fun (w : Warp) (pc : Word) => (match wordAt w pc with
      | some word => (match decode word with
        | .ok _ => true
        | .error _ => false)
      | none => false)
    let at_ := fun (s : State) => decide (secondWarp s = none) && warpIs s 0 (fun w => match s.crewSeen w.crew with
      | some c => (match candidate c w with
        | some (pc, _) => pcNamesSlot pc && decodes w pc
        | none => false)
      | none => false)
    let event := fun (s : State) (e : Instr) (u : Option Nat) => (encode e).isNone && !s.pkg.frozen && decide (secondWarp s = none)
      && decide (bankEngine s e = u) && (u.isNone || !banksDue s && decide (nextIssue s = none))
    [at_ t && mayIssue t 0, at_ s && s.agenda.isEmpty && s.warps.all (fun e => !needsLine s e.1 e.2) && decide (nextIssue s = some 0),
     decide (secondWarp second = some 0) && warpIs second 0 (fun w => match secondSlot second w with
       | some (pc, _) => decodes w pc
       | none => false),
     event s (.scanReadout 3) none, event quiet (.copyCommandStart 0 1) (some 1368),
     (let late := { quiet with lastEngine := (quiet.cycle, 1500) }
      event late (.copyCommandStart 0 1) (some 1368))].all (fun b => b)) = true := by decide +kernel

theorem test_witness_encoding : (.movi (plain 0) (opI 4 0 7) : Instr).wellFormed = true ∧ (encode (.movi (plain 0) (opI 4 0 7))).isSome = true ∧
    reads (wordFor (.movi (plain 0) (opI 4 0 7))) (.movi (plain 0) (opI 4 0 7)) = true := by decide +kernel

theorem test_witness_candidates : (
    let split := fun (n : Nat) => withWarp (fun w => { w with pt := { w.pt with
      pcs := (List.range 32).map (fun l => if l = 3 then 2 else 1), skips := (List.range 32).map (fun l => if l = 3 then n else 0) } })
    let cand := fun (s : State) (pc : Word) => warpIs s 0 (fun w => match s.crew w.crew with
      | some c => decide (c.preempt = none) && (match candidate c w with
        | some (p, _) => p = pc
        | none => false)
      | none => false)
    let none_ := calmState.modWarp 0 (fun w => { w with holdUntil := 1000 })
    let ready_ := placeWord State.reset (wordFor (.nop (plain 0) (opR 0 0 0 0 0 0)))
    [cand (split 31) 1, cand (split 32) 2, !eligible none_ 0 && decide (secondWarp none_ = none), (match prepare ready_ 0 with
      | .first _ _ => true
      | _ => false)].all (fun b => b)) = true := by decide +kernel

/-- BankResults: every kind at one element; a store is performed at its completion. -/
theorem test_witness_banks : (
    let ops : List MemOp := [{ aMemOp with space := .scratch 0 }, { aMemOp with space := .scratch 0, kind := .load (.reg false false) },
      { aMemOp with space := .scratch 0, kind := .atom (.op 0) }, { aMemOp with space := .scratch 0, kind := .atom .cas },
      { aMemOp with space := .scratch 0, kind := .red 0 }]
    let e : MemEl := { idx := 0, va := 0x100, pa := 0x100, data := 7, expect := 0 }
    ops.all (fun m0 => (let m := { m0 with els := [e] }
      let s := withPends [pendAs 1 (.banks m) []]
      (match s.crew 0 with
      | some c => c.ending.isNone && !spBadAt c e.pa m.size
      | none => false) && warpIs s 0 (fun w => w.crew = 0 && !scratchBusy w 1 && !w.restoring.contains 1 && (match findPend w 1 with
        | some p => bankTurn s 0 p && !quadFirst s 0 p && decide (p.late = .banks m) && decide (p.ready ≤ s.cycle)
        | none => false)) && !s.pkg.frozen && !s.faults.any (fun f => f.waiter = .access 0 1)))) = true := by decide +kernel

/-- R247, R248: two lanes at one word. An atomic add of 1 and 2 to 10 returns 10 and 11; a reduction of them leaves 13. -/
theorem test_banks_two_lanes : (
    let els : List MemEl := [{ idx := 0, va := 0x100, pa := 0x100, data := 1, expect := 0 }, { idx := 1, va := 0x100, pa := 0x100, data := 2, expect := 0 }]
    let m := { aMemOp with space := .scratch 0, els := els, ety := 5 }
    let c := spWrite (oneCrew 0) 0x100 10 4
    let a := bankOp c { m with kind := .atom (.op 0) }
    let r := bankOp c { m with kind := .red 0 }
    (a.2.map (fun o => o.2.lane.val.toNat), spRead a.1 0x100 4, spRead r.1 0x100 4, r.2.length)) = ([10, 11], 13, 13, 0) := by decide +kernel

/-- FrozenStays: eight cycles after the edge, with turns that ask for more. -/
theorem test_witness_frozen : (
    let f := freezeAt calmState
    let s := { f with cycle := f.cycle + 8, agenda := [.tick, .event .freeze] }
    s.pkg.frozen && allStopped { s with pkg := { s.pkg with stops := [0, 8] } } && s.agenda.all (fun t => match t with
      | .event e => !whileFrozen e
      | _ => true)) = true := by decide +kernel

end Sys2Proof.Tests
end

section
/-! PROOF. What a CSR write leaves and what it changes (00_scope.md R5, 03_numbers.md R69, R70, 07_thread_control_traps.md R174). -/

namespace Sys2Proof.Machine

/-- Of the CSRs that a warp holds, five alone have a field that a write can change. -/
theorem warpCsrWrite_readOnly (w : Warp) (csr op : Nat) (src : Word) (hmode : csr ≠ 0x010) (hstat : csr ≠ 0x011)
    (htpc : csr ≠ 0x021) (htvec : csr ≠ 0x027) (htstat : csr ≠ 0x028) : warpCsrWrite w csr op src = w := by
  unfold warpCsrWrite
  split
  case h_6 => rfl
  all_goals contradiction

/-- Whatever CSR is written, of the warp only FPMODE, FPSTAT, TPC, TVEC and TSTAT.BKEN can change. -/
theorem warpCsrWrite_frame (w : Warp) (csr op : Nat) (src : Word) :
    { warpCsrWrite w csr op src with fpmode := 0, fpstat := 0, tpc := 0, tvec := 0, bken := false }
      = { w with fpmode := 0, fpstat := 0, tpc := 0, tvec := 0, bken := false } := by
  unfold warpCsrWrite
  split
  case h_3 => split <;> rfl
  all_goals rfl

/-- Outside the writable CSRs of the units a write leaves the whole state. -/
theorem unitCsrWrite_readOnly (s : State) (key csr op : Nat) (src : Word) (hdead : csr ≠ 0x104) (hmx : csr ≠ 0x200)
    (hcpy : csr ≠ 0x202) (hflush : csr ≠ 0x501) (hctx : ¬ (0x400 ≤ csr ∧ csr ≤ 0x407)) : unitCsrWrite s key csr op src = s := by
  simp [unitCsrWrite, hdead, hmx, hcpy, hflush, hctx]

/-- A bit of a register after a write: the operation's result under the mask, the old bit outside it. -/
theorem csrApply_getLsbD (op : Nat) (old src m : Word) (b : Nat) (hb : b < 64) :
    (csrApply op old src m).getLsbD b =
      if m.getLsbD b then
        (if op = 0 then src.getLsbD b else if op = 1 then old.getLsbD b || src.getLsbD b else old.getLsbD b && !src.getLsbD b)
      else old.getLsbD b := by
  have hmask : ∀ v : Word, ((old &&& ~~~m) ||| (v &&& m)).getLsbD b = if m.getLsbD b then v.getLsbD b else old.getLsbD b := by
    intro v
    cases hm : m.getLsbD b <;> simp only [BitVec.getLsbD_or, BitVec.getLsbD_and, BitVec.getLsbD_not, hb, hm] <;> simp
  match op with
  | 0 => exact hmask src
  | 1 => exact (hmask (old ||| src)).trans (by simp)
  | n + 2 => exact (hmask (old &&& ~~~src)).trans (by simp [hb])

/-- FPSTAT under a write: a bit that is 1 in the source goes, but for the clear operation (W1C). -/
theorem warpCsrWrite_fpstat (w : Warp) (op : Nat) (src : Word) (b : Nat) (hb : b < 64) :
    (warpCsrWrite w 0x011 op src).fpstat.getLsbD b = (w.fpstat.getLsbD b && (op == 2 || !src.getLsbD b)) := by
  by_cases hop : op = 2
  · simp [warpCsrWrite, hop]
  · have hne : (op == 2) = false := by simpa using hop
    simp [warpCsrWrite, hop, hne, hb]

end Sys2Proof.Machine

namespace Sys2Proof.Proofs
open Sys2Proof Sys2Proof.Machine

/-- Settles O20: each clause is a lemma on what a CSR write does to one kind of CSR. -/
theorem csrFields : Obligations.CsrFields := by
  unfold Obligations.CsrFields
  exact ⟨warpCsrWrite_readOnly, warpCsrWrite_frame, unitCsrWrite_readOnly,
    fun w op src b hb => ⟨warpCsrWrite_fpstat w op src b hb, csrApply_getLsbD op w.fpmode src fpmodeMask b hb⟩⟩

end Sys2Proof.Proofs
end

section
/-! PROOF. A byte that an engine writes at its home stands in the line that the slice then holds (R316, R328). -/

namespace Sys2Proof.Machine

/-! ## Bits of a line -/

/-- Bytes taken out of a line are a field of its bits. -/
theorem lineTake_eq (d : Line) (off n : Nat) : lineTake d off n = (d.extractLsb' (8 * off) (8 * n)).toNat := by
  simp [lineTake]

theorem mergeLine_getLsbD (old new m : Line) (i : Nat) :
    (mergeLine old new m).getLsbD i = if m.getLsbD i then new.getLsbD i else old.getLsbD i := by
  by_cases hi : i < 1024
  · cases hm : m.getLsbD i <;> simp only [mergeLine, BitVec.getLsbD_or, BitVec.getLsbD_and, BitVec.getLsbD_not, hi, hm] <;> simp
  · have hout : ∀ x : Line, x.getLsbD i = false := fun x => BitVec.getLsbD_of_ge x i (by omega)
    simp [hout]

/-- A byte's eight bits, placed in a line. -/
theorem byteAt_getLsbD (b : Byte) (k i : Nat) (hi : i < 1024) :
    ((BitVec.setWidth 1024 b : Line) <<< (8 * k)).getLsbD i = (decide (i / 8 = k) && b.getLsbD (i % 8)) := by
  simp only [BitVec.getLsbD_shiftLeft, BitVec.getLsbD_setWidth]
  by_cases hk : i / 8 = k
  · have h1 : ¬ i < 8 * k := by omega
    have h2 : i - 8 * k = i % 8 := by omega
    have h3 : i % 8 < 1024 := by omega
    simp [hi, h1, h2, h3, hk]
  · rcases Nat.lt_or_ge i (8 * k) with h1 | h1
    · simp [h1, hk]
    · have h2 : b.getLsbD (i - 8 * k) = false := BitVec.getLsbD_of_ge _ _ (by omega)
      simp [hk, h2]

/-- The bits of one whole byte of a line. -/
theorem wholeByte_getLsbD (k i : Nat) (hi : i < 1024) : (0xFF#1024 <<< (8 * k)).getLsbD i = decide (i / 8 = k) := by
  have hones : ∀ j : Fin 8, (0xFF#8).getLsbD j = true := by decide
  have hbyte := byteAt_getLsbD (0xFF#8) k i hi
  rw [hones ⟨i % 8, Nat.mod_lt _ (by decide)⟩, Bool.and_true] at hbyte
  rw [← hbyte]
  simp

/-- The bits of a byte mask: bit i of the line stands for byte i / 8. -/
theorem byteBits_getLsbD (m : BitVec 128) (i : Nat) (hi : i < 1024) : (byteBits m).getLsbD i = m.getLsbD (i / 8) := by
  have hfold : ∀ n,
      ((List.range n).foldl (fun (a : Line) k => if m.getLsbD k then a ||| (0xFF#1024 <<< (8 * k)) else a) 0).getLsbD i
        = (decide (i / 8 < n) && m.getLsbD (i / 8)) := by
    intro n
    induction n with
    | zero => simp
    | succ n ih =>
      rw [List.range_succ, List.foldl_append]
      simp only [List.foldl_cons, List.foldl_nil]
      by_cases hm : m.getLsbD n = true
      · rw [if_pos hm, BitVec.getLsbD_or, ih, wholeByte_getLsbD n i hi]
        by_cases hin : i / 8 = n
        · simp [hin, hm]
        · simp [hin, show i / 8 < n + 1 ↔ i / 8 < n by omega]
      · rw [if_neg hm, ih]
        by_cases hin : i / 8 = n
        · simp [hin, hm]
        · simp [show i / 8 < n + 1 ↔ i / 8 < n by omega]
  have h := hfold 128
  rw [decide_eq_true (by omega : i / 8 < 128), Bool.true_and] at h
  exact h

/-- A byte merged into a line is read back at its place. -/
theorem lineTake_mergeByte (old d : Line) (m : BitVec 128) (b : Byte) (off : Nat) (hoff : off < 128) (hm : m.getLsbD off = true)
    (hd : ∀ i, i / 8 = off → d.getLsbD i = b.getLsbD (i % 8)) :
    lineTake (mergeLine old d (byteBits m)) off 1 = b.toNat := by
  rw [lineTake_eq]
  refine congrArg BitVec.toNat (BitVec.eq_of_getLsbD_eq (y := b) fun i hi => ?_)
  have hdiv : (8 * off + i) / 8 = off := by omega
  have hmod : (8 * off + i) % 8 = i := by omega
  rw [BitVec.getLsbD_extractLsb', mergeLine_getLsbD, byteBits_getLsbD _ _ (by omega), hdiv, hd _ hdiv, hmod]
  simp [hi, hm]

/-! ## The line after a write at its home -/

@[simp] theorem cxlWrite_slices (s : State) (ln : Nat) (d : Line) (bad : BitVec 16) : (cxlWrite s ln d bad).slices = s.slices := by
  unfold cxlWrite
  split <;> rfl

/-- Written-back lines go to memory; the slices stay. -/
@[simp] theorem writeBacks_slices (s : State) (vs : List (Nat × SLine)) : (writeBacks s vs).slices = s.slices := by
  unfold writeBacks
  induction vs generalizing s with
  | nil => rfl
  | cons v t ih =>
    rw [List.foldl_cons, ih]
    split <;> simp

/-- A line that is stored stands in its slice. -/
theorem slPut_line {s t : State} {ln : Nat} {d : Line} {bad : BitVec 16} {dirty : Bool} {spare : List Nat}
    (h : slPut s ln d bad dirty spare = .ok t) :
    ∃ l, fmFind (t.slice (lineHome ln)).lines ln = some l ∧ l.data = d := by
  unfold slPut at h
  dsimp only at h
  split at h
  · cases h
  · obtain rfl := Except.ok.inj h
    simp only [State.slice, writeBacks_slices, State.setSlice_slices, fmGet_fmPut_same, fmFind_fmPut_same, Option.some.injEq]
    exact ⟨_, rfl, rfl⟩

/-- A computation that goes on after a step has gone through that step. -/
theorem except_bind_ok {ε α β : Type} {x : Except ε α} {f : α → Except ε β} {b : β} (h : (x >>= f) = .ok b) :
    ∃ a, x = .ok a ∧ f a = .ok b := by
  cases x with
  | error e => cases h
  | ok a => exact ⟨a, rfl, h⟩

/-- A write at a home leaves the line there: the written bytes over what it held. -/
theorem homeWrite_line {s t : State} {ln : Nat} {bytes : BitVec 128} {d : Line} {bad : BitVec 16} {engine : Bool}
    (h : homeWrite s ln bytes d bad engine = .ok t) :
    ∃ l old, fmFind (t.slice (lineHome ln)).lines ln = some l ∧ l.data = mergeLine old d (byteBits bytes) := by
  unfold homeWrite at h
  obtain ⟨s0, -, h⟩ := except_bind_ok h
  obtain ⟨s1, -, h⟩ := except_bind_ok h
  split_ifs at h
  all_goals
    obtain ⟨s2, -, h⟩ := except_bind_ok h
    obtain ⟨⟨s3, old⟩, -, h⟩ := except_bind_ok h
    obtain ⟨l, hl, hdata⟩ := slPut_line h
    exact ⟨l, old.data, hl, hdata⟩

/-- One byte that an engine writes at its home stands there in the line. -/
theorem homePut_byte {who : Waiter} {unit pa : Nat} {b : Byte} {s t : State}
    (h : homePut who unit [(pa, b, false)] [pa / 128] s = .ok t) :
    ∃ l, fmFind (t.slice (lineHome (pa / 128))).lines (pa / 128) = some l ∧ lineTake l.data (pa % 128) 1 = b.toNat := by
  simp only [homePut, List.filter_cons, decide_true, if_true, List.filter_nil, List.foldl_cons, List.foldl_nil] at h
  split at h
  · cases h
  · split at h
    · cases h
    · rename_i s1 hw
      obtain rfl := Except.ok.inj h
      obtain ⟨l, old, hl, hdata⟩ := homeWrite_line hw
      refine ⟨l, hl, ?_⟩
      have hoff : pa % 128 < 128 := Nat.mod_lt _ (by decide)
      rw [hdata]
      refine lineTake_mergeByte _ _ _ _ _ hoff ?_ fun i hi => ?_
      · simp [hoff]
      · rw [mergeLine_getLsbD, wholeByte_getLsbD _ _ (by omega), byteAt_getLsbD _ _ _ (by omega)]
        simp [hi]

end Sys2Proof.Machine
end

section
/-! PROOF. Freeze, debug, limits and ports: what each step of the device does to its own register (17_fabric.md R463, 18_device.md R469-R472, R476). -/

namespace Sys2Proof.Machine

/-- A freeze of a running package sets FROZEN, the edge and the stop of each of the twelve clocks, and no more (R469). -/
theorem freezeAt_running (s : State) (hf : s.pkg.frozen = false) : ∃ stops : List Nat, stops.length = 12 ∧ (∀ n ∈ stops, n ≤ 8) ∧
    { freezeAt s with draw := s.draw } = { s with pkg := { s.pkg with frozen := true, edge := some s.cycle, stops := stops } } := by
  refine ⟨(List.range 12).map (fun i => (Config.freeWord (s.draw * 65536 + 20700 + i)).toNat % 9), by simp, ?_, ?_⟩
  · simp only [List.mem_map]
    rintro n ⟨i, -, rfl⟩
    omega
  · simp [freezeAt, hf, State.modPkg]

/-- A frozen package is not frozen again. -/
theorem freezeAt_frozen (s : State) (hf : s.pkg.frozen = true) : freezeAt s = s := by simp [freezeAt, hf]

/-! ## Ageing (R471, R472) -/

/-- The number that an append of two fields stands for. -/
theorem toNat_append_add {n m : Nat} (x : BitVec n) (y : BitVec m) : (x ++ y).toNat = x.toNat * 2 ^ m + y.toNat := by
  rw [BitVec.toNat_append, ← Nat.shiftLeft_add_eq_or_of_lt y.isLt, Nat.shiftLeft_eq]

/-- A bit of a word is the bit of the one-bit field at its place. -/
theorem getLsbD_eq_extract {n : Nat} (x : BitVec n) (k : Nat) : x.getLsbD k = (x.extractLsb' k 1).getLsbD 0 := by simp

/-- REPLANS after a reading at a supply (R472). -/
def replansOf (old : Word) (vdd : Nat) : Nat :=
  if old.extractLsb' 48 16 = BitVec.ofNat 16 vdd then (old.extractLsb' 0 16).toNat else min ((old.extractLsb' 0 16).toNat + 1) 0xFFFF

theorem replansOf_lt (old : Word) (vdd : Nat) : replansOf old vdd < 2 ^ 16 := by
  unfold replansOf
  split <;> omega

/-- An AGE register by its fields: VDD, reserved bits, LIMIT, WORST, MARGIN, FLOOR, REPLANS. -/
theorem ageOf_fields (old : Word) (margin worst vdd : Nat) (limit : Bool) (hw : worst < 38) :
    ageOf old margin worst vdd limit =
      (BitVec.ofNat 16 vdd ++ (0#8 ++ (BitVec.ofBool (limit && margin % 256 < (old.extractLsb' 16 8).toNat) ++ (BitVec.ofNat 7 worst ++
        (BitVec.ofNat 8 margin ++ (old.extractLsb' 16 8 ++ BitVec.ofNat 16 (replansOf old vdd)))))) : BitVec 64) := by
  apply BitVec.eq_of_toNat_eq
  have hlt := replansOf_lt old vdd
  have hsupply : (old.toNat / 2 ^ 48 = vdd % 65536) ↔ old.extractLsb' 48 16 = BitVec.ofNat 16 vdd := by
    rw [← BitVec.toNat_inj]
    have := old.isLt
    simp [Nat.shiftRight_eq_div_pow]
    omega
  have hreplans : (if old.toNat / 2 ^ 48 = vdd % 65536 then old.toNat % 65536 else min (old.toNat % 65536 + 1) 0xFFFF) = replansOf old vdd := by
    rw [if_congr hsupply rfl rfl]
    simp [replansOf]
  have hfloor : (old.extractLsb' 16 8).toNat = old.toNat / 2 ^ 16 % 256 := by simp [Nat.shiftRight_eq_div_pow]
  unfold ageOf
  simp only [hreplans, ← hfloor, toNat_append_add, BitVec.toNat_ofNat, BitVec.toNat_ofBool]
  have hfloorlt := (old.extractLsb' 16 8).isLt
  cases (limit && decide (margin % 256 < (old.extractLsb' 16 8).toNat)) <;> simp <;> omega

/-- Each field of an AGE register after a reading (R471, R472). -/
theorem ageOf_read (old : Word) (margin worst vdd : Nat) (limit : Bool) (hw : worst < 38) :
    let new := ageOf old margin worst vdd limit
    new.extractLsb' 48 16 = BitVec.ofNat 16 vdd ∧ new.extractLsb' 40 8 = 0 ∧
      new.getLsbD 39 = (limit && margin % 256 < (old.extractLsb' 16 8).toNat) ∧ new.extractLsb' 32 7 = BitVec.ofNat 7 worst ∧
      new.extractLsb' 24 8 = BitVec.ofNat 8 margin ∧ new.extractLsb' 16 8 = old.extractLsb' 16 8 ∧
      (new.extractLsb' 0 16).toNat = replansOf old vdd := by
  intro new
  have hnew : new = _ := ageOf_fields old margin worst vdd limit hw
  rw [hnew]
  refine ⟨?vdd, ?reserved, ?atLimit, ?worst, ?margin, ?floor, ?replans⟩
  case reserved => simp (disch := omega) only [extract_append_hi, extract_append_lo]; rfl
  case atLimit =>
    rw [getLsbD_eq_extract]
    simp (disch := omega) only [extract_append_hi, extract_append_lo, Nat.sub_self, extract_all, BitVec.getLsbD_ofBool]
    simp
  case replans =>
    simp (disch := omega) only [extract_append_lo, extract_all, BitVec.toNat_ofNat]
    exact Nat.mod_eq_of_lt (replansOf_lt old vdd)
  all_goals simp (disch := omega) only [extract_append_hi, extract_append_lo, Nat.sub_self, extract_all]

/-- A reading of a die's path monitors sets that die's AGE register and nothing else. -/
theorem pathMonitorRead_next (s : State) (hf : s.pkg.frozen = false) (d margin worst vdd : Nat) (limit : Bool) (hd : d < 4) (hw : worst < 38) :
    exec (.pathMonitorRead d margin worst vdd limit) s =
      .next (s.setDie d { s.die d with age := ageOf (s.die d).age margin worst vdd limit }) := by
  change Host.Outcome.next (if _ then _ else _) = _
  rw [if_neg (by simp [hf]; omega)]

/-! ## Ports (R463) -/

/-- FABST.UP after a link changes: the port's bit is the link's state, the others stay. -/
theorem portLinkChange_next (s : State) (hf : s.pkg.frozen = false) (n : Nat) (up : Bool) (hn : n < 12) :
    exec (.portLinkChange n up) s =
      .next (s.modPkg (fun p => { p with ports := (p.ports &&& ~~~(1#12 <<< n)) ||| (if up then 1#12 <<< n else 0) })) := by
  change Host.Outcome.next (if _ then _ else _) = _
  rw [if_neg (by simp [hf]; omega)]

theorem portBits_getLsbD (ports : BitVec 12) (n j : Nat) (up : Bool) (hj : j < 12) :
    ((ports &&& ~~~(1#12 <<< n)) ||| (if up then 1#12 <<< n else 0)).getLsbD j = if j = n then up else ports.getLsbD j := by
  have hbit : (1#12 <<< n).getLsbD j = decide (j = n) := by
    rw [BitVec.getLsbD_shiftLeft, BitVec.getLsbD_one]
    by_cases h : j = n
    · simp [← h, hj]
    · simp [h]
      omega
  have hup : (if up then 1#12 <<< n else 0).getLsbD j = (up && decide (j = n)) := by
    cases up
    · simp
    · exact hbit
  rw [BitVec.getLsbD_or, BitVec.getLsbD_and, BitVec.getLsbD_not, hup, hbit]
  by_cases h : j = n <;> simp [h, hj]

end Sys2Proof.Machine
end

section
/-! PROOF. The control window and the accesses of the host, each register and each outcome of an access said once (16_package.md R405, R414,
18_device.md R477, R478). -/

namespace Sys2Proof.Machine

/-! ## The host's accesses in their order (R478) -/

/-- The state with the host's accesses that wait replaced. -/
def State.withPosted (s : State) (ps : List Posted) : State := { s with pkg := { s.pkg with posted := ps } }

/-- An access behind which none waits goes ahead. -/
theorem hostPost_goes {s s1 : State} {q : Posted} (hp : s.pkg.posted = []) (hq : applyPosted (s.withPosted [q]) q = .ok s1) :
    hostPost s q = s1.withPosted [] := by
  have hq' : applyPosted (s.modPkg (fun k => { k with posted := [q] })) q = .ok s1 := hq
  simp only [hostPost, hp, List.nil_append, applyAllPosted, hq']
  rfl

/-- An access goes behind those that wait: while the first of them waits, the new one does. -/
theorem hostPost_behind {s : State} {p q : Posted} {rest : List Posted} {e : VErr} (hp : s.pkg.posted = p :: rest)
    (he : applyPosted (s.withPosted (s.pkg.posted ++ [q])) p = .error e) :
    hostPost s q = e.waitsAs .host (s.withPosted (s.pkg.posted ++ [q])) := by
  rw [hp, List.cons_append] at he ⊢
  have he' : applyPosted (s.modPkg (fun k => { k with posted := p :: (rest ++ [q]) })) p = .error e := he
  simp only [hostPost, hp, List.cons_append, applyAllPosted, he']
  rfl

/-- With no access of the host waiting, its RTAIL takes effect at once. -/
theorem hostPost_tail {s : State} (hp : s.pkg.posted = []) (r v : Nat) : hostPost s (.tail r v) = ringWrite s r 0x18 v := by
  rw [hostPost_goes hp (s1 := ringWrite (s.withPosted [.tail r v]) r 0x18 v) rfl]
  simp [ringWrite, State.withPosted, State.setRing, State.modPkg, State.ring, ← hp]

/-! ## The host link's windows onto memory (R477) -/

section
variable {s : State} (hf : s.pkg.frozen = false)
include hf

/-- A write through BAR2 inside memory takes its place among the host's accesses. -/
theorem hostBar2Access_write (pa : Nat) (bs : List Byte) (n : Nat) (hm : pa + bs.length ≤ Config.memTop) :
    exec (.hostBar2Access pa (some bs) n) s = .next (hostPost s (.bytes pa bs)) := by
  change Host.Outcome.next (if _ then _ else if _ then _ else _) = _
  rw [if_neg (by simp [hf]), if_neg (by omega)]

/-- So does a read. -/
theorem hostBar2Access_read (pa n : Nat) (hm : pa + n ≤ Config.memTop) :
    exec (.hostBar2Access pa none n) s = .next (hostPost s (.read pa n)) := by
  change Host.Outcome.next (if _ then _ else if _ then _ else _) = _
  rw [if_neg (by simp [hf]), if_neg (by omega)]

/-! ## Writes of the control window (R405) -/

/-- A write of a register that is no host's RTAIL. -/
theorem registerWrite_window {off : Nat} (ho : hostTail s off = none) (v : Word) :
    exec (.registerWrite off v) s = .next (windowWrite s off v.toNat) := by
  change Host.Outcome.next (if _ then _ else _) = _
  rw [if_neg (by simp [hf]), ho]

/-- A host's RTAIL takes its place among the host's accesses (R478). -/
theorem registerWrite_hostTail {off r : Nat} (ho : hostTail s off = some r) (v : Word) :
    exec (.registerWrite off v) s = .next (hostPost s (.tail r v.toNat)) := by
  change Host.Outcome.next (if _ then _ else _) = _
  rw [if_neg (by simp [hf]), ho]

end

/-- The offset of a register of a launch ring, and of a fault ring. -/
def ringOffset (r reg : Nat) : Nat := 0x10000 + 0x100 * r + reg
def fringOffset (i reg : Nat) : Nat := 0x20000 + 0x100 * i + reg

theorem ringOffset_index (r reg : Nat) (hreg : reg < 0x100) : (ringOffset r reg - 0x10000) / 0x100 = r ∧ ringOffset r reg % 0x100 = reg := by
  unfold ringOffset
  omega

theorem fringOffset_index (i reg : Nat) (hreg : reg < 0x100) : (fringOffset i reg - 0x20000) / 0x100 = i ∧ fringOffset i reg % 0x100 = reg := by
  unfold fringOffset
  omega

/-- A launch ring's register is a host's RTAIL where it is RTAIL and the host writes the ring. -/
theorem hostTail_ring (s : State) (r reg : Nat) (hr : r < 32) (hreg : reg < 0x100) :
    hostTail s (ringOffset r reg) = if reg = 0x18 ∧ (s.ring r).cfg / 256 % 4 = 1 then some r else none := by
  obtain ⟨hi, hm⟩ := ringOffset_index r reg hreg
  have hlo : 0x10000 ≤ ringOffset r reg := by unfold ringOffset; omega
  simp [hostTail, hi, hm, hr, hlo]

/-- No other offset is one. -/
theorem hostTail_none (s : State) (off : Nat) (ho : off < 0x10000 ∨ 0x12000 ≤ off) : hostTail s off = none := by
  unfold hostTail
  exact if_neg (by simp; omega)

/-- An offset of a launch ring's register writes that ring. -/
theorem windowWrite_ring (s : State) (r reg v : Nat) (hr : r < 32) (hreg : reg < 0x100) :
    windowWrite s (ringOffset r reg) v = ringWrite s r reg v := by
  obtain ⟨hi, hm⟩ := ringOffset_index r reg hreg
  unfold windowWrite
  rw [hi, hm]
  unfold ringOffset
  rw [if_neg (by omega), if_neg (by omega), if_neg (by omega), if_pos (by simp; omega)]

/-- An offset of a fault ring's register writes that fault ring. -/
theorem windowWrite_fring (s : State) (i reg v : Nat) (hi : i < 16) (hreg : reg < 0x100) :
    windowWrite s (fringOffset i reg) v = fringWrite s i reg v := by
  obtain ⟨hx, hm⟩ := fringOffset_index i reg hreg
  unfold windowWrite
  rw [hx, hm]
  unfold fringOffset
  rw [if_neg (by omega), if_neg (by omega), if_neg (by omega), if_neg (by simp; omega), if_pos (by simp; omega)]

/-- A write of a launch ring's register changes the package's registers alone. -/
theorem ringWrite_pkgOnly (s : State) (r reg v : Nat) : { ringWrite s r reg v with pkg := s.pkg } = s := by
  unfold ringWrite
  dsimp only
  split <;> rfl

/-- FRESP is the resolution of the fault that its value names (R414). -/
theorem fringWrite_fresp {s : State} (hf : s.pkg.frozen = false) (i v : Nat) :
    Host.Outcome.next (fringWrite s i 0x20 v) = exec (if v.testBit 32 then .frespAbort (v % 2 ^ 32) else .frespRetry (v % 2 ^ 32)) s := by
  have hretry : exec (.frespRetry (v % 2 ^ 32)) s = execFrespRetry (v % 2 ^ 32) s := rfl
  have habort : exec (.frespAbort (v % 2 ^ 32)) s = execFrespAbort (v % 2 ^ 32) s := rfl
  cases hw : waitingRecord s (v % 2 ^ 32) <;> cases hv : v.testBit 32 <;>
    simp only [fringWrite, hw, hv, hretry, habort, execFrespRetry, execFrespAbort, hf, Bool.false_eq_true, if_true, if_false]

/-! ## Reads of the control window (R405) -/

/-- The register of a launch ring at an offset of its block, and of a fault ring. -/
def ringRead (g : Ring) (reg : Nat) : Nat :=
  match reg with
  | 0x00 => g.base
  | 0x08 => g.cfg
  | 0x10 => g.head
  | 0x18 => g.tail
  | 0x20 => g.rej
  | _ => 0
def fringRead (g : FRing) (reg : Nat) : Nat :=
  match reg with
  | 0x00 => g.base
  | 0x08 => g.cfg
  | 0x10 => g.head
  | 0x18 => g.tail
  | 0x28 => g.stat
  | _ => 0

theorem windowRead_ring (s : State) (r reg : Nat) (hr : r < 32) (hreg : reg < 0x100) :
    windowRead s (ringOffset r reg) = ringRead (s.ring r) reg := by
  obtain ⟨hi, hm⟩ := ringOffset_index r reg hreg
  unfold windowRead
  rw [hi, hm]
  unfold ringOffset
  rw [if_neg (by omega), if_neg (by omega), if_pos (by simp; omega)]
  rfl

theorem windowRead_fring (s : State) (i reg : Nat) (hi : i < 16) (hreg : reg < 0x100) :
    windowRead s (fringOffset i reg) = fringRead (s.fring i) reg := by
  obtain ⟨hx, hm⟩ := fringOffset_index i reg hreg
  unfold windowRead
  rw [hx, hm]
  unfold fringOffset
  rw [if_neg (by omega), if_neg (by omega), if_neg (by simp; omega), if_pos (by simp; omega)]
  rfl

/-- A turn of the agenda reads a register of the window whole. -/
theorem step_windowRead {s : State} (hf : s.pkg.frozen = false) (h2 : secondWarp s = none) (off : Nat) (rest : List Turn) :
    step { s with agenda := .windowRead off :: rest } =
      .next { s with agenda := rest, pkg := { s.pkg with hostRead := (bytesLE (windowRead s off) 8).map (fun b => (b, false)) } } := by
  have h2' : secondWarp { s with agenda := .windowRead off :: rest } = none := h2
  unfold step stepWith
  simp only [h2', Bool.false_and, Bool.false_eq_true, if_false]
  have hrun : runTurn exec { s with agenda := rest } (.windowRead off) =
      .next { s with agenda := rest, pkg := { s.pkg with hostRead := (bytesLE (windowRead s off) 8).map (fun b => (b, false)) } } := by
    change Host.Outcome.next (if s.pkg.frozen = true then _ else _) = _
    rw [if_neg (by simp [hf])]
    rfl
  cases nextIssue { s with agenda := .windowRead off :: rest } <;> exact hrun

/-! ## Each register of the control window (R405) -/

section
variable {s : State} (hf : s.pkg.frozen = false)
include hf

/-- A write of a launch ring's register takes effect at once, but for a host's RTAIL behind accesses that wait. -/
theorem registerWrite_ring (r reg : Nat) (hr : r < 32) (hreg : reg < 0x100) (v : Word)
    (hgo : reg ≠ 0x18 ∨ (s.ring r).cfg / 256 % 4 ≠ 1 ∨ s.pkg.posted = []) :
    exec (.registerWrite (ringOffset r reg) v) s = .next (ringWrite s r reg v.toNat) := by
  have ht := hostTail_ring s r reg hr hreg
  by_cases h : reg = 0x18 ∧ (s.ring r).cfg / 256 % 4 = 1
  · obtain ⟨rfl, hc⟩ := h
    have hp : s.pkg.posted = [] := by simpa [hc] using hgo
    rw [registerWrite_hostTail hf (ht.trans (if_pos ⟨rfl, hc⟩)), hostPost_tail hp]
  · rw [registerWrite_window hf (ht.trans (if_neg h)), windowWrite_ring s r reg _ hr hreg]

/-- A write of a fault ring's register takes effect at once. -/
theorem registerWrite_fring (i reg : Nat) (hi : i < 16) (hreg : reg < 0x100) (v : Word) :
    exec (.registerWrite (fringOffset i reg) v) s = .next (fringWrite s i reg v.toNat) := by
  rw [registerWrite_window hf (hostTail_none s _ (by unfold fringOffset; omega)), windowWrite_fring s i reg _ hi hreg]

/-- CTXTAB, CTXN and the reset register take effect at once. -/
theorem registerWrite_low (off : Nat) (ho : off < 0x10000) (v : Word) :
    exec (.registerWrite off v) s = .next (windowWrite s off v.toNat) :=
  registerWrite_window hf (hostTail_none s off (Or.inl ho)) v

/-- The reset register does nothing for a value that names no reset (R467). -/
theorem registerWrite_noReset (v : Word) (hwarm : v ≠ 0x5741524D) (hcold : v ≠ 0x434F4C44) :
    exec (.registerWrite 16 v) s = .next s := by
  rw [registerWrite_low hf 16 (by decide)]
  have h1 : v.toNat ≠ 0x5741524D := fun h => hwarm (BitVec.eq_of_toNat_eq h)
  have h2 : v.toNat ≠ 0x434F4C44 := fun h => hcold (BitVec.eq_of_toNat_eq h)
  simp [windowWrite, h1, h2]

/-- "WARM" in the reset register starts a warm reset. -/
theorem registerWrite_warm : exec (.registerWrite 16 0x5741524D) s = exec .warmStart s := by
  rw [registerWrite_low hf 16 (by decide)]
  change _ = Host.Outcome.next (resetPackage s (!s.pkg.frozen))
  simp [windowWrite, hf]

/-- "COLD" starts a cold one. -/
theorem registerWrite_cold : exec (.registerWrite 16 0x434F4C44) s = exec .coldStart s := by
  rw [registerWrite_low hf 16 (by decide)]
  change _ = Host.Outcome.next (resetPackage s false)
  simp [windowWrite]

/-- A byte that the host writes through BAR2 stands in the line at its home (R477). -/
theorem hostBar2Access_byte (pa : Nat) (b : Byte) (s1 : State) (hm : pa < Config.memTop) (hp : s.pkg.posted = [])
    (h : applyPosted (s.withPosted [.bytes pa [b]]) (.bytes pa [b]) = .ok s1) :
    ∃ l, exec (.hostBar2Access pa (some [b]) 0) s = .next (s1.withPosted []) ∧
      fmFind (s1.slice (lineHome (pa / 128))).lines (pa / 128) = some l ∧ lineTake l.data (pa % 128) 1 = b.toNat := by
  obtain ⟨l, hl, hb⟩ := homePut_byte (who := .host) (unit := hostUnit) (pa := pa) (b := b) (by simpa [applyPosted, List.eraseDups_cons] using h)
  refine ⟨l, ?_, hl, hb⟩
  rw [hostBar2Access_write hf pa [b] 0 hm, hostPost_goes hp h]

/-- A read through BAR2 gives the host the bytes at their homes. -/
theorem hostBar2Access_bytes (pa n : Nat) (s1 : State) (bs : List (Byte × Bool)) (hm : pa + n ≤ Config.memTop) (hp : s.pkg.posted = [])
    (h : hostRead pa n (s.withPosted [.read pa n]) = .ok (s1, bs)) :
    exec (.hostBar2Access pa none n) s = .next { s1 with pkg := { s1.pkg with hostRead := bs, posted := [] } } := by
  rw [hostBar2Access_read hf pa n hm, hostPost_goes hp (s1 := s1.modPkg (fun p => { p with hostRead := bs }))]
  · rfl
  · simp [applyPosted, h, Except.map]

end

end Sys2Proof.Machine
end

section
/-! PROOF. What the device's own steps and the host link do, put together (16_package.md, 17_fabric.md, 18_device.md). -/

namespace Sys2Proof.Proofs
open Sys2Proof Sys2Proof.Machine

/-- Settles O52: each clause is the lemma on the event, the register or the host's access that it speaks of. -/
theorem deviceResults : Obligations.DeviceResults := by
  unfold Obligations.DeviceResults
  intro s pkgOnly
  refine ⟨fun hf => ?freeze, fun hf => ?frozen, fun n => rfl, ⟨rfl, rfl⟩, fun hf a => ?power, fun hf d margin worst vdd limit hd hw => ?path,
    fun hf n up hn => ?port, fun hf v => ?window, fun hf pa hpa => ?bar2, fun hf h2 => step_windowRead hf h2, ?reads⟩
  case freeze =>
    obtain ⟨stops, hlen, hle, heq⟩ := freezeAt_running s hf
    exact ⟨freezeAt s, stops, rfl, hlen, hle, heq, rfl⟩
  case frozen =>
    have hfreeze := freezeAt_frozen s hf
    exact ⟨congrArg Host.Outcome.next hfreeze,
      congrArg (fun t : State => Host.Outcome.next (t.modPkg (fun p => { p with tripped := true }))) hfreeze⟩
  case power => exact congrArg Host.Outcome.next (if_neg (by simp [hf]))
  case path =>
    obtain ⟨hv, hz, hl, hwo, hma, hfl, hn⟩ := ageOf_read (s.die d).age margin worst vdd limit hw
    refine ⟨_, pathMonitorRead_next s hf d margin worst vdd limit hd hw, ?_⟩
    rw [State.setDie_same]
    exact ⟨hv, hz, hl, hwo, hma, hfl, hn, fun j hj => State.setDie_ne s d _ j hj, rfl⟩
  case port => exact ⟨_, portLinkChange_next s hf n up hn, rfl, fun j hj => portBits_getLsbD s.pkg.ports n j up hj⟩
  case window =>
    refine ⟨⟨_, registerWrite_low hf 0 (by decide) v, rfl, rfl⟩, ⟨_, registerWrite_low hf 8 (by decide) v, rfl, rfl⟩,
      registerWrite_noReset hf v, registerWrite_warm hf, registerWrite_cold hf, fun r => ⟨fun hr => ?ring, fun hr hc p rest e hp he => ?behind,
      fun hr => ?fring⟩⟩
    case ring =>
      have hwrite := fun reg hreg hgo => registerWrite_ring hf r reg hr hreg v hgo
      have honly := fun reg => ringWrite_pkgOnly s r reg v.toNat
      obtain ⟨t3, h3⟩ : ∃ t, exec (.registerWrite (ringOffset r 0x18) v) s = .next t := ⟨_, rfl⟩
      have htail : (s.ring r).cfg / 256 % 4 ≠ 1 ∨ s.pkg.posted = [] → t3 = ringWrite s r 0x18 v.toNat := fun hgo =>
        Host.Outcome.next.inj (h3.symm.trans (hwrite 0x18 (by decide) (Or.inr hgo)))
      exact ⟨_, _, t3, _, hwrite 0 (by decide) (Or.inl (by decide)), State.setRing_same s r _,
        hwrite 8 (by decide) (Or.inl (by decide)), State.setRing_same s r _, h3, fun hgo => htail hgo ▸ State.setRing_same s r _,
        hwrite 0x20 (by decide) (Or.inl (by decide)), State.setRing_same s r _, hwrite 0x10 (by decide) (Or.inl (by decide)),
        honly 0, honly 8, fun hgo => htail hgo ▸ honly 0x18, honly 0x20⟩
    case behind =>
      exact (registerWrite_hostTail hf ((hostTail_ring s r 0x18 hr (by decide)).trans (if_pos ⟨rfl, hc⟩)) v).trans
        (congrArg Host.Outcome.next (hostPost_behind hp he))
    case fring =>
      exact ⟨_, registerWrite_fring hf r 0x18 hr (by decide) v, State.setFring_same s r _, rfl,
        (registerWrite_fring hf r 0x20 hr (by decide) v).trans (fringWrite_fresp hf r v.toNat)⟩
  case bar2 =>
    exact ⟨fun b s1 hp h => hostBar2Access_byte hf pa b s1 hpa hp h,
      fun bs p rest e hm hp he => (hostBar2Access_write hf pa bs 0 hm).trans (congrArg Host.Outcome.next (hostPost_behind hp he)),
      fun n s1 bs hm hp h => hostBar2Access_bytes hf pa n s1 bs hm hp h,
      fun n p rest e hm hp he => (hostBar2Access_read hf pa n hm).trans (congrArg Host.Outcome.next (hostPost_behind hp he))⟩
  case reads =>
    refine ⟨rfl, rfl, rfl, fun r hr => ?_, fun i hi => ?_⟩
    · have h := fun reg hreg => windowRead_ring s r reg hr hreg
      exact ⟨h 0 (by decide), h 8 (by decide), h 0x10 (by decide), h 0x18 (by decide), h 0x20 (by decide)⟩
    · have h := fun reg hreg => windowRead_fring s i reg hi hreg
      exact ⟨h 0x20 (by decide), h 0x10 (by decide), h 0x28 (by decide)⟩

end Sys2Proof.Proofs
end

section
/-! PROOF. The encoder and the decoder are inverse to each other (02_encoding.md R22, R34, R41, R43). -/

namespace Sys2Proof

/-! ## The operand area of each format (R34) -/

theorem opROf_area (o : OpR) : opROf o.area = o := by
  obtain ⟨o1, o2, o3, o4, o5, x⟩ := o
  simp (disch := omega) only [opROf, OpR.area, extract_append_hi, extract_append_lo, Nat.reduceSub, Nat.sub_self, extract_all]

theorem opIOf_area (o : OpI) : opIOf o.area = o := by
  obtain ⟨o1, o2, imm⟩ := o
  simp (disch := omega) only [opIOf, OpI.area, extract_append_hi, extract_append_lo, Nat.reduceSub, Nat.sub_self, extract_all]

theorem opMOf_area (o : OpM) : opMOf o.area = o := by
  obtain ⟨o1, o2, hnd, disp⟩ := o
  simp (disch := omega) only [opMOf, OpM.area, extract_append_hi, extract_append_lo, Nat.reduceSub, Nat.sub_self, extract_all]

theorem opBOf_area (o : OpB) : opBOf o.area = o := by
  obtain ⟨o1, o2, imm⟩ := o
  simp (disch := omega) only [opBOf, OpB.area, extract_append_hi, extract_append_lo, Nat.reduceSub, Nat.sub_self, extract_all]

theorem opTOf_area (o : OpT) : opTOf o.area = o := by
  obtain ⟨o1, o2, hnda, hndb, x⟩ := o
  simp (disch := omega) only [opTOf, OpT.area, extract_append_hi, extract_append_lo, Nat.reduceSub, Nat.sub_self, extract_all]

theorem opSOf_area (o : OpS) : opSOf o.area = o := by
  obtain ⟨o1, o2, csr, imm⟩ := o
  simp (disch := omega) only [opSOf, OpS.area, extract_append_hi, extract_append_lo, Nat.reduceSub, Nat.sub_self, extract_all]

/-- The operands that a format reads fill the operand area. -/
theorem area_opROf (a : BitVec 48) : (opROf a).area = a := by
  simp (disch := rfl) only [opROf, OpR.area, BitVec.extractLsb'_append_extractLsb'_eq_extractLsb', extract_all]
theorem area_opIOf (a : BitVec 48) : (opIOf a).area = a := by
  simp (disch := rfl) only [opIOf, OpI.area, BitVec.extractLsb'_append_extractLsb'_eq_extractLsb', extract_all]
theorem area_opMOf (a : BitVec 48) : (opMOf a).area = a := by
  simp (disch := rfl) only [opMOf, OpM.area, BitVec.extractLsb'_append_extractLsb'_eq_extractLsb', extract_all]
theorem area_opBOf (a : BitVec 48) : (opBOf a).area = a := by
  simp (disch := rfl) only [opBOf, OpB.area, BitVec.extractLsb'_append_extractLsb'_eq_extractLsb', extract_all]
theorem area_opTOf (a : BitVec 48) : (opTOf a).area = a := by
  simp (disch := rfl) only [opTOf, OpT.area, BitVec.extractLsb'_append_extractLsb'_eq_extractLsb', extract_all]
theorem area_opSOf (a : BitVec 48) : (opSOf a).area = a := by
  simp (disch := rfl) only [opSOf, OpS.area, BitVec.extractLsb'_append_extractLsb'_eq_extractLsb', extract_all]

/-! ## The word from its fields (R22) -/

/-- The fields that are read from a word fill it. -/
theorem wordOf_fields (w : IWord) : wordOf (opcOf w) (hdrOf w) (areaOf w) = w := by
  simp (disch := rfl) only [wordOf, opcOf, hdrOf, areaOf, BitVec.extractLsb'_append_extractLsb'_eq_extractLsb', extract_all]

/-- Decoding goes by the three parts of the word: OPC, the other fields, and the operand area. -/
def decodeFields (opc : BitVec 9) (h : Hdr) (a : BitVec 48) : Except DecodeError Instr :=
  match (opc.extractLsb' 6 3).toNat with
  | 0 => decodeBlock0 opc h a
  | 1 => decodeBlock1 opc h a
  | 2 => decodeBlock2 opc h a
  | 3 => decodeBlock3 opc h a
  | 4 => decodeBlock4 opc h a
  | 5 => decodeBlock5 opc h a
  | 6 => decodeBlock6 opc h a
  | _ => decodeBlock7 opc h a

theorem decode_eq_decodeFields (w : IWord) : decode w = decodeFields (opcOf w) (hdrOf w) (areaOf w) := rfl

theorem decode_wordOf (opc : BitVec 9) (h : Hdr) (a : BitVec 48) : decode (wordOf opc h a) = decodeFields opc h a := by
  obtain ⟨hopc, hhdr, harea⟩ := fields_wordOf opc h a
  rw [decode_eq_decodeFields, hopc, hhdr, harea]

/-! ## Opcodes with several functions (R160, R174, R285, R458) -/

/-- The function field of a byte is that of what a mask with both its bits leaves. -/
theorem function_of_masked (f m c : Byte) (hm : m.extractLsb' 0 2 = 3#2) (hf : f &&& m = c) : f.extractLsb' 0 2 = c.extractLsb' 0 2 := by
  have hbits : (f &&& m).extractLsb' 0 2 = f.extractLsb' 0 2 &&& m.extractLsb' 0 2 := BitVec.extractLsb'_and ..
  rw [← hf, hbits, hm]
  exact (BitVec.and_allOnes ..).symm

/-- The checks of the fields beside SETF and the operand bytes are part of a legal shape. -/
theorem mkShape_ok_more {h : Hdr} {ds : List Machine.Opd} {more : Bool} {hs : List (BitVec 12)}
    (hok : (Machine.mkShape h ds more hs).ok = true) : more = true := by
  simp only [Machine.mkShape, Bool.and_eq_true] at hok
  exact hok.2

theorem decodeFields_vendorDebug (h : Hdr) (op : BitVec 4) (a : BitVec 48) :
    decodeFields (0x1F#5 ++ op) h a = .ok (.vendorDebug h op a) := by
  have hblock : ((0x1F#5 ++ op).extractLsb' 6 3).toNat = 7 :=
    congrArg BitVec.toNat (extract_append_hi (0x1F#5) op 6 3 (by omega))
  have hop : (0x1F#5 ++ op).extractLsb' 0 4 = op := (extract_append_lo _ _ _ _ (by omega)).trans (extract_all op)
  have hrow : 0x1F0 ≤ (0x1F#5 ++ op).toNat := by
    rw [Machine.toNat_append_add]
    simp
  unfold decodeFields
  rw [hblock]
  change decodeBlock7 _ h a = _
  unfold decodeBlock7
  split
  case h_7 => rw [if_pos hrow, hop]
  all_goals omega

/-! ## Decoding after encoding -/

/-- Decoding an encoded well-formed instruction gives it back. Where an opcode has several functions, it is the well-formed fields that name the
function. -/
theorem decode_encode (i : Instr) (w : IWord) (hwf : i.wellFormed = true) (he : encode i = some w) : decode w = .ok i := by
  cases i
  all_goals simp only [encode, Option.some.injEq, reduceCtorEq] at he
  all_goals subst he; rw [decode_wordOf]
  case pmovV h o =>
    have hx : o.x = 0 := by simpa using (Bool.and_eq_true_iff.mp (Bool.and_eq_true_iff.mp (mkShape_ok_more hwf)).2).2
    simp [decodeFields, decodeBlock2, opROf_area, hx]
  case pmovP h o =>
    have hx := (Bool.and_eq_true_iff.mp (Bool.and_eq_true_iff.mp (mkShape_ok_more hwf)).2).2
    exact (if_pos ((congrArg (fun o : OpR => o.x.getLsbD 0) (opROf_area o)).trans hx)).trans (congrArg _ (congrArg _ (opROf_area o)))
  case csrw h o | csrs h o | csrc h o =>
    obtain ⟨-, ⟨hf, -⟩, -⟩ := by simpa only [Bool.and_eq_true, decide_eq_true_eq] using mkShape_ok_more hwf
    simp [decodeFields, decodeBlock3, opSOf_area, function_of_masked _ _ _ rfl hf]
  case mstepRd h o | mstepHalt h o | mstepGo h o =>
    obtain ⟨-, -, hx⟩ := by simpa only [Bool.and_eq_true, decide_eq_true_eq] using mkShape_ok_more hwf
    simp [decodeFields, decodeBlock6, opROf_area, hx]
  case collOpen h o =>
    obtain ⟨-, hf⟩ := by simpa only [Bool.and_eq_true, decide_eq_true_eq] using mkShape_ok_more hwf
    simp [decodeFields, decodeBlock7, opMOf_area, hf]
  case collNext h o | collClose h o =>
    obtain ⟨⟨⟨-, hf⟩, -⟩, -⟩ := by simpa only [Bool.and_eq_true, decide_eq_true_eq] using mkShape_ok_more hwf
    simp [decodeFields, decodeBlock7, opMOf_area, hf]
  case vendorDebug h op a => exact decodeFields_vendorDebug h op a
  all_goals
    change Except.ok _ = Except.ok _
    simp only [opROf_area, opIOf_area, opMOf_area, opBOf_area, opTOf_area, opSOf_area]

/-! ## Encoding after decoding -/

/-- A row of the opcode table: its number, and the instruction's encoding under it. -/
theorem encode_row {i : Instr} {opc : BitVec 9} {k : Nat} {h : Hdr} {a b : BitVec 48} (ho : opc.toNat = k)
    (he : encode i = some (wordOf (BitVec.ofNat 9 k) h b)) (ha : b = a) : encode i = some (wordOf opc h a) := by
  rw [he, ← ho, ha, BitVec.ofNat_toNat, BitVec.setWidth_eq]

theorem encode_of_decodeBlock0 {opc : BitVec 9} {h : Hdr} {a : BitVec 48} {i : Instr} (hd : decodeBlock0 opc h a = .ok i) :
    encode i = some (wordOf opc h a) := by
  unfold decodeBlock0 at hd
  split at hd <;> cases hd
  all_goals exact encode_row ‹_› rfl (by simp only [area_opROf, area_opIOf])

theorem encode_of_decodeBlock1 {opc : BitVec 9} {h : Hdr} {a : BitVec 48} {i : Instr} (hd : decodeBlock1 opc h a = .ok i) :
    encode i = some (wordOf opc h a) := by
  unfold decodeBlock1 at hd
  split at hd <;> cases hd
  all_goals exact encode_row ‹_› rfl (area_opROf a)

theorem encode_of_decodeBlock2 {opc : BitVec 9} {h : Hdr} {a : BitVec 48} {i : Instr} (hd : decodeBlock2 opc h a = .ok i) :
    encode i = some (wordOf opc h a) := by
  unfold decodeBlock2 at hd
  split at hd
  case h_32 hopc => split at hd <;> cases hd <;> exact encode_row hopc rfl (area_opROf a)
  all_goals cases hd
  all_goals exact encode_row ‹_› rfl (by simp only [area_opROf, area_opMOf])

theorem encode_of_decodeBlock3 {opc : BitVec 9} {h : Hdr} {a : BitVec 48} {i : Instr} (hd : decodeBlock3 opc h a = .ok i) :
    encode i = some (wordOf opc h a) := by
  unfold decodeBlock3 at hd
  split at hd
  case h_11 hopc => split at hd <;> cases hd <;> exact encode_row hopc rfl (area_opSOf a)
  all_goals cases hd
  all_goals exact encode_row ‹_› rfl (by simp only [area_opROf, area_opIOf, area_opBOf, area_opSOf])

theorem encode_of_decodeBlock4 {opc : BitVec 9} {h : Hdr} {a : BitVec 48} {i : Instr} (hd : decodeBlock4 opc h a = .ok i) :
    encode i = some (wordOf opc h a) := by
  unfold decodeBlock4 at hd
  split at hd <;> cases hd
  all_goals exact encode_row ‹_› rfl (by simp only [area_opROf, area_opIOf, area_opMOf, area_opTOf])

theorem encode_of_decodeBlock5 {opc : BitVec 9} {h : Hdr} {a : BitVec 48} {i : Instr} (hd : decodeBlock5 opc h a = .ok i) :
    encode i = some (wordOf opc h a) := by
  unfold decodeBlock5 at hd
  split at hd <;> cases hd
  all_goals exact encode_row ‹_› rfl (by simp only [area_opROf, area_opIOf, area_opMOf])

theorem encode_of_decodeBlock6 {opc : BitVec 9} {h : Hdr} {a : BitVec 48} {i : Instr} (hd : decodeBlock6 opc h a = .ok i) :
    encode i = some (wordOf opc h a) := by
  unfold decodeBlock6 at hd
  split at hd
  case h_10 hopc => split at hd <;> cases hd <;> exact encode_row hopc rfl (area_opROf a)
  all_goals cases hd
  all_goals exact encode_row ‹_› rfl (by simp only [area_opROf, area_opIOf, area_opMOf, area_opTOf])

/-- The opcodes from 0x1F0 on have the vendor's number in their low bits (R45). -/
theorem vendor_opcode {opc : BitVec 9} (ho : 0x1F0 ≤ opc.toNat) : 0x1F#5 ++ opc.extractLsb' 0 4 = opc := by
  apply BitVec.eq_of_toNat_eq
  rw [Machine.toNat_append_add, BitVec.extractLsb'_toNat]
  have := opc.isLt
  simp
  omega

theorem encode_of_decodeBlock7 {opc : BitVec 9} {h : Hdr} {a : BitVec 48} {i : Instr} (hd : decodeBlock7 opc h a = .ok i) :
    encode i = some (wordOf opc h a) := by
  unfold decodeBlock7 at hd
  split at hd
  case h_5 hopc => split at hd <;> cases hd <;> exact encode_row hopc rfl (area_opMOf a)
  case h_7 =>
    split at hd <;> cases hd
    exact congrArg (fun o => some (wordOf o h a)) (vendor_opcode ‹_›)
  all_goals cases hd
  all_goals exact encode_row ‹_› rfl (by simp only [area_opROf, area_opTOf])

/-- Every word that decodes is the encoding of what it decodes to. -/
theorem encode_decode (i : Instr) (w : IWord) (hd : decode w = .ok i) : encode i = some w := by
  conv_rhs => rw [← wordOf_fields w]
  unfold decode at hd
  split at hd
  · exact encode_of_decodeBlock0 hd
  · exact encode_of_decodeBlock1 hd
  · exact encode_of_decodeBlock2 hd
  · exact encode_of_decodeBlock3 hd
  · exact encode_of_decodeBlock4 hd
  · exact encode_of_decodeBlock5 hd
  · exact encode_of_decodeBlock6 hd
  · exact encode_of_decodeBlock7 hd

/-! ## Words without a meaning -/

/-- A word of an opcode decodes as the opcode's row says. -/
theorem decode_of_opc {w : IWord} {opc : BitVec 9} (ho : opcOf w = opc) : decode w = decodeFields opc (hdrOf w) (areaOf w) := by
  rw [decode_eq_decodeFields, ho]

/-- A field of a field of a word. -/
theorem extract_extract {n : Nat} (x : BitVec n) (k m j l : Nat) (h : j + l ≤ m) :
    (x.extractLsb' k m).extractLsb' j l = x.extractLsb' (k + j) l := by
  apply BitVec.eq_of_getLsbD_eq
  intro i hi
  simp only [BitVec.getLsbD_extractLsb', hi, show j + i < m by omega, decide_true, Bool.true_and, Nat.add_assoc]

/-- The function fields F[1:0] and X[1:0], where they are 3, select no function of CSRW, COLL and MSTEP. -/
theorem decode_reservedFunction (w : IWord) :
    ((opcOf w = 0x0CA ∨ opcOf w = 0x1C4) ∧ w.extractLsb' 48 2 = 3#2 → decode w = .error (.reservedFunction (opcOf w))) ∧
    (opcOf w = 0x189 ∧ w.extractLsb' 0 2 = 3#2 → decode w = .error (.reservedFunction (opcOf w))) := by
  have hf : (hdrOf w).f.extractLsb' 0 2 = w.extractLsb' 48 2 := extract_extract w 48 8 0 2 (by omega)
  have hx : (opROf (areaOf w)).x.extractLsb' 0 2 = w.extractLsb' 0 2 := by
    simp (disch := omega) only [opROf, areaOf, extract_extract, Nat.add_zero]
  refine ⟨?_, ?_⟩
  · rintro ⟨ho | ho, h3⟩ <;> rw [decode_of_opc ho, ho] <;> simp [decodeFields, decodeBlock3, decodeBlock7, hf, h3]
  · rintro ⟨ho, h3⟩
    rw [decode_of_opc ho, ho]
    simp [decodeFields, decodeBlock6, hx, h3]

end Sys2Proof
end

section
/-! PROOF. The instruction encoding and the form of a PC (02_encoding.md R16, R22, R34, R41, R43). -/

namespace Sys2Proof.Machine

/-- A slot's PC from its line and its number (R16). -/
theorem slotPc_toNat {a : Word} {i : Nat} (ha : a.toNat < 2 ^ 52) (hi : i < 64) : (a + BitVec.ofNat 64 i).toNat = a.toNat + i := by
  rw [BitVec.toNat_add, BitVec.toNat_ofNat]
  omega

/-- Bits of a number as a field of a word. -/
theorem extract_eq_zero {n : Nat} {x : BitVec n} {k m : Nat} (h : x.toNat / 2 ^ k % 2 ^ m = 0) : x.extractLsb' k m = 0 := by
  apply BitVec.eq_of_toNat_eq
  simpa [Nat.shiftRight_eq_div_pow] using h

end Sys2Proof.Machine

namespace Sys2Proof.Proofs
open Sys2Proof Sys2Proof.Machine

/-- Settles O55: decoding goes by the opcode's row, and within a row by the function field, which a well-formed instruction fixes; the fields that
the decoder reads fill the word. -/
theorem encodingRoundTrip : Obligations.EncodingRoundTrip := by
  unfold Obligations.EncodingRoundTrip
  exact ⟨decode_encode, encode_decode⟩

/-- Settles O54: the words are read by the decoder's tables, and the reserved opcodes and functions have no row. -/
theorem decodedWords : Obligations.DecodedWords := by
  unfold Obligations.DecodedWords
  refine ⟨rfl, rfl, fun w i hres => ?_, rfl⟩
  obtain ho | ho | hfun | hfun := hres
  · rw [decode_of_opc ho]; exact nofun
  · rw [decode_of_opc ho]; exact nofun
  · rw [(decode_reservedFunction w).1 hfun]; exact nofun
  · rw [(decode_reservedFunction w).2 hfun]; exact nofun

/-- Settles O57, by the numbers that the PC and its fields stand for. -/
theorem nextProgramCounter : Obligations.NextProgramCounter := by
  unfold Obligations.NextProgramCounter
  intro a i hline hlow hi pc
  have hpc : pc.toNat = a.toNat + i := slotPc_toNat hlow (by omega)
  refine ⟨?slot, extract_eq_zero (by rw [hpc]; omega), extract_eq_zero (by rw [hpc]; omega), ?_, by omega, ?next⟩
  case slot =>
    simp only [pcNamesSlot, hpc, Bool.and_eq_true, decide_eq_true_eq]
    omega
  case next =>
    have hmod : pc.toNat % 8 = i := by omega
    simp only [nextPc, hmod]
    by_cases h4 : i = 4
    · subst h4
      simp [pc]
    · rw [if_neg h4, if_pos (by omega), BitVec.add_assoc, BitVec.ofNat_add]
      rfl
  · rw [pcLine, hpc]; omega

end Sys2Proof.Proofs
end

section
/-! PROOF. An issue that ends in a trap, and the control-flow instructions: what moves where a target passes R18, and the trap where it does not
(02_encoding.md R16-R18, 07_thread_control_traps.md R164-R167). -/

namespace Sys2Proof.Machine

/-! ## The whole answer of an instruction that issues -/

/-- Where i issues and its body traps, the trap is raised and the issue stands (R27, R177). -/
theorem issueWith_trap {i : Instr} {h : Hdr} {s : State} {w : Warp} {early : Ctx → Bool} {extra : Ctx → Option Nat} {body : Ctx → State → Res}
    {cause : Nat} {info : Word} (hi : issuesWith i h s w early extra) (hp : ((instrInfo i).pipe == .m) = false)
    (hb : body (issueCtx i h s w) (issued i h s w) = .trap cause info) :
    issueWith i h s early extra body = .next (raised i (issueCtx i h s w) cause info) := by
  obtain ⟨hw, hd⟩ := hi
  have hn : ¬ ((instrInfo i).pipe = .m ∧ guardMask s w h s.cur.act = 0) := fun hm => by simp [hm.1] at hp
  unfold issueWith
  simp only [hw]
  unfold issueCtx at hd hb
  rw [hd]
  simp only
  unfold issued at hb
  rw [if_neg (by simpa using hn), hb]
  rfl

/-- Where the body of an instruction turns the retired state into one that holds `u`, whenever `pre` holds, the instruction gives `u` then. -/
theorem givesWhen_body {i : Instr} {h : Hdr} {s : State} {body : Ctx → State → Res} {pre : Ctx → Prop} {u : Ctx → Update}
    (he : exec i s = issue i h s body) (hp : ((instrInfo i).pipe == .m) = false)
    (hb : ∀ w s1 v0, pre (issueCtx i h s w) → s1.warp s.cur.key = some v0 → Changes (issueCtx i h s w) s1 v0 {} → Rest (issueCtx i h s w) s1 s →
      ∃ t v, body (issueCtx i h s w) s1 = .ok t ∧ t.warp s.cur.key = some v ∧ Changes (issueCtx i h s w) t v (u (issueCtx i h s w)) ∧
        Rest (issueCtx i h s w) t s) : GivesWhen i h s pre u := by
  intro w hi hpre
  obtain ⟨v0, hv0, hC0, hR0⟩ := retire_changes i h s w
  obtain ⟨t, v, hbody, hv, hC, hR⟩ := hb w _ v0 hpre hv0 hC0 hR0
  exact ⟨t, v, he.trans (issueWith_next hi (Or.inl (by simpa using hp)) hbody), hv, hC, hR⟩

/-! ## Masks of lanes -/

theorem mem_lanesOf {m : Mask} {l : Nat} : l ∈ lanesOf m ↔ l < 32 ∧ m.getLsbD l = true := by
  simp [lanesOf]

/-- A mask is empty where none of its lanes is in it. -/
theorem maskOf_eq_zero {p : Nat → Bool} (h : ∀ l, l < 32 → p l = false) : maskOf p = 0 := by
  apply BitVec.eq_of_getLsbD_eq
  intro l hl
  simp [-BitVec.getLsbD_eq_getElem, hl, h l hl]

/-! ## Threads that move (R16, R164, R166) -/

/-- The participating threads go to their targets. -/
theorem changes_moveThreads {c : Ctx} {t b : State} {v : Warp} {u : Update} (m : Mask) (f : Nat → Word)
    (hv : t.warp c.key = some v) (hC : Changes c t v u) (hR : Rest c t b) :
    ∃ v', (moveThreads t c.key m f).warp c.key = some v' ∧
      Changes c (moveThreads t c.key m f) v' (u.then { jumps := fun l => if m.getLsbD l then some (f l) else none }) ∧
      Rest c (moveThreads t c.key m f) b := by
  have hw : moveThreads t c.key m f = t.setWarp c.key { v with
      pt := { v.pt with pcs := (List.range 32).map (fun l => if m.getLsbD l then f l else v.pt.pcs.getD l 0) }, pairNext := none } :=
    modWarp_some _ _ _ _ hv
  rw [hw]
  refine ⟨_, warp_setWarp_same _ _ _, changes_setWarp _ _ hC hR rfl rfl rfl rfl (fun _ _ _ _ => rfl) (fun _ _ => rfl) (fun _ _ => rfl) ?_
    (flags_same rfl rfl) (keep_pend _)⟩
  intro l hl
  refine (getD_range_map (fun l => if m.getLsbD l then f l else v.pt.pcs.getD l 0) 0 l hl).trans ?_
  by_cases hm : m.getLsbD l = true <;> simp [hm, pcLane]

/-- The link register's lanes after a call; a branch has none. -/
def linkRegs (c : Ctx) : Option Byte → Nat → Nat → Option Lane
  | some d => onReg c.w d c.exec (fun _ => ⟨nextPc c.cur.pc, 0⟩)
  | none => fun _ _ => none

/-- The state after a branch or call that is taken: its link, then the moved threads. -/
def branched (c : Ctx) (s1 : State) (link : Option Byte) (f : Nat → Word) : State :=
  moveThreads (match link with
    | some b => writeLink c s1 b
    | none => s1) c.key c.exec f

theorem changes_branched {c : Ctx} {s1 b : State} {v : Warp} (link : Option Byte) (f : Nat → Word)
    (hv : s1.warp c.key = some v) (hC : Changes c s1 v {}) (hR : Rest c s1 b) :
    ∃ v', (branched c s1 link f).warp c.key = some v' ∧
      Changes c (branched c s1 link f) v' { regs := linkRegs c link, jumps := fun l => if c.exec.getLsbD l then some (f l) else none } ∧
      Rest c (branched c s1 link f) b := by
  cases link with
  | none =>
    obtain ⟨v', hv', hC', hR'⟩ := changes_moveThreads c.exec f hv hC hR
    exact ⟨v', hv', hC'.congr (by simp [Update.then, linkRegs]), hR'⟩
  | some d =>
    obtain ⟨v1, hv1, hC1, hR1⟩ := changes_writeReg d c.exec (fun _ => ⟨nextPc c.cur.pc, 0⟩) hv hC hR
    obtain ⟨v', hv', hC', hR'⟩ := changes_moveThreads c.exec f hv1 hC1 hR1
    exact ⟨v', hv', hC'.congr (by simp [Update.then, linkRegs]), hR'⟩

/-! ## BRA and CALL (R17, R18, R164) -/

theorem branchBody_notTaken {c : Ctx} (s1 : State) (imm : BitVec 32) (link : Option Byte) (h0 : c.exec = 0) :
    branchBody c s1 imm link = .ok s1 := if_pos h0

theorem branchBody_taken {c : Ctx} {imm : BitVec 32} {t : Word} (s1 : State) (link : Option Byte) (hne : c.exec ≠ 0)
    (hcalm : calm c (fun _ => []) = true) (ht : pcOffset c.cur.pc imm = some t) (hwait : targetWait c t = none)
    (hok : targetOk c.s c.key c.w t = true) : branchBody c s1 imm link = .ok (branched c s1 link (fun _ => t)) := by
  simp only [branchBody, if_neg hne, protGuard_calm hcalm, ht, hwait, hok]
  rfl

theorem branchBody_astray {c : Ctx} {imm : BitVec 32} (s1 : State) (link : Option Byte) (hne : c.exec ≠ 0)
    (hcalm : calm c (fun _ => []) = true)
    (ht : ∀ t, pcOffset c.cur.pc imm = some t → targetWait c t = none ∧ targetOk c.s c.key c.w t = false) :
    branchBody c s1 imm link = .trap cBADTGT (maskInfo c.exec) := by
  simp only [branchBody, if_neg hne, protGuard_calm hcalm]
  cases hpc : pcOffset c.cur.pc imm with
  | none => rfl
  | some t =>
    obtain ⟨hwait, hbad⟩ := ht t hpc
    simp [hwait, hbad]

/-! ## BRX, CALLX and RET (R166, R167) -/

/-- The lanes of an indirect branch whose target is poisoned. -/
def poisonedLanes (c : Ctx) (va : Byte) : Mask := maskOf (fun l => c.exec.getLsbD l && (c.val va l).poi != 0)
/-- The lanes of an indirect branch whose target is no legal one. -/
def astrayLanes (c : Ctx) (va : Byte) : Mask := maskOf (fun l => c.exec.getLsbD l && !targetOk c.s c.key c.w (c.val va l).val)

/-- No participating lane's target is poisoned, and none has to wait for its line. -/
def targetsReady (c : Ctx) (va : Byte) : Prop :=
  ∀ l, l < 32 → c.exec.getLsbD l = true → (c.val va l).poi = 0 ∧ targetWait c (c.val va l).val = none

theorem exec_ne_zero_of_mask {c : Ctx} {p : Nat → Bool} (hm : maskOf (fun l => c.exec.getLsbD l && p l) ≠ 0) : c.exec ≠ 0 := by
  intro h0
  exact hm (maskOf_eq_zero fun l _ => by simp [h0])

theorem poisonedLanes_ready {c : Ctx} {va : Byte} (h : targetsReady c va) : poisonedLanes c va = 0 :=
  maskOf_eq_zero fun l hl => by
    cases hx : c.exec.getLsbD l
    · rfl
    · simp [(h l hl hx).1]

theorem targetWait_ready {c : Ctx} {va : Byte} (h : targetsReady c va) :
    (lanesOf c.exec).findSome? (fun l => targetWait c (c.val va l).val) = none :=
  List.findSome?_eq_none_iff.mpr fun l hl => (h l (mem_lanesOf.mp hl).1 (mem_lanesOf.mp hl).2).2

theorem indirectBody_notTaken {c : Ctx} (s1 : State) (va : Byte) (link : Option Byte) (h0 : c.exec = 0) :
    indirectBody c s1 va link = .ok s1 := if_pos h0

theorem indirectBody_poisoned {c : Ctx} {va : Byte} (s1 : State) (link : Option Byte)
    (hcalm : calm c (fun l => [(c.val va l).val]) = true) (hm : poisonedLanes c va ≠ 0) :
    indirectBody c s1 va link = .trap cPOISON (maskInfo (poisonedLanes c va)) := by
  simp only [indirectBody, if_neg (exec_ne_zero_of_mask hm), protGuard_calm hcalm]
  exact if_pos (by simpa [poisonedLanes] using hm)

/-- Past the pass over poison and the wait for lines, the targets' checks decide. -/
theorem indirectBody_ready {c : Ctx} {va : Byte} (s1 : State) (link : Option Byte) (hne : c.exec ≠ 0)
    (hcalm : calm c (fun l => [(c.val va l).val]) = true) (hready : targetsReady c va) :
    indirectBody c s1 va link = if astrayLanes c va != 0 then .trap cBADTGT (maskInfo (astrayLanes c va))
      else .ok (branched c s1 link (fun l => (c.val va l).val)) := by
  have hpoi := poisonedLanes_ready hready
  unfold poisonedLanes at hpoi
  simp only [indirectBody, if_neg hne, protGuard_calm hcalm, hpoi, targetWait_ready hready]
  rfl

/-! ## The five instructions -/

/-- What a branch or call changes beside its issue. -/
def branchUpdate (link : Option Byte) (f : Ctx → Nat → Word) (c : Ctx) : Update :=
  { regs := linkRegs c link, jumps := fun l => if c.exec.getLsbD l then some (f c l) else none }

/-- With no participating thread there is no link and no jump. -/
theorem branchUpdate_notTaken {c : Ctx} (link : Option Byte) (f : Ctx → Nat → Word) (h0 : c.exec = 0) : branchUpdate link f c = {} := by
  have hlink : linkRegs c link = fun _ _ => none := by
    funext r l
    cases link <;> simp [linkRegs, onReg, h0]
  simp [branchUpdate, hlink, h0]

theorem bra_call_gives {i : Instr} {h : Hdr} {s : State} {imm : BitVec 32} (link : Option Byte)
    (he : exec i s = issue i h s (fun c s1 => branchBody c s1 imm link)) (hp : ((instrInfo i).pipe == .m) = false) :
    GivesWhen i h s (fun c => c.exec = 0) (fun _ => {}) ∧
    ∀ t, pcOffset s.cur.pc imm = some t →
      GivesWhen i h s (fun c => calm c (fun _ => []) = true ∧ targetWait c t = none ∧ targetOk s c.key c.w t = true)
        (branchUpdate link (fun _ _ => t)) := by
  refine ⟨givesWhen_body he hp fun w s1 v0 h0 hv hC hR => ⟨s1, v0, branchBody_notTaken s1 imm link h0, hv, hC, hR⟩, fun t ht => ?_⟩
  refine givesWhen_body he hp ?_
  rintro w s1 v0 ⟨hcalm, hwait, hok⟩ hv hC hR
  by_cases h0 : (issueCtx i h s w).exec = 0
  · exact ⟨s1, v0, branchBody_notTaken s1 imm link h0, hv, hC.congr (branchUpdate_notTaken link _ h0).symm, hR⟩
  · obtain ⟨v, hv', hC', hR'⟩ := changes_branched link (fun _ => t) hv hC hR
    exact ⟨_, v, branchBody_taken s1 link h0 hcalm ht hwait hok, hv', hC', hR'⟩

theorem indirect_gives {i : Instr} {h : Hdr} {s : State} {va : Byte} (link : Option Byte)
    (he : exec i s = issue i h s (fun c s1 => indirectBody c s1 va link)) (hp : ((instrInfo i).pipe == .m) = false) :
    GivesWhen i h s (fun c => c.exec = 0 ∨ (calm c (fun l => [(c.val va l).val]) = true ∧
        ∀ l, l < 32 → c.exec.getLsbD l = true → (c.val va l).poi = 0 ∧ targetWait c (c.val va l).val = none ∧
          targetOk s c.key c.w (c.val va l).val = true))
      (branchUpdate link (fun c l => (c.val va l).val)) := by
  refine givesWhen_body he hp fun w s1 v0 hpre hv hC hR => ?_
  by_cases h0 : (issueCtx i h s w).exec = 0
  · exact ⟨s1, v0, indirectBody_notTaken s1 va link h0, hv, hC.congr (branchUpdate_notTaken link _ h0).symm, hR⟩
  · obtain ⟨hcalm, hlanes⟩ := hpre.resolve_left h0
    have hready : targetsReady (issueCtx i h s w) va := fun l hl hx => ⟨(hlanes l hl hx).1, (hlanes l hl hx).2.1⟩
    have hlegal : astrayLanes (issueCtx i h s w) va = 0 := maskOf_eq_zero fun l hl => by
      cases hx : (issueCtx i h s w).exec.getLsbD l
      · rfl
      · have hok : targetOk (issueCtx i h s w).s (issueCtx i h s w).key (issueCtx i h s w).w _ = true := (hlanes l hl hx).2.2
        rw [hok]
        rfl
    obtain ⟨v, hv', hC', hR'⟩ := changes_branched link (fun l => ((issueCtx i h s w).val va l).val) hv hC hR
    refine ⟨_, v, (indirectBody_ready s1 link h0 hcalm hready).trans ?_, hv', hC', hR'⟩
    rw [hlegal]
    rfl

theorem bra_call_astray {i : Instr} {h : Hdr} {s : State} {imm : BitVec 32} (link : Option Byte)
    (he : exec i s = issue i h s (fun c s1 => branchBody c s1 imm link)) (hp : ((instrInfo i).pipe == .m) = false) {w : Warp}
    (hi : issues i h s w) (hne : (issueCtx i h s w).exec ≠ 0) (hcalm : calm (issueCtx i h s w) (fun _ => []) = true)
    (ht : ∀ t, pcOffset s.cur.pc imm = some t → targetWait (issueCtx i h s w) t = none ∧ targetOk s s.cur.key w t = false) :
    exec i s = .next (raised i (issueCtx i h s w) cBADTGT (maskInfo (issueCtx i h s w).exec)) :=
  he.trans (issueWith_trap hi hp (branchBody_astray _ link hne hcalm ht))

theorem indirect_poisoned {i : Instr} {h : Hdr} {s : State} {va : Byte} (link : Option Byte)
    (he : exec i s = issue i h s (fun c s1 => indirectBody c s1 va link)) (hp : ((instrInfo i).pipe == .m) = false) {w : Warp}
    (hi : issues i h s w) (hcalm : calm (issueCtx i h s w) (fun l => [((issueCtx i h s w).val va l).val]) = true)
    (hm : poisonedLanes (issueCtx i h s w) va ≠ 0) :
    exec i s = .next (raised i (issueCtx i h s w) cPOISON (maskInfo (poisonedLanes (issueCtx i h s w) va))) :=
  he.trans (issueWith_trap hi hp (indirectBody_poisoned _ link hcalm hm))

theorem indirect_astray {i : Instr} {h : Hdr} {s : State} {va : Byte} (link : Option Byte)
    (he : exec i s = issue i h s (fun c s1 => indirectBody c s1 va link)) (hp : ((instrInfo i).pipe == .m) = false) {w : Warp}
    (hi : issues i h s w) (hcalm : calm (issueCtx i h s w) (fun l => [((issueCtx i h s w).val va l).val]) = true)
    (hready : targetsReady (issueCtx i h s w) va) (hm : astrayLanes (issueCtx i h s w) va ≠ 0) :
    exec i s = .next (raised i (issueCtx i h s w) cBADTGT (maskInfo (astrayLanes (issueCtx i h s w) va))) := by
  refine he.trans (issueWith_trap hi hp ((indirectBody_ready _ link (exec_ne_zero_of_mask hm) hcalm hready).trans ?_))
  exact if_pos (by simpa using hm)

end Sys2Proof.Machine

namespace Sys2Proof.Proofs
open Sys2Proof Sys2Proof.Machine

/-- Settles O11: the two kinds of branch, direct and through a register, each with its link. -/
theorem branchResults : Obligations.BranchResults := by
  unfold Obligations.BranchResults
  intro h b o s
  exact ⟨bra_call_gives none rfl rfl, bra_call_gives (some b.o1) rfl rfl, indirect_gives none rfl rfl, indirect_gives (some o.o1) rfl rfl,
    indirect_gives none rfl rfl⟩

/-- Settles O12: the body of a direct branch raises BADTGT, that of an indirect one POISON before BADTGT. -/
theorem branchTraps : Obligations.BranchTraps := by
  unfold Obligations.BranchTraps
  intro h b o s
  exact ⟨fun w => bra_call_astray none rfl rfl, fun w => bra_call_astray (some b.o1) rfl rfl,
    fun w => indirect_poisoned none rfl rfl, fun w => indirect_poisoned (some o.o1) rfl rfl, fun w => indirect_poisoned none rfl rfl,
    fun w => indirect_astray none rfl rfl, fun w => indirect_astray (some o.o1) rfl rfl, fun w => indirect_astray none rfl rfl⟩

/-- Settles O13: NOP and a vendor debug opcode do no more than issue, CLOCK writes one register. -/
theorem plainResults : Obligations.PlainResults := by
  unfold Obligations.PlainResults
  intro h o s op area
  refine ⟨?nop, ?clock, ?vendor⟩
  case nop => exact gives_body (i := .nop h o) (body := fun _ s1 => .ok s1) rfl rfl fun w _ s1 v0 hv hC hR => ⟨s1, v0, rfl, hv, hC, hR⟩
  case clock =>
    exact gives_clean (i := .clock h o) (f := fun _ _ => ⟨BitVec.ofNat 64 (if o.x = 0 then s.cycle else s.cycle * 20 / 21), 0⟩) rfl rfl
  case vendor =>
    exact givesWith_body (i := .vendorDebug h op area) (body := fun _ s1 => .ok s1) rfl (fun _ _ => Or.inl rfl) fun w _ s1 v0 hv hC hR => ⟨s1, v0, rfl, hv, hC, hR⟩

end Sys2Proof.Proofs
end

section
/-! PROOF. The checks at decode in their order (02_encoding.md R41), and the trap that each leaves. -/

namespace Sys2Proof.Machine

/-! ## The parts of the checks -/

/-- Check 3: the unit of a warp slot runs the instruction (R276). -/
def runsOn (i : Instr) (key : Nat) : Bool := if keyAcorn key then (instrInfo i).onAcorn else (instrInfo i).onCore

/-- The instruction is privileged, or writes a context CSR (R44). -/
def privileged (i : Instr) : Bool := (instrInfo i).priv || (match i with
  | .csrw _ o => 0x400 ≤ o.csr.toNat
  | .csrs _ o => 0x400 ≤ o.csr.toNat
  | .csrc _ o => 0x400 ≤ o.csr.toNat
  | _ => false)

/-- The warp's crew comes from a system launch. -/
def sysCrew (s : State) (w : Warp) : Bool := match s.crew w.crew with
  | some c => c.sys
  | none => false

/-- TRTN of the warp's crew. -/
def crewTrtn (s : State) (w : Warp) : Nat := match s.crew w.crew with
  | some c => c.cregs.trtn.toNat
  | none => 0

/-- One of n registers from a byte on lies beyond the warp's allotment (R33). -/
def regOver (w : Warp) (b : Byte) (n : Nat) : Bool :=
  b.toNat < 240 && (List.range n).any (fun k => w.allot ≤ b.toNat + k && !(w.tm && b.toNat + k < 16))

/-- Check 8 of an operand. -/
def opdOver (w : Warp) (d : Opd) : Bool := match d.use with
  | .src n => regOver w d.byte n
  | .dst n => regOver w d.byte n
  | .upd n => regOver w d.byte n
  | .srcOpt2 => regOver w d.byte 2
  | _ => false

/-- NOP reads no guard (R50). -/
def isNop (i : Instr) : Bool := match i with
  | .nop _ _ => true
  | _ => false

/-- The checks in their order. -/
theorem decodeTrap_eq (i : Instr) (s : State) (key : Nat) (w : Warp) (h : Hdr) (act : Mask) (early : Bool) (extra : Option Nat) :
    decodeTrap i s key w h act early extra =
      if !runsOn i key then some cILLOP
      else if !check4 i h then some cILLOP
      else if emulated s.pkg.table i then some cEMUL
      else if !(instrShape i).ok || early then some cILLOP
      else if privileged i && !sysCrew s w then some cPRIV
      else if (instrShape i).opds.any (opdOver w) then some cREGBOUND
      else if (instrShape i).handles.any (fun hd => crewTrtn s w ≤ hd.toNat) then some cRECINV
      else if extra.isSome then extra
      else if !isNop i && guardPoisoned s w h act then some cPOISON
      else none := rfl

/-! ## Each check, the earlier ones passed -/

section Checks
variable {i : Instr} {s : State} {key : Nat} {w : Warp} {h : Hdr} {act : Mask} {early : Bool} {extra : Option Nat}

/-- Checks 3 to 5 pass. -/
def pastTable (i : Instr) (s : State) (key : Nat) (h : Hdr) : Prop :=
  runsOn i key = true ∧ check4 i h = true ∧ emulated s.pkg.table i = false

theorem decodeTrap_unit (hu : runsOn i key = false) : decodeTrap i s key w h act early extra = some cILLOP := by
  simp [decodeTrap_eq, hu]

theorem decodeTrap_check4 (hu : runsOn i key = true) (h4 : check4 i h = false) : decodeTrap i s key w h act early extra = some cILLOP := by
  simp [decodeTrap_eq, hu, h4]

theorem decodeTrap_emul (hu : runsOn i key = true) (h4 : check4 i h = true) (he : emulated s.pkg.table i = true) :
    decodeTrap i s key w h act early extra = some cEMUL := by
  simp [decodeTrap_eq, hu, h4, he]

theorem decodeTrap_shape (hp : pastTable i s key h) (hok : (instrShape i).ok = false) :
    decodeTrap i s key w h act early extra = some cILLOP := by
  obtain ⟨hu, h4, he⟩ := hp
  simp [decodeTrap_eq, hu, h4, he, hok]

theorem decodeTrap_priv (hp : pastTable i s key h) (hok : (instrShape i).ok = true) (hpr : privileged i = true) (hsys : sysCrew s w = false) :
    decodeTrap i s key w h act false extra = some cPRIV := by
  obtain ⟨hu, h4, he⟩ := hp
  simp [decodeTrap_eq, hu, h4, he, hok, hpr, hsys]

theorem decodeTrap_regbound (hp : pastTable i s key h) (hok : (instrShape i).ok = true) (hpr : privileged i = false)
    (hover : (instrShape i).opds.any (opdOver w) = true) : decodeTrap i s key w h act false extra = some cREGBOUND := by
  obtain ⟨hu, h4, he⟩ := hp
  simp only [decodeTrap_eq, hu, h4, he, hok, hpr, hover]
  rfl

theorem decodeTrap_recinv (hp : pastTable i s key h) (hok : (instrShape i).ok = true) (hpr : privileged i = false)
    (hover : (instrShape i).opds.any (opdOver w) = false) (hhnd : (instrShape i).handles.any (fun hd => crewTrtn s w ≤ hd.toNat) = true) :
    decodeTrap i s key w h act false extra = some cRECINV := by
  obtain ⟨hu, h4, he⟩ := hp
  simp only [decodeTrap_eq, hu, h4, he, hok, hpr, hover, hhnd]
  rfl

end Checks

/-! ## The trap that a check leaves -/

/-- The instruction goes through the shared issue, without decode checks of its own. -/
def Plain (i : Instr) (h : Hdr) (s : State) : Prop := ∃ body, exec i s = issue i h s body

theorem plain_of_issue {i : Instr} {h : Hdr} {s : State} {body : Ctx → State → Res} (he : exec i s = issue i h s body) : Plain i h s := ⟨body, he⟩

theorem plain_of_lanes {i : Instr} {h : Hdr} {s : State} {b : Byte} {f : Ctx → Nat → LaneRes} (he : exec i s = issueLanes i h b s f) :
    Plain i h s := plain_of_issue he

/-- An instruction of which a check stops the issue: the trap record with the word and its run, and nothing else. -/
theorem exec_decodeTrap {i : Instr} {h : Hdr} {s : State} {w : Warp} {cause : Nat} (he : Plain i h s)
    (hw : s.warp s.cur.key = some w) (hd : decodeTrap i s s.cur.key w h s.cur.act false none = some cause) :
    exec i s = .next (raiseTrap s s.cur.key (trapOf s s.cur.key w s.cur h .decode cause (decodeInfo i s w cause))) := by
  obtain ⟨body, he⟩ := he
  rw [he, issue, issueWith]
  simp only [hw, hd]

/-- INFO is 0 at every check but that of the handles (R188). -/
theorem decodeInfo_zero {i : Instr} {s : State} {w : Warp} {cause : Nat} (hc : cause ≠ cRECINV) : decodeInfo i s w cause = 0 := if_neg hc

/-- At the check of the handles INFO is the handle, of an instruction with one (R188). -/
theorem decodeInfo_recinv {i : Instr} {s : State} {w : Warp} {hd : BitVec 12} (hh : (instrShape i).handles = [hd])
    (hover : crewTrtn s w ≤ hd.toNat) : decodeInfo i s w cRECINV = hd.setWidth 64 := by
  have hfind : (instrShape i).handles.find? (fun hd => crewTrtn s w ≤ hd.toNat) = some hd := by
    rw [hh]
    exact List.find?_cons_of_pos (decide_eq_true hover)
  change (match (instrShape i).handles.find? (fun hd => crewTrtn s w ≤ hd.toNat) with
    | some hd => hd.setWidth 64
    | none => 0) = _
  rw [hfind]

/-- A register at or above the allotment, outside trap mode. -/
theorem regOver_one {w : Warp} {b : Byte} (htm : w.tm = false) : regOver w b 1 = decide (w.allot ≤ b.toNat ∧ b.toNat < 240) := by
  simp [regOver, htm, Bool.and_comm]

/-- A register below the allotment is not over it. -/
theorem regOver_one_inside {w : Warp} {b : Byte} (hb : b.toNat < w.allot) : regOver w b 1 = false := by
  simp [regOver, hb]

/-- The shipped table emulates the opcode of IMAX3 alone (R117). -/
theorem emulated_reset_imax3 (h : Hdr) (o : OpR) : emulated State.reset.pkg.table (.imax3 h o) = true := by
  have hopc : opcodeOf (.imax3 h o) = some 0x03E := congrArg (fun b : BitVec 9 => some b.toNat) (fields_wordOf 0x03E h o.area).1
  simp only [emulated, hopc]
  rfl

end Sys2Proof.Machine

namespace Sys2Proof.Proofs
open Sys2Proof Sys2Proof.Machine

/-- Settles O15: each check is decided where the earlier ones pass, and every instruction of the list goes through the shared issue. -/
theorem decodeTraps : Obligations.DecodeTraps := by
  unfold Obligations.DecodeTraps
  intro h o m t b q x s w key sys trtn runs past traps hw
  have htrap : ∀ i cause, Plain i h s → decodeTrap i s key w h s.cur.act false none = some cause → cause ≠ cRECINV → traps i cause 0 :=
    fun i cause he hd hc => (exec_decodeTrap he hw hd).trans (by rw [decodeInfo_zero hc])
  have hpriv : ∀ i, Plain i h s → privileged i = true → past i → (instrShape i).ok = true → sys = false → traps i cPRIV 0 :=
    fun i he hpr hp hok hsys => htrap i _ he (decodeTrap_priv hp hok hpr hsys) (by decide)
  refine ⟨?order, ?priv, ?context, ?regbound, ?recinv, ⟨emulated_reset_imax3 h o, rfl⟩, ?imax3⟩
  case order =>
    refine fun i hi => ?_
    have he : Plain i h s := by
      revert i
      simp only [List.forall_mem_cons]
      exact ⟨plain_of_lanes (rfl : execMov h o s = _), plain_of_lanes (rfl : execMovi h q s = _), plain_of_lanes (rfl : execIadd h o s = _),
        plain_of_lanes (rfl : execImax3 h o s = _), plain_of_lanes (rfl : issueFlt2 (.fadd h o) h o s faddRes = _),
        plain_of_lanes (rfl : execCvt h o s = _), plain_of_lanes (rfl : issueSpecial (.fexp2 h o) h o s .exp2 = _),
        plain_of_issue (rfl : execShfl h o s = _), plain_of_issue (rfl : execVote h o s = _), plain_of_issue (rfl : execBra h b s = _),
        plain_of_issue (rfl : execBrx h o s = _), plain_of_issue (rfl : execTrap h q s = _), plain_of_issue (rfl : execExit h o s = _),
        plain_of_issue (rfl : execCsrr h x s = _), plain_of_issue (rfl : execCsrw h x s = _), plain_of_issue (rfl : execSleep h q s = _),
        plain_of_issue (rfl : execLd h m s = _), plain_of_issue (rfl : execSt h m s = _), plain_of_issue (rfl : execAtom h m s = _),
        plain_of_issue (rfl : execRecset h m s = _), plain_of_issue (rfl : execRel h o s = _), plain_of_issue (rfl : execMma h t s = _),
        plain_of_issue (rfl : execMzero h o s = _), plain_of_issue (rfl : execCpy h t s = _),
        plain_of_issue (rfl : execCpystat h o s = _), plain_of_issue (rfl : execSeal h m s = _),
        plain_of_issue (rfl : execLdt h t s = _), plain_of_issue (rfl : execFrfit h m s = _),
        plain_of_issue (rfl : execLaunch h m s = _), plain_of_issue (rfl : execTlbinv h o s = _),
        plain_of_issue (rfl : execFrameret h o s = _), plain_of_issue (rfl : execCtxsave h m s = _),
        plain_of_issue (rfl : execCtxload h m s = _), plain_of_issue (rfl : execFstore h t s = _),
        plain_of_issue (rfl : execFrel h o s = _),
        by simp⟩
    exact ⟨fun hu => htrap i _ he (decodeTrap_unit hu) (by decide), fun hu h4 => htrap i _ he (decodeTrap_check4 hu h4) (by decide),
      fun hu h4 hem => htrap i _ he (decodeTrap_emul hu h4 hem) (by decide), fun hp hok => htrap i _ he (decodeTrap_shape hp hok) (by decide)⟩
  case priv =>
    simp only [List.forall_mem_cons, List.not_mem_nil, false_implies, implies_true, and_true]
    exact ⟨hpriv _ (plain_of_issue (rfl : execTlbinv h o s = _)) rfl, hpriv _ (plain_of_issue (rfl : execFrameret h o s = _)) rfl,
      hpriv _ (plain_of_issue (rfl : execCtxsave h m s = _)) rfl, hpriv _ (plain_of_issue (rfl : execCtxload h m s = _)) rfl⟩
  case context =>
    simp only [List.forall_mem_cons, List.not_mem_nil, false_implies, implies_true, and_true]
    exact ⟨fun hp hok hx => hpriv _ (plain_of_issue (rfl : execCsrw h x s = _)) (decide_eq_true hx) hp hok,
      fun hp hok hx => hpriv _ (plain_of_issue (rfl : execCsrs h x s = _)) (decide_eq_true hx) hp hok,
      fun hp hok hx => hpriv _ (plain_of_issue (rfl : execCsrc h x s = _)) (decide_eq_true hx) hp hok⟩
  case regbound =>
    intro hp hok htm hover
    refine htrap _ _ (plain_of_lanes (rfl : execMov h o s = _)) (decodeTrap_regbound hp hok rfl ?_) (by decide)
    have hopds : (instrShape (.mov h o)).opds.any (opdOver w) = (regOver w o.o1 1 || (regOver w o.o2 1 || false)) := rfl
    rw [hopds, regOver_one htm, regOver_one htm]
    simpa using hover
  case recinv =>
    intro hp hok h1 h2 hhnd
    have hopds : (instrShape (.ld h m)).opds.any (opdOver w) = (regOver w m.o1 1 || (regOver w m.o2 1 || false)) := rfl
    have hhandles : (instrShape (.ld h m)).handles.any (fun hd => crewTrtn s w ≤ hd.toNat) = true := by
      have : crewTrtn s w ≤ m.hnd.toNat := hhnd
      simp [instrShape, mShape, mkShape, this]
    have hd := decodeTrap_recinv (act := s.cur.act) (extra := none) hp hok rfl
      (hopds.trans (by rw [regOver_one_inside h1, regOver_one_inside h2]; rfl)) hhandles
    have he : Plain (.ld h m) h s := plain_of_issue (rfl : execLd h m s = _)
    exact (exec_decodeTrap he hw hd).trans (by rw [decodeInfo_recinv rfl hhnd])
  case imax3 =>
    exact gives_issueLanes (f := fun c l => intLane3 c h.f (c.val o.o2 l) (c.val o.o3 l) (c.val o.o4 l) (fun x y z => max (max x y) z))
      rfl rfl (fun _ => rfl)

end Sys2Proof.Proofs
end

section
/-! PROOF. An instruction left incomplete adds its entry to the warp's list and changes nothing else (02_encoding.md R24, R25). -/

namespace Sys2Proof.Machine

/-- Every entry of a list of incomplete instructions stands in another with what it is and what it waits for. -/
def KeepsEntries (ps qs : List Pend) : Prop := ∀ p ∈ ps, ∃ q ∈ qs, q.op = p.op ∧ q.late = p.late ∧ q.word = p.word ∧ q.ready = p.ready

theorem KeepsEntries.trans {ps qs rs : List Pend} (h1 : KeepsEntries ps qs) (h2 : KeepsEntries qs rs) : KeepsEntries ps rs := by
  intro p hp
  obtain ⟨q, hq, hop, hlate, hword, hready⟩ := h1 p hp
  obtain ⟨r, hr, gop, glate, gword, gready⟩ := h2 q hq
  exact ⟨r, hr, gop.trans hop, glate.trans hlate, gword.trans hword, gready.trans hready⟩

/-- Steps that each keep the entries keep them together. -/
theorem keepsEntries_foldl {α : Type} {f : List Pend → α → List Pend} (hf : ∀ ps a, KeepsEntries ps (f ps a)) (as : List α) (ps : List Pend) :
    KeepsEntries ps (as.foldl f ps) := by
  induction as generalizing ps with
  | nil => exact keep_pend ps
  | cons a as ih => exact (hf ps a).trans (ih (f ps a))

/-- The new entry joins the end of the list, where what stands before it keeps what it waits for. -/
theorem addPend_keepsEntries (w : Warp) (p : Pend) : KeepsEntries w.pend (addPend w p).pend := by
  have hregs := keepsEntries_foldl (fun ps (g : RegWr) => clobberRegs_entries ps g.reg g.mask) p.regs w.pend
  have hpreds := keepsEntries_foldl (fun ps (g : PredWr) => clobberPreds_entries ps g.pred g.mask) p.preds
  intro q hq
  obtain ⟨r, hr, hsame⟩ := (hregs.trans (hpreds _)) q hq
  exact ⟨r, List.mem_append_left _ hr, hsame⟩

/-- The entry as the list takes it: its rows are marked where an earlier instruction writes the same lanes (R25), and no more. -/
theorem addPend_entry (w : Warp) (p : Pend) : ∃ regs preds, { p with regs := regs, preds := preds } ∈ (addPend w p).pend ∧
    regs.map (fun g => (g.reg, g.mask, g.row)) = p.regs.map (fun g => (g.reg, g.mask, g.row)) ∧
    preds.map (fun g => (g.pred, g.mask, g.val, g.poi)) = p.preds.map (fun g => (g.pred, g.mask, g.val, g.poi)) :=
  ⟨_, _, List.mem_append_right _ (List.mem_singleton.mpr rfl), List.map_map, List.map_map⟩

/-- An instruction that is left incomplete changes nothing but the warp's list. -/
theorem changes_addLate {c : Ctx} {t b : State} {v : Warp} {u : Update} (late : Late) (regs : List RegWr) (preds : List PredWr)
    (hv : t.warp c.key = some v) (hC : Changes c t v u) (hR : Rest c t b) :
    (addLate c t late regs preds).warp c.key = some (addPend v (pendOf c (t.cycle + 1) late regs preds)) ∧
      Changes c (addLate c t late regs preds) (addPend v (pendOf c (t.cycle + 1) late regs preds)) u ∧
      Rest c (addLate c t late regs preds) b := by
  have hw : addLate c t late regs preds = t.setWarp c.key (addPend v (pendOf c (t.cycle + 1) late regs preds)) := modWarp_some _ _ _ _ hv
  obtain ⟨hC', hR'⟩ := changes_setWarp {} (addPend v (pendOf c (t.cycle + 1) late regs preds)) hC hR rfl rfl rfl rfl
    (fun _ _ _ _ => rfl) (fun _ _ => rfl) (fun _ _ => rfl) (fun _ _ => rfl) (flags_same rfl rfl) (addPend_keepsEntries v _)
  rw [hw]
  exact ⟨warp_setWarp_same _ _ _, hC'.congr (by simp [Update.then]), hR'⟩

end Sys2Proof.Machine

namespace Sys2Proof.Proofs
open Sys2Proof Sys2Proof.Machine

/-- Settles O31: the issue changes the bookkeeping alone, and the entry that it leaves joins the list. -/
theorem incompleteFrame : Obligations.IncompleteFrame := by
  unfold Obligations.IncompleteFrame
  intro i h s w late regs preds hw hpipe hexec c
  obtain ⟨v0, hv0, hC0, hR0⟩ := retire_changes i h s w
  obtain ⟨hv, hC, hR⟩ := changes_addLate late regs preds hv0 hC0 hR0
  obtain ⟨rs, qs, hmem, hrs, hqs⟩ := addPend_entry v0 (pendOf c ((issued i h s w).cycle + 1) late regs preds)
  exact ⟨_, _, hv, hC, hR, hmem, rfl, rfl, rfl, rfl, rfl, rfl, rfl, rfl, rfl, hrs, hqs⟩

end Sys2Proof.Proofs
end

section
/-! PROOF. COMPLETION: the writes of an incomplete instruction land, its counters fall, it leaves the list (02_encoding.md R23-R25). -/

namespace Sys2Proof.Machine

/-! ## The parts of a completion -/

/-- The warp once the instruction has left its list and its counters have fallen. -/
def Warp.without (w : Warp) (p : Pend) (cycle : Nat) : Warp :=
  { dropCtrs w p.ctrs cycle with pend := w.pend.filter (fun q => q.op != p.op), blockM := w.blockM.filter (fun o => o != p.op) }

/-- A register write of an incomplete instruction lands, lanes that another write met undefined. -/
def landReg (key : Nat) (s : State) (g : RegWr) : State :=
  storeReg s key g.reg g.mask (fun l =>
    if g.clob.getLsbD l then ⟨Config.freeWord (freeIndex s g.reg l), Config.freePoison (freeIndex s g.reg l)⟩ else rowGet g.row l)

def landRegs (key : Nat) (gs : List RegWr) (s : State) : State := gs.foldl (landReg key) s

/-- A predicate write lands. -/
def landPred (key : Nat) (s : State) (g : PredWr) : State :=
  s.modWarp key (fun w => storePred w g.pred g.mask
    ((g.val &&& ~~~g.clob) ||| (Config.freeMask (s.draw * 16 + 2 * g.pred) &&& g.clob))
    ((g.poi &&& ~~~g.clob) ||| (Config.freeMask (s.draw * 16 + 2 * g.pred + 1) &&& g.clob)))

def landPreds (key : Nat) (gs : List PredWr) (s : State) : State := gs.foldl (landPred key) s

theorem completePend_eq (s : State) (key : Nat) (p : Pend) :
    completePend s key p =
      let t := landPreds key p.preds (landRegs key p.regs (s.modWarp key (fun w => w.without p s.cycle)))
      { t with draw := t.draw + 1 } := rfl

/-! ## What landing leaves unchanged -/

/-- From s to t only registers and predicates of the warp of a key change, and its quad's trap bank. -/
structure Lands (key : Nat) (s t : State) (w v : Warp) : Prop where
  warp : t.warp key = some v
  kept : { v with regs := [], preds := [] } = { w with regs := [], preds := [] }
  others : ∀ k, k ≠ key → t.warp k = s.warp k
  outside : t.outside = s.outside

theorem Lands.refl {key : Nat} {s : State} {w : Warp} (hw : s.warp key = some w) : Lands key s s w w := ⟨hw, rfl, fun _ _ => rfl, rfl⟩

theorem Lands.trans {key : Nat} {s t r : State} {w v x : Warp} (h1 : Lands key s t w v) (h2 : Lands key t r v x) : Lands key s r w x :=
  ⟨h2.warp, h2.kept.trans h1.kept, fun k hk => (h2.others k hk).trans (h1.others k hk), h2.outside.trans h1.outside⟩

/-- A new version of the warp alone. -/
theorem Lands.setWarp {key : Nat} {s : State} {w v : Warp} (hk : { v with regs := [], preds := [] } = { w with regs := [], preds := [] }) :
    Lands key s (s.setWarp key v) w v :=
  ⟨warp_setWarp_same _ _ _, hk, fun _ hk => warp_setWarp_ne _ _ _ _ hk, rfl⟩

/-- Lanes of one register are stored: they take their values, every other lane stays. -/
theorem lands_storeReg {key : Nat} {s : State} {w : Warp} (hw : s.warp key = some w) (n : Nat) (m : Mask) (f : Nat → Lane) :
    ∃ v, Lands key s (storeReg s key n m f) w v ∧ v.preds = w.preds ∧
      ∀ r l, l < 32 → regLane (storeReg s key n m f) key v r l = if r = n ∧ m.getLsbD l = true then f l else regLane s key w r l := by
  by_cases hn : n < 256
  · have hstore : storeReg s key n m f = s.setWarp key { w with regs := fmPut w.regs n (rowSet (fmGet emptyRow w.regs n) m f) } := by
      rw [storeReg, if_pos hn, modWarp_some _ _ _ _ hw]
    rw [hstore]
    refine ⟨_, Lands.setWarp rfl, rfl, fun r l hl => ?_⟩
    by_cases hr : r = n
    · subst hr
      simp only [regLane, hn, if_true, fmGet_fmPut_same, rowGet_rowSet _ _ _ _ hl, true_and]
    · simp [regLane, hr, fmGet_fmPut]
  · have hstore : storeReg s key n m f = s.setQuad (keyQuad key) { s.quad (keyQuad key) with
        bank := fmPut (s.quad (keyQuad key)).bank (n - 256) (rowSet (fmGet emptyRow (s.quad (keyQuad key)).bank (n - 256)) m f) } := by
      rw [storeReg, if_neg hn]
    rw [hstore]
    refine ⟨w, ⟨hw, rfl, fun _ _ => rfl, rfl⟩, rfl, fun r l hl => ?_⟩
    by_cases hr : r = n
    · subst hr
      simp only [regLane, hn, if_false, quad_setQuad_same, fmGet_fmPut_same, rowGet_rowSet _ _ _ _ hl, true_and]
    · by_cases h256 : r < 256
      · simp [regLane, hr, h256]
      · simp [regLane, hr, h256, fmGet_fmPut, show ¬ r - 256 = n - 256 by omega]

/-- The entry of a list of register writes that decides a lane: the last one that writes it. -/
def lastWrite (gs : List RegWr) (r l : Nat) : Option RegWr := gs.reverse.find? (fun g => g.reg = r && g.mask.getLsbD l)

theorem lastWrite_concat (gs : List RegWr) (g : RegWr) (r l : Nat) :
    lastWrite (gs ++ [g]) r l = if r = g.reg ∧ g.mask.getLsbD l = true then some g else lastWrite gs r l := by
  simp only [lastWrite, List.reverse_append, List.reverse_singleton, List.singleton_append, List.find?_cons]
  by_cases hr : r = g.reg <;> cases hm : g.mask.getLsbD l <;> simp [hr, eq_comm]

theorem lands_landReg {key : Nat} {s : State} {w : Warp} (hw : s.warp key = some w) (g : RegWr) :
    ∃ v, Lands key s (landReg key s g) w v ∧ v.preds = w.preds ∧
      ∀ r l, l < 32 → (r = g.reg ∧ g.mask.getLsbD l = true → g.clob.getLsbD l = false → regLane (landReg key s g) key v r l = rowGet g.row l) ∧
        (¬ (r = g.reg ∧ g.mask.getLsbD l = true) → regLane (landReg key s g) key v r l = regLane s key w r l) := by
  obtain ⟨v, hL, hpreds, hlanes⟩ := lands_storeReg hw g.reg g.mask (fun l =>
    if g.clob.getLsbD l then ⟨Config.freeWord (freeIndex s g.reg l), Config.freePoison (freeIndex s g.reg l)⟩ else rowGet g.row l)
  refine ⟨v, hL, hpreds, fun r l hl => ⟨fun hg hclob => ?_, fun hg => ?_⟩⟩
  · exact (hlanes r l hl).trans (by rw [if_pos hg, hclob]; rfl)
  · exact (hlanes r l hl).trans (if_neg hg)

/-- Each lane holds what the last write of it left, and a lane without a write stays. -/
theorem lands_landRegs {key : Nat} {s : State} {w : Warp} (hw : s.warp key = some w) (gs : List RegWr) :
    ∃ v, Lands key s (landRegs key gs s) w v ∧ v.preds = w.preds ∧
      ∀ r l, l < 32 → (∀ g, lastWrite gs r l = some g → g.clob.getLsbD l = false → regLane (landRegs key gs s) key v r l = rowGet g.row l) ∧
        (lastWrite gs r l = none → regLane (landRegs key gs s) key v r l = regLane s key w r l) := by
  induction gs using List.reverseRecOn with
  | nil => exact ⟨w, Lands.refl hw, rfl, fun r l _ => ⟨fun g hg => absurd hg nofun, fun _ => rfl⟩⟩
  | append_singleton gs g ih =>
    obtain ⟨v, hL, hpreds, hlanes⟩ := ih
    have hland : landRegs key (gs ++ [g]) s = landReg key (landRegs key gs s) g := List.foldl_concat ..
    obtain ⟨x, hLx, hpx, hx⟩ := lands_landReg hL.warp g
    rw [hland]
    refine ⟨x, hL.trans hLx, hpx.trans hpreds, fun r l hl => ?_⟩
    obtain ⟨hsome, hnone⟩ := hlanes r l hl
    obtain ⟨hwritten, hother⟩ := hx r l hl
    rw [lastWrite_concat]
    by_cases hg : r = g.reg ∧ g.mask.getLsbD l = true
    · simp only [if_pos hg, Option.some.injEq, reduceCtorEq, false_implies, and_true]
      rintro _ rfl hclob
      exact hwritten hg hclob
    · simp only [if_neg hg, hother hg]
      exact ⟨hsome, hnone⟩

/-- A mask of which no lane met another write. -/
theorem mask_unmet (val free : Mask) : (val &&& ~~~(0 : Mask)) ||| (free &&& (0 : Mask)) = val := by
  have hall : ~~~(0 : Mask) = BitVec.allOnes 32 := by decide
  rw [hall, BitVec.and_allOnes]
  simp

/-- A predicate write leaves the registers. -/
theorem lands_landPred {key : Nat} {s : State} {w : Warp} (hw : s.warp key = some w) (g : PredWr) :
    ∃ v, Lands key s (landPred key s g) w v ∧ (∀ r l, regLane (landPred key s g) key v r l = regLane s key w r l) ∧
      (g.pred < 7 → g.clob = 0 → ∀ q l, q < 7 →
        predLane v q l = if q = g.pred ∧ g.mask.getLsbD l = true then (g.val.getLsbD l, g.poi.getLsbD l) else predLane w q l) := by
  rw [landPred, modWarp_some _ _ _ _ hw]
  refine ⟨_, Lands.setWarp rfl, fun _ _ => rfl, fun hp hc q l hq => ?_⟩
  rw [predLane_storePred _ _ _ _ _ _ _ hq hp, hc]
  simp only [mask_unmet]

theorem lands_landPreds {key : Nat} {s : State} {w : Warp} (hw : s.warp key = some w) (gs : List PredWr) :
    ∃ v, Lands key s (landPreds key gs s) w v ∧ (∀ r l, regLane (landPreds key gs s) key v r l = regLane s key w r l) ∧
      (gs = [] → v.preds = w.preds) ∧
      (∀ g, gs = [g] → g.pred < 7 → g.clob = 0 → ∀ q l, q < 7 →
        predLane v q l = if q = g.pred ∧ g.mask.getLsbD l = true then (g.val.getLsbD l, g.poi.getLsbD l) else predLane w q l) := by
  induction gs generalizing s w with
  | nil => exact ⟨w, Lands.refl hw, fun _ _ => rfl, fun _ => rfl, nofun⟩
  | cons g gs ih =>
    obtain ⟨v, hL, hregs, hpred⟩ := lands_landPred hw g
    obtain ⟨x, hLx, hregsx, hnone, -⟩ := ih hL.warp
    refine ⟨x, hL.trans hLx, fun r l => (hregsx r l).trans (hregs r l), nofun, ?_⟩
    rintro _ heq hp hc q l hq
    obtain ⟨rfl, rfl⟩ := List.cons.inj heq
    rw [← hpred hp hc q l hq, predLane, predRow, hnone rfl]
    rfl

/-! ## The whole completion -/

theorem completePend_lands {key : Nat} {s : State} {w : Warp} (hw : s.warp key = some w) (p : Pend) :
    ∃ v, Lands key s (completePend s key p) (w.without p s.cycle) v ∧
      (∀ r l, l < 32 → (∀ g, lastWrite p.regs r l = some g → g.clob.getLsbD l = false → regLane (completePend s key p) key v r l = rowGet g.row l) ∧
        (lastWrite p.regs r l = none → regLane (completePend s key p) key v r l = regLane s key w r l)) ∧
      (p.preds = [] → v.preds = w.preds) ∧
      (∀ g, p.preds = [g] → g.pred < 7 → g.clob = 0 → ∀ q l, q < 7 →
        predLane v q l = if q = g.pred ∧ g.mask.getLsbD l = true then (g.val.getLsbD l, g.poi.getLsbD l) else predLane w q l) := by
  have hleave : s.modWarp key (fun w => w.without p s.cycle) = s.setWarp key (w.without p s.cycle) := modWarp_some _ _ _ _ hw
  have hw0 : (s.setWarp key (w.without p s.cycle)).warp key = some (w.without p s.cycle) := warp_setWarp_same _ _ _
  obtain ⟨v, hL, hpreds, hlanes⟩ := lands_landRegs hw0 p.regs
  obtain ⟨x, hLx, hregs, hnone, hone⟩ := lands_landPreds hL.warp p.preds
  have hsame : ∀ q l, predLane v q l = predLane w q l := fun q l => by rw [predLane, predRow, hpreds]; rfl
  have hstart : Lands key s (s.setWarp key (w.without p s.cycle)) (w.without p s.cycle) (w.without p s.cycle) := Lands.setWarp rfl
  obtain ⟨hwarp, hkept, hothers, hout⟩ := hstart.trans (hL.trans hLx)
  rw [completePend_eq, hleave]
  refine ⟨x, ⟨hwarp, hkept, hothers, hout⟩, fun r l hl => ?_, fun h => (hnone h).trans hpreds, fun g hg hp hc q l hq => ?_⟩
  · obtain ⟨hsome, hnoneReg⟩ := hlanes r l hl
    exact ⟨fun g hg hclob => (hregs r l).trans (hsome g hg hclob), fun hg => (hregs r l).trans (hnoneReg hg)⟩
  · rw [← hsame]
    exact hone g hg hp hc q l hq

/-! ## The step of an instruction that no longer waits -/

/-- What an instruction waits for has come, without a request at any bank. -/
def Arrived (w : Warp) (p : Pend) : Prop :=
  p.late = .done ∨ p.late = .replies 0 ∨ p.late = .mxWait [] ∨ (p.late = .sleep ∧ sleepOver w p = true) ∨ (p.late = .fence ∧ coreOut w p.op = false)

/-- Such an instruction has no request at a bank. -/
theorem Arrived.bankCrew {s : State} {w : Warp} {p : Pend} (h : Arrived w p) : bankCrew s p = none := by
  obtain h | h | h | ⟨h, -⟩ | ⟨h, -⟩ := h <;> simp only [Machine.bankCrew, h]

/-- Its next step is its completion. -/
theorem Arrived.pendStep {s : State} {key : Nat} {w : Warp} {p : Pend} (hw : s.warp key = some w) (h : Arrived w p) :
    pendStep s key w p = completePend s key p := by
  obtain h | h | h | ⟨h, hover⟩ | ⟨h, hout⟩ := h <;> simp only [Machine.pendStep, h]
  · rfl
  · simp [mxWaitStep, hw]
  · rw [if_pos hover]
  · simp [fenceStep, hw, hout]

/-- An instruction of a resident warp is found under the key of its slot. -/
theorem pendKey_resident {s : State} {key : Nat} {w : Warp} {p : Pend} {op : Nat} (hw : s.warp key = some w) (hp : findPend w op = some p) :
    pendKey s key op = key := by
  simp [pendKey, hw, hp]

/-- An instruction without a request at a bank steps once its cycle has come, where nothing holds it. -/
theorem complete_step {s : State} {key : Nat} {w : Warp} {c : Crew} {p : Pend} (hw : s.warp key = some w) (hc : s.crew w.crew = some c)
    (hp : findPend w p.op = some p) (hrest : p.op ∉ w.restoring) (hready : p.ready ≤ s.cycle) (hend : c.ending = none)
    (hfroz : s.pkg.frozen = false) (hfault : s.faults.any (fun f => f.waiter = .access key p.op) = false) (hbank : bankCrew s p = none) :
    complete s key p.op = pendStep s key w p := by
  have hlt : ¬ s.cycle < p.ready := by omega
  have hturn : bankTurn s key p = true := by simp only [bankTurn, hbank]
  have hquad : quadFirst s key p = false := by simp only [quadFirst, hbank]
  have hcont : w.restoring.contains p.op = false := by simpa using hrest
  simp only [complete, hw, hp, hc, hend, hfroz, hfault, hturn, hquad, hcont, hlt]
  rfl

end Sys2Proof.Machine

namespace Sys2Proof.Proofs
open Sys2Proof Sys2Proof.Machine

/-- Settles O34: the step of such an instruction is its completion, whose writes land one after another. -/
theorem completionResults : Obligations.CompletionResults := by
  unfold Obligations.CompletionResults
  intro unit slot s w c p key hw hc hp hrest hready hend hfroz hfault (harr : Arrived w p)
  have hstep : exec (.completion unit slot p.op) s = .next (completePend s key p) := by
    change Host.Outcome.next (complete s (pendKey s key p.op) p.op) = _
    rw [pendKey_resident hw hp, complete_step hw hc hp hrest hready hend hfroz hfault harr.bankCrew, harr.pendStep hw]
  obtain ⟨v, ⟨hwarp, hkept, hothers, hout⟩, hregs, hnone, hone⟩ := completePend_lands hw p
  have hfield : ∀ {α : Type} (f : Warp → α), (∀ x : Warp, f { x with regs := [], preds := [] } = f x) → f v = f (w.without p s.cycle) :=
    fun f hf => (hf v).symm.trans ((congrArg f hkept).trans (hf _))
  exact ⟨_, v, hstep, hwarp, hfield Warp.pend fun _ => rfl, hfield Warp.ctrs fun _ => rfl,
    fun r l hl g hg => (hregs r l hl).1 g hg,
    fun r l hl hg => (hregs r l hl).2 (by simpa [lastWrite, -Bool.and_eq_true] using hg),
    fun q l hq _ g hg hpred hclob => hone g hg hpred hclob q l hq, hnone, hfield Warp.pt fun _ => rfl, hfield Warp.gens fun _ => rfl,
    hfield Warp.traps fun _ => rfl, hfield Warp.allot fun _ => rfl, hfield Warp.fpstat fun _ => rfl, hothers, hout⟩

end Sys2Proof.Proofs
end

section
/-! PROOF. What a read at a home leaves unchanged there: the locks of tiles (14_die_tiles.md R368). -/

namespace Sys2Proof.Machine

/-- No slice's locks change. -/
def KeepsLocks (s t : State) : Prop := ∀ h, (t.slice h).locks = (s.slice h).locks

theorem KeepsLocks.refl (s : State) : KeepsLocks s s := fun _ => rfl

theorem KeepsLocks.trans {s t r : State} (h1 : KeepsLocks s t) (h2 : KeepsLocks t r) : KeepsLocks s r := fun h => (h2 h).trans (h1 h)

/-- A change that leaves the slices. -/
theorem KeepsLocks.of_slices {s t : State} (h : t.slices = s.slices) : KeepsLocks s t := fun k => by simp only [State.slice, h]

/-- A slice replaced by one with its locks. -/
theorem KeepsLocks.setSlice {s : State} {k : Nat} {v : Slice} (hv : v.locks = (s.slice k).locks) : KeepsLocks s (s.setSlice k v) := fun h => by
  by_cases hk : h = k
  · rw [hk, State.setSlice_same, hv]
  · rw [State.setSlice_ne s k v h hk]

theorem makeRoom_locks {ln tags sect : Nat} {grow : Bool} {spare : List Nat} {fuel : Nat} {sl sl1 : Slice} {out out1 : List (Nat × SLine)}
    (h : makeRoom ln tags sect grow spare fuel sl out = .ok (sl1, out1)) : sl1.locks = sl.locks := by
  induction fuel generalizing sl out with
  | zero => cases h
  | succ fuel ih =>
    unfold makeRoom at h
    dsimp only at h
    split at h
    · cases h; rfl
    · split at h
      · cases h
      · exact (ih h :)

theorem slPut_keepsLocks {s t : State} {ln : Nat} {d : Line} {bad : BitVec 16} {dirty : Bool} {spare : List Nat}
    (h : slPut s ln d bad dirty spare = .ok t) : KeepsLocks s t := by
  unfold slPut at h
  dsimp only at h
  split at h
  · cases h
  · rename_i sl1 out hroom
    cases h
    have hlocks : sl1.locks = (s.slice (lineHome ln)).locks := by
      split at hroom <;> exact makeRoom_locks hroom
    refine KeepsLocks.trans (KeepsLocks.setSlice ?_) (KeepsLocks.of_slices (writeBacks_slices _ _))
    exact hlocks

theorem slGet_keepsLocks {s : State} {ln : Nat} {spare : List Nat} {r : State × SLine} (h : slGet s ln spare = .ok r) : KeepsLocks s r.1 := by
  unfold slGet at h
  dsimp only at h
  split at h
  · cases h
    exact KeepsLocks.setSlice rfl
  · split at h
    · cases h
    · rename_i s1 hput
      split at h
      · cases h
        exact slPut_keepsLocks hput
      · cases h

theorem takeWords_keepsLocks {s t : State} {ln : Nat} {v : OwnerView} {spare : List Nat} (h : takeWords s ln v spare = .ok t) :
    KeepsLocks s t := by
  unfold takeWords at h
  split at h
  · cases h
    exact KeepsLocks.refl s
  · obtain ⟨r, hget, hput⟩ := except_bind_ok h
    exact (slGet_keepsLocks hget).trans (slPut_keepsLocks hput)

theorem objTouch_keepsLocks (s : State) (e : ObjEnt) : KeepsLocks s (objTouch s e) := KeepsLocks.setSlice rfl

theorem homeRead_keepsLocks {s : State} {ln : Nat} {mask : BitVec 32} {r : State × SLine} (h : homeRead s ln mask = .ok r) :
    KeepsLocks s r.1 := by
  have hrest : ∀ s1, (match objEnt s1 ln with
      | some e => takeWords (objTouch s1 e) ln (ownerWords s1 e.owner ln (objWords s1 e.owner ln &&& mask)) >>= fun s2 => slGet s2 ln
      | none => slGet s1 ln) = .ok r → KeepsLocks s1 r.1 := by
    intro s1 h1
    split at h1
    · obtain ⟨s2, htake, hget⟩ := except_bind_ok h1
      exact (objTouch_keepsLocks s1 _).trans ((takeWords_keepsLocks htake).trans (slGet_keepsLocks hget))
    · exact slGet_keepsLocks h1
  unfold homeRead at h
  split at h
  · obtain ⟨s1, htake, h⟩ := except_bind_ok h
    exact (takeWords_keepsLocks htake).trans (hrest s1 h)
  · exact hrest s h

theorem walkRead_keepsLocks (s : State) (pa : Nat) : KeepsLocks s (walkRead s pa).1 := by
  unfold walkRead
  split
  · rename_i r hread
    unfold homeBytes at hread
    dsimp only at hread
    split at hread
    · cases hread
    · rename_i hhome
      cases hread
      exact homeRead_keepsLocks hhome
  · exact KeepsLocks.refl s

theorem walkStep_keepsLocks (s : State) (table index : Nat) : KeepsLocks s (walkStep s table index).1 := by
  unfold walkStep
  split
  · exact KeepsLocks.refl s
  · have h := walkRead_keepsLocks s (table + 8 * index)
    dsimp only
    split_ifs <;> exact h

theorem walk_keepsLocks (s : State) (cr : CtxRegs) (va : Nat) : KeepsLocks s (walk s cr va).1 := by
  unfold walk
  have k1 := walkStep_keepsLocks s cr.ptbr.toNat (va / 2 ^ 40 % 4096)
  split
  · rename_i h1
    exact h1 ▸ k1
  · rename_i s1 t1 h1
    rw [h1] at k1
    have k2 := walkStep_keepsLocks s1 t1 (va / 2 ^ 28 % 4096)
    split
    · rename_i h2
      exact k1.trans (h2 ▸ k2)
    · rename_i s2 t2 h2
      rw [h2] at k2
      have k3 := walkRead_keepsLocks s2 (t2 + 8 * (va / 2 ^ 16 % 4096))
      dsimp only
      split_ifs
      · exact k1.trans k2
      all_goals exact k1.trans (k2.trans k3)

theorem translate_keepsLocks (s : State) (unit : Nat) (cr : CtxRegs) (va need : Nat) : KeepsLocks s (translate s unit cr va need).1 := by
  unfold translate
  have kw := walk_keepsLocks s cr va
  split
  · exact KeepsLocks.refl s
  · split
    · split <;> exact KeepsLocks.refl s
    · dsimp only
      split
      · exact KeepsLocks.refl s
      · split
        · rename_i hw
          rw [hw] at kw
          exact kw
        · rename_i s1 pte hw
          rw [hw] at kw
          split
          · split
            · exact kw
            · exact kw.trans (KeepsLocks.of_slices rfl)
          · exact kw
end Sys2Proof.Machine
end

section
/-! PROOF. A fetched line (02_encoding.md R13-R15; 14_die_tiles.md R368; 16_package.md R410, R412): O32. -/

namespace Sys2Proof.Machine

/-- A line that an STT has locked is held back from a read, whatever its place. -/
theorem readHeld_of_sttHeld {s : State} {ln : Nat} (who : Waiter) (h : sttHeld s [ln] = true) : readHeld s who ln = true := by
  simp only [sttHeld, List.any_cons, List.any_nil, Bool.or_false] at h
  obtain ⟨k, hk, hlock⟩ := List.any_eq_true.1 h
  simp only [Bool.and_eq_true] at hlock
  obtain ⟨⟨hgranted, hstore⟩, hline⟩ := hlock
  have hany : (s.slice (lineHome ln)).locks.any (fun k => k.lines.contains ln && (k.store || false) &&
      (k.granted || (match waitPlace s who ln with
        | some q => decide (k.place < q)
        | none => true))) = true :=
    List.any_eq_true.2 ⟨k, hk, by rw [hgranted, hstore, hline]; rfl⟩
  unfold readHeld heldBack
  simp only [Bool.or_eq_true]
  exact .inl (.inl hany)

theorem sttHeld_of_keepsLocks {s t : State} (h : KeepsLocks s t) (lns : List Nat) : sttHeld t lns = sttHeld s lns := by
  simp only [sttHeld, h _]

/-- Something that waits nowhere gives up no place. -/
theorem walksGo_of_no_place {s : State} {who : Waiter} (h : ∀ x ∈ s.slices, ∀ y ∈ x.2.waits, y.who ≠ who) (unit : Nat) (cr : CtxRegs)
    (vas : List Nat) : walksGo s who unit cr vas = s := by
  unfold walksGo
  rw [if_neg]
  simpa using h

/-- What the fetch of a line does with the result of the read at its home. -/
def fetched (s : State) (key : Nat) (c : Crew) (pc : Word) (act : Mask) (r : Except VErr (State × BitVec 512 × Bool)) : State :=
  match r with
  | .error (.fault _ reason pte _) => sendFault s (faultOf c (keyUnit key) (keySlot key) reason 4 (pcLine pc) pc pte (.fetch key pc))
  | .error v => v.waits ⟨keyUnit key, c.cregs, .fetch key pc⟩ s
  | .ok (s1, d, bad) =>
    let s2 := { s1 with draw := s1.draw + 1 }
    if bad || lineXor d != 0 then raiseTrap (s2.modWarp key (fun w => { w with fetch := none })) key (lineTrap s2 cPARITY pc act)
    else if !lineVersionOk d then raiseTrap (s2.modWarp key (fun w => { w with fetch := none })) key (lineTrap s2 cILLOP pc act)
    else s2.modWarp key (fun w => { w with fetch := some (pcLine pc, d), fetchAsid := c.cregs.asid.toNat % 65536 })

/-- A warp that lacks its candidate's line, and that neither a trap nor a fault record holds, reads it at its home. -/
theorem fetchLine_eq {s : State} {key : Nat} {w : Warp} {c : Crew} {pc : Word} {act : Mask} (hw : s.warp key = some w)
    (hc : s.crewSeen w.crew = some c) (hend : c.ending = none) (htraps : w.tm = false → w.traps = []) (hcand : candidate c w = some (pc, act))
    (hpc : pcNamesSlot pc = true) (hbuf : lineAt w pc = none) (hheld : fetchHeld s key pc = false) :
    fetchLine s key = fetched s key c pc act (readCode ⟨keyUnit key, c.cregs, .fetch key pc⟩ s (pcLine pc)) := by
  have hgo : (!pcNamesSlot pc || (lineAt w pc).isSome || fetchHeld s key pc || (!w.tm && !w.traps.isEmpty) || c.ending.isSome) = false := by
    cases htm : w.tm with
    | false => simp [hpc, hbuf, hheld, hend, htraps htm]
    | true => simp [hpc, hbuf, hheld, hend]
  unfold fetchLine
  simp only [hw, hc, hcand, hgo]
  rfl

/-- The record of a failed translation of a fetch. -/
def fetchFault (s : State) (key : Nat) (c : Crew) (pc : Word) (reason pte : Nat) : FaultRec :=
  { faultOf c (keyUnit key) (keySlot key) reason 4 (pcLine pc) pc pte (.fetch key pc) with tag := s.nextTag + 1 }

theorem fetched_fault (s : State) (key : Nat) (c : Crew) (pc : Word) (act : Mask) (va reason pte need : Nat) :
    fetched s key c pc act (.error (.fault va reason pte need)) =
      { s with faults := s.faults ++ [fetchFault s key c pc reason pte], nextTag := s.nextTag + 1 } := rfl

/-- A read that a lock of an STT would hold back, of a line whose translation needs no wait. -/
theorem readCode_held {e : Env} {s : State} {va pa : Nat} (hwalk : walkWait s e.who e.unit e.cr va = none)
    (hplace : ∀ x ∈ s.slices, ∀ y ∈ x.2.waits, y.who ≠ e.who) (htr : (translate s e.unit e.cr va permX).2 = .ok pa)
    (hlock : sttHeld s [pa / 128] = true) : readCode e s va = .error (.held (pa / 128) false) := by
  have hkeep := translate_keepsLocks s e.unit e.cr va permX
  unfold readCode envTr
  rw [hwalk, walksGo_of_no_place hplace]
  rcases ht : translate s e.unit e.cr va permX with ⟨s1, t⟩
  rw [ht] at htr hkeep
  subst htr
  have hread : readHeld s1 e.who (pa / 128) = true :=
    readHeld_of_sttHeld e.who ((sttHeld_of_keepsLocks hkeep _).trans hlock)
  simp only [hread, if_true]

/-- The cause of a fetched line's own trap: PARITY before ILLOP (R14, R15). -/
def lineCause (d : BitVec 512) (bad : Bool) : Nat := if bad = true ∨ lineXor d ≠ 0 then cPARITY else cILLOP

/-- A line that passes its checks comes into the fetch buffer. -/
theorem fetched_good {s s1 : State} {key : Nat} {c : Crew} {pc : Word} {act : Mask} {d : BitVec 512} (v : Warp) (hv : s1.warp key = some v)
    (hxor : lineXor d = 0) (hver : lineVersionOk d = true) : fetched s key c pc act (.ok (s1, d, false)) =
      { s1 with draw := s1.draw + 1 }.setWarp key { v with fetch := some (pcLine pc, d), fetchAsid := c.cregs.asid.toNat % 65536 } := by
  unfold fetched
  simp only [hxor, hver]
  exact modWarp_some _ key v _ hv

/-- A trap raised by a warp outside its handler, whose fetch buffer is emptied. -/
theorem raiseTrap_emptied {s : State} {key : Nat} {v : Warp} (r : TrapRec) (hv : s.warp key = some v) (htm : v.tm = false)
    (hghost : isGhost key = false) : ∃ t, raiseTrap (s.modWarp key (fun w => { w with fetch := none })) key r = t ∧
      t.outside = s.outside ∧ t.quads = s.quads ∧ (∀ k, k ≠ key → t.warp k = s.warp k) ∧
      t.warp key = some { v with fetch := none, traps := v.traps ++ [r], pairNext := none } := by
  refine ⟨_, rfl, ?_⟩
  rw [modWarp_some _ key v _ hv]
  unfold raiseTrap
  simp only [warp_setWarp_same, hghost, htm, Bool.false_eq_true, if_false]
  exact ⟨rfl, rfl, fun k hk => by rw [warp_setWarp_ne _ _ _ _ hk, warp_setWarp_ne _ _ _ _ hk], trivial⟩

/-- A line that fails a check leaves a trap, and no line in the buffer. -/
theorem fetched_bad {s s1 : State} {key : Nat} {c : Crew} {pc : Word} {act : Mask} {d : BitVec 512} {bad : Bool}
    (hbad : bad = true ∨ lineXor d ≠ 0 ∨ lineVersionOk d = false) : fetched s key c pc act (.ok (s1, d, bad)) =
      raiseTrap ({ s1 with draw := s1.draw + 1 }.modWarp key (fun w => { w with fetch := none })) key
        (lineTrap { s1 with draw := s1.draw + 1 } (lineCause d bad) pc act) := by
  unfold fetched lineCause
  by_cases hpar : bad = true ∨ lineXor d ≠ 0
  · have hif : (bad || lineXor d != 0) = true := by simpa using hpar
    simp only [hif, hpar, if_true]
  · have hif : (bad || lineXor d != 0) = false := by simpa using hpar
    have hver : lineVersionOk d = false := by tauto
    simp only [hif, hpar, hver, if_false]
    rfl

/-- What a line that is read does, damaged or not. -/
theorem fetched_ok {s s1 : State} {key : Nat} {c : Crew} {pc : Word} {act : Mask} {d : BitVec 512} {bad : Bool} {v : Warp}
    (hv : s1.warp key = some v) (htm : v.tm = false) (hghost : isGhost key = false) :
    ∃ t, fetched s key c pc act (.ok (s1, d, bad)) = t ∧ t.outside = s1.outside ∧ t.quads = s1.quads ∧
      (∀ k, k ≠ key → t.warp k = s1.warp k) ∧
      (bad = false → lineXor d = 0 → lineVersionOk d = true →
        t.warp key = some { v with fetch := some (pcLine pc, d), fetchAsid := c.cregs.asid.toNat % 65536 }) ∧
      (bad = true ∨ lineXor d ≠ 0 ∨ lineVersionOk d = false → ∃ r,
        t.warp key = some { v with fetch := none, traps := v.traps ++ [r], pairNext := none } ∧ r.stage = .decode ∧ r.pc = pc ∧
        r.act = act ∧ r.exec = act ∧ r.info = 0 ∧ r.cause = lineCause d bad) := by
  by_cases hbad : bad = true ∨ lineXor d ≠ 0 ∨ lineVersionOk d = false
  · obtain ⟨t, ht, hout, hquads, hrest, hwarp⟩ := raiseTrap_emptied (s := { s1 with draw := s1.draw + 1 })
      (lineTrap { s1 with draw := s1.draw + 1 } (lineCause d bad) pc act) hv htm hghost
    refine ⟨t, (fetched_bad hbad).trans ht, hout, hquads, hrest, ?_, fun _ => ⟨_, hwarp, rfl, rfl, rfl, rfl, rfl, rfl⟩⟩
    intro hb hx hver
    simp [hb, hx, hver] at hbad
  · have hgood : bad = false ∧ lineXor d = 0 ∧ lineVersionOk d = true := by simpa using hbad
    obtain ⟨rfl, hxor, hver⟩ := hgood
    refine ⟨_, fetched_good v hv hxor hver, rfl, rfl, fun k hk => warp_setWarp_ne _ _ _ _ hk, fun _ _ _ => warp_setWarp_same _ _ _,
      fun h => absurd h hbad⟩

end Sys2Proof.Machine

namespace Sys2Proof.Proofs
open Sys2Proof Sys2Proof.Machine

/-- Settles O32, by the outcomes of the read of the candidate's line at its home. -/
theorem fetchResults : Obligations.FetchResults := by
  unfold Obligations.FetchResults
  intro unit slot s w c pc act key e e0 hw hghost hc hend htraps hcand hpc hbuf hheld
  have hexec : exec e s = .next (fetched s key c pc act (readCode e0 s (pcLine pc))) :=
    congrArg Host.Outcome.next (fetchLine_eq hw hc hend htraps hcand hpc hbuf hheld)
  refine ⟨?held, ?room, ?locked, ?read, ?fault⟩
  case held =>
    intro ln wr hread
    rw [hexec, hread]
    rfl
  case room =>
    intro lack hread
    rw [hexec, hread]
    rfl
  case locked =>
    intro pa hwalk hplace htr hlock
    rw [hexec, readCode_held (e := e0) hwalk hplace htr hlock]
    rfl
  case read =>
    intro s1 d bad v hread hv htm
    rw [hexec, hread]
    obtain ⟨t, ht, hframe⟩ := fetched_ok (s := s) (c := c) (pc := pc) (act := act) (d := d) (bad := bad) hv htm hghost
    exact ⟨t, congrArg _ ht, hframe⟩
  case fault =>
    intro va reason pte need hread
    rw [hexec, hread, fetched_fault]
    refine ⟨_, fetchFault s key c pc reason pte, rfl, rfl, rfl, rfl, rfl, rfl, rfl, rfl, rfl, rfl, rfl, rfl, ?_, rfl⟩
    simp [fetchHeld, fetchFault, faultOf]

end Sys2Proof.Proofs
end

section
/-! PROOF. The instruction that a step runs (02_encoding.md R15, R19; 04_threads.md R85, R86, R88; 09_core_memory.md R230): O53. -/

namespace Sys2Proof.Machine

/-! ## What the choice of an issue reads: nothing of the agenda -/

theorem nextIssue_agenda (s : State) (a : List Turn) : nextIssue { s with agenda := a } = nextIssue s := rfl
theorem banksDue_agenda (s : State) (a : List Turn) : banksDue { s with agenda := a } = banksDue s := rfl
theorem mayIssue_agenda (s : State) (a : List Turn) (key : Nat) : mayIssue { s with agenda := a } key = mayIssue s key := rfl

/-- Where no warp has a second slot to issue, none of its warps has. -/
theorem secondSlot_eq_none {s : State} {key : Nat} {w : Warp} (h : secondWarp s = none) (hw : s.warp key = some w) : secondSlot s w = none := by
  have hall := List.find?_eq_none.1 (Option.map_eq_none_iff.1 h)
  simpa using hall (key, w) (fmFind_mem _ _ _ hw)

/-! ## An issue -/

/-- The state in which the candidate of a warp issues: the cursor is set, and the candidate counts as tried. -/
def readied (s : State) (key : Nat) (w : Warp) (cur : Cursor) : State :=
  { s.setWarp key { w with tried := some s.cycle, pairNext := none } with cur := cur }

theorem issueWarp_first {run : Run} {s : State} {key : Nat} {w : Warp} {c : Crew} {pc : Word} {act : Mask} {word : IWord} {i : Instr}
    (hw : s.warp key = some w) (hc : s.crewSeen w.crew = some c) (hsecond : secondSlot s w = none) (hcand : candidate c w = some (pc, act))
    (hpc : pcNamesSlot pc = true) (hword : wordAt w pc = some word) (hdec : decode word = .ok i) :
    issueWarp run s key = run i (withPair run (markSeen (readied s key w { key := key, pc := pc, word := word, act := act }) key)) := by
  have hprep : prepare s key = .first i (readied s key w { key := key, pc := pc, word := word, act := act }) := by
    unfold prepare
    simp only [hw, hsecond, hc, hcand, hpc, hword, hdec]
    rfl
  simp only [issueWarp, hprep]

theorem issueWarp_second {run : Run} {s : State} {key : Nat} {w : Warp} {pc : Word} {act : Mask} {word : IWord} {i : Instr}
    (hw : s.warp key = some w) (hsecond : secondSlot s w = some (pc, act)) (hword : wordAt w pc = some word) (hdec : decode word = .ok i) :
    issueWarp run s key = run i { s.setWarp key { w with tried := none } with cur := { key := key, pc := pc, word := word, act := act } } := by
  have hprep : prepare s key =
      .second i { s.setWarp key { w with tried := none } with cur := { key := key, pc := pc, word := word, act := act } } := by
    unfold prepare
    simp only [hw, hsecond, hword, hdec]
  simp only [issueWarp, hprep]

/-! ## A step -/

/-- A turn that does not end the cycle is taken off the agenda and runs. -/
theorem stepWith_turn {run : Run} {s : State} {t : Turn} {rest : List Turn} (hsecond : secondWarp s = none) (hagenda : s.agenda = t :: rest)
    (ht : t ≠ .tick) : stepWith run s = runTurn run { s with agenda := rest } t := by
  unfold stepWith
  simp only [hsecond, hagenda]
  cases t with
  | tick => exact absurd rfl ht
  | _ => split <;> rfl

theorem stepWith_second {run : Run} {s : State} {key : Nat} (hsecond : secondWarp s = some key) : stepWith run s = issueWarp run s key := by
  simp only [stepWith, hsecond]

/-- With an empty agenda and no line to fetch, the machine issues the next warp by itself. -/
theorem stepWith_own {run : Run} {s : State} {key : Nat} (hsecond : secondWarp s = none) (hagenda : s.agenda = [])
    (hlines : ∀ e ∈ s.warps, needsLine s e.1 e.2 = false) (hnext : nextIssue s = some key) : stepWith run s = issueWarp run s key := by
  have hfetch : s.warps.find? (fun e => needsLine s e.1 e.2) = none := List.find?_eq_none.2 (fun e he => by simp [hlines e he])
  simp only [stepWith, nextOf, hsecond, hagenda, hfetch, hnext]

theorem runTurn_issue {run : Run} {s : State} {key : Nat} (h : mayIssue s key = true) : runTurn run s (.issue key) = issueWarp run s key :=
  if_pos h

/-- An event that nothing holds back runs in the order of the units. -/
theorem runTurn_event {run : Run} {s : State} {e : Instr} (henc : encode e = none) (hfrozen : s.pkg.frozen = false)
    (hbanks : (bankEngine s e).isSome = true → banksDue s = false ∧ nextIssue s = none) : runTurn run s (.event e) = inUnitOrder run e s := by
  have hgo : ((encode e).isSome || (s.pkg.frozen && !whileFrozen e) || ((bankEngine s e).isSome && (banksDue s || (nextIssue s).isSome))) = false := by
    cases hb : (bankEngine s e).isSome with
    | false => simp [henc, hfrozen]
    | true =>
      obtain ⟨hdue, hnext⟩ := hbanks hb
      simp [henc, hfrozen, hdue, hnext]
  simp only [runTurn, hgo]
  rfl

theorem inUnitOrder_none {run : Run} {e : Instr} {s : State} (h : bankEngine s e = none) : inUnitOrder run e s = run e s := by
  simp only [inUnitOrder, h]

theorem inUnitOrder_first {run : Run} {e : Instr} {s : State} {u : Nat} (h : bankEngine s e = some u)
    (hlast : ¬ (s.lastEngine.1 = s.cycle ∧ u < s.lastEngine.2)) : inUnitOrder run e s = run e { s with lastEngine := (s.cycle, u) } := by
  have hif : (decide (s.lastEngine.1 = s.cycle) && decide (u < s.lastEngine.2)) = false := by simpa using hlast
  simp only [inUnitOrder, h, hif]
  rfl

/-- An event is put off: a packet waits at its port, any other comes again by itself (log 51). -/
def putOff (e : Instr) (s : State) : State :=
  match e with
  | .packetReceive k => s.modPkg (fun p => { p with inbox := p.inbox ++ [k] })
  | _ => s

theorem inUnitOrder_late {run : Run} {e : Instr} {s : State} {u : Nat} (h : bankEngine s e = some u) (hcycle : s.lastEngine.1 = s.cycle)
    (hunit : u < s.lastEngine.2) : inUnitOrder run e s = .next (putOff e s) := by
  have hif : (decide (s.lastEngine.1 = s.cycle) && decide (u < s.lastEngine.2)) = true := by simp [hcycle, hunit]
  simp only [inUnitOrder, h, hif, if_true]
  rfl

end Sys2Proof.Machine

namespace Sys2Proof.Proofs
open Sys2Proof Sys2Proof.Machine

/-- Settles O53, by the turn that the step takes and the warp's instruction that it makes ready. -/
theorem stepRunsInstruction : Obligations.StepRunsInstruction := by
  unfold Obligations.StepRunsInstruction
  refine ⟨?first, ?second, ?event⟩
  case first =>
    intro s key w c pc act word i hw hc hsecond hcand hpc hword hdec ready
    have hslot := secondSlot_eq_none hsecond hw
    refine ⟨fun rest hagenda hmay => ?_, fun hagenda hlines hnext => ?_⟩
    · calc step s = runTurn exec { s with agenda := rest } (.issue key) := stepWith_turn hsecond hagenda nofun
        _ = issueWarp exec { s with agenda := rest } key := runTurn_issue ((mayIssue_agenda s rest key).trans hmay)
        _ = _ := issueWarp_first (s := { s with agenda := rest }) hw hc hslot hcand hpc hword hdec
    · exact (stepWith_own hsecond hagenda hlines hnext).trans (issueWarp_first hw hc hslot hcand hpc hword hdec)
  case second =>
    intro s key w pc act word i hsecond hw hslot hword hdec
    exact (stepWith_second hsecond).trans (issueWarp_second hw hslot hword hdec)
  case event =>
    intro s e rest hsecond hagenda henc hfrozen s1
    have hturn : step s = runTurn exec s1 (.event e) := stepWith_turn hsecond hagenda nofun
    refine ⟨fun hnone => ?_, fun u hsome hdue hnext => ?_⟩
    · have hbank : bankEngine s1 e = none := hnone
      calc step s = runTurn exec s1 (.event e) := hturn
        _ = inUnitOrder exec e s1 := runTurn_event henc hfrozen (by simp [hbank])
        _ = exec e s1 := inUnitOrder_none hbank
    · have hbank : bankEngine s1 e = some u := hsome
      have hrun : step s = inUnitOrder exec e s1 := hturn.trans (runTurn_event henc hfrozen
        (fun _ => ⟨(banksDue_agenda s rest).trans hdue, (nextIssue_agenda s rest).trans hnext⟩))
      exact ⟨fun hlast => hrun.trans (inUnitOrder_first hbank hlast), fun hcycle hunit => hrun.trans (inUnitOrder_late hbank hcycle hunit)⟩

end Sys2Proof.Proofs
end

section
/-! PROOF. Arithmetic, special functions and random numbers: what the body of an instruction does to the retired warp
(03_numbers.md, 05_thread_arith.md, 06_thread_convert_lanes.md). -/

namespace Sys2Proof.Machine

/-- An update over none. -/
@[simp] theorem Update.empty_then (x : Update) : ({} : Update).then x = x := by simp [Update.then]

/-- New generator states over an update that has none. -/
theorem Update.then_gens (u : Update) (g : Nat → Option Word) (hg : u.gens = fun _ => none) :
    u.then { gens := g } = { u with gens := g } := by simp [Update.then, hg]

/-- Lane results write their register and raise their flags at the completion (R70, R72). -/
theorem changes_writeLanes {c : Ctx} {t b : State} {v : Warp} {u : Update} (a : Byte) (f : Nat → LaneRes)
    (hv : t.warp c.key = some v) (hC : Changes c t v u) (hR : Rest c t b) :
    ∃ v', (writeLanes c t a f).warp c.key = some v' ∧ Changes c (writeLanes c t a f) v' (u.then (laneUpdate c a f)) ∧
      Rest c (writeLanes c t a f) b := by
  obtain ⟨v1, hv1, hC1, hR1⟩ := changes_writeReg a c.exec (fun l => (f l).lane) hv hC hR
  obtain ⟨v2, hv2, hC2, hR2⟩ := changes_raiseFlags ((lanesOf c.exec).foldl (fun fl l => fl ||| (f l).flags) 0) hv1 hC1 hR1
  exact ⟨v2, hv2, hC2.congr (by simp [Update.then, laneUpdate]), hR2⟩

/-! ## The activation tables (R149, R150) -/

/-- A change of one core: warps and quads stay, and the core of the state that the rest is compared with changes alike. -/
theorem changes_modCore {c : Ctx} {t b : State} {v : Warp} {u : Update} (k : Nat) (f : Core → Core)
    (hv : t.warp c.key = some v) (hC : Changes c t v u) (hR : Rest c t b) :
    (t.modCore k f).warp c.key = some v ∧ Changes c (t.modCore k f) v u ∧ Rest c (t.modCore k f) (b.modCore k f) := by
  obtain ⟨hregs, hpreds, hgens, hgenPoi, hpcs, hflags, hframe, hlive, hpend⟩ := hC
  obtain ⟨hstate, hwarps, hquads⟩ := hR
  exact ⟨hv, ⟨hregs, hpreds, hgens, hgenPoi, hpcs, hflags, hframe, hlive, hpend⟩,
    ⟨congrArg (fun x : State => x.modCore k f) hstate, hwarps, hquads⟩⟩

/-- A table of a core whose bank an ACT has read in a cycle (R149). -/
def Core.actReads (k : Core) (n cycle : Nat) (t : ActTable) : Core := { k with act := k.act.set n (actRead t cycle) }

/-- What ACT does beside its lanes: its table is marked where a lane executes. -/
def markAct (c : Ctx) (s : State) (n cycle : Nat) : State :=
  if c.exec = 0 then s
  else s.modCore c.unit (fun k => k.actReads n cycle ((c.s.core c.unit).act.getD n ActTable.start))

theorem changes_markAct {c : Ctx} {t b : State} {v : Warp} {u : Update} (n cycle : Nat)
    (hv : t.warp c.key = some v) (hC : Changes c t v u) (hR : Rest c t b) :
    (markAct c t n cycle).warp c.key = some v ∧ Changes c (markAct c t n cycle) v u ∧ Rest c (markAct c t n cycle) (markAct c b n cycle) := by
  by_cases h0 : c.exec = 0
  · simp only [markAct, if_pos h0]
    exact ⟨hv, hC, hR⟩
  · simp only [markAct, if_neg h0]
    exact changes_modCore _ _ hv hC hR

/-- What ACT writes in a lane: through the bank that is current in a cycle (R148, R150). -/
def actRes (c : Ctx) (f : Byte) (o : OpR) (cycle l : Nat) : LaneRes :=
  actLane c f (actBank (c.s.core c.unit) (o.x.toNat % 4) cycle) (c.val o.o2 l) l

/-! ## Generators (R67) -/

/-- The poison of the generators in the lanes of a mask. -/
def setGenPoi (s : State) (key : Nat) (m : Mask) (p : Nat → Bool) : State :=
  s.modWarp key (fun w => { w with genPoi := (w.genPoi &&& ~~~m) ||| (maskOf p &&& m) })

theorem changes_setGenPoi {c : Ctx} {t b : State} {v : Warp} {u : Update} (m : Mask) (p : Nat → Bool)
    (hv : t.warp c.key = some v) (hC : Changes c t v u) (hR : Rest c t b) :
    ∃ v', (setGenPoi t c.key m p).warp c.key = some v' ∧
      Changes c (setGenPoi t c.key m p) v' (u.then { genPoi := fun l => if m.getLsbD l then some (p l) else none }) ∧
      Rest c (setGenPoi t c.key m p) b := by
  have hw : setGenPoi t c.key m p = t.setWarp c.key { v with genPoi := (v.genPoi &&& ~~~m) ||| (maskOf p &&& m) } := modWarp_some _ _ _ _ hv
  rw [hw]
  refine ⟨_, warp_setWarp_same _ _ _, changes_setWarp _ _ hC hR rfl rfl rfl rfl (fun _ _ _ _ => rfl) (fun _ _ => rfl) ?_
    (fun _ _ => rfl) (flags_same rfl rfl) (keep_pend _)⟩
  intro l hl
  simp only [BitVec.getLsbD_or, BitVec.getLsbD_and, BitVec.getLsbD_not, maskOf_getLsbD, hl]
  cases hm : m.getLsbD l <;> simp

/-- A generator's state for a seed: never 0. -/
def seeded (v : Word) : Word := if v = 0 then BitVec.ofNat 64 Config.golden else v

/-- What RNG writes in a lane: two draws, poisoned as the generator is (R151). -/
def rngLane (w : Warp) (f : Byte) (l : Nat) : Lane :=
  let half := fun u => if f = 4 then u else rngF32 u
  ⟨BitVec.ofNat 64 (half (genNth (genOf w l) 0) + half (genNth (genOf w l) 1) * 2 ^ 32), bothPoison (w.genPoi.getLsbD l)⟩

/-- What CVTSR writes in a lane (R68, R138). -/
def cvtsrLane (c : Ctx) (f : Byte) (o : OpR) (l : Nat) : LaneRes :=
  cvtLane c.w.fpmode f o.x (c.val o.o2 l) (c.val o.o3 l)
    (cvtsrConv (ctlOf c.w.fpmode f) f o.x (c.val o.o2 l).val (genOf c.w l)) (c.w.genPoi.getLsbD l)

end Sys2Proof.Machine

namespace Sys2Proof.Proofs
open Sys2Proof Sys2Proof.Machine

/-- Settles O2: each instruction writes its O1 from the results of its lanes. -/
theorem integerResults : Obligations.IntegerResults := by
  unfold Obligations.IntegerResults
  intro h o s a b d
  have lanes : ∀ {i : Instr} {f : Ctx → Nat → LaneRes}, exec i s = issueLanes i h o.o1 s f → ((instrInfo i).pipe == .m) = false →
      Gives i h s (fun c => laneUpdate c o.o1 (f c)) := fun he hp => gives_issueLanes he hp (fun _ => rfl)
  exact ⟨lanes (rfl : execIadd h o s = _) rfl, lanes (rfl : execIsub h o s = _) rfl, lanes (rfl : execImul h o s = _) rfl,
    lanes (rfl : execImulh h o s = _) rfl, lanes (rfl : execImad h o s = _) rfl, lanes (rfl : execImadw h o s = _) rfl,
    lanes (rfl : execIdp4 h o s = _) rfl, lanes (rfl : execIabs h o s = _) rfl, lanes (rfl : execImin h o s = _) rfl,
    lanes (rfl : execImax h o s = _) rfl, lanes (rfl : execIsad h o s = _) rfl, lanes (rfl : execIcmpm h o s = _) rfl⟩

/-- Settles O6: each instruction writes its O1 from the results of its lanes. -/
theorem floatResults : Obligations.FloatResults := by
  unfold Obligations.FloatResults
  intro h o s a b d lanes two three
  have write : ∀ {i : Instr} {f : Ctx → Nat → LaneRes}, exec i s = issueLanes i h o.o1 s f → ((instrInfo i).pipe == .m) = false →
      lanes i f := fun he hp => gives_issueLanes he hp (fun _ => rfl)
  exact ⟨write (rfl : execFadd h o s = _) rfl, write (rfl : execFsub h o s = _) rfl, write (rfl : execFmul h o s = _) rfl,
    write (rfl : execFfma h o s = _) rfl, write (rfl : execDadd h o s = _) rfl, write (rfl : execDmul h o s = _) rfl,
    write (rfl : execDfma h o s = _) rfl, write (rfl : execFmin h o s = _) rfl, write (rfl : execFmax h o s = _) rfl,
    write (rfl : execFclass h o s = _) rfl, write (rfl : execFrnd h o s = _) rfl, write (rfl : execFscale h o s = _) rfl,
    write (rfl : execFgetexp h o s = _) rfl, write (rfl : execFdot2 h o s = _) rfl, write (rfl : execFdot4 h o s = _) rfl,
    write (rfl : execFhadd h o s = _) rfl, write (rfl : execFrcp h o s = _) rfl, write (rfl : execFrsq h o s = _) rfl,
    write (rfl : execFabs h o s = _) rfl, write (rfl : execFneg h o s = _) rfl⟩

/-- Settles O8: the special functions write their O1 lane by lane; ACT also marks the bank that it has read. -/
theorem specialFunctionResults : Obligations.SpecialFunctionResults := by
  unfold Obligations.SpecialFunctionResults
  intro h o s special
  have write : ∀ {i : Instr} (g : SFun), exec i s = issueSpecial i h o s g → ((instrInfo i).pipe == .m) = false → special i g :=
    fun g he hp => gives_issueLanes he hp (fun _ => rfl)
  refine ⟨write .exp2 rfl rfl, write .log2 rfl rfl, write .sin rfl rfl, write .cos rfl rfl, write .tanh rfl rfl, write .sig rfl rfl, ?act⟩
  case act =>
    refine givesWith_body (body := fun c s1 => .ok (markAct c (writeLanes c s1 o.o1 (actRes c h.f o s.cycle)) (o.x.toNat % 4) s.cycle)) rfl
      (fun _ _ => Or.inl rfl) fun w _ s1 v0 hv hC hR => ?_
    obtain ⟨v1, hv1, hC1, hR1⟩ := changes_writeLanes o.o1 (actRes (issueCtx (.act h o) h s w) h.f o s.cycle) hv hC hR
    obtain ⟨hv2, hC2, hR2⟩ := changes_markAct (o.x.toNat % 4) s.cycle hv1 hC1 hR1
    exact ⟨_, v1, rfl, hv2, hC2.congr (Update.empty_then _), hR2⟩

/-- Settles O9: each of the three writes its generators in the lanes that execute, after what else it writes. -/
theorem randomResults : Obligations.RandomResults := by
  unfold Obligations.RandomResults
  intro h o s
  refine ⟨?rngseed, ?rng, ?cvtsr⟩
  case rngseed =>
    refine gives_body (body := fun c s1 => .ok (setGenPoi (setGens s1 c.key c.exec (fun l => seeded (c.val o.o2 l).val)) c.key c.exec
      (fun l => anyPoison (c.val o.o2 l)))) rfl rfl fun w _ s1 v0 hv hC hR => ?_
    obtain ⟨v1, hv1, hC1, hR1⟩ := changes_setGens _ (fun l => seeded ((issueCtx (.rngseed h o) h s w).val o.o2 l).val) hv hC hR
    obtain ⟨v2, hv2, hC2, hR2⟩ := changes_setGenPoi _ (fun l => anyPoison ((issueCtx (.rngseed h o) h s w).val o.o2 l)) hv1 hC1 hR1
    exact ⟨_, v2, rfl, hv2, hC2.congr (by simp [Update.then, seeded]), hR2⟩
  case rng =>
    refine gives_body (body := fun c s1 => .ok (setGens (writeClean c s1 o.o1 (rngLane c.w h.f)) c.key c.exec
      (fun l => genAfter (genOf c.w l) 2))) rfl rfl fun w _ s1 v0 hv hC hR => ?_
    obtain ⟨v1, hv1, hC1, hR1⟩ := changes_writeReg o.o1 _ (rngLane w h.f) hv hC hR
    obtain ⟨v2, hv2, hC2, hR2⟩ := changes_setGens _ (fun l => genAfter (genOf w l) 2) hv1 hC1 hR1
    exact ⟨_, v2, rfl, hv2, hC2.congr (by rw [Update.empty_then]; exact Update.then_gens _ _ rfl), hR2⟩
  case cvtsr =>
    refine gives_body (body := fun c s1 => .ok (setGens (writeLanes c s1 o.o1 (cvtsrLane c h.f o)) c.key c.exec
      (fun l => genAfter (genOf c.w l) (cvtCount h.f o.x)))) rfl rfl fun w _ s1 v0 hv hC hR => ?_
    obtain ⟨v1, hv1, hC1, hR1⟩ := changes_writeLanes o.o1 (cvtsrLane (issueCtx (.cvtsr h o) h s w) h.f o) hv hC hR
    obtain ⟨v2, hv2, hC2, hR2⟩ := changes_setGens _ (fun l => genAfter (genOf w l) (cvtCount h.f o.x)) hv1 hC1 hR1
    exact ⟨_, v2, rfl, hv2, hC2.congr (by rw [Update.empty_then]; exact Update.then_gens _ _ rfl), hR2⟩

end Sys2Proof.Proofs
end

section
/-! PROOF. What an access leaves in the bytes of a scratchpad, kind by kind (03_numbers.md R77; 09_core_memory.md R225, R229, R243, R246-R248). -/

namespace Sys2Proof.Machine

/-! ## Marks of words (R225) -/

/-- A value read after one is put, or taken out as the default. -/
theorem fmGet_fmSet {α : Type} [DecidableEq α] (d : α) (m : FMap α) (k j : Nat) (v : α) :
    fmGet d (fmSet d m k v) j = if j = k then v else fmGet d m j := by
  unfold fmSet
  split
  · rename_i hv
    simp only [fmGet, fmFind_fmErase]
    split
    · simp [hv]
    · rfl
  · exact fmGet_fmPut d m k j v

/-- What each of a list of steps keeps, all of them keep. -/
theorem foldl_keeps {σ α β : Type} (g : σ → β) {f : σ → α → σ} {l : List α} (h : ∀ c, ∀ e ∈ l, g (f c e) = g c) (c : σ) :
    g (l.foldl f c) = g c := by
  induction l generalizing c with
  | nil => rfl
  | cons e l ih =>
    rw [List.foldl_cons, ih (fun c x hx => h c x (List.mem_cons_of_mem _ hx)), h c e List.mem_cons_self]

/-- A write marks no word. -/
theorem spClear_unmarked {c : Crew} {w : Nat} (h : fmGet false c.spBad w = false) (a n : Nat) : fmGet false (spClear c a n) w = false := by
  unfold spClear
  induction (List.range ((a + n + 7) / 8 - a / 8)) using List.reverseRecOn with
  | nil => exact h
  | append_singleton ks k ih =>
    rw [List.foldl_concat]
    dsimp only
    split
    · rw [fmGet_fmSet]
      split
      · rfl
      · exact ih
    · exact ih

theorem spBadAt_spWrite {c : Crew} {b k : Nat} (h : spBadAt c b k = false) (a v n : Nat) : spBadAt (spWrite c a v n) b k = false := by
  simp only [spBadAt, List.any_eq_false, Bool.not_eq_true] at h ⊢
  exact fun i hi => spClear_unmarked (h i hi) a n

/-! ## Stores (R229) -/

/-- A word that a store fills is unmarked. -/
def clearMark (m : MemOp) (c : Crew) (w : Nat) : Crew :=
  if (List.range 8).all (fun j => m.els.any (fun e => e.pa ≤ 8 * w + j && 8 * w + j < e.pa + m.size)) then spMark c (8 * w) false else c

theorem bankOp_store (c : Crew) {m : MemOp} (h : m.kind = .store) :
    bankOp c m = (((m.els.map (fun e => e.pa / 8)).eraseDups).foldl (clearMark m) (m.els.foldl (fun c e => spWrite c e.pa e.data m.size) c), []) := by
  simp only [bankOp, h]
  rfl

theorem clearMark_keeps (m : MemOp) (c : Crew) (w : Nat) : { clearMark m c w with spBad := [] } = { c with spBad := [] } := by
  unfold clearMark
  split <;> rfl

/-- But for the marks, a store leaves what its writes leave. -/
theorem bankOp_store_keeps (c : Crew) {m : MemOp} (h : m.kind = .store) :
    { (bankOp c m).1 with spBad := [] } = { m.els.foldl (fun c e => spWrite c e.pa e.data m.size) c with spBad := [] } := by
  rw [bankOp_store c h]
  exact foldl_keeps (fun c : Crew => { c with spBad := [] }) (fun c w _ => clearMark_keeps m c w) _

theorem bankOp_store_sp (c : Crew) {m : MemOp} (h : m.kind = .store) :
    (bankOp c m).1.sp = (m.els.foldl (fun c e => spWrite c e.pa e.data m.size) c).sp :=
  (congrArg Crew.sp (bankOp_store_keeps c h) :)

/-- A store leaves everything of the crew but bytes and marks. -/
theorem bankOp_store_frame (c : Crew) {m : MemOp} (h : m.kind = .store) :
    { (bankOp c m).1 with sp := [], spBad := [] } = { c with sp := [], spBad := [] } :=
  (congrArg (fun c : Crew => { c with sp := [] }) (bankOp_store_keeps c h)).trans
    (foldl_keeps (fun c : Crew => { c with sp := [], spBad := [] }) (fun c (e : MemEl) _ => (spWrite_frame c e.pa e.data m.size).2) c)

/-- A byte that no element covers stays. -/
theorem bankOp_store_outside (c : Crew) {m : MemOp} (h : m.kind = .store) {a : Nat} (ha : ∀ e ∈ m.els, a < e.pa ∨ e.pa + m.size ≤ a) :
    memGet (bankOp c m).1.sp a = memGet c.sp a := by
  rw [bankOp_store_sp c h]
  exact foldl_keeps (fun c : Crew => memGet c.sp a) (fun c (e : MemEl) he => (spWrite_frame c e.pa e.data m.size).1 a (ha e he)) c

/-- Writes of elements that lie apart leave each its data. -/
theorem spRead_writes (els : List MemEl) (size : Nat) (hels : els.Pairwise (fun x y => x.pa + size ≤ y.pa ∨ y.pa + size ≤ x.pa)) (c : Crew)
    {e : MemEl} (he : e ∈ els) : spRead (els.foldl (fun c e => spWrite c e.pa e.data size) c) e.pa size = e.data % 2 ^ (8 * size) := by
  induction els generalizing c with
  | nil => cases he
  | cons x els ih =>
    obtain ⟨hx, hels⟩ := List.pairwise_cons.1 hels
    rcases List.mem_cons.1 he with rfl | he
    · calc spRead (els.foldl _ (spWrite c e.pa e.data size)) e.pa size
          = spRead (spWrite c e.pa e.data size) e.pa size :=
            foldl_keeps (fun c : Crew => spRead c e.pa size) (fun c y hy => spRead_spWrite_apart _ _ _ _ _ _ (hx y hy).symm) _
        _ = e.data % 2 ^ (8 * size) := spRead_spWrite _ _ _ _
    · exact ih hels _ he

/-! ## Loads and atomics (R243, R247) -/

/-- The type of an access, as the banks take it. -/
def MemOp.type (m : MemOp) : Ety :=
  match etyOf m.ety with
  | some t => t
  | none => .n64

theorem MemOp.type_eq (m : MemOp) : m.type = (etyOf m.ety).getD .n64 := by
  unfold MemOp.type
  cases etyOf m.ety <;> rfl

theorem bankOp_load (c : Crew) {m : MemOp} {sink : Sink} (h : m.kind = .load sink) :
    bankOp c m = (c, m.els.map (fun e =>
      (e.idx, ⟨loadLane (m.ety < 4) m.size (spRead c e.pa m.size) (spBadAt c e.pa m.size), false, false⟩))) := by
  simp only [bankOp, h]

/-- What one lane of an atomic receives. -/
def atomOut (k : AtomKind) (m : MemOp) (c : Crew) (e : MemEl) : Nat × LaneOut :=
  let old := spRead c e.pa m.size
  let bad := spBadAt c e.pa m.size
  (e.idx, ⟨loadLane (m.ety < 4) m.size old bad, (atomApply k m.type old e.data e.expect).2 && !bad, bad⟩)

/-- One lane of an atomic acts after those before it. -/
def atomLane (k : AtomKind) (m : MemOp) (a : Crew × List (Nat × LaneOut)) (e : MemEl) : Crew × List (Nat × LaneOut) :=
  (atomWrite k m.type a.1 m.size e, a.2 ++ [atomOut k m a.1 e])

theorem bankOp_atom (c : Crew) {m : MemOp} {k : AtomKind} (h : m.kind = .atom k) : bankOp c m = m.els.foldl (atomLane k m) (c, []) := by
  unfold bankOp
  simp only [h]
  rfl

/-- The lanes' results come behind those that stand before them. -/
theorem atomLanes_after (k : AtomKind) (m : MemOp) (els : List MemEl) (c : Crew) (outs : List (Nat × LaneOut)) :
    els.foldl (atomLane k m) (c, outs) = ((els.foldl (atomLane k m) (c, [])).1, outs ++ (els.foldl (atomLane k m) (c, [])).2) := by
  induction els generalizing c outs with
  | nil => simp
  | cons e els ih =>
    simp only [List.foldl_cons, atomLane, List.nil_append]
    rw [ih _ (outs ++ _), ih _ [_]]
    simp

/-- An atomic of some lanes and then others is the one access after the other. -/
theorem bankOp_atom_append (c : Crew) {m : MemOp} {k : AtomKind} (h : m.kind = .atom k) {xs ys : List MemEl} (hels : m.els = xs ++ ys) :
    bankOp c m = ((bankOp (bankOp c { m with els := xs }).1 { m with els := ys }).1,
      (bankOp c { m with els := xs }).2 ++ (bankOp (bankOp c { m with els := xs }).1 { m with els := ys }).2) := by
  rw [bankOp_atom c h, bankOp_atom (m := { m with els := xs }) c h, bankOp_atom (m := { m with els := ys }) _ h, hels, List.foldl_append]
  exact atomLanes_after k m ys _ _

/-- One lane of an atomic at a correct word. -/
theorem bankOp_atom_one (c : Crew) {m : MemOp} {k : AtomKind} {e : MemEl} (h : m.kind = .atom k) (hels : m.els = [e]) :
    bankOp c m = (atomWrite k m.type c m.size e, [atomOut k m c e]) := by
  rw [bankOp_atom c h, hels]
  rfl

theorem atomWrite_op (o : Nat) (t : Ety) {c : Crew} {size : Nat} {e : MemEl} (hbad : spBadAt c e.pa size = false) :
    atomWrite (.op o) t c size e = spWrite c e.pa (atomValue o t (spRead c e.pa size) e.data) size := by
  simp [atomWrite, hbad, atomApply]

theorem atomWrite_cas (t : Ety) {c : Crew} {size : Nat} {e : MemEl} (hbad : spBadAt c e.pa size = false) :
    atomWrite .cas t c size e = if spRead c e.pa size = e.expect then spWrite c e.pa e.data size else c := by
  by_cases hm : spRead c e.pa size = e.expect <;> simp [atomWrite, hbad, atomApply, hm]

/-- A lane of an atomic leaves every byte but those of its element. -/
theorem atomWrite_outside (k : AtomKind) (t : Ety) (c : Crew) (size : Nat) (e : MemEl) {a : Nat} (ha : a < e.pa ∨ e.pa + size ≤ a) :
    memGet (atomWrite k t c size e).sp a = memGet c.sp a := by
  have hwrite : ∀ (skip : Bool) (v : Nat), memGet (if skip then c else spWrite c e.pa v size).sp a = memGet c.sp a := fun skip v => by
    cases skip
    · exact (spWrite_frame c e.pa v size).1 a ha
    · rfl
  exact hwrite _ _

/-! ## RED and REDS (R77, R248) -/

/-- A lane's operand joins the one that stands at its address. -/
def joinLane (op : Nat) (t : Ety) (e x : AtomEl) : AtomEl := if x.addr = e.addr then { x with b := atomValue op t x.b e.b } else x

@[simp] theorem joinLane_addr (op : Nat) (t : Ety) (e x : AtomEl) : (joinLane op t e x).addr = x.addr := by
  unfold joinLane
  split <;> rfl

/-- One lane's operand added to those combined before it. -/
def combineLane (op : Nat) (t : Ety) (acc : List AtomEl) (e : AtomEl) : List AtomEl :=
  if acc.any (fun x => x.addr = e.addr) then acc.map (joinLane op t e) else acc ++ [e]

theorem combineLane_join {op : Nat} {t : Ety} {acc : List AtomEl} {e : AtomEl} (h : ∃ y ∈ acc, y.addr = e.addr) :
    combineLane op t acc e = acc.map (joinLane op t e) := if_pos (by simpa using h)

theorem combineLane_new {op : Nat} {t : Ety} {acc : List AtomEl} {e : AtomEl} (h : ¬ ∃ y ∈ acc, y.addr = e.addr) :
    combineLane op t acc e = acc ++ [e] := if_neg (by simpa using h)

theorem redCombine_concat (op : Nat) (t : Ety) (els : List AtomEl) (e : AtomEl) :
    redCombine op t (els ++ [e]) = combineLane op t (redCombine op t els) e := List.foldl_concat ..

/-- The operands of one address, combined in lane order. -/
def combined (op : Nat) (t : Ety) (els : List AtomEl) (y : AtomEl) : Prop :=
  ∃ x rest, els.filter (fun e => e.addr = y.addr) = x :: rest ∧ y.b = rest.foldl (fun v z => atomValue op t v z.b) x.b

theorem combined.join {op : Nat} {t : Ety} {els : List AtomEl} {y : AtomEl} (h : combined op t els y) (e : AtomEl) :
    combined op t (els ++ [e]) (joinLane op t e y) := by
  obtain ⟨x, rest, hfilter, hb⟩ := h
  by_cases ha : y.addr = e.addr
  · exact ⟨x, rest ++ [e], by simp [← ha, hfilter], by simp [joinLane, ha, hb]⟩
  · exact ⟨x, rest, by simp [hfilter, Ne.symm ha], by simp [joinLane, ha, hb]⟩

/-- Each address stands once in the result, with its operands combined. -/
theorem redCombine_spec (op : Nat) (t : Ety) (els : List AtomEl) :
    (redCombine op t els).Pairwise (fun x y => x.addr ≠ y.addr) ∧ (∀ y ∈ redCombine op t els, combined op t els y) ∧
      ∀ x ∈ els, ∃ y ∈ redCombine op t els, y.addr = x.addr := by
  induction els using List.reverseRecOn with
  | nil => exact ⟨List.Pairwise.nil, nofun, nofun⟩
  | append_singleton els e ih =>
    obtain ⟨hpair, hcomb, hall⟩ := ih
    rw [redCombine_concat]
    by_cases hany : ∃ y ∈ redCombine op t els, y.addr = e.addr
    · rw [combineLane_join hany]
      refine ⟨List.pairwise_map.2 (by simpa using hpair), ?_, ?_⟩
      · intro y' hy'
        obtain ⟨y, hy, rfl⟩ := List.mem_map.1 hy'
        exact (hcomb y hy).join e
      · intro x hx
        obtain ⟨y, hy, haddr⟩ : ∃ y ∈ redCombine op t els, y.addr = x.addr := by
          rcases List.mem_append.1 hx with hx | hx
          · exact hall x hx
          · exact List.mem_singleton.1 hx ▸ hany
        exact ⟨_, List.mem_map_of_mem hy, (joinLane_addr op t e y).trans haddr⟩
    · have hnew : ∀ y ∈ redCombine op t els, y.addr ≠ e.addr := fun y hy h => hany ⟨y, hy, h⟩
      rw [combineLane_new hany]
      refine ⟨List.pairwise_append.2 ⟨hpair, List.pairwise_singleton _ _, by simpa using hnew⟩, ?_, ?_⟩
      · intro y hy
        rcases List.mem_append.1 hy with hy | hy
        · obtain ⟨x, rest, hfilter, hb⟩ := hcomb y hy
          exact ⟨x, rest, by simp [hfilter, (hnew y hy).symm], hb⟩
        · obtain rfl := List.mem_singleton.1 hy
          refine ⟨y, [], ?_, rfl⟩
          have hnone : els.filter (fun x => x.addr = y.addr) = [] := List.filter_eq_nil_iff.2 fun x hx => by
            obtain ⟨z, hz, haddr⟩ := hall x hx
            simpa [← haddr] using hnew z hz
          simp [hnone]
      · intro x hx
        rcases List.mem_append.1 hx with hx | hx
        · obtain ⟨y, hy, haddr⟩ := hall x hx
          exact ⟨y, List.mem_append_left _ hy, haddr⟩
        · exact ⟨x, List.mem_append_right _ hx, rfl⟩

/-- A combined operation leaves every byte but those of its element. -/
theorem redWrite_outside (op : Nat) (t : Ety) (size : Nat) (c : Crew) (y : AtomEl) {a : Nat} (ha : a < y.addr ∨ y.addr + size ≤ a) :
    memGet (redWrite op t size c y).sp a = memGet c.sp a := by
  unfold redWrite
  split
  · rfl
  · exact (spWrite_frame c y.addr _ size).1 a ha

/-- An element apart from that of a combined operation reads as before, and stays correct. -/
theorem redWrite_apart (op : Nat) (t : Ety) {size : Nat} (c : Crew) {y : AtomEl} {a : Nat} (ha : y.addr + size ≤ a ∨ a + size ≤ y.addr) :
    spRead (redWrite op t size c y) a size = spRead c a size ∧
      (spBadAt c a size = false → spBadAt (redWrite op t size c y) a size = false) := by
  unfold redWrite
  split
  · exact ⟨rfl, id⟩
  · exact ⟨spRead_spWrite_apart _ _ _ _ _ _ ha, fun h => spBadAt_spWrite h _ _ _⟩

/-- Combined operations on elements that lie apart: each correct element takes its own. -/
theorem spRead_redWrites (op : Nat) (t : Ety) {size : Nat} {ys : List AtomEl}
    (hys : ys.Pairwise (fun x y => x.addr + size ≤ y.addr ∨ y.addr + size ≤ x.addr)) {c : Crew} {y : AtomEl} (hy : y ∈ ys)
    (hbad : spBadAt c y.addr size = false) :
    spRead (ys.foldl (redWrite op t size) c) y.addr size = atomValue op t (spRead c y.addr size) y.b % 2 ^ (8 * size) := by
  induction ys generalizing c with
  | nil => cases hy
  | cons x ys ih =>
    obtain ⟨hx, hys⟩ := List.pairwise_cons.1 hys
    rcases List.mem_cons.1 hy with rfl | hy
    · have hwrite : redWrite op t size c y = spWrite c y.addr (atomValue op t (spRead c y.addr size) y.b) size := if_neg (by simp [hbad])
      rw [List.foldl_cons, foldl_keeps (fun c : Crew => spRead c y.addr size) (fun c z hz => (redWrite_apart op t c (hx z hz).symm).1),
        hwrite, spRead_spWrite]
    · obtain ⟨hread, hcorrect⟩ := redWrite_apart op t c (hx y hy)
      rw [List.foldl_cons, ih hys hy (hcorrect hbad), hread]

/-- An element of an access as the banks combine it. -/
def MemEl.atom (e : MemEl) : AtomEl := { idx := e.idx, addr := e.pa, b := e.data, expect := 0 }

theorem bankOp_red (c : Crew) {m : MemOp} {o : Nat} (h : m.kind = .red o) :
    bankOp c m = ((redCombine o m.type (m.els.map MemEl.atom)).foldl (redWrite o m.type m.size) c, []) := by
  unfold bankOp
  simp only [h]
  rfl

/-- What stands in a combined list stands at an element of the access. -/
theorem redCombine_addr {o : Nat} {t : Ety} {els : List MemEl} {y : AtomEl} (hy : y ∈ redCombine o t (els.map MemEl.atom)) :
    ∃ e ∈ els, e.pa = y.addr := by
  obtain ⟨x, rest, hfilter, -⟩ := (redCombine_spec o t (els.map MemEl.atom)).2.1 y hy
  have hx : x ∈ (els.map MemEl.atom).filter (fun e => e.addr = y.addr) := hfilter ▸ List.mem_cons_self
  obtain ⟨hmem, haddr⟩ := List.mem_filter.1 hx
  obtain ⟨e, he, rfl⟩ := List.mem_map.1 hmem
  exact ⟨e, he, of_decide_eq_true haddr⟩

theorem bankOp_red_outside (c : Crew) {m : MemOp} {o : Nat} (h : m.kind = .red o) {a : Nat} (ha : ∀ e ∈ m.els, a < e.pa ∨ e.pa + m.size ≤ a) :
    memGet (bankOp c m).1.sp a = memGet c.sp a := by
  rw [bankOp_red c h]
  refine foldl_keeps (fun c : Crew => memGet c.sp a) (fun c y hy => redWrite_outside o m.type m.size c y ?_) c
  obtain ⟨e, he, haddr⟩ := redCombine_addr hy
  exact haddr ▸ ha e he

/-- The lanes at one address are combined in their order, and one operation is applied there. -/
theorem bankOp_red_read (c : Crew) {m : MemOp} {o : Nat} (h : m.kind = .red o)
    (hapart : ∀ x ∈ m.els, ∀ y ∈ m.els, x.pa = y.pa ∨ x.pa + m.size ≤ y.pa ∨ y.pa + m.size ≤ x.pa) {pa : Nat} {x : MemEl} {rest : List MemEl}
    (hels : m.els.filter (fun e => e.pa = pa) = x :: rest) (hbad : spBadAt c pa m.size = false) :
    spRead (bankOp c m).1 pa m.size =
      atomValue o m.type (spRead c pa m.size) (rest.foldl (fun v y => atomValue o m.type v y.data) x.data) % 2 ^ (8 * m.size) := by
  obtain ⟨hpair, hcomb, hall⟩ := redCombine_spec o m.type (m.els.map MemEl.atom)
  obtain ⟨hx, hxpa⟩ := List.mem_filter.1 (hels ▸ List.mem_cons_self : x ∈ m.els.filter (fun e => e.pa = pa))
  obtain ⟨y, hy, haddr⟩ := hall x.atom (List.mem_map_of_mem hx)
  have hypa : y.addr = pa := haddr.trans (of_decide_eq_true hxpa)
  have hdisjoint : (redCombine o m.type (m.els.map MemEl.atom)).Pairwise
      (fun x y => x.addr + m.size ≤ y.addr ∨ y.addr + m.size ≤ x.addr) := by
    refine hpair.imp_of_mem fun {a b} ha hb hne => ?_
    obtain ⟨e, he, hea⟩ := redCombine_addr ha
    obtain ⟨f, hf, hfb⟩ := redCombine_addr hb
    rw [← hea, ← hfb] at hne ⊢
    exact (hapart e he f hf).resolve_left hne
  have hb : y.b = rest.foldl (fun v y => atomValue o m.type v y.data) x.data := by
    obtain ⟨x', rest', hfilter, hb⟩ := hcomb y hy
    have hmap : (m.els.map MemEl.atom).filter (fun e => e.addr = y.addr) = x.atom :: rest.map MemEl.atom := by
      rw [List.filter_map, hypa]
      exact congrArg (List.map MemEl.atom) hels
    obtain ⟨rfl, rfl⟩ := List.cons.inj (hfilter.symm.trans hmap)
    rw [hb, List.foldl_map]
    rfl
  rw [bankOp_red c h, ← hb, ← hypa]
  exact spRead_redWrites o m.type hdisjoint hy (hypa ▸ hbad)

end Sys2Proof.Machine
end

section
/-! PROOF. An access performed at the banks: the AWAITs that its writes release, and its completion (09_core_memory.md R230, R243, R249, R250). -/

namespace Sys2Proof.Machine

/-! ## Release of AWAITs (R249, R250) -/

@[simp] theorem wakeCore_warps (s : State) (unit bit : Nat) : (wakeCore s unit bit).warps = s.warps := by
  simp only [wakeCore]
  split_ifs <;> rfl
@[simp] theorem wakeCore_crews (s : State) (unit bit : Nat) : (wakeCore s unit bit).crews = s.crews := by
  simp only [wakeCore]
  split_ifs <;> rfl
@[simp] theorem wakeCore_mem (s : State) (unit bit : Nat) : (wakeCore s unit bit).mem = s.mem := by
  simp only [wakeCore]
  split_ifs <;> rfl
@[simp] theorem wakeCore_clusters (s : State) (unit bit : Nat) : (wakeCore s unit bit).clusters = s.clusters := by
  simp only [wakeCore]
  split_ifs <;> rfl

/-- A value read through a map over a table. -/
theorem fmFind_map {α β : Type} (f : α → β) (m : FMap α) (k : Nat) : fmFind (m.map (fun e => (e.1, f e.2))) k = (fmFind m k).map f := by
  induction m with
  | nil => rfl
  | cons e m ih =>
    obtain ⟨a, x⟩ := e
    simp only [List.map_cons, fmFind_cons, ih]
    split <;> rfl

/-- Each incomplete instruction of a warp changed. -/
def Warp.mapPend (w : Warp) (f : Pend → Pend) : Warp := { w with pend := w.pend.map f }

/-- A lane of an AWAIT is released: its word has another generation now, or is uncorrectable. -/
def awaitFree (c : Crew) (g : Nat) (bads : List Nat) (e : MemEl) : Bool := awGen (spRead c e.pa 8) != g || bads.contains e.pa

/-- An incomplete instruction after the words of a crew have changed. -/
def releasePend (c : Crew) (crew : Nat) (bads : List Nat) (p : Pend) : Pend :=
  match p.late with
  | .await cr g els =>
    if cr != crew then p
    else
      let free := els.filter (awaitFree c g bads)
      if free.isEmpty then p
      else
        let m := maskOf (fun l => free.any (fun e => e.idx = l || (e.expect = 1 && l / 2 * 2 = e.idx)))
        let val := fun l => (free.find? (fun e => e.idx = l || (e.expect = 1 && l / 2 * 2 = e.idx))).elim Lane.zero
          (fun e => if bads.contains e.pa then ⟨0, 3⟩ else ⟨BitVec.ofNat 64 (spRead c e.pa 8), 0⟩)
        { p with
          late := .await cr g (els.filter (fun e => !free.contains e))
          regs := p.regs.map (fun r => { r with row := rowSet r.row m val }) }
  | _ => p

/-- A release changes incomplete instructions, and it may wake the crew's core. -/
theorem releaseAwaits_eq {s : State} {crew : Nat} {c : Crew} (hc : s.crew crew = some c) (bads : List Nat) :
    ∃ b : Bool, releaseAwaits s crew bads =
      let t := if b then wakeCore s c.unit 0 else s
      { t with warps := t.warps.map (fun kw => (kw.1, kw.2.mapPend (releasePend c crew bads))) } := by
  unfold releaseAwaits
  simp only [hc]
  exact ⟨_, rfl⟩

/-- A release leaves crews, memory and clusters. -/
theorem releaseAwaits_frame (s : State) (crew : Nat) (bads : List Nat) : (releaseAwaits s crew bads).crews = s.crews ∧
    (releaseAwaits s crew bads).mem = s.mem ∧ (releaseAwaits s crew bads).clusters = s.clusters := by
  cases hc : s.crew crew with
  | none => simp [releaseAwaits, hc]
  | some c =>
    obtain ⟨b, h⟩ := releaseAwaits_eq hc bads
    rw [h]
    cases b <;> simp

theorem releaseAwaits_warp {s : State} {crew : Nat} {c : Crew} (hc : s.crew crew = some c) (bads : List Nat) (k : Nat) :
    (releaseAwaits s crew bads).warp k = (s.warp k).map (fun w => w.mapPend (releasePend c crew bads)) := by
  obtain ⟨b, h⟩ := releaseAwaits_eq hc bads
  have hwarps : (if b then wakeCore s c.unit 0 else s).warps = s.warps := by cases b <;> simp
  rw [h]
  simp only [State.warp, hwarps]
  exact fmFind_map (fun w : Warp => w.mapPend (releasePend c crew bads)) s.warps k

/-- A lane that an AWAIT still waits for has its generation in its word. -/
theorem releasePend_waits {c : Crew} {crew g : Nat} {p : Pend} {els : List MemEl} (h : (releasePend c crew [] p).late = .await crew g els) :
    ∀ e ∈ els, awGen (spRead c e.pa 8) = g := by
  intro e he
  cases hl : p.late with
  | await cr g0 old =>
    by_cases hcr : cr = crew
    · simp only [releasePend, hl, hcr, bne_self_eq_false, Bool.false_eq_true, if_false] at h
      by_cases hfree : (old.filter (awaitFree c g0 [])).isEmpty = true
      · rw [if_pos hfree, hl] at h
        obtain ⟨-, rfl, rfl⟩ := Late.await.inj h
        have hnone := List.filter_eq_nil_iff.1 (List.isEmpty_iff.1 hfree) e he
        simpa [awaitFree] using hnone
      · rw [if_neg hfree] at h
        obtain ⟨-, rfl, rfl⟩ := Late.await.inj h
        obtain ⟨hold, hnot⟩ := List.mem_filter.1 he
        simpa [awaitFree, hold] using hnot
    · simp only [releasePend, hl, bne_iff_ne, ne_eq, hcr, not_false_eq_true, if_true] at h
      exact absurd (Late.await.inj h).1 hcr
  | _ => simp [releasePend, hl] at h

/-- A change of an instruction that at most releases lanes of an AWAIT. -/
structure ReleasesOnly (f : Pend → Pend) : Prop where
  other : ∀ p, (∀ cr g els, p.late ≠ .await cr g els) → f p = p
  fewer : ∀ p cr g els, (f p).late = .await cr g els → ∃ old, p.late = .await cr g old ∧ ∀ e ∈ els, e ∈ old

theorem ReleasesOnly.id : ReleasesOnly (fun p => p) := ⟨fun _ _ => rfl, fun _ _ _ els h => ⟨els, h, fun _ he => he⟩⟩

theorem ReleasesOnly.comp {f g : Pend → Pend} (hf : ReleasesOnly f) (hg : ReleasesOnly g) : ReleasesOnly (fun p => g (f p)) := by
  refine ⟨fun p hp => ?_, fun p cr n els h => ?_⟩
  · rw [hf.other p hp, hg.other p hp]
  · obtain ⟨mid, hmid, h1⟩ := hg.fewer (f p) cr n els h
    obtain ⟨old, hold, h2⟩ := hf.fewer p cr n mid hmid
    exact ⟨old, hold, fun e he => h2 e (h1 e he)⟩

theorem releasePend_releasesOnly (c : Crew) (crew : Nat) (bads : List Nat) : ReleasesOnly (releasePend c crew bads) := by
  refine ⟨fun p hp => ?_, fun p cr g els h => ?_⟩
  · cases hl : p.late with
    | await cr g els => exact absurd hl (hp cr g els)
    | _ => simp [releasePend, hl]
  · cases hl : p.late with
    | await cr0 g0 old =>
      simp only [releasePend, hl] at h
      split_ifs at h
      · exact ⟨els, hl ▸ h, fun _ he => he⟩
      · exact ⟨els, hl ▸ h, fun _ he => he⟩
      · obtain ⟨rfl, rfl, rfl⟩ := Late.await.inj h
        exact ⟨old, rfl, fun e he => (List.mem_filter.1 he).1⟩
    | _ => simp [releasePend, hl] at h

/-! ## The writes of an access one by one -/

/-- From s to t the crew's banks have changed, and what waited on them may have been released. -/
structure Released (crew : Nat) (s t : State) : Prop where
  mem : t.mem = s.mem
  crews : ∀ k, k ≠ crew → t.crew k = s.crew k
  warps : ∃ f, ReleasesOnly f ∧ ∀ k, t.warp k = (s.warp k).map (fun w => w.mapPend f)

theorem Released.refl (crew : Nat) (s : State) : Released crew s s :=
  ⟨rfl, fun _ _ => rfl, _, ReleasesOnly.id, fun k => by simp [Warp.mapPend]⟩

theorem Released.trans {crew : Nat} {s t r : State} (h1 : Released crew s t) (h2 : Released crew t r) : Released crew s r := by
  obtain ⟨f, hf, hw1⟩ := h1.warps
  obtain ⟨g, hg, hw2⟩ := h2.warps
  refine ⟨h2.mem.trans h1.mem, fun k hk => (h2.crews k hk).trans (h1.crews k hk), _, hf.comp hg, fun k => ?_⟩
  rw [hw2, hw1, Option.map_map]
  congr 1
  funext w
  simp [Warp.mapPend]

/-- One write comes to the crew. -/
theorem released_write (s : State) (crew : Nat) (d : Crew) : Released crew s (releaseAwaits (s.setCrew crew d) crew []) := by
  obtain ⟨hcrews, hmem, -⟩ := releaseAwaits_frame (s.setCrew crew d) crew []
  refine ⟨hmem, fun k hk => ?_, _, releasePend_releasesOnly d crew [], releaseAwaits_warp (State.setCrew_same s crew d) []⟩
  rw [State.crew, hcrews]
  exact State.setCrew_ne s crew d k hk

theorem released_writeEach (crew : Nat) (ds : List Crew) (s : State) : Released crew s (writeEach s crew ds) := by
  induction ds generalizing s with
  | nil => exact Released.refl crew s
  | cons d ds ih => exact (released_write s crew d).trans (ih _)

/-- Once a write has left a word, no AWAIT waits there for another generation. -/
theorem writeEach_waits {crew : Nat} {ds : List Crew} {s : State} {d : Crew} (hd : d ∈ ds) {k g : Nat} {y : Warp} {r : Pend} {els : List MemEl}
    (hy : (writeEach s crew ds).warp k = some y) (hr : r ∈ y.pend) (hl : r.late = .await crew g els) :
    ∀ e ∈ els, awGen (spRead d e.pa 8) = g := by
  induction ds generalizing s with
  | nil => cases hd
  | cons x ds ih =>
    rcases List.mem_cons.1 hd with rfl | hd
    · obtain ⟨f, hf, hwarp⟩ := (released_writeEach crew ds (releaseAwaits (s.setCrew crew d) crew [])).warps
      have hy' : ((s.warp k).map (fun w => w.mapPend (releasePend d crew []))).map (fun w => w.mapPend f) = some y := by
        rw [← hy, writeEach, List.foldl_cons]
        exact ((hwarp k).trans (congrArg _ (releaseAwaits_warp (State.setCrew_same s crew d) [] k))).symm
      simp only [Option.map_map, Option.map_eq_some_iff, Function.comp] at hy'
      obtain ⟨w, -, rfl⟩ := hy'
      obtain ⟨p1, hp1, rfl⟩ := List.mem_map.1 hr
      obtain ⟨p, -, rfl⟩ := List.mem_map.1 hp1
      obtain ⟨old, hold, hsub⟩ := hf.fewer _ _ _ _ hl
      exact fun e he => releasePend_waits hold e (hsub e he)
    · exact ih hd hy

/-! ## An access at its banks -/

/-- An incomplete instruction that has received what its access returns. -/
def landOuts (m : MemOp) (outs : List (Nat × LaneOut)) (cycle : Nat) (p : Pend) : Pend :=
  { outs.foldl (fun p o => putLane p m.pair o.1 o.2) p with late := .done, ready := max p.ready (cycle + 1) }

/-- The state once an access has been performed, before what waits on the queues goes on. -/
def performed (s : State) (key op crew : Nat) (c : Crew) (m : MemOp) : State :=
  modPend ((writeEach s crew (bankSteps c m)).setCrew crew (bankOp c m).1) key op (landOuts m (bankOp c m).2 s.cycle)

theorem banksPerform_eq {s : State} {crew : Nat} {c : Crew} (hc : s.crew crew = some c) (key op : Nat) (m : MemOp) :
    banksPerform s key op crew m = match m.kind with
      | .load _ => performed s key op crew c m
      | _ => afterScratch (performed s key op crew c m) crew := by
  unfold banksPerform
  simp only [hc]
  rfl

/-- A warp of which one incomplete instruction has received its results. -/
def Warp.withLanded (w : Warp) (op : Nat) (f : Pend → Pend) : Warp := w.mapPend (fun p => if p.op = op then f p else p)

theorem performed_eq {s : State} {key crew : Nat} {w : Warp} {f : Pend → Pend} {c : Crew} {m : MemOp}
    (hw : (writeEach s crew (bankSteps c m)).warp key = some (w.mapPend f)) (op : Nat) :
    performed s key op crew c m = ((writeEach s crew (bankSteps c m)).setCrew crew (bankOp c m).1).setWarp key
      ((w.mapPend f).withLanded op (landOuts m (bankOp c m).2 s.cycle)) :=
  modWarp_some _ _ _ _ hw

/-- Another warp is as the writes have left it. -/
theorem performed_warp_ne (s : State) {key k : Nat} (hk : k ≠ key) (op crew : Nat) (c : Crew) (m : MemOp) :
    (performed s key op crew c m).warp k = (writeEach s crew (bankSteps c m)).warp k := by
  unfold performed modPend State.modWarp
  split
  · exact warp_setWarp_ne _ _ _ _ hk
  · rfl

theorem performed_frame (s : State) (key op crew : Nat) (c : Crew) (m : MemOp) :
    (performed s key op crew c m).crew crew = some (bankOp c m).1 ∧
      (∀ k, k ≠ crew → (performed s key op crew c m).crew k = s.crew k) ∧ (performed s key op crew c m).mem = s.mem := by
  obtain ⟨hmem, hcrews, -⟩ := released_writeEach crew (bankSteps c m) s
  have hall : (performed s key op crew c m).crews = ((writeEach s crew (bankSteps c m)).setCrew crew (bankOp c m).1).crews := by
    simp [performed, modPend]
  refine ⟨?_, fun k hk => ?_, ?_⟩
  · rw [State.crew, hall]
    exact State.setCrew_same _ _ _
  · rw [State.crew, hall, ← hcrews k hk]
    exact State.setCrew_ne _ _ _ _ hk
  · rw [← hmem]
    simp [performed, modPend]

/-- After an access no AWAIT waits at a word for a generation that one of its writes has left behind. -/
theorem performed_waits {s : State} {key op crew : Nat} {w : Warp} {c d : Crew} {m : MemOp} (hw : s.warp key = some w) (hd : d ∈ bankSteps c m)
    {k g : Nat} {y : Warp} {r : Pend} {els : List MemEl} (hy : (performed s key op crew c m).warp k = some y) (hr : r ∈ y.pend)
    (hl : r.late = .await crew g els) : ∀ e ∈ els, awGen (spRead d e.pa 8) = g := by
  by_cases hk : k = key
  · subst hk
    obtain ⟨f, -, hwarps⟩ := (released_writeEach crew (bankSteps c m) s).warps
    have hwk := (hwarps k).trans (congrArg _ hw)
    rw [performed_eq hwk, warp_setWarp_same] at hy
    obtain rfl := Option.some.inj hy
    obtain ⟨q, hq, rfl⟩ := List.mem_map.1 hr
    split at hl
    · cases hl
    · exact writeEach_waits hd hwk hq hl
  · exact writeEach_waits hd ((performed_warp_ne s hk op crew c m).symm.trans hy) hr hl

/-- An instruction steps once its cycle has come, where nothing holds it and it has its turn at its bank. -/
theorem complete_atBank {s : State} {key : Nat} {w : Warp} {c : Crew} {p : Pend} (hw : s.warp key = some w) (hc : s.crew w.crew = some c)
    (hp : findPend w p.op = some p) (hrest : p.op ∉ w.restoring) (hready : p.ready ≤ s.cycle) (hend : c.ending = none)
    (hfroz : s.pkg.frozen = false) (hfault : s.faults.any (fun f => f.waiter = .access key p.op) = false) (hturn : bankTurn s key p = true)
    (hquad : quadFirst s key p = false) : complete s key p.op = pendStep s key w p := by
  have hlt : ¬ s.cycle < p.ready := by omega
  have hcont : w.restoring.contains p.op = false := by simpa using hrest
  simp only [complete, hw, hp, hc, hend, hfroz, hfault, hturn, hquad, hcont, hlt]
  rfl

end Sys2Proof.Machine

namespace Sys2Proof.Proofs
open Sys2Proof Sys2Proof.Machine

/-- Settles O59: the bytes kind by kind, and the completion of an access that has its turn at its banks. -/
theorem bankResults : Obligations.BankResults := by
  unfold Obligations.BankResults
  intro c m sg t
  have ht : m.type = t := m.type_eq
  refine ⟨fun h => ?store, fun sink h => ?load, fun k e h hels hbad => ?atom, fun k xs ys h hels => ?lanes, fun o h => ?red, ?completion⟩
  case store =>
    exact ⟨by rw [bankOp_store c h], bankOp_store_frame c h, fun a ha => bankOp_store_outside c h ha, fun hapart e he =>
      (congrArg (fun sp => memRead sp e.pa m.size) (bankOp_store_sp c h)).trans (spRead_writes m.els m.size hapart c he)⟩
  case load =>
    rw [bankOp_load c h]
    exact ⟨rfl, List.map_map⟩
  case atom =>
    rw [bankOp_atom_one c h hels, ht]
    refine ⟨?_, fun o ho => ?_, fun hk => ?_, fun a ha => atomWrite_outside k t c m.size e ha⟩
    · simp [atomOut, hbad, ht, sg]
    · rw [ho, atomWrite_op o t hbad, spRead_spWrite]
    · rw [hk, atomWrite_cas t hbad]
      split
      · exact spRead_spWrite _ _ _ _
      · rfl
  case lanes =>
    have happend := bankOp_atom_append c h hels
    exact ⟨(congrArg Prod.fst happend :), (congrArg (fun r => r.2.map (fun o => (o.1, o.2.lane, o.2.pval, o.2.ppoi))) happend :)⟩
  case red =>
    exact ⟨by rw [bankOp_red c h], fun a ha => bankOp_red_outside c h ha,
      fun hapart pa x rest hels hbad => ht ▸ bankOp_red_read c h hapart hels hbad⟩
  case completion =>
    intro s unit slot crew w o p key hw ho hend hc hp hlate hspace hready hfroz hfault hbusy hturn hquad hrest
    have hstep : exec (.completion unit slot p.op) s = .next (banksPerform s key p.op crew m) := by
      change Host.Outcome.next (complete s (pendKey s key p.op) p.op) = _
      rw [pendKey_resident hw hp, complete_atBank hw ho hp hrest hready hend hfroz hfault hturn hquad]
      simp only [pendStep, hlate, hbusy, hspace]
      rfl
    obtain ⟨hcrew, hcrews, hmem⟩ := performed_frame s key p.op crew c m
    obtain ⟨f, hf, hwarps⟩ := (released_writeEach crew (bankSteps c m) s).warps
    have hwkey := (hwarps key).trans (congrArg _ hw)
    have hv : (performed s key p.op crew c m).warp key = some ((w.mapPend f).withLanded p.op (landOuts m (bankOp c m).2 s.cycle)) := by
      rw [performed_eq hwkey, warp_setWarp_same]
    refine ⟨_, _, (hstep.trans (congrArg _ (banksPerform_eq hc key p.op m))).trans ?_, hcrew, hcrews, hv, rfl, rfl, ?landed, fun hnone k hk => ?same,
      fun k hk => ?others, fun k g e hleft y hy r hr els hl he => ?waits, hmem⟩
    · cases m.kind <;> rfl
    case landed =>
      have hp' : p ∈ (w.mapPend f).pend :=
        List.mem_map.2 ⟨p, List.mem_of_find?_eq_some hp, hf.other p fun cr g els hl => by simp [hlate] at hl⟩
      exact List.mem_map.2 ⟨p, hp', if_pos rfl⟩
    case same =>
      rw [performed_warp_ne s hk, hnone]
      rfl
    case others =>
      rw [performed_warp_ne s hk, hwarps k, Option.map_map]
      rfl
    case waits =>
      obtain ⟨d, hd, hgen⟩ := hleft
      exact hgen (performed_waits hw hd hy hr hl e he)

end Sys2Proof.Proofs
end

section
/-! PROOF. The sequencer's commands, the engine step and the counted drain (03_numbers.md R78; 11_cluster_matrix.md R284, R287-R293). -/

namespace Sys2Proof.Machine

/-! ## A cluster after several changes -/

theorem fmPut_fmPut {α : Type} (m : FMap α) (k : Nat) (v x : α) : fmPut (fmPut m k v) k x = fmPut m k x := by
  induction m with
  | nil => simp [fmPut]
  | cons e m ih =>
    obtain ⟨a, y⟩ := e
    simp only [fmPut]
    split_ifs with hlt heq
    · simp [fmPut, hlt, ih]
    · simp [fmPut]
    · simp [fmPut]

theorem modCluster_modCluster (s : State) (cl : Nat) (f g : Cluster → Cluster) :
    (s.modCluster cl f).modCluster cl g = s.modCluster cl (fun k => g (f k)) := by
  rw [State.modCluster, State.modCluster_same]
  simp [State.modCluster, State.setCluster, fmPut_fmPut]

theorem modCluster_ne (s : State) (cl : Nat) (f : Cluster → Cluster) {j : Nat} (hj : j ≠ cl) : (s.modCluster cl f).cluster j = s.cluster j :=
  State.setCluster_ne s cl _ j hj

/-- Where the table of clusters stays, each stays. -/
theorem cluster_congr {s t : State} (h : t.clusters = s.clusters) (cl : Nat) : t.cluster cl = s.cluster cl := by simp only [State.cluster, h]

theorem cmds_congr {s t : State} (h : t.clusters = s.clusters) (cl : Nat) : (t.cluster cl).cmds = (s.cluster cl).cmds := by
  rw [cluster_congr h]

/-! ## What the banks do leaves the clusters -/

@[simp] theorem markEnding_clusters (s : State) (crew : Nat) (e : Ending) : (markEnding s crew e).clusters = s.clusters := by simp [markEnding]

@[simp] theorem handlerEnds_clusters (s : State) (key : Nat) (w : Warp) (cause : Nat) (info : Word) :
    (handlerEnds s key w cause info).clusters = s.clusters := by
  unfold handlerEnds
  split <;> simp

@[simp] theorem raiseLate_clusters (s : State) (key : Nat) (t : TrapRec) (handlers : Bool) : (raiseLate s key t handlers).clusters = s.clusters := by
  unfold raiseLate
  split
  · rfl
  · split_ifs <;> simp

@[simp] theorem trapLate_clusters (s : State) (key : Nat) (p : Pend) (cause : Nat) : (trapLate s key p cause).clusters = s.clusters := by
  simp [trapLate]

@[simp] theorem releaseAwaits_clusters (s : State) (crew : Nat) (bads : List Nat) : (releaseAwaits s crew bads).clusters = s.clusters :=
  (releaseAwaits_frame s crew bads).2.2

@[simp] theorem releaseBad_clusters (s : State) (crew : Nat) (bads : List Nat) : (releaseBad s crew bads).clusters = s.clusters := by
  unfold releaseBad
  rw [foldl_keeps State.clusters (fun s e _ => trapLate_clusters s e.1 e.2 cPOISON), releaseAwaits_clusters]

@[simp] theorem countInto_clusters (s : State) (crew a n : Nat) : (countInto s crew a n).1.clusters = s.clusters := by
  unfold countInto
  split
  · rfl
  · split_ifs <;> simp

@[simp] theorem qMarkWaiters_clusters (s : State) (crew qn : Nat) : (qMarkWaiters s crew qn).clusters = s.clusters := by
  unfold qMarkWaiters
  split
  · rfl
  · split
    · rfl
    · split_ifs <;> simp

@[simp] theorem qServeKind_clusters (crew qn : Nat) (k : QueueKind) (es : List (Nat × Nat × Pend)) (s : State) :
    (qServeKind crew qn k es s).clusters = s.clusters := by
  induction es generalizing s with
  | nil => rfl
  | cons e es ih =>
    unfold qServeKind
    split
    · split
      · rfl
      · split_ifs
        · rfl
        · dsimp only
          split
          · split_ifs
            · rfl
            · simp [ih]
            · simp [ih]
          · split_ifs
            · rfl
            · simp [ih]
            · simp [ih]
            · simp [ih]
    · rfl

@[simp] theorem qServe_clusters (crew qn fuel : Nat) (s : State) : (qServe crew qn fuel s).clusters = s.clusters := by
  induction fuel generalizing s with
  | zero => exact qMarkWaiters_clusters s crew qn
  | succ fuel ih =>
    unfold qServe
    dsimp only
    split <;> split_ifs <;> simp [ih]

@[simp] theorem afterScratch_clusters (s : State) (crew : Nat) : (afterScratch s crew).clusters = s.clusters := by
  unfold afterScratch
  dsimp only
  split
  · simp
  · rw [foldl_keeps State.clusters (fun s q _ => ?_), releaseAwaits_clusters]
    split <;> simp

/-- Draining writes scratchpads, and clears elements where the command says so: the commands stay. -/
theorem drainWrite_cmds (s : State) (cl slot x row0 : Nat) (rd : Tensor) (crew : Nat) (rs : Tensor) (screw : Nat) :
    ((drainWrite s cl slot x row0 rd crew rs screw).cluster cl).cmds = (s.cluster cl).cmds := by
  unfold drainWrite
  dsimp only
  have hafter : ∀ t : State, ([crew, screw].foldl (fun s c => if (s.crew c).isSome then afterScratch s c else s) t).clusters = t.clusters :=
    foldl_keeps State.clusters (fun s c _ => by split <;> simp)
  rw [cluster_congr (hafter _)]
  split
  · rw [State.modCluster_same]
    exact cmds_congr (foldl_keeps State.clusters (fun s i _ => by split <;> simp) s) cl
  · exact cmds_congr (foldl_keeps State.clusters (fun s i _ => by split <;> simp) s) cl

/-! ## The start of a command (R284) -/

/-- A command leaves the sequencer. -/
def Cluster.without (k : Cluster) (id : Nat) : Cluster := { k with cmds := k.cmds.filter (fun x => x.id != id) }

/-- A command has started, with bytes that are left to count. -/
def Cluster.begun (k : Cluster) (id left : Nat) : Cluster :=
  { k with cmds := k.cmds.map (fun x => if x.id = id then { x with started := true, left := left } else x) }

theorem Cluster.without_cmds_ne {k : Cluster} {id : Nat} {x : MxCmd} (hx : x ∈ (k.without id).cmds) : x.id ≠ id := by
  simpa using (List.mem_filter.1 hx).2

/-- Something holds a command up. -/
def mxHeld (s : State) (cl : Nat) (c : MxCmd) : Bool :=
  !(mxMayStart (s.cluster cl) c || (c.started && mxLoads c.kind)) || (mxArray c.kind && mxPaused s cl)
    || (mxLoads c.kind && s.faults.any (fun f => f.waiter = .matrix cl))

theorem mxHeld_false {s : State} {cl : Nat} {c : MxCmd} (hmay : mxMayStart (s.cluster cl) c = true)
    (hpause : mxArray c.kind = true → mxPaused s cl = false)
    (hfault : mxLoads c.kind = true → s.faults.any (fun f => f.waiter = .matrix cl) = false) : mxHeld s cl c = false := by
  have h1 : (mxArray c.kind && mxPaused s cl) = false := by
    cases h : mxArray c.kind
    · rfl
    · rw [hpause h]
      rfl
  have h2 : (mxLoads c.kind && s.faults.any (fun f => f.waiter = .matrix cl)) = false := by
    cases h : mxLoads c.kind
    · rfl
    · rw [hfault h]
      rfl
  unfold mxHeld
  rw [hmay, h1, h2]
  rfl

section Start
variable {s : State} {cl : Nat} {c : MxCmd} (hfind : (s.cluster cl).cmds.find? (fun x => x.id = c.id) = some c) (hheld : mxHeld s cl c = false)
include hfind hheld

theorem mxStart_mma {a : Bool} {b d n g i j z f : Nat} {r q : Tensor} (hk : c.kind = .mma a b d n r g i j q z f) :
    mxStart s cl c.id = s.modCluster cl (fun k => k.begun c.id 0) := by
  unfold mxHeld at hheld
  unfold mxStart
  simp only [hfind, hheld, Bool.false_eq_true, if_false]
  simp only [hk]
  rfl

theorem mxStart_mzero {m : Nat} (hk : c.kind = .mzero m) : mxStart s cl c.id = s.modCluster cl (fun k =>
    Cluster.without { k with
      acc := (List.range 4).map (fun n => if m.testBit n then [] else k.acc.getD n [])
      mxerr := k.mxerr &&& ~~~BitVec.ofNat 64 (m % 16) } c.id) := by
  unfold mxHeld at hheld
  unfold mxStart
  simp only [hfind, hheld, Bool.false_eq_true, if_false]
  simp only [hk]
  exact (modCluster_modCluster s cl _ _ :)

theorem mxStart_winv {h : Option Nat} (hk : c.kind = .winv h) :
    mxStart s cl c.id = s.modCluster cl (fun k => Cluster.without { k with wdir := dirStep k.wdir (.winv h) } c.id) := by
  unfold mxHeld at hheld
  unfold mxStart
  simp only [hfind, hheld, Bool.false_eq_true, if_false]
  simp only [hk]
  exact (modCluster_modCluster s cl _ _ :)

theorem mxStart_mdrain {sl x r0 ar cr sc : Nat} {rd rs : Tensor} (hk : c.kind = .mdrain sl x r0 ar rd cr rs sc) :
    mxStart s cl c.id = (drainWrite s cl sl x r0 rd cr rs sc).modCluster cl (fun k => k.begun c.id (drainBytes x rd)) := by
  unfold mxHeld at hheld
  unfold mxStart
  simp only [hfind, hheld, Bool.false_eq_true, if_false]
  simp only [hk]
  rfl

/-- A WLOAD whose reads all go through ends at once. -/
theorem mxStart_wload {h o : Nat} {r : Tensor} {rs : Option Tensor} {s1 : State} (hk : c.kind = .wload h r o rs)
    (hrun : wloadRun (s.modCluster cl (fun k => { k.begun c.id 0 with wdir := dirClear k.wdir c.kind })) cl
      ⟨1216 + cl, c.cregs, .matrix cl⟩ c.kind = .ok s1) : mxStart s cl c.id = s1.modCluster cl (fun k => k.without c.id) := by
  have hrun' := hrun
  rw [hk] at hrun'
  unfold mxHeld at hheld
  unfold mxStart
  simp only [hfind, hheld, Bool.false_eq_true, if_false]
  simp only [hk, modCluster_modCluster]
  split
  case h_1 s2 hok =>
    obtain rfl := Except.ok.inj (hok.symm.trans hrun')
    rfl
  all_goals
    rename_i herr
    cases herr.symm.trans hrun'

end Start

/-! ## What a WLOAD installs (R287) -/

/-- Bytes put into the weight buffer leave everything else of the cluster. -/
theorem wPut_wdir (k : Cluster) (a : Nat) (bs : List (Byte × Bool)) : (wPut k a bs).wdir = k.wdir := rfl

/-- A WLOAD that goes through leaves its entry in the directory, behind those that it does not replace. -/
theorem wloadRun_wdir {s t : State} {cl : Nat} {e : Env} {h o : Nat} {r : Tensor} {rs : Option Tensor}
    (hrun : wloadRun s cl e (.wload h r o rs) = .ok t) : ∃ d : List WeightEnt, (t.cluster cl).wdir = dirStep d (.wload h r o rs) := by
  unfold wloadRun at hrun
  dsimp only at hrun
  obtain ⟨⟨s1, bs⟩, -, hrun⟩ := except_bind_ok hrun
  cases rs with
  | none =>
    obtain rfl := Except.ok.inj hrun
    exact ⟨(s1.cluster cl).wdir, congrArg Cluster.wdir (State.modCluster_same s1 cl _)⟩
  | some q =>
    obtain ⟨⟨s2, sc⟩, -, hrun⟩ := except_bind_ok hrun
    obtain rfl := Except.ok.inj hrun
    exact ⟨(s2.cluster cl).wdir, (congrArg Cluster.wdir (State.modCluster_same s2 cl _)).trans
      (foldl_keeps Cluster.wdir (fun k b _ => wPut_wdir k _ _) _)⟩

/-- Every entry beside the new one has another handle and another range. -/
theorem dirStep_wload {d : List WeightEnt} {h o : Nat} {r : Tensor} {rs : Option Tensor} {x : WeightEnt}
    (hx : x ∈ dirStep d (.wload h r o rs)) :
    x = wloadEnt h r o rs.isSome ∨ (x.handle ≠ h ∧ wOverlap x (wloadEnt h r o rs.isSome) = false) := by
  rcases List.mem_append.1 hx with hx | hx
  · exact .inr (by simpa using (List.mem_filter.1 hx).2)
  · exact .inl (List.mem_singleton.1 hx)

theorem mem_dirStep_wload (d : List WeightEnt) (h o : Nat) (r : Tensor) (rs : Option Tensor) :
    wloadEnt h r o rs.isSome ∈ dirStep d (.wload h r o rs) := List.mem_append_right _ (List.mem_singleton.2 rfl)

end Sys2Proof.Machine
end

section
/-! PROOF. One engine step folds 32 products into each element of one row group (03_numbers.md R78; 11_cluster_matrix.md R282, R289, R291). -/

namespace Sys2Proof.Machine

/-! ## A table changed element by element -/

/-- Of the steps over a numbered list the one at r alone changes what is looked at. -/
theorem foldl_zipIdx_one {σ α β : Type} (g : σ → β) {f : σ → α × Nat → σ} {H : α → β → β} {r : Nat} (l : List α) (a : Nat)
    (h : ∀ c, ∀ p ∈ l.zipIdx a, g (f c p) = if p.2 = r then H p.1 (g c) else g c) (c : σ) :
    g ((l.zipIdx a).foldl f c) = if a ≤ r then (l[r - a]?).elim (g c) (fun x => H x (g c)) else g c := by
  induction l generalizing a c with
  | nil => simp
  | cons x l ih =>
    have hx := h c (x, a) (by simp [List.zipIdx_cons])
    rw [List.zipIdx_cons, List.foldl_cons, ih (a + 1) (fun c p hp => h c p (by rw [List.zipIdx_cons]; exact List.mem_cons_of_mem _ hp)), hx]
    rcases Nat.lt_trichotomy a r with hlt | rfl | hgt
    · have hidx : r - a = r - (a + 1) + 1 := by omega
      simp [hlt.ne, show a + 1 ≤ r by omega, hlt.le, hidx]
    · simp
    · simp [hgt.ne', show ¬ a + 1 ≤ r by omega, show ¬ a ≤ r by omega]

/-- The value part of an element of a slot. -/
def accVal (acc : FMap (BitVec 32 × Bool)) (n : Nat) : BitVec 32 := (fmGet (0, false) acc n).1

theorem accVal_fmSet (acc : FMap (BitVec 32 × Bool)) (k n : Nat) (v : BitVec 32 × Bool) :
    accVal (fmSet (0, false) acc k v) n = if n = k then v.1 else accVal acc n := by
  unfold accVal
  rw [fmGet_fmSet]
  split <;> rfl

/-! ## The parts of a step -/

/-- An element's new value and poison in an engine step. -/
def foldElem (k : Cluster) (e : WeightEnt) (f kb : Nat) (scaled : Bool) (row : Nat × BitVec 32) (sa : Option (Nat × BitVec 32))
    (col : List (Nat × Bool) × Nat) (old : BitVec 32 × Bool) : BitVec 32 × Bool :=
  let av := (List.range 32).map (fun t => mxVal f ((row.1 >>> (t * fmtWidth f)) % 2 ^ fmtWidth f))
  let sb := if scaled then some (wScale k e kb col.2) else none
  let pois := old.2 || row.2 != 0#32 || col.1.any (fun x => x.2) || (match sa with
    | some x => x.2 != 0#32
    | none => false) || (match sb with
    | some x => x.2
    | none => false)
  (mxFold old.1 f ((av.zip col.1).map (fun x => fMul x.1 (mxVal f x.2.1))) (sa.map (fun x => x.1)) (sb.map (fun x => x.1)), pois)

/-- A row of a row group folded, from column 0 on. -/
def foldRow (k : Cluster) (e : WeightEnt) (f kb : Nat) (scaled : Bool) (cols : List (List (Nat × Bool))) (row : Nat × BitVec 32)
    (sa : Option (Nat × BitVec 32)) (i : Nat) (acc : FMap (BitVec 32 × Bool)) : FMap (BitVec 32 × Bool) :=
  cols.zipIdx.foldl (fun acc col =>
    fmSet (0, false) acc (256 * i + col.2) (foldElem k e f kb scaled row sa col (fmGet (0, false) acc (256 * i + col.2)))) acc

/-- The columns of an entry in a K-block, 32 elements each. -/
def foldCols (k : Cluster) (e : WeightEnt) (f kb : Nat) : List (List (Nat × Bool)) :=
  (List.range e.n).map (fun j => (List.range 32).map (fun t => wElem k e f (32 * kb + t) j))

/-- The scale of row i of A in a K-block. -/
def rowScale (s : State) (scaled : Bool) (screw : Nat) (rs : Tensor) (b i : Nat) : Option (Nat × BitVec 32) :=
  if scaled then some (readTile s screw (tBase rs % 2 ^ 20 + i * tStride0 rs + b) 1 8) else none

/-- The rows of a row group folded into a slot. -/
def foldRows (s : State) (k : Cluster) (e : WeightEnt) (f kb0 b g : Nat) (scaled : Bool) (screw : Nat) (rs : Tensor)
    (rows : List (Nat × BitVec 32)) (acc : FMap (BitVec 32 × Bool)) : FMap (BitVec 32 × Bool) :=
  rows.zipIdx.foldl (fun acc row =>
    foldRow k e f (kb0 + b) scaled (foldCols k e f (kb0 + b)) row.1 (rowScale s scaled screw rs b (8 * g + row.2)) (8 * g + row.2) acc) acc

/-- The slot of an MMA after K-block b of row group g, a slab of whose rows the operand cache or the banks give. -/
def steppedSlot (s : State) (cl : Nat) (scaled : Bool) (slot kb0 crew ha screw f b g : Nat) (ra rs : Tensor) (e : WeightEnt) :
    FMap (BitVec 32 × Bool) :=
  let slab := slabFor s cl ra crew ha (fmtWidth f) b g
  foldRows s (slab.1.cluster cl) e f kb0 b g scaled screw rs (slab.2.take (tDim1 ra - 8 * g)) ((slab.1.cluster cl).acc.getD slot [])

theorem foldStep_eq {s : State} {cl : Nat} {scaled : Bool} {slot kb0 crew ha hb screw f b g : Nat} {ra rs : Tensor} {e : WeightEnt}
    (he : ((slabFor s cl ra crew ha (fmtWidth f) b g).1.cluster cl).wdir.find? (fun e => e.handle = hb) = some e) :
    let s1 := (slabFor s cl ra crew ha (fmtWidth f) b g).1
    foldStep s cl scaled slot kb0 ra crew ha hb rs screw f b g =
      { s1.modCluster cl (fun k => { k with acc := k.acc.set slot (steppedSlot s cl scaled slot kb0 crew ha screw f b g ra rs e) })
        with draw := s1.draw + 1 } := by
  unfold foldStep
  dsimp only
  simp only [he]
  rfl

/-! ## What a step leaves in each element -/

/-- Column j of a folded row holds its fold, and no element of another row changes. -/
theorem accVal_foldRow (k : Cluster) (e : WeightEnt) (f kb : Nat) (scaled : Bool) (cols : List (List (Nat × Bool))) (row : Nat × BitVec 32)
    (sa : Option (Nat × BitVec 32)) (i' i j : Nat) (hcols : cols.length ≤ 256) (hj : j < 256) (acc : FMap (BitVec 32 × Bool)) :
    accVal (foldRow k e f kb scaled cols row sa i' acc) (256 * i + j) = if i' = i then
      (cols[j]?).elim (accVal acc (256 * i + j)) (fun col => (foldElem k e f kb scaled row sa (col, j) (accVal acc (256 * i + j), false)).1)
    else accVal acc (256 * i + j) := by
  by_cases hi : i' = i
  · subst hi
    rw [if_pos rfl]
    refine (foldl_zipIdx_one (fun acc => accVal acc (256 * i' + j))
      (H := fun col old => (foldElem k e f kb scaled row sa (col, j) (old, false)).1) cols 0 (r := j) (fun acc p hp => ?_) acc).trans ?_
    · rw [accVal_fmSet]
      by_cases hpj : p.2 = j
      · obtain ⟨col, n⟩ := p
        obtain rfl : n = j := hpj
        simp [foldElem, accVal]
      · rw [if_neg (by omega), if_neg hpj]
    · simp
  · rw [if_neg hi]
    refine foldl_keeps (fun acc => accVal acc (256 * i + j)) (fun acc p hp => ?_) acc
    have hlt : p.2 < cols.length := by
      obtain ⟨-, h, -⟩ := List.mem_zipIdx hp
      simpa using h
    rw [accVal_fmSet, if_neg (by omega)]

/-- An element of the row group holds its fold, every other element stays. -/
theorem accVal_foldRows (s : State) (k : Cluster) (e : WeightEnt) (f kb0 b g : Nat) (scaled : Bool) (screw : Nat) (rs : Tensor)
    (rows : List (Nat × BitVec 32)) (hn : e.n ≤ 256) (i j : Nat) (hj : j < 256) (acc : FMap (BitVec 32 × Bool)) :
    accVal (foldRows s k e f kb0 b g scaled screw rs rows acc) (256 * i + j) =
      if 8 * g ≤ i ∧ i < 8 * g + rows.length ∧ j < e.n then
        (foldElem k e f (kb0 + b) scaled (rows.getD (i - 8 * g) (0, 0)) (rowScale s scaled screw rs b i)
          ((List.range 32).map (fun t => wElem k e f (32 * (kb0 + b) + t) j), j) (accVal acc (256 * i + j), false)).1
      else accVal acc (256 * i + j) := by
  by_cases hg : 8 * g ≤ i
  · have hcols : (foldCols k e f (kb0 + b)).length ≤ 256 := by simpa [foldCols] using hn
    have hfold := foldl_zipIdx_one (fun acc => accVal acc (256 * i + j)) (r := i - 8 * g)
      (f := fun acc row => foldRow k e f (kb0 + b) scaled (foldCols k e f (kb0 + b)) row.1
        (rowScale s scaled screw rs b (8 * g + row.2)) (8 * g + row.2) acc)
      (H := fun row old => ((foldCols k e f (kb0 + b))[j]?).elim old (fun col =>
        (foldElem k e f (kb0 + b) scaled row (rowScale s scaled screw rs b i) (col, j) (old, false)).1)) rows 0 (fun acc p _ => ?_) acc
    · refine hfold.trans ?_
      by_cases hi : i < 8 * g + rows.length
      · have hlt : i - 8 * g < rows.length := by omega
        by_cases hjn : j < e.n <;> simp [hg, hi, hlt, hjn, foldCols]
      · have hge : rows.length ≤ i - 8 * g := by omega
        simp [hi, hge]
    · by_cases hp : p.2 = i - 8 * g
      · have hrow : 8 * g + p.2 = i := by omega
        rw [accVal_foldRow _ _ _ _ _ _ _ _ _ _ _ hcols hj, hrow, if_pos rfl, if_pos hp]
      · rw [accVal_foldRow _ _ _ _ _ _ _ _ _ _ _ hcols hj, if_neg (by omega), if_neg hp]
  · rw [if_neg (by omega)]
    refine foldl_keeps (fun acc => accVal acc (256 * i + j)) (fun acc p _ => ?_) acc
    rw [accVal_foldRow _ _ _ _ _ _ _ _ _ _ _ (by simpa [foldCols] using hn) hj, if_neg (by omega)]

/-- The folded value in the terms of R78: 32 products, and the two scales. -/
theorem foldElem_value (s : State) (k : Cluster) (e : WeightEnt) (f kb : Nat) (scaled : Bool) (row : Nat × BitVec 32) (screw : Nat) (rs : Tensor)
    (b i j : Nat) (old : BitVec 32 × Bool) :
    (foldElem k e f kb scaled row (rowScale s scaled screw rs b i) ((List.range 32).map (fun t => wElem k e f (32 * kb + t) j), j) old).1 =
      mxFold old.1 f
        ((List.range 32).map (fun n => fMul (mxVal f ((row.1 >>> (n * fmtWidth f)) % 2 ^ fmtWidth f)) (mxVal f (wElem k e f (32 * kb + n) j).1)))
        (if scaled then some (readTile s screw (tBase rs % 2 ^ 20 + i * tStride0 rs + b) 1 8).1 else none)
        (if scaled then some (wScale k e kb j).1 else none) := by
  unfold foldElem rowScale
  dsimp only
  rw [List.zip_map', List.map_map]
  cases scaled <;> rfl

/-! ## The operand cache (R282) -/

/-- Reading a slab changes the operand cache of its cluster alone. -/
theorem slabFor_state (s : State) (cl : Nat) (ra : Tensor) (crew ha w b g : Nat) :
    ∃ slabs, (slabFor s cl ra crew ha w b g).1 = s.modCluster cl (fun k => { k with slabs := slabs }) := by
  unfold slabFor
  dsimp only
  split
  · exact ⟨_, rfl⟩
  · exact ⟨_, rfl⟩

/-! ## The engine step (R291) -/

/-- A draw of the device beside a change of a cluster. -/
theorem modCluster_draw (s : State) (d cl : Nat) (f : Cluster → Cluster) :
    ({ s with draw := d } : State).modCluster cl f = { s.modCluster cl f with draw := d } := rfl

/-- A draw of the device leaves the clusters. -/
@[simp] theorem cluster_draw (s : State) (d j : Nat) : ({ s with draw := d } : State).cluster j = s.cluster j := rfl

/-- The sequencer after a clean step of an MMA. -/
def Cluster.stepped (k : Cluster) (cmds : List MxCmd) (halted : Bool) : Cluster :=
  { k with steps := k.steps + 1, cmds := cmds, halted := halted }

theorem engineStep_clean {s : State} {cl : Nat} {c : MxCmd} {scaled : Bool} {slot kb0 kn crew ha hb screw f : Nat} {ra rs : Tensor}
    (hact : mxActive (s.cluster cl) = some c) (hk : c.kind = .mma scaled slot kb0 kn ra crew ha hb rs screw f)
    (hhalt : (s.cluster cl).halted = false) (hpause : c.rg = 0 → mxPaused s cl = false) :
    ∃ cmds halted, engineStep s cl .clean =
      (foldStep s cl scaled slot kb0 ra crew ha hb rs screw f c.kb c.rg).modCluster cl (fun k => k.stepped cmds halted) := by
  have hgo : ((s.cluster cl).halted || (decide (c.rg = 0) && mxPaused s cl)) = false := by
    rw [hhalt]
    by_cases h : c.rg = 0
    · simp [hpause h]
    · simp [h]
  unfold engineStep
  simp only [hact, hgo, Bool.false_eq_true, if_false]
  simp only [hk]
  exact ⟨_, _, rfl⟩

/-- A clean step changes its cluster alone, and no more of it than the operand cache, the slot, the counts and the commands. -/
theorem engineStep_eq {s : State} {cl : Nat} {c : MxCmd} {scaled : Bool} {slot kb0 kn crew ha hb screw f : Nat} {ra rs : Tensor}
    {e : WeightEnt} (hact : mxActive (s.cluster cl) = some c) (hk : c.kind = .mma scaled slot kb0 kn ra crew ha hb rs screw f)
    (hhalt : (s.cluster cl).halted = false) (hpause : c.rg = 0 → mxPaused s cl = false)
    (he : (s.cluster cl).wdir.find? (fun x => x.handle = hb) = some e) :
    ∃ slabs cmds halted draw, engineStep s cl .clean = { s.modCluster cl (fun k => Cluster.stepped { k with
      slabs := slabs
      acc := k.acc.set slot (steppedSlot s cl scaled slot kb0 crew ha screw f c.kb c.rg ra rs e) } cmds halted) with draw := draw } := by
  obtain ⟨cmds, halted, hstep⟩ := engineStep_clean hact hk hhalt hpause
  obtain ⟨slabs, hslab⟩ := slabFor_state s cl ra crew ha (fmtWidth f) c.kb c.rg
  have hfold := foldStep_eq (scaled := scaled) (slot := slot) (kb0 := kb0) (screw := screw) (rs := rs)
    (by rw [hslab, State.modCluster_same]; exact he :
      ((slabFor s cl ra crew ha (fmtWidth f) c.kb c.rg).1.cluster cl).wdir.find? (fun e => e.handle = hb) = some e)
  refine ⟨slabs, cmds, halted, s.draw + 1, ?_⟩
  rw [hstep, hfold, hslab, modCluster_modCluster, modCluster_draw, modCluster_modCluster]
  rfl

/-- The value of each element of the MMA's slot after a step, in the terms of R78. -/
theorem accVal_steppedSlot (s : State) (cl : Nat) (scaled : Bool) (slot kb0 crew ha screw f b g : Nat) (ra rs : Tensor) {e : WeightEnt}
    (hn : e.n ≤ 256) (i j : Nat) (hj : j < 256) :
    let rows := (slabFor s cl ra crew ha (fmtWidth f) b g).2
    let k1 := (slabFor s cl ra crew ha (fmtWidth f) b g).1.cluster cl
    let old := accVal ((s.cluster cl).acc.getD slot []) (256 * i + j)
    accVal (steppedSlot s cl scaled slot kb0 crew ha screw f b g ra rs e) (256 * i + j) =
      if 8 * g ≤ i ∧ i < tDim1 ra ∧ i < 8 * g + rows.length ∧ j < e.n then
        mxFold old f
          ((List.range 32).map (fun n => fMul
            (mxVal f (((rows.getD (i - 8 * g) (0, 0)).1 >>> (n * fmtWidth f)) % 2 ^ fmtWidth f))
            (mxVal f (wElem k1 e f (32 * (kb0 + b) + n) j).1)))
          (if scaled then some (readTile s screw (tBase rs % 2 ^ 20 + i * tStride0 rs + b) 1 8).1 else none)
          (if scaled then some (wScale k1 e (kb0 + b) j).1 else none)
      else old := by
  intro rows k1 old
  obtain ⟨slabs, hslab⟩ := slabFor_state s cl ra crew ha (fmtWidth f) b g
  have hacc : k1.acc = (s.cluster cl).acc := by
    simp only [k1, hslab, State.modCluster_same]
  have hfold := accVal_foldRows s k1 e f kb0 b g scaled screw rs (rows.take (tDim1 ra - 8 * g)) hn i j hj (k1.acc.getD slot [])
  refine hfold.trans ?_
  rw [hacc]
  by_cases hin : 8 * g ≤ i ∧ i < tDim1 ra ∧ i < 8 * g + rows.length ∧ j < e.n
  · obtain ⟨hg, hm, hlen, hjn⟩ := hin
    have htake : i < 8 * g + (rows.take (tDim1 ra - 8 * g)).length := by
      rw [List.length_take]
      omega
    have hrow : (rows.take (tDim1 ra - 8 * g)).getD (i - 8 * g) (0, 0) = rows.getD (i - 8 * g) (0, 0) := by
      simp only [List.getD_eq_getElem?_getD, List.getElem?_take, show i - 8 * g < tDim1 ra - 8 * g by omega, if_true]
    rw [if_pos ⟨hg, htake, hjn⟩, if_pos ⟨hg, hm, hlen, hjn⟩, hrow]
    exact foldElem_value s k1 e f (kb0 + b) scaled _ screw rs b i j _
  · rw [if_neg hin, if_neg]
    rintro ⟨hg, htake, hjn⟩
    rw [List.length_take] at htake
    exact hin ⟨hg, by omega, by omega, hjn⟩

end Sys2Proof.Machine
end

section
/-! PROOF. O41 from the start of a command, the engine step and the count of drained bytes. -/

namespace Sys2Proof.Machine

/-! ## What MZERO leaves (R290) -/

theorem getD_map_range {α : Type} (f : Nat → α) (d : α) {n m : Nat} (h : n < m) : ((List.range m).map f).getD n d = f n := by
  simp [List.getD_eq_getElem?_getD, h]

/-- Clearing the bits of a mask of four slots in MXERR. -/
theorem getLsbD_andNot_mask (x : Word) (m : Nat) {n : Nat} (h : n < 64) :
    (x &&& ~~~BitVec.ofNat 64 (m % 16)).getLsbD n = (x.getLsbD n && !(decide (n < 4) && m.testBit n)) := by
  have hmask : (m % 16).testBit n = (decide (n < 4) && m.testBit n) := Nat.testBit_mod_two_pow m 4 n
  rw [BitVec.getLsbD_and, BitVec.getLsbD_not, BitVec.getLsbD_ofNat, hmask]
  simp [h]

/-! ## The count of drained bytes (R293) -/

theorem drainCount_run {s : State} {cl bytes : Nat} {c : MxCmd} {sl x r0 ar cr sc : Nat} {rd rs : Tensor}
    (hfind : (s.cluster cl).cmds.find? (fun y => y.started && mxDrains y.kind) = some c) (hk : c.kind = .mdrain sl x r0 ar rd cr rs sc)
    (hpos : 0 < min bytes c.left) : exec (.drainPieceCount cl bytes) s = .next ((countInto s cr ar (min bytes c.left)).1.modCluster cl (fun k =>
      { k with cmds := if min bytes c.left = c.left then k.cmds.filter (fun y => y.id != c.id)
                       else k.cmds.map (fun y => if y.id = c.id then { y with left := c.left - min bytes c.left } else y) })) := by
  change execDrainPieceCount cl bytes s = _
  unfold execDrainPieceCount
  simp only [hfind]
  simp only [hk, hpos.ne', if_false]

/-- A command that all its bytes leave, and one with bytes left. -/
theorem drainCount_cmds (cmds : List MxCmd) (c : MxCmd) (bytes : Nat) :
    (if min bytes c.left = c.left then cmds.filter (fun y => y.id != c.id)
      else cmds.map (fun y => if y.id = c.id then { y with left := c.left - min bytes c.left } else y)) =
    if c.left ≤ bytes then cmds.filter (fun y => y.id != c.id)
      else cmds.map (fun y => if y.id = c.id then { y with left := c.left - bytes } else y) := by
  by_cases h : c.left ≤ bytes
  · rw [if_pos (min_eq_right h), if_pos h]
  · rw [if_neg h, min_eq_left (by omega), if_neg (by omega)]

/-! ## A command that begins -/

/-- The command that begins is in the sequencer afterwards, started and with its bytes. -/
theorem begun_mem {k : Cluster} {c : MxCmd} (left : Nat) (hc : c ∈ k.cmds) :
    { c with started := true, left := left } ∈ (k.begun c.id left).cmds :=
  List.mem_map.2 ⟨c, hc, if_pos rfl⟩

end Sys2Proof.Machine

namespace Sys2Proof.Proofs
open Sys2Proof Sys2Proof.Machine

/-- Settles O41: a command that may start is one change of its cluster, by its kind; a step of the engine is the fold of the row group's rows
into one slot, element by element; a count of bytes is `countInto` and one change of the command. -/
theorem matrixResults : Obligations.MatrixResults := by
  unfold Obligations.MatrixResults
  intro cl s k others
  have hothers (u : State) (f : Cluster → Cluster) (hu : u.clusters = s.clusters) : others (u.modCluster cl f) :=
    fun j hj => (modCluster_ne u cl f hj).trans (cluster_congr hu j)
  refine ⟨fun c hfind hmay hpause hfault => ?start, ?step, ?drain⟩
  case start =>
    have hheld := mxHeld_false hmay hpause hfault
    refine ⟨fun m hk => ?_, fun a b d n r g i j q z f hk => ?_, fun h hk => ?_, fun h r o rs s1 hk hrun => ?_,
      fun sl x r0 ar rd cr rs sc hk => ?_⟩
    · refine ⟨_, congrArg Host.Outcome.next (mxStart_mzero hfind hheld hk), hothers s _ rfl, rfl, ?_⟩
      rw [State.modCluster_same]
      exact ⟨rfl, fun n hn => getD_map_range _ _ hn, fun n hn => getLsbD_andNot_mask _ m hn⟩
    · refine ⟨_, congrArg Host.Outcome.next (mxStart_mma hfind hheld hk), hothers s _ rfl, ?_⟩
      rw [State.modCluster_same]
      exact ⟨rfl, rfl⟩
    · refine ⟨_, congrArg Host.Outcome.next (mxStart_winv hfind hheld hk), hothers s _ rfl, ?_⟩
      rw [State.modCluster_same]
      refine ⟨rfl, ?_⟩
      cases h with
      | none => rfl
      | some n => rfl
    · obtain ⟨d, hd⟩ := wloadRun_wdir (hk ▸ hrun)
      refine ⟨_, congrArg Host.Outcome.next (mxStart_wload hfind hheld hk hrun), ?_⟩
      rw [State.modCluster_same]
      have hdir : ((s1.cluster cl).without c.id).wdir = dirStep d (.wload h r o rs) := hd
      rw [hdir]
      exact ⟨mem_dirStep_wload d h o r rs, rfl, rfl, fun x hx => dirStep_wload hx, fun x hx => Cluster.without_cmds_ne hx⟩
    · refine ⟨_, congrArg Host.Outcome.next (mxStart_mdrain hfind hheld hk), rfl, ?_⟩
      rw [State.modCluster_same]
      have hc : c ∈ ((drainWrite s cl sl x r0 rd cr rs sc).cluster cl).cmds := by
        rw [drainWrite_cmds]
        exact List.mem_of_find?_eq_some hfind
      exact ⟨_, begun_mem (drainBytes x rd) hc, rfl, rfl, rfl⟩
  case step =>
    intro c scaled slot kb0 kn ra crew ha hb rs screw f hact hk hhalt hpause hslot e he hn rows k1
    obtain ⟨slabs, cmds, halted, draw, hstep⟩ := engineStep_eq hact hk hhalt hpause he
    refine ⟨_, congrArg Host.Outcome.next hstep, fun j hj => (cluster_draw _ draw j).trans (modCluster_ne s cl _ hj), rfl, rfl, rfl, ?_⟩
    rw [cluster_draw, State.modCluster_same]
    refine ⟨rfl, rfl, rfl, rfl, fun n hne => ?_, fun i j hj => ?_⟩
    · change ((s.cluster cl).acc.set slot _).getD n [] = _
      rw [List.getD_eq_getElem?_getD, List.getElem?_set_ne hne.symm, ← List.getD_eq_getElem?_getD]
    · change accVal (((s.cluster cl).acc.set slot _).getD slot []) _ = _
      rw [List.getD_eq_getElem?_getD, List.getElem?_set_self hslot]
      exact accVal_steppedSlot s cl scaled slot kb0 crew ha screw f c.kb c.rg ra rs hn i j hj
  case drain =>
    intro c bytes sl x r0 ar rd cr rs sc hfind hk hpos
    refine ⟨_, drainCount_run hfind hk hpos, rfl, ?_⟩
    rw [State.modCluster_same]
    change (if _ then (_ : Cluster).cmds.filter _ else (_ : Cluster).cmds.map _) = _
    rw [cmds_congr (countInto_clusters s cr ar (min bytes c.left)) cl]
    exact drainCount_cmds (s.cluster cl).cmds c bytes

end Sys2Proof.Proofs
end

section
/-! PROOF. The candidate run of a warp: the runs that it is taken from, the one at the lowest PC among them, and what does not issue when the
candidate cannot (04_threads.md R85, R88). -/

namespace Sys2Proof.Machine

/-! ## The lowest PC and the largest skip count of some lanes -/

@[simp] theorem lowestPc_eq_none {pt : PcTable} {ls : List Nat} : lowestPc pt ls = none ↔ ls = [] := by
  cases ls with
  | nil => simp [lowestPc]
  | cons l t => cases h : lowestPc pt t <;> simp [lowestPc, h]

/-- The lowest PC is one of the lanes' PCs, and none lies below it. -/
theorem lowestPc_least {pt : PcTable} {ls : List Nat} {pc : Word} (h : lowestPc pt ls = some pc) :
    (∃ l ∈ ls, pt.pcs.getD l 0 = pc) ∧ ∀ l ∈ ls, pc.toNat ≤ (pt.pcs.getD l 0).toNat := by
  induction ls generalizing pc with
  | nil => cases h
  | cons l t ih =>
    rw [lowestPc] at h
    cases ht : lowestPc pt t with
    | none =>
      obtain rfl := lowestPc_eq_none.1 ht
      obtain rfl : pt.pcs.getD l 0 = pc := by simpa [ht] using h
      simp
    | some p =>
      obtain ⟨⟨j, hj, hpc⟩, hle⟩ := ih ht
      simp only [ht, Option.some.injEq] at h
      split_ifs at h with hlow
      · subst h
        exact ⟨⟨l, List.mem_cons_self, rfl⟩, List.forall_mem_cons.2 ⟨le_rfl, fun i hi => hlow.trans (hle i hi)⟩⟩
      · subst h
        exact ⟨⟨j, List.mem_cons_of_mem l hj, hpc⟩, List.forall_mem_cons.2 ⟨by omega, hle⟩⟩

theorem largestSkip_le {pt : PcTable} {ls : List Nat} {n : Nat} : largestSkip pt ls ≤ n ↔ ∀ l ∈ ls, pt.skips.getD l 0 ≤ n := by
  have hfold : ∀ m, ls.foldl (fun m l => max m (pt.skips.getD l 0)) m ≤ n ↔ m ≤ n ∧ ∀ l ∈ ls, pt.skips.getD l 0 ≤ n := by
    induction ls with
    | nil => simp
    | cons l t ih =>
      intro m
      rw [List.foldl_cons, ih, max_le_iff, List.forall_mem_cons, and_assoc]
  simpa [largestSkip] using hfold 0

theorem largestSkip_lt {pt : PcTable} {ls : List Nat} {n : Nat} (hn : 0 < n) :
    largestSkip pt ls < n ↔ ∀ l ∈ ls, pt.skips.getD l 0 < n := by
  obtain ⟨k, rfl⟩ := Nat.exists_eq_add_one.2 hn
  simp only [Nat.lt_succ_iff, largestSkip_le]

/-- A lane's skip count is the largest where no lane's lies above it. -/
theorem skip_eq_largestSkip {pt : PcTable} {ls : List Nat} {l : Nat} (hl : l ∈ ls) :
    pt.skips.getD l 0 = largestSkip pt ls ↔ ∀ j ∈ ls, pt.skips.getD j 0 ≤ pt.skips.getD l 0 := by
  rw [← largestSkip_le]
  exact ⟨fun h => h.ge, fun h => le_antisymm (largestSkip_le.1 le_rfl l hl) h⟩

/-- Some lane has the largest skip count, where that is not the zero of no lane at all. -/
theorem exists_skip_eq_largestSkip {pt : PcTable} {ls : List Nat} (h : 0 < largestSkip pt ls) :
    ∃ l ∈ ls, pt.skips.getD l 0 = largestSkip pt ls := by
  by_contra hnone
  push Not at hnone
  have hlt := (largestSkip_lt h).2 fun l hl => lt_of_le_of_ne (largestSkip_le.1 le_rfl l hl) (hnone l hl)
  exact hlt.false

/-! ## The lanes whose runs come first -/

/-- The lanes that the candidate run is the lowest of: all of them while no skip count has reached 32, else those with the largest count. -/
def firstLanes (pt : PcTable) (ls : List Nat) : List Nat :=
  if largestSkip pt ls < 32 then ls else ls.filter (fun l => pt.skips.getD l 0 == largestSkip pt ls)

theorem candidatePc_eq (pt : PcTable) (ls : List Nat) : candidatePc pt ls = lowestPc pt (firstLanes pt ls) := rfl

theorem firstLanes_head {pt : PcTable} {ls : List Nat} (h : ∀ l ∈ ls, pt.skips.getD l 0 < 32) : firstLanes pt ls = ls :=
  if_pos ((largestSkip_lt (by decide)).2 h)

theorem firstLanes_subset (pt : PcTable) (ls : List Nat) : firstLanes pt ls ⊆ ls := by
  unfold firstLanes
  split_ifs
  · exact List.Subset.refl ls
  · exact List.filter_subset_self _

theorem mem_firstLanes_starved {pt : PcTable} {ls : List Nat} {k l : Nat} (hk : k ∈ ls) (hskip : 32 ≤ pt.skips.getD k 0) :
    l ∈ firstLanes pt ls ↔ l ∈ ls ∧ ∀ j ∈ ls, pt.skips.getD j 0 ≤ pt.skips.getD l 0 := by
  have hlarge : ¬ largestSkip pt ls < 32 := fun h => absurd ((largestSkip_lt (by decide)).1 h k hk) (by omega)
  rw [firstLanes, if_neg hlarge, List.mem_filter, beq_iff_eq]
  exact and_congr_right skip_eq_largestSkip

theorem firstLanes_eq_nil {pt : PcTable} {ls : List Nat} : firstLanes pt ls = [] ↔ ls = [] := by
  refine ⟨fun hnil => ?_, fun h => List.subset_nil.1 (h ▸ firstLanes_subset pt ls)⟩
  unfold firstLanes at hnil
  split_ifs at hnil with hlt
  · exact hnil
  · obtain ⟨l, hl, hskip⟩ := exists_skip_eq_largestSkip (pt := pt) (ls := ls) (by omega)
    exact absurd (beq_iff_eq.2 hskip) (List.filter_eq_nil_iff.1 hnil l hl)

/-! ## The candidate of a warp whose crew no request pre-empts -/

theorem lanesOf_eq_nil {m : Mask} : lanesOf m = [] ↔ m = 0 := by
  refine ⟨fun h => BitVec.eq_of_getLsbD_eq fun l hl => ?_, fun h => by simp [h, lanesOf]⟩
  have hnot : l ∉ lanesOf m := by simp [h]
  simpa [mem_lanesOf, hl, -BitVec.getLsbD_eq_getElem] using hnot

theorem candidate_eq {c : Crew} (hc : c.preempt = none) (w : Warp) :
    candidate c w = (lowestPc w.pt (firstLanes w.pt (lanesOf w.pt.live))).map (fun pc => (pc, runAt w.pt pc)) := by
  simp [candidate, choiceLanes, hc, candidatePc_eq]

theorem candidate_eq_some {c : Crew} {w : Warp} {pc : Word} {act : Mask} (hc : c.preempt = none) :
    candidate c w = some (pc, act) ↔ lowestPc w.pt (firstLanes w.pt (lanesOf w.pt.live)) = some pc ∧ act = runAt w.pt pc := by
  rw [candidate_eq hc, Option.map_eq_some_iff]
  constructor
  · rintro ⟨_, hlow, ⟨⟩⟩
    exact ⟨hlow, rfl⟩
  · rintro ⟨hlow, rfl⟩
    exact ⟨pc, hlow, rfl⟩

theorem candidate_eq_none {c : Crew} (hc : c.preempt = none) (w : Warp) : candidate c w = none ↔ w.pt.live = 0 := by
  rw [candidate_eq hc, Option.map_eq_none_iff, lowestPc_eq_none, firstLanes_eq_nil, lanesOf_eq_nil]

/-- Every live thread at a PC is in its run. -/
theorem runAt_getLsbD (w : Warp) (pc : Word) {l : Nat} (hl : l < 32) :
    (runAt w.pt pc).getLsbD l = (w.pt.live.getLsbD l && pcLane w l == pc) := by
  rw [runAt, maskOf_getLsbD, decide_eq_true hl, Bool.true_and]
  rfl

theorem runAt_ne_zero {w : Warp} {pc : Word} {l : Nat} (hl : l ∈ lanesOf w.pt.live) (hpc : pcLane w l = pc) : runAt w.pt pc ≠ 0 := by
  obtain ⟨hlt, hlive⟩ := mem_lanesOf.1 hl
  intro hzero
  have hbit := runAt_getLsbD w pc hlt
  rw [hzero, hlive, hpc] at hbit
  simp at hbit

/-! ## What issues is the choice of a quad, and it is eligible (R85, R86) -/

/-- A choice from a list that either takes the head or leaves it for a choice from the rest takes one of the list. -/
theorem mem_of_pick {α : Type} {pick : List α → Option α} (hnil : pick [] = none)
    (hcons : ∀ d t, pick (d :: t) = some d ∨ pick (d :: t) = pick t) {es : List α} {e : α} (h : pick es = some e) : e ∈ es := by
  induction es with
  | nil => simp [hnil] at h
  | cons d t ih =>
    rcases hcons d t with hd | ht
    · exact Option.some.inj (hd.symm.trans h) ▸ List.mem_cons_self
    · exact List.mem_cons_of_mem d (ih (ht.symm.trans h))

theorem bestOf_mem {es : List (Nat × Warp)} {e : Nat × Warp} (h : bestOf es = some e) : e ∈ es := by
  refine mem_of_pick rfl (fun d t => ?_) h
  rw [bestOf]
  cases bestOf t with
  | none => exact Or.inl rfl
  | some f => by_cases hf : goesBefore f.2 d.2 = true <;> simp [hf]

theorem oldestOf_mem {es : List (Nat × Warp)} {e : Nat × Warp} (h : oldestOf es = some e) : e ∈ es := by
  refine mem_of_pick rfl (fun d t => ?_) h
  rw [oldestOf]
  cases oldestOf t with
  | none => exact Or.inl rfl
  | some f => by_cases hf : d.2.age < f.2.age <;> simp [hf]

theorem eligible_of_mem {s : State} {q : Nat} {e : Nat × Warp} (h : e ∈ eligibles s q) : eligible s e.1 = true := by
  have hboth := (List.mem_filter.1 h).2
  exact (Bool.and_eq_true_iff.1 hboth).2

theorem agedWarp_eligible {s : State} {q key : Nat} (h : agedWarp s q = some key) : eligible s key = true := by
  obtain ⟨e, he, rfl⟩ := Option.map_eq_some_iff.1 h
  exact eligible_of_mem (List.mem_filter.1 (oldestOf_mem he)).1

theorem chosen_eligible {s : State} {q key : Nat} (h : chosen s q = some key) : eligible s key = true := by
  unfold chosen at h
  split_ifs at h
  split at h
  next k hk =>
    obtain rfl := Option.some.inj h
    exact agedWarp_eligible hk
  next hnone =>
    obtain ⟨e, he, rfl⟩ := Option.map_eq_some_iff.1 h
    exact eligible_of_mem (bestOf_mem he)

theorem mayIssue_eligible {s : State} {key : Nat} (hsecond : secondWarp s = none) (h : mayIssue s key = true) : eligible s key = true := by
  simp only [mayIssue, hsecond, Bool.and_eq_true, decide_eq_true_eq] at h
  exact chosen_eligible h.1

/-- What is made ready as a first slot is the candidate of the warp, and the cursor holds it. -/
theorem prepare_first {s t : State} {key : Nat} {i : Instr} (h : prepare s key = .first i t) :
    ∃ w c, s.warp key = some w ∧ s.crewSeen w.crew = some c ∧ candidate c w = some (t.cur.pc, t.cur.act) := by
  unfold prepare at h
  split at h
  · cases h
  next w hw =>
    split at h
    · split at h
      · cases h
      · split at h <;> cases h
    · split at h
      · cases h
      next c hc =>
        split at h
        · cases h
        next pc act hcand =>
          dsimp only at h
          split_ifs at h
          split at h
          · cases h
          · split at h
            · cases h
            · cases h
              exact ⟨w, c, hw, hc, hcand⟩

end Sys2Proof.Machine

namespace Sys2Proof.Proofs
open Sys2Proof Sys2Proof.Machine

/-- Settles O58, by the lanes that the candidate run is the lowest of, and since what issues is eligible. -/
theorem candidateRun : Obligations.CandidateRun := by
  unfold Obligations.CandidateRun
  refine ⟨?run, fun c w hc => candidate_eq_none hc w, ?other, fun s key i t h => prepare_first h⟩
  case run =>
    intro c w pc act hc hcand live skip
    have hlive (l : Nat) : live l ↔ l ∈ lanesOf w.pt.live := mem_lanesOf.symm
    obtain ⟨hlow, rfl⟩ := (candidate_eq_some hc).1 hcand
    obtain ⟨⟨l, hl, hpc⟩, hleast⟩ := lowestPc_least hlow
    simp only [hlive]
    refine ⟨fun l hl => runAt_getLsbD w pc hl, runAt_ne_zero (firstLanes_subset _ _ hl) hpc, fun hhead => ?_, fun ⟨k, hk, hskip⟩ => ?_⟩
    · rwa [firstLanes_head hhead] at hleast
    · have hfirst (l : Nat) := mem_firstLanes_starved (l := l) hk hskip
      obtain ⟨hmem, hmax⟩ := (hfirst l).1 hl
      exact ⟨⟨l, hmem, hpc, hmax⟩, fun j hj hjmax => hleast j ((hfirst j).2 ⟨hj, hjmax⟩)⟩
  case other =>
    intro s key hnot hsecond
    exact Bool.eq_false_iff.2 fun hmay => Bool.false_ne_true (hnot.symm.trans (mayIssue_eligible hsecond hmay))

end Sys2Proof.Proofs
end

section
/-! PROOF. The timers of a warp: the age override, the end of a YIELD, the end of a timed sleep (04_threads.md R86,
07_thread_control_traps.md R170, 08_core_groups.md R215, R218). -/

namespace Sys2Proof.Machine

/-- The aged warp is the choice of its quad, where the quad may still issue in this cycle. -/
theorem chosen_aged {s : State} {q key : Nat} (haged : agedWarp s q = some key) (hissued : (s.quad q).issued ≠ some s.cycle)
    (hpassed : quadPassed s q = false) : chosen s q = some key := by
  simp [chosen, haged, hissued, hpassed]

/-- A wake event changes the cores alone. -/
theorem wakeCore_frame (s : State) (unit bit : Nat) : { wakeCore s unit bit with cores := [] } = { s with cores := [] } := by
  simp only [wakeCore]
  split_ifs <;> rfl

/-- A wake event leaves a unit gated only where it is no core or holds no crew. -/
theorem wakeCore_gated (s : State) (unit bit : Nat) : ((wakeCore s unit bit).core unit).gated =
    ((s.core unit).gated && (1216 ≤ unit || !s.crews.any (fun e => e.2.unit = unit))) := by
  simp only [wakeCore]
  by_cases hno : (1216 ≤ unit || !s.crews.any (fun e => e.2.unit = unit)) = true
  · rw [if_pos hno, hno, Bool.and_true]
  · rw [if_neg hno, Bool.eq_false_iff.2 hno, Bool.and_false]
    split_ifs with hgated <;> simp [hgated]

/-- A half of a warp that no longer sleeps; a set wake-pending bit stays. -/
def Sleep.over (v : Sleep) : Sleep := { v with asleep := false, until? := none }

/-- The sleep of a half of a warp, by the number that an event names it by. -/
def Warp.sleepOf (w : Warp) (half : Nat) : Sleep := if half = 0 then w.sleepLo else w.sleepHi

/-- A half of a warp awake again. -/
def Warp.awakened (w : Warp) (half : Nat) : Warp :=
  if half = 0 then { w with sleepLo := w.sleepLo.over } else { w with sleepHi := w.sleepHi.over }

/-- A timed sleep whose time has come ends, and its core takes a wake event with bit 5 of REASON. -/
theorem sleepTimer_run {s : State} {unit slot half n : Nat} {w : Warp} (hw : s.warp (unit * 32 + slot) = some w)
    (hasleep : (w.sleepOf half).asleep = true) (huntil : (w.sleepOf half).until? = some n) (hn : n ≤ s.cycle) :
    exec (.sleepTimer unit slot half) s = .next (wakeCore (s.setWarp (unit * 32 + slot) (w.awakened half)) unit 5) := by
  change execSleepTimer unit slot half s = _
  unfold Warp.sleepOf at hasleep huntil
  simp only [execSleepTimer, hw, huntil, hasleep, hn, decide_true, Bool.and_true, if_true]
  rcases eq_or_ne half 0 with rfl | hhalf
  · rfl
  · simp only [Warp.awakened, hhalf, if_false, Sleep.over]

end Sys2Proof.Machine

namespace Sys2Proof.Proofs
open Sys2Proof Sys2Proof.Machine

/-- Settles O33: the aged warp is the choice of its quad, the end of a YIELD is one change of the warp, and the end of a timed sleep is one
change of the warp and a wake event of its core. -/
theorem warpTimers : Obligations.WarpTimers := by
  unfold Obligations.WarpTimers
  intro unit slot half s w key
  refine ⟨?age, ?yield, ?sleep⟩
  case age =>
    intro haged hissued hpassed
    change execAgeOverride unit slot s = _
    have hboth : (decide (chosen s (keyQuad key) = some key) && decide (agedWarp s (keyQuad key) = some key)) = true := by
      simp [chosen_aged haged hissued hpassed, haged]
    exact congrArg Host.Outcome.next (if_pos hboth)
  case yield =>
    intro hw hover
    refine ⟨_, congrArg Host.Outcome.next ((modWarp_some s key w _ hw).trans (congrArg (s.setWarp key) (if_pos hover))), ?_, ?_, rfl⟩
    · exact warp_setWarp_same s key _
    · exact fun k hk => warp_setWarp_ne s key k _ hk
  case sleep =>
    intro n hw hasleep huntil hn
    refine ⟨_, sleepTimer_run hw hasleep huntil hn, ?_, fun k hk => ?_, ?_, ?_⟩
    · simp only [State.warp, wakeCore_warps]
      exact warp_setWarp_same s key _
    · simp only [State.warp, wakeCore_warps]
      exact warp_setWarp_ne s key k _ hk
    · exact wakeCore_gated (s.setWarp key (w.awakened half)) unit 5
    · exact congrArg (fun t : State => { t with warps := [] }) (wakeCore_frame (s.setWarp key (w.awakened half)) unit 5)

end Sys2Proof.Proofs
end

section
/-! PROOF. Moves, carries, bit operations and compares of one thread: what an issue writes, said once for each form of result
(05_thread_arith.md R106-R112, R118-R124; 06_thread_convert_lanes.md R159). -/

namespace Sys2Proof.Machine

/-! ## One register, no flag -/

/-- Bitwise logic on whole words writes its words, with the poison of both sources half by half. -/
theorem gives_issueLogic {i : Instr} {h : Hdr} {o : OpR} {s : State} {g : Word → Word → Word}
    (he : exec i s = issueLogic i h o s g) (hp : ((instrInfo i).pipe == .m) = false) :
    Gives i h s (fun c => cleanUpdate c o.o1 (fun l =>
      ⟨g (c.val o.o2 l).val (srcB c o (etyWidth (etyF h.f)) l).val, (c.val o.o2 l).poi ||| (srcB c o (etyWidth (etyF h.f)) l).poi⟩)) :=
  gives_cleanLanes he hp (fun _ _ => rfl) (fun _ _ => rfl)

/-- An operation on sub-element patterns writes what `bitLane` packs. -/
theorem gives_bitLanes {i : Instr} {h : Hdr} {b : Byte} {s : State} {srcs : Ctx → Nat → List Lane} {g : Nat → List Nat → Nat}
    (he : exec i s = issueLanes i h b s (fun c l => bitLane c h.f (srcs c l) g)) (hp : ((instrInfo i).pipe == .m) = false) :
    Gives i h s (fun c => laneUpdate c b (fun l => bitLane c h.f (srcs c l) g)) :=
  gives_issueLanes he hp (fun _ => rfl)

/-! ## A predicate, alone or with flags or a register -/

/-- An instruction that writes one predicate and no more. -/
theorem gives_preds {i : Instr} {h : Hdr} {b : Byte} {s : State} {val poi : Ctx → Nat → Bool}
    (he : exec i s = issue i h s (fun c s1 => .ok (writePreds c s1 b (val c) (poi c))))
    (hp : ((instrInfo i).pipe == .m) = false) : Gives i h s (fun c => predUpdate c b (fun l => (val c l, poi c l))) := by
  refine gives_body he hp fun w _ s1 v0 hv hC hR => ?_
  obtain ⟨v1, hv1, hC1, hR1⟩ := changes_writePreds b (val (issueCtx i h s w)) (poi (issueCtx i h s w)) hv hC hR
  exact ⟨_, v1, rfl, hv1, hC1.congr (by simp [Update.then, predUpdate]), hR1⟩

/-- An instruction that writes one predicate and raises flags. -/
theorem gives_predsFlags {i : Instr} {h : Hdr} {b : Byte} {s : State} {val poi : Ctx → Nat → Bool} {fl : Ctx → Flags}
    (he : exec i s = issue i h s (fun c s1 =>
      .ok (raiseFlags (writePreds c s1 b (val c) (poi c)) c.key (c.s.cycle + c.floor) (fl c))))
    (hp : ((instrInfo i).pipe == .m) = false) : Gives i h s (fun c => { preds := onPred b c.exec (fun l => (val c l, poi c l)), flags := fl c }) := by
  refine gives_body he hp fun w _ s1 v0 hv hC hR => ?_
  obtain ⟨v1, hv1, hC1, hR1⟩ := changes_writePreds b (val (issueCtx i h s w)) (poi (issueCtx i h s w)) hv hC hR
  obtain ⟨v2, hv2, hC2, hR2⟩ := changes_raiseFlags (fl (issueCtx i h s w)) hv1 hC1 hR1
  exact ⟨_, v2, rfl, hv2, hC2.congr (by simp [Update.then]), hR2⟩

/-- An instruction that writes one register and one predicate, and raises no flag. -/
theorem gives_cleanPreds {i : Instr} {h : Hdr} {b p : Byte} {s : State} {f : Ctx → Nat → Lane} {val poi : Ctx → Nat → Bool}
    (he : exec i s = issue i h s (fun c s1 => .ok (writePreds c (writeClean c s1 b (f c)) p (val c) (poi c))))
    (hp : ((instrInfo i).pipe == .m) = false) :
    Gives i h s (fun c => { regs := onReg c.w b c.exec (f c), preds := onPred p c.exec (fun l => (val c l, poi c l)) }) := by
  refine gives_body he hp fun w _ s1 v0 hv hC hR => ?_
  obtain ⟨v1, hv1, hC1, hR1⟩ := changes_writeReg b (issueCtx i h s w).exec (f (issueCtx i h s w)) hv hC hR
  obtain ⟨v2, hv2, hC2, hR2⟩ := changes_writePreds p (val (issueCtx i h s w)) (poi (issueCtx i h s w)) hv1 hC1 hR1
  exact ⟨_, v2, rfl, hv2, hC2.congr (by simp [Update.then]), hR2⟩

/-- A 64-bit sum or difference writes its wrapped result and the predicate that says whether it left the type; `bad` poisons both. -/
theorem gives_issueCarry {i : Instr} {h : Hdr} {b p : Byte} {s : State} {srcs : Ctx → Nat → List Lane} {poi bad : Ctx → Nat → Bool}
    {x : Ctx → Nat → Int} (he : exec i s = issueCarry i h b p s srcs poi x) (hp : ((instrInfo i).pipe == .m) = false)
    (hbad : ∀ c l, ((srcs c l).any anyPoison || poi c l) = bad c l) :
    Gives i h s (fun c =>
      { regs := onReg c.w b c.exec (fun l => ⟨BitVec.ofInt 64 (x c l), bothPoison (bad c l)⟩)
        preds := onPred p c.exec (fun l => (outside64 h.f (x c l), bad c l)) }) :=
  gives_cleanPreds (he.trans (by simp only [issueCarry, hbad])) hp

end Sys2Proof.Machine

namespace Sys2Proof.Proofs
open Sys2Proof Sys2Proof.Machine

/-- Settles O1: each of the five writes one register from lane results without flags. -/
theorem moveResults : Obligations.MoveResults := by
  unfold Obligations.MoveResults
  intro h o q s
  refine ⟨?mov, ?movi, ?movhi, ?sel, ?lea⟩
  case mov => exact gives_cleanLanes (show exec (.mov h o) s = execMov h o s from rfl) rfl (fun _ _ => rfl) (fun _ _ => rfl)
  case movi => exact gives_cleanLanes (show exec (.movi h q) s = execMovi h q s from rfl) rfl (fun _ _ => rfl) (fun _ _ => rfl)
  case movhi => exact gives_cleanLanes (show exec (.movhi h q) s = execMovhi h q s from rfl) rfl (fun _ _ => rfl) (fun _ _ => rfl)
  case sel => exact gives_cleanLanes (show exec (.sel h o) s = execSel h o s from rfl) rfl (fun _ _ => rfl) (fun _ _ => rfl)
  case lea => exact gives_cleanLanes (show exec (.lea h o) s = execLea h o s from rfl) rfl (fun _ _ => rfl) (fun _ _ => rfl)

/-- Settles O3: IADDS, ISUBS and IADC differ in their sources of poison and in the exact result alone. -/
theorem carryResults : Obligations.CarryResults := by
  unfold Obligations.CarryResults
  intro h o s
  refine ⟨?iadds, ?isubs, ?iadc⟩
  case iadds => exact gives_issueCarry (show exec (.iadds h o) s = execIadds h o s from rfl) rfl (fun _ _ => by simp)
  case isubs => exact gives_issueCarry (show exec (.isubs h o) s = execIsubs h o s from rfl) rfl (fun _ _ => by simp)
  case iadc => exact gives_issueCarry (show exec (.iadc h o) s = execIadc h o s from rfl) rfl (fun _ _ => by simp [Bool.or_assoc])

/-- Settles O4: logic works on whole words, the others are sub-element patterns that `bitLane` packs. -/
theorem bitResults : Obligations.BitResults := by
  unfold Obligations.BitResults
  intro h o s
  refine ⟨?and, ?or, ?xor, ?andn, ?lop3, ?shl, ?shr, ?sar, ?rotl, ?fshf, ?bfx, ?bfi, ?popc, ?clz, ?ctz, ?brev⟩
  case and => exact gives_issueLogic (show exec (.and h o) s = execAnd h o s from rfl) rfl
  case or => exact gives_issueLogic (show exec (.or h o) s = execOr h o s from rfl) rfl
  case xor => exact gives_issueLogic (show exec (.xor h o) s = execXor h o s from rfl) rfl
  case andn => exact gives_issueLogic (show exec (.andn h o) s = execAndn h o s from rfl) rfl
  case lop3 => exact gives_cleanLanes (show exec (.lop3 h o) s = execLop3 h o s from rfl) rfl (fun _ _ => rfl) (fun _ _ => rfl)
  all_goals exact gives_bitLanes rfl rfl

/-- Settles O5: ICMP and PLOP write a predicate alone, FCMP raises NV beside it. -/
theorem predicateResults : Obligations.PredicateResults := by
  unfold Obligations.PredicateResults
  intro h o s
  refine ⟨?icmp, ?fcmp, ?plop⟩
  case icmp | plop => exact gives_preds rfl rfl
  case fcmp => exact gives_predsFlags rfl rfl

end Sys2Proof.Proofs
end

section
/-! PROOF. Conversions, and the cross-lane instructions: every source is read in the context of the issue, and the writes follow one after another
(06_thread_convert_lanes.md R136, R138-R145, R152-R161). -/

namespace Sys2Proof.Machine

/-! ## Several writes one after another -/

/-- Writes made for the members of a list one after another hold their updates one over another. -/
theorem changes_foldl {α : Type} {c : Ctx} {b : State} {g : State → α → State} {x : α → Update}
    (hstep : ∀ {t v u} a, t.warp c.key = some v → Changes c t v u → Rest c t b →
      ∃ v', (g t a).warp c.key = some v' ∧ Changes c (g t a) v' (u.then (x a)) ∧ Rest c (g t a) b)
    (as : List α) {t : State} {v : Warp} {u : Update} (hv : t.warp c.key = some v) (hC : Changes c t v u) (hR : Rest c t b) :
    ∃ v', (as.foldl g t).warp c.key = some v' ∧ Changes c (as.foldl g t) v' (as.foldl (fun u a => u.then (x a)) u) ∧
      Rest c (as.foldl g t) b := by
  induction as generalizing t v u with
  | nil => exact ⟨v, hv, hC, hR⟩
  | cons a as ih =>
    obtain ⟨v1, hv1, hC1, hR1⟩ := hstep a hv hC hR
    exact ih hv1 hC1 hR1

/-- An instruction that writes the members of a list one after another, and does no more. -/
theorem gives_foldl {α : Type} {i : Instr} {h : Hdr} {s : State} {as : List α} {g : Ctx → State → α → State} {x : Ctx → α → Update}
    (he : exec i s = issue i h s (fun c s1 => .ok (as.foldl (g c) s1))) (hp : ((instrInfo i).pipe == .m) = false)
    (hstep : ∀ {c b t v u} a, t.warp c.key = some v → Changes c t v u → Rest c t b →
      ∃ v', (g c t a).warp c.key = some v' ∧ Changes c (g c t a) v' (u.then (x c a)) ∧ Rest c (g c t a) b) :
    Gives i h s (fun c => as.foldl (fun u a => u.then (x c a)) {}) := by
  refine gives_body he hp fun w _ s1 v0 hv hC hR => ?_
  obtain ⟨v1, hv1, hC1, hR1⟩ := changes_foldl hstep as hv hC hR
  exact ⟨_, v1, rfl, hv1, hC1, hR1⟩

/-- An instruction that writes one predicate and then one register, and raises no flag. -/
theorem gives_predsClean {i : Instr} {h : Hdr} {b p : Byte} {s : State} {f : Ctx → Nat → Lane} {val poi : Ctx → Nat → Bool}
    (he : exec i s = issue i h s (fun c s1 => .ok (writeClean c (writePreds c s1 p (val c) (poi c)) b (f c))))
    (hp : ((instrInfo i).pipe == .m) = false) :
    Gives i h s (fun c => { regs := onReg c.w b c.exec (f c), preds := onPred p c.exec (fun l => (val c l, poi c l)) }) := by
  refine gives_body he hp fun w _ s1 v0 hv hC hR => ?_
  obtain ⟨v1, hv1, hC1, hR1⟩ := changes_writePreds p (val (issueCtx i h s w)) (poi (issueCtx i h s w)) hv hC hR
  obtain ⟨v2, hv2, hC2, hR2⟩ := changes_writeReg b (issueCtx i h s w).exec (f (issueCtx i h s w)) hv1 hC1 hR1
  exact ⟨_, v2, rfl, hv2, hC2.congr (by simp [Update.then]), hR2⟩

/-! ## ZIP and UNZIP (R155) -/

/-- What ZIP or UNZIP writes in lane l of register j of its range. -/
def zipLane (c : Ctx) (o : OpR) (w : Nat) (un : Bool) (j l : Nat) : Lane :=
  moveLanes w (fun sb =>
    let f := zipFrom un o.x.toNat (logN c * (64 / w)) j (logIdx c l * (64 / w) + sb)
    ⟨c.val (byteAdd o.o2 f.1) (logLane c (logGroup c l) (f.2 / (64 / w))), f.2 % (64 / w), false⟩)

/-- ZIP and UNZIP write their registers in ascending order, each from the sources as the issue found them. -/
theorem gives_issueZip {i : Instr} {h : Hdr} {o : OpR} {s : State} {un : Bool} (he : exec i s = issueZip i h o s un)
    (hp : ((instrInfo i).pipe == .m) = false) :
    Gives i h s (fun c => (List.range o.x.toNat).foldl
      (fun u j => u.then (cleanUpdate c (byteAdd o.o1 j) (zipLane c o (etyWidth (etyF h.f)) un j))) {}) :=
  gives_foldl (g := fun c t j => writeClean c t (byteAdd o.o1 j) (zipLane c o (etyWidth (etyF h.f)) un j)) he hp
    fun _ hv hC hR => changes_writeReg _ _ _ hv hC hR

/-! ## PMOV to predicates (R160) -/

/-- PMOV's write of one predicate, where its mask names it. -/
def pmovOne (c : Ctx) (o : OpR) (t : State) (n : Nat) : State :=
  if o.x.getLsbD (n + 1) then
    writePreds c t (BitVec.ofNat 8 (248 + n)) (fun l => (c.val o.o2 l).val.getLsbD n) (fun l => (c.val o.o2 l).poi.getLsbD 0)
  else t

/-- What PMOV makes of a predicate in a lane, where its mask names the predicate. -/
def pmovPred (c : Ctx) (o : OpR) (p l : Nat) : Option (Bool × Bool) :=
  if o.x.getLsbD (p + 1) = true ∧ c.exec.getLsbD l = true then some ((c.val o.o2 l).val.getLsbD p, (c.val o.o2 l).poi.getLsbD 0) else none

/-- What PMOV makes of predicate n alone. -/
def pmovOnly (c : Ctx) (o : OpR) (n : Nat) : Update := { preds := fun p l => if p = n then pmovPred c o p l else none }

/-- A predicate whose bit PMOV's mask holds is one of the seven that exist. -/
theorem lt_seven_of_mask {x : Byte} {p : Nat} (h : x.getLsbD (p + 1) = true) : p < 7 := by
  have := BitVec.lt_of_getLsbD h
  omega

theorem onPred_pmov (c : Ctx) (o : OpR) {n : Nat} (h : o.x.getLsbD (n + 1) = true) (p l : Nat) :
    onPred (BitVec.ofNat 8 (248 + n)) c.exec (fun l => ((c.val o.o2 l).val.getLsbD n, (c.val o.o2 l).poi.getLsbD 0)) p l =
      if p = n then pmovPred c o p l else none := by
  have hn : n < 7 := lt_seven_of_mask h
  have hb : (BitVec.ofNat 8 (248 + n)).toNat = 248 + n := by
    rw [BitVec.toNat_ofNat]
    omega
  by_cases hp : p = n
  · subst hp
    simp [onPred, pmovPred, hb, h, show 248 + p < 255 by omega]
  · simp [onPred, hb, hp]

/-- The write of one predicate changes that predicate alone, and nothing where the mask does not name it. -/
theorem changes_pmovOne {c : Ctx} {t b : State} {v : Warp} {u : Update} (o : OpR) (n : Nat)
    (hv : t.warp c.key = some v) (hC : Changes c t v u) (hR : Rest c t b) :
    ∃ v', (pmovOne c o t n).warp c.key = some v' ∧
      Changes c (pmovOne c o t n) v' (u.then (pmovOnly c o n)) ∧ Rest c (pmovOne c o t n) b := by
  by_cases hx : o.x.getLsbD (n + 1) = true
  · obtain ⟨v1, hv1, hC1, hR1⟩ := changes_writePreds (BitVec.ofNat 8 (248 + n)) (fun l => (c.val o.o2 l).val.getLsbD n)
      (fun l => (c.val o.o2 l).poi.getLsbD 0) hv hC hR
    simp only [pmovOne, if_pos hx]
    exact ⟨v1, hv1, hC1.congr (by simp only [Update.then, pmovOnly, onPred_pmov c o hx]), hR1⟩
  · have hnone : ∀ p l, (if p = n then pmovPred c o p l else none) = none := by
      intro p l
      by_cases hp : p = n
      · subst hp
        simp [pmovPred, hx]
      · simp [hp]
    simp only [pmovOne, if_neg hx]
    exact ⟨v, hv, hC.congr (by simp [Update.then, pmovOnly, hnone]), hR⟩

/-- The predicates below n, written in ascending order, each hold what PMOV makes of them. -/
theorem foldl_pmov (c : Ctx) (o : OpR) (n : Nat) :
    (List.range n).foldl (fun (u : Update) k => u.then (pmovOnly c o k)) {} =
      { preds := fun p l => if p < n then pmovPred c o p l else none } := by
  induction n with
  | zero => rfl
  | succ n ih =>
    have hone : ∀ p l, ((if p = n then pmovPred c o p l else none).or (if p < n then pmovPred c o p l else none)) =
        if p < n + 1 then pmovPred c o p l else none := by
      intro p l
      rcases Nat.lt_trichotomy p n with hp | hp | hp
      · simp [hp, show p ≠ n by omega, show p < n + 1 by omega]
      · simp [hp]
      · simp [show ¬ p < n by omega, show p ≠ n by omega, show ¬ p < n + 1 by omega]
    rw [List.range_succ, List.foldl_append, ih]
    simp [Update.then, pmovOnly, hone]

/-- PMOV writes each predicate that its mask names. -/
theorem gives_pmovP (h : Hdr) (o : OpR) (s : State) : Gives (.pmovP h o) h s (fun c => { preds := pmovPred c o }) := by
  have hall : ∀ c, (List.range 7).foldl (fun (u : Update) k => u.then (pmovOnly c o k)) {} = { preds := pmovPred c o } := by
    intro c
    rw [foldl_pmov]
    congr
    funext p l
    by_cases hx : o.x.getLsbD (p + 1) = true
    · simp [lt_seven_of_mask hx]
    · simp [pmovPred, hx]
  simpa only [hall] using gives_foldl (g := fun c t n => pmovOne c o t n) (show exec (.pmovP h o) s = execPmovP h o s from rfl) rfl
    fun n hv hC hR => changes_pmovOne o n hv hC hR

/-! ## VOTE (R156) -/

/-- The lanes that vote yes, and those that vote no. -/
def voteYes (c : Ctx) (o : OpR) : Mask := maskOf (fun l => c.exec.getLsbD l && (c.pred o.o2 l).1)
def voteNo (c : Ctx) (o : OpR) : Mask := maskOf (fun l => c.exec.getLsbD l && !(c.pred o.o2 l).1)
/-- A vote of the logical warp of lane l is poisoned. -/
def voteBad (c : Ctx) (o : OpR) (l : Nat) : Bool := (lanesOf (logPart c l c.exec)).any (fun k => (c.pred o.o2 k).2)
/-- The verdict of the logical warp of lane l: all, any or a uniform vote. -/
def voteVerdict (c : Ctx) (o : OpR) (l : Nat) : Bool :=
  if o.x.toNat % 4 = 0 then !(logPart c l (voteNo c o) != 0)
  else if o.x.toNat % 4 = 1 then logPart c l (voteYes c o) != 0
  else !(logPart c l (voteYes c o) != 0 && logPart c l (voteNo c o) != 0)

/-- VOTE writes a register in its ballot mode, and a predicate in the others. -/
theorem gives_vote (h : Hdr) (o : OpR) (s : State) : Gives (.vote h o) h s (fun c =>
    if o.x.toNat % 4 = 3 then
      cleanUpdate c o.o1 (fun l => ⟨logMask c l (voteNo c o) ++ logMask c l (voteYes c o), bothPoison (voteBad c o l)⟩)
    else predUpdate c o.o1 (fun l => (voteVerdict c o l, voteBad c o l))) := by
  have he : exec (.vote h o) s = execVote h o s := rfl
  by_cases hb : o.x.toNat % 4 = 3
  · simp only [if_pos hb]
    exact gives_clean (he.trans (by simp only [execVote, if_pos hb]; rfl)) rfl
  · simp only [if_neg hb]
    exact gives_preds (he.trans (by simp only [execVote, if_neg hb]; rfl)) rfl

end Sys2Proof.Machine

namespace Sys2Proof.Proofs
open Sys2Proof Sys2Proof.Machine

/-- Settles O7: each of the eight writes its O1 from the results of its lanes. -/
theorem conversionResults : Obligations.ConversionResults := by
  unfold Obligations.ConversionResults
  intro h o s a lanes
  have write : ∀ {i : Instr} {f : Ctx → Nat → LaneRes}, exec i s = issueLanes i h o.o1 s f → ((instrInfo i).pipe == .m) = false →
      lanes i f := fun he hp => gives_issueLanes he hp (fun _ => rfl)
  exact ⟨write (rfl : execCvt h o s = _) rfl, write (rfl : execCvti h o s = _) rfl, write (rfl : execPack h o s = _) rfl,
    write (rfl : execUnpk h o s = _) rfl, write (rfl : execBscale h o s = _) rfl, write (rfl : execQnt h o s = _) rfl,
    write (rfl : execDqnt h o s = _) rfl, write (rfl : execCbdec h o s = _) rfl⟩

/-- Settles O10: most write one register from the issue's context; ZIP, UNZIP and PMOV write several registers or predicates one after another,
and MATCH and ELECT one of each. -/
theorem crossLaneResults : Obligations.CrossLaneResults := by
  unfold Obligations.CrossLaneResults
  intro h o s
  refine ⟨?shfl, ?bcst, ?perm, ?zip, ?unzip, ?vote, ?matchLanes, ?redl, ?scanl, ?pmovV, ?pmovP, ?actm, ?elect⟩
  case shfl => exact gives_clean (show exec (.shfl h o) s = execShfl h o s from rfl) rfl
  case bcst => exact gives_clean (show exec (.bcst h o) s = execBcst h o s from rfl) rfl
  case perm => exact gives_clean (show exec (.perm h o) s = execPerm h o s from rfl) rfl
  case zip => exact gives_issueZip (show exec (.zip h o) s = execZip h o s from rfl) rfl
  case unzip => exact gives_issueZip (show exec (.unzip h o) s = execUnzip h o s from rfl) rfl
  case vote => exact gives_vote h o s
  case matchLanes => exact gives_cleanPreds (show exec (.matchLanes h o) s = execMatch h o s from rfl) rfl
  case redl => exact gives_issueLanes (show exec (.redl h o) s = execRedl h o s from rfl) rfl (fun _ => rfl)
  case scanl => exact gives_issueLanes (show exec (.scanl h o) s = execScanl h o s from rfl) rfl (fun _ => rfl)
  case pmovV => exact gives_clean (show exec (.pmovV h o) s = execPmovV h o s from rfl) rfl
  case pmovP => exact gives_pmovP h o s
  case actm => exact gives_clean (show exec (.actm h o) s = execActm h o s from rfl) rfl
  case elect => exact gives_predsClean (show exec (.elect h o) s = execElect h o s from rfl) rfl

end Sys2Proof.Proofs
end

section
/-! PROOF. Record instructions, table loads and ACTSW: the body of each does what its rule says
(06_thread_convert_lanes.md R144, R149, R150; 09_core_memory.md R239). -/

namespace Sys2Proof.Machine

/-! ## Bodies that check nothing -/

/-- An instruction of the M pipe whose body always answers the same state as its rule. -/
theorem answers_always {i : Instr} {h : Hdr} {s : State} {f : Ctx → State → State} (he : exec i s = issue i h s (fun c s1 => .ok (f c s1)))
    (hp : ((instrInfo i).pipe == .m) = true) : Answers i h s (fun c s1 => some (f c s1)) :=
  answers_body he hp fun _ _ _ ht => congrArg Res.ok (Option.some.inj ht)

/-! ## RECSET and RECGET (R239) -/

/-- RECSET with four clean words does not trap. -/
theorem answers_recset (h : Hdr) (o : OpM) (s : State) : Answers (.recset h o) h s (ruleRecset o) := by
  refine answers_body (show exec (.recset h o) s = execRecset h o s from rfl) rfl fun w t _ ht => ?_
  obtain ⟨_, hclean, ht⟩ := Option.bind_eq_some_iff.mp ht
  rw [guard_some] at hclean
  simp only [← Option.some.inj ht]
  exact if_neg (by simpa using hclean)

/-- RECGET goes by its own lookup, as its rule does. -/
theorem answers_recget (h : Hdr) (o : OpM) (s : State) : Answers (.recget h o) h s (ruleRecget o) := by
  refine answers_body (show exec (.recget h o) s = execRecget h o s from rfl) rfl fun w t _ ht => ?_
  obtain ⟨⟨s2, f⟩, hl, ht⟩ := Option.bind_eq_some_iff.mp ht
  rw [lookedUp_some hl]
  cases f with
  | fault va r p => cases ht
  | found r bad => exact congrArg Res.ok (Option.some.inj ht)

/-! ## CBLD and ACTLD (R144, R149) -/

/-- A table load whose record is found and whose address passes starts its access. -/
theorem tableBody_of_rule {o : OpM} {words : Nat} {sink : Ctx → Sink} {c : Ctx} {s1 t : State} (ht : ruleTable o words sink c s1 = some t) :
    tableBody c s1 o words (sink c) = .ok t := by
  obtain ⟨⟨s2, r⟩, hfound, ht⟩ := Option.bind_eq_some_iff.mp ht
  obtain ⟨a, haddr, ht⟩ := Option.bind_eq_some_iff.mp ht
  unfold tableBody
  rw [withRecord_found hfound, addressed_some haddr]
  exact congrArg Res.ok (Option.some.inj ht)

end Sys2Proof.Machine

namespace Sys2Proof.Proofs
open Sys2Proof Sys2Proof.Machine

/-- Settles O25: RECINV, RECGEN and ACTSW check nothing; RECSET, RECGET and the table loads do where the conditions of their rules hold. -/
theorem recordAndTableResults : Obligations.RecordAndTableResults := by
  unfold Obligations.RecordAndTableResults
  intro h o q s
  refine ⟨answers_recset h o s, answers_recget h o s, ?recinv, ?recgen, ?cbld, ?actld, ?actsw⟩
  case recinv => exact answers_always (show exec (.recinv h o) s = execRecinv h o s from rfl) rfl
  case recgen => exact answers_always (show exec (.recgen h o) s = execRecgen h o s from rfl) rfl
  case cbld => exact answers_body (show exec (.cbld h o) s = execCbld h o s from rfl) rfl fun _ _ _ => tableBody_of_rule
  case actld => exact answers_body (show exec (.actld h o) s = execActld h o s from rfl) rfl fun _ _ _ => tableBody_of_rule
  case actsw => exact answers_always (show exec (.actsw h q) s = execActsw h q s from rfl) rfl

end Sys2Proof.Proofs
end

section
/-! PROOF. TRAP, BRKPT, YIELD, EXIT, TRET and the CSR instructions: the body of each does what its rule says
(07_thread_control_traps.md R168-R174, R184, R185). -/

namespace Sys2Proof.Machine

/-! ## Bodies that go on or trap -/

/-- An instruction of fixed latency whose body goes on to the rule's state, or raises the trap that the rule names. -/
theorem answers_goesOrTraps {i : Instr} {h : Hdr} {s : State} {body : Ctx → State → Res} {rule : Ctx → State → Option State}
    (he : exec i s = issue i h s body) (hp : ((instrInfo i).pipe == .m) = false) (hz : ∀ c s1, c.exec = 0 → body c s1 = .ok s1)
    (hb : ∀ w t, (issueCtx i h s w).exec ≠ 0 → rule (issueCtx i h s w) (issued i h s w) = some t →
      body (issueCtx i h s w) (issued i h s w) = .ok t ∨ ∃ cause info, body (issueCtx i h s w) (issued i h s w) = .trap cause info ∧
        t = raised i (issueCtx i h s w) cause info) : Answers i h s rule := by
  intro w hi
  refine ⟨fun h0 => he.trans (issueWith_next hi (.inl (by simpa using hp)) (hz _ _ h0)), fun hne t ht => ?_⟩
  rcases hb w t hne ht with hok | ⟨cause, info, htrap, rfl⟩
  · exact he.trans (issueWith_next hi (.inr hne) hok)
  · exact he.trans (issueWith_trap hi hp htrap)

/-- A choice between two states, in a rule and in the body that follows it. -/
theorem ite_ok_of_some {p : Prop} [Decidable p] {a b t : State} (h : (if p then some a else some b) = some t) :
    (if p then Res.ok a else Res.ok b) = .ok t := by
  split_ifs at h ⊢ <;> exact congrArg Res.ok (Option.some.inj h)

/-! ## TRAP, BRKPT, YIELD (R170, R171) -/

theorem answers_trap (h : Hdr) (q : OpI) (s : State) :
    Answers (.trap h q) h s (fun c _ => some (raised (.trap h q) c cTRAPI (q.imm.setWidth 64))) := by
  refine answers_goesOrTraps (show exec (.trap h q) s = execTrap h q s from rfl) rfl (fun _ _ h0 => if_pos h0) fun w t hne ht => ?_
  exact .inr ⟨_, _, if_neg hne, (Option.some.inj ht).symm⟩

/-- Where TSTAT.BKEN is 0 the body goes on, and where it is 1 it traps. -/
theorem answers_brkpt (h : Hdr) (q : OpI) (s : State) : Answers (.brkpt h q) h s
    (fun c s1 => some (if c.w.bken then raised (.brkpt h q) c cBRKPT (q.imm.setWidth 64) else s1)) := by
  refine answers_goesOrTraps (show exec (.brkpt h q) s = execBrkpt h q s from rfl) rfl
    (fun _ _ h0 => if_pos (by simp [h0])) fun w t hne ht => ?_
  have ht := Option.some.inj ht
  by_cases hb : (issueCtx (.brkpt h q) h s w).w.bken = true
  · rw [if_pos hb] at ht
    exact .inr ⟨_, _, if_neg (by rw [hb, Bool.not_true, Bool.or_false, decide_eq_true_eq]; exact hne), ht.symm⟩
  · rw [if_neg hb] at ht
    exact .inl ((if_pos (by rw [Bool.eq_false_of_not_eq_true hb, Bool.not_false, Bool.or_true])).trans (congrArg Res.ok ht))

theorem answers_yield (h : Hdr) (o : OpR) (s : State) : Answers (.yield h o) h s
    (fun c s1 => some (s1.modWarp c.key (fun w => { w with holdUntil := max w.holdUntil (s.cycle + 33), age := 0 }))) := by
  refine answers_goesOrTraps (show exec (.yield h o) s = execYield h o s from rfl) rfl (fun _ _ h0 => if_pos h0) fun w t hne ht => .inl ?_
  exact (if_neg hne).trans (congrArg Res.ok (Option.some.inj ht))

/-! ## EXIT and TRET (R168, R184, R185) -/

/-- Outside trap mode EXIT ends the threads and leaves the groups, now or behind the warp's earlier requests. -/
theorem answers_exit (h : Hdr) (o : OpR) (s : State) : Answers (.exit h o) h s ruleExit := by
  refine answers_goesOrTraps (show exec (.exit h o) s = execExit h o s from rfl) rfl (fun _ _ h0 => if_pos h0) fun w t hne ht => .inl ?_
  obtain ⟨_, htm, ht⟩ := Option.bind_eq_some_iff.mp ht
  obtain ⟨v, hv, ht⟩ := Option.bind_eq_some_iff.mp ht
  rw [guard_some, Bool.not_eq_true'] at htm
  refine (if_neg hne).trans ((if_neg (by simp [htm])).trans ?_)
  simp only [hv]
  exact ite_ok_of_some ht

/-- In trap mode EXIT ends the crew, now or once the counters are zero. -/
theorem answers_exitTrap (h : Hdr) (o : OpR) (s : State) : Answers (.exit h o) h s ruleExitTrap := by
  refine answers_goesOrTraps (show exec (.exit h o) s = execExit h o s from rfl) rfl (fun _ _ h0 => if_pos h0) fun w t hne ht => .inl ?_
  obtain ⟨_, htm, ht⟩ := Option.bind_eq_some_iff.mp ht
  obtain ⟨v, hv, ht⟩ := Option.bind_eq_some_iff.mp ht
  rw [guard_some] at htm
  refine (if_neg hne).trans ((if_pos htm).trans ?_)
  simp only [hv]
  exact ite_ok_of_some ht

theorem answers_tret (h : Hdr) (o : OpR) (s : State) : AnswersWith (.tret h o) h s (fun c => !c.w.tm) (fun _ => none) ruleTret := by
  refine answersWith_body (show exec (.tret h o) s = execTret h o s from rfl) (.inr fun _ _ h0 => if_pos h0) fun w t hne ht => ?_
  obtain ⟨v, hv, ht⟩ := Option.bind_eq_some_iff.mp ht
  refine (if_neg hne).trans ?_
  simp only [hv]
  exact ite_ok_of_some ht

/-! ## CSRR, CSRW, CSRS and CSRC (R172, R174) -/

theorem answers_csrr (h : Hdr) (o : OpS) (s : State) : Answers (.csrr h o) h s (ruleCsrr o) := by
  refine answers_body (show exec (.csrr h o) s = execCsrr h o s from rfl) rfl fun w t _ ht => ?_
  unfold ruleCsrr at ht
  by_cases hown : o.csr.toNat < 0x100
  · rw [if_pos hown] at ht
    obtain ⟨v, hv, ht⟩ := Option.bind_eq_some_iff.mp ht
    simp only [if_pos hown, hv, Option.getD_some]
    exact congrArg Res.ok (Option.some.inj ht)
  · rw [if_neg hown] at ht
    exact (if_neg hown).trans (congrArg Res.ok (Option.some.inj ht))

/-- A CSR write whose lanes agree and hold no poison does what its rule says. -/
theorem csrBody_of_rule {o : OpS} {c : Ctx} {s1 t : State} (ht : ruleCsrw o c s1 = some t) : csrBody c s1 o = .ok t := by
  obtain ⟨_, hcalm, ht⟩ := Option.bind_eq_some_iff.mp ht
  obtain ⟨_, hclean, ht⟩ := Option.bind_eq_some_iff.mp ht
  rw [guard_some] at hcalm hclean
  have hpoi : maskOf (fun l => c.exec.getLsbD l && (if c.h.f.getLsbD 2 then (⟨o.imm.setWidth 64, 0⟩ : Lane) else c.val o.o2 l).poi != 0) = 0 := by
    refine maskOf_eq_zero fun l hl => ?_
    cases hex : c.exec.getLsbD l with
    | false => rfl
    | true => simpa using List.all_eq_true.mp hclean l (mem_lanesOf.mpr ⟨hl, hex⟩)
  unfold csrBody
  rw [protGuard_calm hcalm]
  simp only [hpoi, bne_self_eq_false, Bool.false_eq_true, if_false]
  exact ite_ok_of_some ht

end Sys2Proof.Machine

namespace Sys2Proof.Proofs
open Sys2Proof Sys2Proof.Machine

/-- Settles O14: TRAP and BRKPT trap or go on, the others do what their rules say where no thread has left. -/
theorem controlResults : Obligations.ControlResults := by
  unfold Obligations.ControlResults
  exact fun h o q s => ⟨answers_trap h q s, answers_brkpt h q s, answers_yield h o s, answers_exit h o s, answers_exitTrap h o s,
    answers_tret h o s⟩

/-- Settles O19: a read is its rule; the three kinds of write are one body. -/
theorem csrResults : Obligations.CsrResults := by
  unfold Obligations.CsrResults
  intro h o s
  exact ⟨answers_csrr h o s, answers_body (show exec (.csrw h o) s = execCsrw h o s from rfl) rfl fun _ _ _ => csrBody_of_rule,
    answers_body (show exec (.csrs h o) s = execCsrs h o s from rfl) rfl fun _ _ _ => csrBody_of_rule,
    answers_body (show exec (.csrc h o) s = execCsrc h o s from rfl) rfl fun _ _ _ => csrBody_of_rule⟩

end Sys2Proof.Proofs
end

section
/-! PROOF. What a raised trap leaves: its place among the pending ones, or the end of the crew (07_thread_control_traps.md R177, R185). -/

namespace Sys2Proof.Machine

/-! ## The end of a crew (R185) -/

/-- The first end of a crew stands. -/
theorem markEnding_ended {s : State} {crew : Nat} {c : Crew} {e : Ending} (hc : s.crew crew = some c) (he : c.ending = some e) (e' : Ending) :
    (markEnding s crew e').crew crew = some c := by
  rw [markEnding, State.modCrew_some _ _ _ _ hc, he]
  exact State.setCrew_same s crew c

theorem markEnding_running {s : State} {crew : Nat} {c : Crew} (hc : s.crew crew = some c) (he : c.ending = none) (e : Ending) :
    markEnding s crew e = s.setCrew crew { c with ending := some e } := by
  rw [markEnding, State.modCrew_some _ _ _ _ hc, he]

/-- Marking a crew changes the table of crews alone. -/
theorem markEnding_frame (s : State) (crew : Nat) (e : Ending) : { markEnding s crew e with crews := [] } = { s with crews := [] } := by
  unfold markEnding State.modCrew
  split <;> rfl

@[simp] theorem markEnding_warp (s : State) (crew : Nat) (e : Ending) (k : Nat) : (markEnding s crew e).warp k = s.warp k :=
  (congrArg (fun t : State => fmFind t.warps k) (markEnding_frame s crew e) :)

/-- What the core reports of a crew that ends because of its handler: the frame's CAUSE and INFO as they stand, or on an Acorn, which has no
frame, those given (R185, R279). -/
def handlerEnding (s : State) (key : Nat) (w : Warp) (cause : Nat) (info : Word) : Ending :=
  if keyAcorn key then ⟨cause, w.tpc, info, 0⟩
  else ⟨frameByte s w 0, w.tpc, BitVec.ofNat 64 ((List.range 8).foldl (fun a k => a + frameByte s w (0x18 + k) * 256 ^ k) 0), keySlot key⟩

theorem handlerEnds_eq (s : State) (key : Nat) (w : Warp) (cause : Nat) (info : Word) :
    handlerEnds s key w cause info = markEnding s w.crew (handlerEnding s key w cause info) := by
  unfold handlerEnds handlerEnding
  split <;> rfl

theorem handlerEnding_tpc (s : State) (key : Nat) (w : Warp) (cause : Nat) (info : Word) : (handlerEnding s key w cause info).tpc = w.tpc := by
  unfold handlerEnding
  split <;> rfl

theorem handlerEnding_cause (s : State) (key : Nat) (w : Warp) (cause : Nat) (info : Word) :
    (handlerEnding s key w cause info).cause = if keyAcorn key then cause else frameByte s w 0 := by
  unfold handlerEnding
  split <;> rfl

/-- A crew that its handler ends has an end afterwards. -/
theorem handlerEnds_ending {s : State} {w : Warp} {c : Crew} (hc : s.crew w.crew = some c) (he : c.ending = none) (key cause : Nat)
    (info : Word) : (handlerEnds s key w cause info).crew w.crew = some { c with ending := some (handlerEnding s key w cause info) } := by
  rw [handlerEnds_eq, markEnding_running hc he]
  exact State.setCrew_same _ _ _

/-! ## The two outcomes of a trap (R177, R185) -/

theorem raiseTrap_pending {s : State} {key : Nat} {w : Warp} (hw : s.warp key = some w) (hghost : isGhost key = false) (htm : w.tm = false)
    (t : TrapRec) : raiseTrap s key t = s.setWarp key { w with traps := w.traps ++ [t], pairNext := none } := by
  simp only [raiseTrap, hw, hghost, htm, Bool.false_eq_true, if_false]

theorem raiseTrap_handler {s : State} {key : Nat} {w : Warp} (hw : s.warp key = some w) (hghost : isGhost key = false) (htm : w.tm = true)
    (t : TrapRec) : raiseTrap s key t = markEnding s w.crew (handlerEnding s key w t.cause t.info) := by
  simp only [raiseTrap, hw, hghost, htm, Bool.false_eq_true, if_false, if_true, handlerEnds_eq]

end Sys2Proof.Machine

namespace Sys2Proof.Proofs
open Sys2Proof Sys2Proof.Machine

/-- Settles O16: outside trap mode one warp is put back, in trap mode one crew is marked. -/
theorem raisedTraps : Obligations.RaisedTraps := by
  unfold Obligations.RaisedTraps
  intro s key w t hw hghost
  refine ⟨fun htm => ?pending, fun htm => ?handler⟩
  case pending =>
    rw [raiseTrap_pending hw hghost htm]
    exact ⟨warp_setWarp_same _ _ _, fun k hk => warp_setWarp_ne _ _ _ _ hk, rfl⟩
  case handler =>
    rw [raiseTrap_handler hw hghost htm]
    refine ⟨fun k => markEnding_warp _ _ _ k, markEnding_frame _ _ _, fun c hc => ⟨fun e he => markEnding_ended hc he _, fun he => ?_⟩⟩
    rw [markEnding_running hc he]
    exact ⟨_, State.setCrew_same _ _ _, handlerEnding_tpc _ _ _ _ _, handlerEnding_cause _ _ _ _ _⟩

end Sys2Proof.Proofs
end

section
/-! PROOF. TRAP_ENTRY: the handler's warp, and the frame that the core writes into the trap area (07_thread_control_traps.md R178-R182, R185;
09_core_memory.md R225; 11_cluster_matrix.md R279). -/

namespace Sys2Proof.Machine

/-! ## A block of bytes in a scratchpad (R225) -/

/-- The words that a write of n bytes from a on covers whole lose their marks, and no other does. -/
theorem fmGet_spClear (c : Crew) (a n w : Nat) :
    fmGet false (spClear c a n) w = (fmGet false c.spBad w && !decide (a ≤ 8 * w ∧ 8 * w + 8 ≤ a + n)) := by
  have hfold : ∀ m, fmGet false ((List.range m).foldl (fun f k =>
      if a ≤ 8 * (a / 8 + k) && 8 * (a / 8 + k) + 8 ≤ a + n then fmSet false f (a / 8 + k) false else f) c.spBad) w =
        (fmGet false c.spBad w && !decide (a ≤ 8 * w ∧ 8 * w + 8 ≤ a + n ∧ w < a / 8 + m)) := by
    intro m
    induction m with
    | zero =>
      rw [decide_eq_false (by omega)]
      simp
    | succ m ih =>
      rw [List.range_succ, List.foldl_concat]
      by_cases hw : w = a / 8 + m
      · subst hw
        split
        · rename_i hcov
          simp only [Bool.and_eq_true, decide_eq_true_eq] at hcov
          simp [fmGet_fmSet, hcov]
        · rename_i hcov
          have hnone : ¬ (a ≤ 8 * (a / 8 + m) ∧ 8 * (a / 8 + m) + 8 ≤ a + n) := by simpa using hcov
          rw [ih]
          simp only [← and_assoc, hnone, false_and]
      · have hlt : w < a / 8 + (m + 1) ↔ w < a / 8 + m := by omega
        simp only [hlt, ← ih]
        split
        · rw [fmGet_fmSet, if_neg hw]
        · rfl
  have hall : (a ≤ 8 * w ∧ 8 * w + 8 ≤ a + n ∧ w < a / 8 + ((a + n + 7) / 8 - a / 8)) ↔ a ≤ 8 * w ∧ 8 * w + 8 ≤ a + n := by omega
  exact (hfold _).trans (by simp only [hall])

/-- A block leaves nothing of the crew changed but bytes and marks. -/
theorem spBlock_frame (c : Crew) (a : Nat) (bs : List Byte) : { spBlock c a bs with sp := [], spBad := [] } = { c with sp := [], spBad := [] } := rfl

/-! ## Entry (R179, R180) -/

/-- The state once the frame is written: an Acorn writes none (R279). -/
def framed (s : State) (key : Nat) (w : Warp) (t : TrapRec) : State :=
  if keyAcorn key then s else s.modCrew w.crew (fun c => spBlock c w.tframe.toNat (frameBytes s key w t))

/-- The warp as its handler starts (R180). -/
def entered (s : State) (key : Nat) (w : Warp) (t : TrapRec) (rest : List TrapRec) : Warp :=
  { w with
    tcause := BitVec.ofNat 64 t.cause
    tpc := entryPc key w t
    tmask := (t.exec ++ t.act : BitVec 64)
    tinst := t.word
    tm := true
    saved := w.pt
    pt := { pcs := List.replicate 32 w.tvec, live := if keyAcorn key then 1 else BitVec.allOnes 32, skips := List.replicate 32 0 }
    traps := rest
    pairNext := none
    holdUntil := max w.holdUntil (s.cycle + Config.trapCycles) }

theorem enterTrap_eq (s : State) (key : Nat) (w : Warp) (t : TrapRec) (rest : List TrapRec) :
    enterTrap s key w t rest = (framed s key w t).setWarp key (entered s key w t rest) := rfl

/-- Writing the frame changes crews alone. -/
theorem framed_frame (s : State) (key : Nat) (w : Warp) (t : TrapRec) : { framed s key w t with crews := [] } = { s with crews := [] } := by
  unfold framed State.modCrew
  split
  · rfl
  · split <;> rfl

theorem framed_crew_ne (s : State) (key : Nat) (w : Warp) (t : TrapRec) {k : Nat} (hk : k ≠ w.crew) :
    (framed s key w t).crew k = s.crew k := by
  unfold framed State.modCrew
  split
  · rfl
  · split
    · exact State.setCrew_ne _ _ _ _ hk
    · rfl

/-- The crew's scratchpad takes the frame as one block, and no more. -/
theorem framed_crew {s : State} {key : Nat} {w : Warp} {c : Crew} (hc : s.crew w.crew = some c) (t : TrapRec) :
    (framed s key w t).crew w.crew = some (if keyAcorn key then c else spBlock c w.tframe.toNat (frameBytes s key w t)) := by
  unfold framed
  split
  · exact hc
  · rw [State.modCrew_some _ _ _ _ hc]
    exact State.setCrew_same _ _ _

/-- A trap that R178 lets in is taken. -/
theorem trapEntry_ready {unit slot : Nat} {s : State} (h : trapReady s (unit * 32 + slot) = true) :
    exec (.trapEntry unit slot) s = .next (takeTrap s (unit * 32 + slot)) :=
  congrArg Host.Outcome.next (if_pos h)

theorem takeTrap_enters {s : State} {key : Nat} {w : Warp} {t : TrapRec} {rest : List TrapRec} (hw : s.warp key = some w)
    (htraps : w.traps = t :: rest) (hvec : w.tvec ≠ 0) : takeTrap s key = enterTrap s key w t rest := by
  simp only [takeTrap, hw, htraps]
  exact if_neg hvec

/-- Where TVEC is 0 the crew ends (R185). -/
theorem takeTrap_ends {s : State} {key : Nat} {w : Warp} {t : TrapRec} {rest : List TrapRec} (hw : s.warp key = some w)
    (htraps : w.traps = t :: rest) (hvec : w.tvec = 0) : takeTrap s key =
      markEnding (s.setWarp key { w with traps := rest }) w.crew ⟨t.cause, entryPc key w t, t.info, keySlot key⟩ := by
  simp only [takeTrap, hw, htraps]
  exact if_pos hvec

end Sys2Proof.Machine

namespace Sys2Proof.Proofs
open Sys2Proof Sys2Proof.Machine

/-- Settles O17: the entry is one warp put back over the state in which the frame has been written; without a handler it marks the crew. -/
theorem trapEntryResults : Obligations.TrapEntryResults := by
  unfold Obligations.TrapEntryResults
  intro unit slot s w t rest key hready hw htraps
  refine ⟨fun hvec => ?enters, fun hvec c hc hend => ?ends⟩
  case enters =>
    have hexec : exec (.trapEntry unit slot) s = .next ((framed s key w t).setWarp key (entered s key w t rest)) :=
      (trapEntry_ready hready).trans (congrArg _ ((takeTrap_enters hw htraps hvec).trans (enterTrap_eq s key w t rest)))
    refine ⟨_, _, hexec, warp_setWarp_same _ _ _, rfl, rfl, rfl, rfl, rfl, rfl, rfl, rfl, rfl, le_max_right _ _, rfl,
      fun l hl => ?pc, rfl, rfl, rfl, rfl, fun k hk => ?others, fun k hk => framed_crew_ne s key w t hk, ?rest, fun c hc => ?frame⟩
    case pc => rw [pcLane, List.getD_eq_getElem?_getD, entered, List.getElem?_replicate_of_lt hl, Option.getD_some]
    case others =>
      rw [warp_setWarp_ne _ _ _ _ hk]
      exact (congrArg (fun u : State => fmFind u.warps k) (framed_frame s key w t) :)
    case rest => exact congrArg (fun u : State => { u with warps := [], crews := [] }) (framed_frame s key w t)
    case frame =>
      refine ⟨_, framed_crew hc t, ?_, fun hcore a => ?_⟩
      · split
        · rfl
        · exact spBlock_frame _ _ _
      · rw [if_neg (by simp [hcore])]
        exact ⟨memGet_memBlock _ _ _ _, fmGet_spClear _ _ _ _⟩
  case ends =>
    have hc' : (s.setWarp key { w with traps := rest }).crew w.crew = some c := hc
    refine ⟨_, (trapEntry_ready hready).trans (congrArg _ ((takeTrap_ends hw htraps hvec).trans (markEnding_running hc' hend _))), ?_, ?_⟩
    · exact State.setCrew_same _ _ _
    · exact warp_setWarp_same _ _ _

end Sys2Proof.Proofs
end

section
/-! PROOF. What TRET restores: the resume PCs, the predicates, and the registers of the frame's dirty slots (07_thread_control_traps.md R182,
R184; 11_cluster_matrix.md R279). -/

namespace Sys2Proof.Machine

/-! ## The frame as TRET reads it (R182) -/

/-- The 8 bytes of the running handler's frame from an offset on, as a number. -/
def frameWord (s : State) (w : Warp) (off : Nat) : Nat := (List.range 8).foldl (fun a k => a + frameByte s w (off + k) * 256 ^ k) 0

/-- The trap was a late one; an Acorn has no frame that says so (R279). -/
def frameLate (s : State) (key : Nat) (w : Warp) : Bool := !keyAcorn key && (frameByte s w 2).testBit 3

/-- The PC at which the threads of TMASK go on (R184). -/
def resumePc (s : State) (key : Nat) (w : Warp) : Word :=
  if !keyAcorn key && (frameByte s w 2).testBit 0 then nextPc w.tpc else w.tpc

/-- The frame's slots that are dirty and name a register of the allotment. -/
def dirtySlots (s : State) (key : Nat) (w : Warp) : List Nat :=
  if keyAcorn key then [] else (List.range 5).filter (fun j => (frameByte s w 3).testBit j && frameByte s w (0x2C + j) < w.allot)

/-- A lane of a slot: its word and its poison. -/
def slotLane (s : State) (w : Warp) (j l : Nat) : Lane :=
  ⟨BitVec.ofNat 64 (frameWord s w (0x40 + 0x100 * j + 8 * l)), BitVec.ofNat 2 (frameByte s w (0x540 + 0x20 * j + l))⟩

/-- A slot goes back to its register, in the lanes of TMASK. -/
def restoreSlot (s : State) (w : Warp) (rs : FMap Row) (j : Nat) : FMap Row :=
  fmPut rs (frameByte s w (0x2C + j)) (rowSet (fmGet emptyRow rs (frameByte s w (0x2C + j))) (w.tmask.setWidth 32) (slotLane s w j))

/-- The predicates of the frame; an Acorn keeps its own (R279). -/
def framePreds (s : State) (key : Nat) (w : Warp) : List PRow :=
  if keyAcorn key then w.preds else (List.range 7).map (fun p =>
    ⟨maskOf (fun l => (frameByte s w (0x5E0 + 2 * l)).testBit p), maskOf (fun l => (frameByte s w (0x5E0 + 2 * l + 1)).testBit p)⟩)

/-- The warp after its TRET. -/
def restored (s : State) (key : Nat) (w : Warp) : Warp :=
  { w with
    regs := (dirtySlots s key w).foldl (restoreSlot s w) w.regs
    preds := framePreds s key w
    tm := false
    pt := { w.saved with pcs := (List.range 32).map (fun l =>
      if !frameLate s key w && (w.tmask.setWidth 32 : Mask).getLsbD l then resumePc s key w else w.saved.pcs.getD l 0) }
    pairNext := none
    holdUntil := max w.holdUntil (s.cycle + Config.tretCycles) }

/-- TRET puts one warp back, or its resume PC ends the crew. -/
theorem leaveTrap_eq {s : State} {key : Nat} {w : Warp} (hw : s.warp key = some w) : leaveTrap s key =
    if !frameLate s key w && !pcNamesSlot (resumePc s key w) then handlerEnds s key w cILLOP 0 else s.setWarp key (restored s key w) := by
  unfold leaveTrap
  simp only [hw]
  rfl

/-! ## Registers (R184) -/

theorem mem_dirtySlots {s : State} {key : Nat} {w : Warp} {j : Nat} : j ∈ dirtySlots s key w ↔
    keyAcorn key = false ∧ j < 5 ∧ (frameByte s w 3).testBit j = true ∧ frameByte s w (0x2C + j) < w.allot := by
  unfold dirtySlots
  cases keyAcorn key <;> simp

theorem dirtySlots_rise (s : State) (key : Nat) (w : Warp) : (dirtySlots s key w).Pairwise (· < ·) := by
  unfold dirtySlots
  split
  · exact List.Pairwise.nil
  · exact List.pairwise_lt_range.filter _

theorem fmGet_restoreSlot (s : State) (w : Warp) (rs : FMap Row) (j r : Nat) : fmGet emptyRow (restoreSlot s w rs j) r =
    if r = frameByte s w (0x2C + j) then rowSet (fmGet emptyRow rs r) (w.tmask.setWidth 32) (slotLane s w j) else fmGet emptyRow rs r := by
  unfold restoreSlot
  rw [fmGet_fmPut]
  split
  · rename_i h
    rw [h]
  · rfl

/-- A register that no slot names stays. -/
theorem restoreSlots_unnamed {s : State} {w : Warp} {r : Nat} {js : List Nat} (h : ∀ j ∈ js, frameByte s w (0x2C + j) ≠ r) (rs : FMap Row) :
    fmGet emptyRow (js.foldl (restoreSlot s w) rs) r = fmGet emptyRow rs r :=
  foldl_keeps (fun rs => fmGet emptyRow rs r) (fun rs j hj => (fmGet_restoreSlot s w rs j r).trans (if_neg (h j hj).symm)) rs

/-- A lane outside TMASK stays. -/
theorem restoreSlots_outside {s : State} {w : Warp} {l : Nat} (hl : l < 32) (hm : (w.tmask.setWidth 32 : Mask).getLsbD l = false) (js : List Nat)
    (r : Nat) (rs : FMap Row) : rowGet (fmGet emptyRow (js.foldl (restoreSlot s w) rs) r) l = rowGet (fmGet emptyRow rs r) l := by
  refine foldl_keeps (fun rs => rowGet (fmGet emptyRow rs r) l) (fun rs j _ => ?_) rs
  rw [fmGet_restoreSlot]
  split
  · rw [rowGet_rowSet _ _ _ _ hl, hm]
    rfl
  · rfl

/-- A lane of TMASK takes what the last slot that names its register holds. -/
theorem restoreSlots_last {s : State} {w : Warp} {l : Nat} (hl : l < 32) (hm : (w.tmask.setWidth 32 : Mask).getLsbD l = true) (js ks : List Nat)
    (j : Nat) (hks : ∀ i ∈ ks, frameByte s w (0x2C + i) ≠ frameByte s w (0x2C + j)) (rs : FMap Row) :
    rowGet (fmGet emptyRow ((js ++ j :: ks).foldl (restoreSlot s w) rs) (frameByte s w (0x2C + j))) l = slotLane s w j l := by
  rw [List.foldl_append, List.foldl_cons, restoreSlots_unnamed hks, fmGet_restoreSlot, if_pos rfl, rowGet_rowSet _ _ _ _ hl, if_pos hm]

/-- A slot of a rising list, and those behind it. -/
theorem split_of_mem_rising {js : List Nat} (hjs : js.Pairwise (· < ·)) {j : Nat} (hj : j ∈ js) :
    ∃ as bs, js = as ++ j :: bs ∧ ∀ i ∈ bs, j < i := by
  obtain ⟨as, bs, rfl⟩ := List.append_of_mem hj
  exact ⟨as, bs, rfl, (List.pairwise_cons.mp (List.pairwise_append.mp hjs).2.1).1⟩

/-- The register of a dirty slot, where no higher dirty slot names it too. -/
theorem restored_dirty {s : State} {key : Nat} {w : Warp} {j l : Nat} (hj : j ∈ dirtySlots s key w)
    (hlast : ∀ i ∈ dirtySlots s key w, j < i → frameByte s w (0x2C + i) ≠ frameByte s w (0x2C + j)) (hl : l < 32) :
    rowGet (fmGet emptyRow (restored s key w).regs (frameByte s w (0x2C + j))) l =
      if (w.tmask.setWidth 32 : Mask).getLsbD l then slotLane s w j l else rowGet (fmGet emptyRow w.regs (frameByte s w (0x2C + j))) l := by
  cases hm : (w.tmask.setWidth 32 : Mask).getLsbD l with
  | false => exact restoreSlots_outside hl hm _ _ _
  | true =>
    obtain ⟨as, bs, hsplit, hbs⟩ := split_of_mem_rising (dirtySlots_rise s key w) hj
    have hregs : (restored s key w).regs = (as ++ j :: bs).foldl (restoreSlot s w) w.regs := by rw [← hsplit]; rfl
    rw [hregs]
    exact restoreSlots_last hl hm as bs j (fun i hi => hlast i (hsplit ▸ by simp [hi]) (hbs i hi)) _

/-! ## Predicates and PCs (R184) -/

theorem tmaskLane (w : Warp) {l : Nat} (hl : l < 32) : (w.tmask.setWidth 32 : Mask).getLsbD l = w.tmask.getLsbD l := by
  rw [BitVec.getLsbD_setWidth, decide_eq_true hl, Bool.true_and]

theorem restored_pred {s : State} {key : Nat} {w : Warp} (hcore : keyAcorn key = false) {p l : Nat} (hp : p < 7) (hl : l < 32) :
    predLane (restored s key w) p l = ((frameByte s w (0x5E0 + 2 * l)).testBit p, (frameByte s w (0x5E1 + 2 * l)).testBit p) := by
  have hrow : predRow (restored s key w) p =
      ⟨maskOf (fun l => (frameByte s w (0x5E0 + 2 * l)).testBit p), maskOf (fun l => (frameByte s w (0x5E0 + 2 * l + 1)).testBit p)⟩ := by
    rw [predRow, if_neg (by omega)]
    simp only [restored, framePreds, hcore, Bool.false_eq_true, if_false]
    exact getD_map_range _ _ hp
  simp only [predLane, hrow, maskOf_getLsbD, hl, decide_true, Bool.true_and, show 0x5E0 + 2 * l + 1 = 0x5E1 + 2 * l by omega]

theorem restored_pc {s : State} {key : Nat} {w : Warp} {l : Nat} (hl : l < 32) : pcLane (restored s key w) l =
    if frameLate s key w = false ∧ w.tmask.getLsbD l = true then resumePc s key w else w.saved.pcs.getD l 0 := by
  have hpc : pcLane (restored s key w) l = if !frameLate s key w && (w.tmask.setWidth 32 : Mask).getLsbD l then resumePc s key w
      else w.saved.pcs.getD l 0 := getD_map_range _ _ hl
  rw [hpc, tmaskLane w hl]
  simp only [Bool.and_eq_true, Bool.not_eq_true']

end Sys2Proof.Machine

namespace Sys2Proof.Proofs
open Sys2Proof Sys2Proof.Machine

/-- Settles O18: a TRET that goes through puts the restored warp back and nothing else. -/
theorem tretState : Obligations.TretState := by
  unfold Obligations.TretState
  intro s key w hw acorn fb word late resume dirty
  have hdirty : ∀ j r, dirty j r ↔ j ∈ dirtySlots s key w ∧ frameByte s w (0x2C + j) = r := fun j r => by
    rw [mem_dirtySlots]
    simp only [dirty, fb, acorn, and_assoc]
  refine ⟨fun hgo => ?through, fun hlate hpc => ?stops⟩
  case stops =>
    have hlate' : frameLate s key w = false := hlate
    have hpc' : pcNamesSlot (resumePc s key w) = false := hpc
    rw [leaveTrap_eq hw, hlate', hpc']
    rfl
  case through =>
    have hstop : (!frameLate s key w && !pcNamesSlot (resumePc s key w)) = false := by
      rcases hgo with h | h
      · have h' : frameLate s key w = true := h
        rw [h']
        rfl
      · have h' : pcNamesSlot (resumePc s key w) = true := h
        rw [h', Bool.not_true, Bool.and_false]
    have ht : leaveTrap s key = s.setWarp key (restored s key w) := by rw [leaveTrap_eq hw, hstop]; rfl
    rw [ht]
    refine ⟨_, warp_setWarp_same _ _ _, rfl, rfl, rfl, fun l hl => restored_pc hl, fun ha => if_pos ha,
      fun hcore p l hp hl => restored_pred hcore hp hl, fun r hr => ?unnamed, fun j r l hj hlast hl => ?dirtyLane,
      le_max_right _ _, rfl, rfl, rfl, fun k hk => warp_setWarp_ne _ _ _ _ hk, rfl⟩
    case unnamed => exact restoreSlots_unnamed (fun j hj hn => hr j ((hdirty j r).mpr ⟨hj, hn⟩)) _
    case dirtyLane =>
      obtain ⟨hmem, rfl⟩ := (hdirty j r).mp hj
      rw [restored_dirty hmem (fun i hi hji hn => hlast i hji ((hdirty i _).mpr ⟨hi, hn⟩)) hl, tmaskLane w hl]
      rfl

end Sys2Proof.Proofs
end

section
/-! PROOF. The end of a warp and of a crew: what leaves, what stays, what is counted (07_thread_control_traps.md R169, R185; 08_core_groups.md R209;
16_package.md R413, R427). -/

namespace Sys2Proof.Machine

/-! ## Tables -/

/-- A key that a filter passes whatever stands there. -/
theorem fmFind_filter_passed {α : Type} {p : Nat × α → Bool} {k : Nat} (h : ∀ v, p (k, v) = true) (m : FMap α) :
    fmFind (m.filter p) k = fmFind m k := by
  induction m with
  | nil => rfl
  | cons e m ih =>
    obtain ⟨a, v⟩ := e
    by_cases hak : a = k
    · subst hak
      simp [h, fmFind_cons]
    · by_cases hp : p (a, v) = true <;> simp [hp, fmFind_cons, hak, ih]

/-- A filter that passes nothing at a key does not see what is put there. -/
theorem fmPut_filter_unseen {α : Type} {p : Nat × α → Bool} {k : Nat} (h : ∀ v, p (k, v) = false) (m : FMap α) (v : α) :
    (fmPut m k v).filter p = m.filter p := by
  induction m with
  | nil => simp [fmPut, h]
  | cons e m ih =>
    obtain ⟨a, x⟩ := e
    simp only [fmPut]
    split_ifs with hlt heq
    · simp [List.filter_cons, ih]
    · subst heq
      simp [h]
    · simp [List.filter_cons, h]

/-! ## A crew that is gone (R185, R427) -/

/-- A resident warp is no ghost, and stays. -/
theorem crewGone_warp {k : Nat} (hk : isGhost k = false) (s : State) (id : Nat) (c : Crew) (faulted : Bool) :
    (crewGone s id c faulted).warp k = s.warp k := fmFind_filter_passed (fun v => by simp [hk]) s.warps

theorem crewGone_crew (s : State) (id : Nat) (c : Crew) (faulted : Bool) (k : Nat) :
    (crewGone s id c faulted).crew k = if k = id then none else s.crew k := fmFind_fmErase s.crews id k

/-- The launch counts the crew that has ended, and one that the core has ended as faulted. -/
theorem crewGone_launches (s : State) (id : Nat) (c : Crew) (faulted : Bool) :
    (crewGone s id c faulted).pkg.launches.map (fun l => (l.id, l.ended, l.faulted)) =
      s.pkg.launches.map (fun l => (l.id, if l.id = c.launch then l.ended + 1 else l.ended,
        if l.id = c.launch then l.faulted + (if faulted then 1 else 0) else l.faulted)) := by
  refine List.map_map.trans (List.map_congr_left fun l _ => ?_)
  by_cases h : l.id = c.launch <;> simp [h]

/-! ## The last warp of a crew (R169) -/

/-- What an ended warp of the crew has left keeps the crew. -/
def ghostStays (s : State) (id : Nat) : Bool := s.warps.any (fun e => isGhost e.1 && e.2.crew = id && ghostHolds e.2)

theorem endCrew_stays {s : State} {id : Nat} (h : crewWarps s id ≠ [] ∨ ghostStays s id = true) : endCrew s id = s := by
  have hstay : (!(crewWarps s id).isEmpty || ghostStays s id) = true := by
    rcases h with h | h
    · simp [h]
    · simp [h]
  unfold endCrew
  split
  · rfl
  · refine if_pos ?_
    rw [Bool.or_assoc]
    unfold ghostStays at hstay
    rw [hstay, Bool.or_true]

theorem endCrew_ends {s : State} {id : Nat} {c : Crew} (hc : s.crew id = some c) (hend : c.ending = none) (hnone : crewWarps s id = [])
    (hghost : ghostStays s id = false) : endCrew s id = crewGone s id c false := by
  unfold ghostStays at hghost
  unfold endCrew
  simp [hc, hend, hnone, hghost]

/-- Either nothing happens, or the crew goes. -/
theorem endCrew_cases (s : State) (id : Nat) : endCrew s id = s ∨ ∃ c, endCrew s id = crewGone s id c false := by
  unfold endCrew
  split
  · exact .inl rfl
  · split
    · exact .inl rfl
    · exact .inr ⟨_, rfl⟩

theorem endCrew_frame (s : State) (id : Nat) : (endCrew s id).mem = s.mem ∧ (endCrew s id).cores = s.cores ∧
    ∀ k, isGhost k = false → (endCrew s id).warp k = s.warp k := by
  rcases endCrew_cases s id with h | ⟨c, h⟩ <;> rw [h]
  · exact ⟨rfl, rfl, fun _ _ => rfl⟩
  · exact ⟨rfl, rfl, fun k hk => crewGone_warp hk s id c false⟩

/-! ## What an ended warp leaves behind (R24, R169) -/

/-- The entry that stands for it. -/
def ghostOf (w : Warp) : Warp := { w with pend := w.pend.filter lasts, pairNext := none, fetch := none }

theorem isGhost_ghostKey (key n : Nat) : isGhost (ghostKey key n) = true :=
  decide_eq_true (show 65536 ≤ key % 65536 + 65536 * (n + 1) by omega)

theorem leaveGhost_nothing {w : Warp} (h : w.pend.filter lasts = []) (s : State) (key : Nat) : leaveGhost s key w = s := by
  simp [leaveGhost, h]

theorem leaveGhost_warps {w : Warp} (h : w.pend.filter lasts ≠ []) (s : State) (key : Nat) :
    (leaveGhost s key w).warps = fmPut s.warps (ghostKey key s.nextOp) (ghostOf w) := by
  unfold leaveGhost
  dsimp only
  rw [if_neg (by simpa using h)]
  rfl

theorem leaveGhost_frame (s : State) (key : Nat) (w : Warp) : (leaveGhost s key w).crews = s.crews ∧ (leaveGhost s key w).mem = s.mem ∧
    (leaveGhost s key w).pkg = s.pkg ∧ (leaveGhost s key w).cores = s.cores := by
  unfold leaveGhost
  dsimp only
  split <;> exact ⟨rfl, rfl, rfl, rfl⟩

/-- The state once a warp has left its slot and its rows have returned, before its crew is looked at. -/
def vacated (s : State) (key : Nat) (w : Warp) : State :=
  let s1 := leaveGhost { s with warps := fmErase s.warps key } key w
  if keyUnit key < 1216 then s1.modCore (keyUnit key) (fun k =>
    returnRows { k with claims := k.claims.filter (fun q => q.key != key) } s.cycle (warpRows (settleGive w s.cycle))) else s1

/-- A warp that is over ends: it leaves its slot, and then its crew is looked at. -/
theorem endWarp_eq {s : State} {key : Nat} {w : Warp} {c : Crew} (hw : s.warp key = some w) (hc : s.crew w.crew = some c) (hend : c.ending = none)
    (hover : warpOver w = true) (hrun : s.pkg.frozen = false) (hghost : isGhost key = false) :
    endWarp s key = endCrew (vacated s key w) w.crew := by
  unfold endWarp
  simp only [hw, hc, hend, hover, hrun, hghost]
  rfl

theorem vacated_warps (s : State) (key : Nat) (w : Warp) :
    (vacated s key w).warps = (leaveGhost { s with warps := fmErase s.warps key } key w).warps := by
  unfold vacated
  dsimp only
  split <;> rfl

theorem vacated_frame (s : State) (key : Nat) (w : Warp) :
    (vacated s key w).crews = s.crews ∧ (vacated s key w).mem = s.mem ∧ (vacated s key w).pkg = s.pkg := by
  obtain ⟨hcrews, hmem, hpkg, -⟩ := leaveGhost_frame { s with warps := fmErase s.warps key } key w
  unfold vacated
  dsimp only
  split <;> exact ⟨hcrews, hmem, hpkg⟩

/-- The rows return to the pool (R209). -/
theorem vacated_pool {key : Nat} (hcore : keyUnit key < 1216) (s : State) (w : Warp) :
    ((vacated s key w).core (keyUnit key)).poolFree = (s.core (keyUnit key)).poolFree + warpRows (settleGive w s.cycle) := by
  obtain ⟨-, -, -, hcores⟩ := leaveGhost_frame { s with warps := fmErase s.warps key } key w
  unfold vacated
  dsimp only
  rw [if_pos hcore, State.modCore_same]
  simp only [returnRows, State.core, hcores]

/-- Of the entries that are no ghosts, the slot's own alone is gone. -/
theorem vacated_filter {p : Nat × Warp → Bool} (hp : ∀ g v, isGhost g = true → p (g, v) = false) (s : State) (key : Nat) (w : Warp) :
    (vacated s key w).warps.filter p = (fmErase s.warps key).filter p := by
  rw [vacated_warps]
  by_cases h : w.pend.filter lasts = []
  · rw [leaveGhost_nothing h]
  · rw [leaveGhost_warps h]
    exact fmPut_filter_unseen (fun v => hp _ v (isGhost_ghostKey _ _)) _ _

theorem vacated_warp {k : Nat} (hk : isGhost k = false) (s : State) (key : Nat) (w : Warp) :
    (vacated s key w).warp k = if k = key then none else s.warp k := by
  have hseen : ∀ m : FMap Warp, fmFind (m.filter (fun e => !isGhost e.1)) k = fmFind m k :=
    fmFind_filter_passed (fun v => by simp [hk])
  calc fmFind (vacated s key w).warps k
      = fmFind ((vacated s key w).warps.filter (fun e => !isGhost e.1)) k := (hseen _).symm
    _ = fmFind ((fmErase s.warps key).filter (fun e => !isGhost e.1)) k := by rw [vacated_filter (fun g v hg => by simp [hg])]
    _ = if k = key then none else fmFind s.warps k := by rw [hseen, fmFind_fmErase]

theorem vacated_crewWarps (s : State) (key : Nat) (w : Warp) (id : Nat) :
    crewWarps (vacated s key w) id = (crewWarps s id).filter (fun e => e.1 != key) := by
  unfold crewWarps
  rw [vacated_filter (fun g v hg => by simp [hg]), fmErase, List.filter_filter, List.filter_filter]
  exact List.filter_congr fun e _ => Bool.and_comm _ _

/-- What is left stands under a key of its own. -/
theorem vacated_ghost {w : Warp} (h : w.pend.filter lasts ≠ []) (s : State) (key : Nat) :
    (vacated s key w).warp (ghostKey key s.nextOp) = some (ghostOf w) := by
  unfold State.warp
  rw [vacated_warps, leaveGhost_warps h]
  exact fmFind_fmPut_same _ _ _

theorem ghostStays_vacated {w : Warp} (h : w.pend.filter lasts ≠ []) (hholds : ghostHolds (ghostOf w) = true) (s : State) (key : Nat) :
    ghostStays (vacated s key w) w.crew = true := by
  refine List.any_eq_true.mpr ⟨_, fmFind_mem _ _ _ (vacated_ghost h s key), ?_⟩
  simp only [isGhost_ghostKey, hholds, Bool.true_and, Bool.and_true, decide_eq_true_eq]
  rfl

theorem ghostStays_vacated_nothing {s : State} {w : Warp} (h : w.pend.filter lasts = [])
    (hs : ∀ e ∈ s.warps, isGhost e.1 = true → e.2.crew ≠ w.crew) (key : Nat) : ghostStays (vacated s key w) w.crew = false := by
  unfold ghostStays
  rw [vacated_warps, leaveGhost_nothing h, List.any_eq_false]
  intro e he hheld
  simp only [Bool.and_eq_true, decide_eq_true_eq] at hheld
  obtain ⟨⟨hg, hcrew⟩, -⟩ := hheld
  exact hs e (List.mem_of_mem_filter he) hg hcrew

/-! ## A crew that the core ends (R185, R413) -/

theorem freeCrew_frame (s : State) (id : Nat) (c : Crew) : (freeCrew s id c).warps = s.warps.filter (fun e => e.2.crew != id) ∧
    (freeCrew s id c).crews = fmErase s.crews id ∧ (freeCrew s id c).mem = s.mem ∧ (freeCrew s id c).pkg = s.pkg := by
  unfold freeCrew
  dsimp only
  split <;> exact ⟨rfl, rfl, rfl, rfl⟩

/-- A record whose answer nobody waits for stays. -/
theorem freeCrew_keeps_record {s : State} {f : FaultRec} (hf : f ∈ s.faults) (hw : f.waiter = .nobody) (id : Nat) (c : Crew) :
    f ∈ (freeCrew s id c).faults := by
  unfold freeCrew
  dsimp only
  split <;> exact List.mem_filterMap.mpr ⟨f, hf, by simp [hw]⟩

/-- The state after the core has ended a crew. -/
def crewEnded (s : State) (id : Nat) (c : Crew) (e : Ending) : State :=
  let s1 := freeCrew (sendFault s (endRecord c e)) id c
  crewGone { s1 with crews := fmPut s1.crews id c } id c true

theorem crewEnd_eq {s : State} {id : Nat} {c : Crew} {e : Ending} (hc : s.crew id = some c) (hend : c.ending = some e)
    (hrun : s.pkg.frozen = false) (hcmds : 1216 ≤ c.unit → (s.cluster (c.unit - 1216)).cmds = []) :
    exec (.crewEnd id) s = .next (crewEnded s id c e) := by
  have hquiet : (decide (1216 ≤ c.unit) && !(s.cluster (c.unit - 1216)).cmds.isEmpty) = false := by
    by_cases hu : 1216 ≤ c.unit
    · simp [hcmds hu]
    · simp [hu]
  change execCrewEnd id s = _
  unfold execCrewEnd
  simp only [hc, hend, hrun, hquiet]
  rfl

theorem crewEnded_warps (s : State) (id : Nat) (c : Crew) (e : Ending) :
    (crewEnded s id c e).warps = s.warps.filter (fun x => x.2.crew != id) := by
  change (freeCrew (sendFault s (endRecord c e)) id c).warps.filter _ = _
  rw [(freeCrew_frame _ id c).1, List.filter_filter]
  refine List.filter_congr fun x _ => ?_
  by_cases hx : x.2.crew = id <;> simp [hx]

theorem crewEnded_crew (s : State) (id : Nat) (c : Crew) (e : Ending) (k : Nat) :
    (crewEnded s id c e).crew k = if k = id then none else s.crew k := by
  refine (crewGone_crew _ id c true k).trans (if_ctx_congr Iff.rfl (fun _ => rfl) fun hk => ?_)
  change fmFind (fmPut (freeCrew (sendFault s (endRecord c e)) id c).crews id c) k = _
  rw [fmFind_fmPut_ne _ _ _ _ hk, (freeCrew_frame _ id c).2.1, fmFind_fmErase, if_neg hk]
  rfl

theorem crewEnded_record (s : State) (id : Nat) (c : Crew) (e : Ending) : endRecord c e ∈ (crewEnded s id c e).faults :=
  freeCrew_keeps_record (List.mem_append_right _ (List.mem_singleton.mpr rfl)) rfl id c

end Sys2Proof.Machine

namespace Sys2Proof.Proofs
open Sys2Proof Sys2Proof.Machine

/-- Settles O36: a warp leaves its slot and its crew goes with the last one; a crew that the core ends leaves its record and goes. -/
theorem endResults : Obligations.EndResults := by
  unfold Obligations.EndResults
  refine ⟨fun unit slot s w c hw hc hend hover hrun hghost => ?warp, fun id s c e hc hend hrun hcmds => ?crew⟩
  case warp =>
    intro key others left
    obtain ⟨hcrews, hmem, hpkg⟩ := vacated_frame s key w
    obtain ⟨hmem', hcores', hwarp'⟩ := endCrew_frame (vacated s key w) w.crew
    have hstays : others = true → endCrew (vacated s key w) w.crew = vacated s key w := fun ho => by
      obtain ⟨x, hx, hne⟩ := List.any_eq_true.mp ho
      refine endCrew_stays (.inl (List.ne_nil_of_mem (a := x) ?_))
      rw [vacated_crewWarps]
      exact List.mem_filter.mpr ⟨hx, hne⟩
    refine ⟨_, congrArg Host.Outcome.next (endWarp_eq hw hc hend hover hrun hghost), ?_, fun k hk hk' => ?_, hmem'.trans hmem, fun hcore => ?_,
      fun ho => ?others, fun hleft hhold => ?left, fun ho hleft hnone => ?last⟩
    · rw [hwarp' key hghost, vacated_warp hghost, if_pos rfl]
    · rw [hwarp' k hk', vacated_warp hk', if_neg hk]
    · rw [State.core, hcores']
      exact vacated_pool hcore s w
    case others =>
      rw [hstays ho]
      exact ⟨hcrews, hpkg⟩
    case left =>
      have ht : endCrew (vacated s key w) w.crew = vacated s key w :=
        hhold.elim hstays fun hh => endCrew_stays (.inr (ghostStays_vacated hleft hh s key))
      rw [ht]
      exact ⟨_, _, isGhost_ghostKey _ _, vacated_ghost hleft s key, rfl, rfl, hcrews⟩
    case last =>
      have hempty : crewWarps (vacated s key w) w.crew = [] := by
        rw [vacated_crewWarps, List.filter_eq_nil_iff]
        exact List.any_eq_false.mp ho
      have hc' : (vacated s key w).crew w.crew = some c := by rw [State.crew, hcrews]; exact hc
      rw [endCrew_ends hc' hend hempty (ghostStays_vacated_nothing hleft hnone key), crewGone_crew, if_pos rfl, crewGone_launches, hpkg]
      exact ⟨rfl, List.map_congr_left fun l _ => by simp⟩
  case crew =>
    obtain ⟨-, -, hmem, hpkg⟩ := freeCrew_frame (sendFault s (endRecord c e)) id c
    refine ⟨_, endRecord c e, crewEnd_eq hc hend hrun hcmds, by rw [crewEnded_crew, if_pos rfl], fun k hk => by rw [crewEnded_crew, if_neg hk],
      crewEnded_warps s id c e, hmem, crewEnded_record s id c e, rfl, rfl, rfl, rfl, rfl, rfl, rfl, rfl, rfl, rfl, ?_⟩
    refine (crewGone_launches _ id c true).trans ?_
    change (freeCrew (sendFault s (endRecord c e)) id c).pkg.launches.map _ = _
    rw [hpkg]
    rfl

end Sys2Proof.Proofs
end

section
/-! PROOF. What the release of waiters at a scratchpad leaves: everything but warps, crews and cores (09_core_memory.md R249, R250, R253-R255). -/

namespace Sys2Proof.Machine

/-- The state without the tables that the banks and the warps' traps change. -/
def State.offCore (s : State) : State := { s with warps := [], crews := [], cores := [] }

@[simp] theorem setWarp_offCore (s : State) (k : Nat) (w : Warp) : (s.setWarp k w).offCore = s.offCore := rfl
@[simp] theorem setCrew_offCore (s : State) (k : Nat) (c : Crew) : (s.setCrew k c).offCore = s.offCore := rfl
@[simp] theorem modCrew_offCore (s : State) (k : Nat) (f : Crew → Crew) : (s.modCrew k f).offCore = s.offCore := by
  unfold State.modCrew
  split <;> rfl

@[simp] theorem wakeCore_offCore (s : State) (unit bit : Nat) : (wakeCore s unit bit).offCore = s.offCore := by
  simp only [wakeCore]
  split_ifs <;> rfl

@[simp] theorem handlerEnds_offCore (s : State) (key : Nat) (w : Warp) (cause : Nat) (info : Word) :
    (handlerEnds s key w cause info).offCore = s.offCore := by
  rw [handlerEnds_eq]
  exact modCrew_offCore _ _ _

@[simp] theorem raiseLate_offCore (s : State) (key : Nat) (t : TrapRec) (handlers : Bool) : (raiseLate s key t handlers).offCore = s.offCore := by
  unfold raiseLate
  split
  · rfl
  · split_ifs <;> simp

@[simp] theorem releaseAwaits_offCore (s : State) (crew : Nat) (bads : List Nat) : (releaseAwaits s crew bads).offCore = s.offCore := by
  cases hc : s.crew crew with
  | none => simp [releaseAwaits, hc]
  | some c =>
    obtain ⟨b, h⟩ := releaseAwaits_eq hc bads
    rw [h]
    cases b with
    | false => rfl
    | true => exact wakeCore_offCore s c.unit 0

@[simp] theorem qMarkWaiters_offCore (s : State) (crew qn : Nat) : (qMarkWaiters s crew qn).offCore = s.offCore := by
  unfold qMarkWaiters
  split
  · rfl
  · split
    · rfl
    · split_ifs <;> simp

/-- A waiter that is served takes its elements or leaves its own, or traps; the others are served after it. -/
@[simp] theorem qServeKind_offCore (crew qn : Nat) (k : QueueKind) (es : List (Nat × Nat × Pend)) (s : State) :
    (qServeKind crew qn k es s).offCore = s.offCore := by
  induction es generalizing s with
  | nil => rfl
  | cons e es ih =>
    unfold qServeKind
    split
    · split
      · rfl
      · cases k with
        | push => dsimp only; split_ifs <;> simp [ih, trapLate]
        | pop => dsimp only; split_ifs <;> simp [ih, trapLate]
    · rfl

@[simp] theorem qServe_offCore (crew qn fuel : Nat) (s : State) : (qServe crew qn fuel s).offCore = s.offCore := by
  induction fuel generalizing s with
  | zero => exact qMarkWaiters_offCore s crew qn
  | succ fuel ih =>
    unfold qServe
    dsimp only
    split <;> split_ifs <;> simp [ih]

@[simp] theorem afterScratch_offCore (s : State) (crew : Nat) : (afterScratch s crew).offCore = s.offCore := by
  unfold afterScratch
  dsimp only
  split
  · simp
  · rw [foldl_keeps State.offCore (fun s q _ => ?_), releaseAwaits_offCore]
    split <;> simp

end Sys2Proof.Machine
end

section
/-! PROOF. Copy commands: their start, a piece between scratchpads, a CVTTAB, and abandonment (12_cluster_copy_gemm.md R315-R323). -/

namespace Sys2Proof.Machine

theorem mem_of_offCore {s t : State} (h : t.offCore = s.offCore) : t.mem = s.mem := (congrArg State.mem h :)
theorem faults_of_offCore {s t : State} (h : t.offCore = s.offCore) : t.faults = s.faults := (congrArg State.faults h :)
theorem cluster_of_offCore {s t : State} (h : t.offCore = s.offCore) (cl : Nat) : t.cluster cl = s.cluster cl :=
  cluster_congr (congrArg State.clusters h) cl

/-! ## A command in its engine -/

/-- A command that stands under its number is found as it stands now. -/
theorem find_setCopy {xs : List CpyCmd} {c d : CpyCmd} (h : xs.find? (fun x => x.id = d.id) = some c) :
    (xs.map (fun x => if x.id = d.id then d else x)).find? (fun x => x.id = d.id) = some d := by
  have hsame : (fun x : CpyCmd => decide (x.id = d.id)) ∘ (fun x => if x.id = d.id then d else x) = fun x => decide (x.id = d.id) := by
    funext x
    by_cases hx : x.id = d.id <;> simp [hx]
  have hid : c.id = d.id := by simpa using List.find?_some h
  rw [List.find?_map, hsame, h, Option.map_some, if_pos hid]

theorem setCopy_copies (s : State) (cl : Nat) (d : CpyCmd) :
    ((setCopy s cl d).cluster cl).copies = (s.cluster cl).copies.map (fun x => if x.id = d.id then d else x) := by
  rw [setCopy, State.modCluster_same]

theorem setCopy_twice (s : State) (cl : Nat) (d : CpyCmd) : setCopy (setCopy s cl d) cl d = setCopy s cl d := by
  unfold setCopy
  rw [modCluster_modCluster]
  refine congrArg (State.modCluster s cl) (funext fun k => ?_)
  have htwice : ∀ x : CpyCmd, (if (if x.id = d.id then d else x).id = d.id then d else if x.id = d.id then d else x) =
      if x.id = d.id then d else x := fun x => by
    by_cases hx : x.id = d.id <;> simp [hx]
  simp only [List.map_map, Function.comp_def, htwice]

/-- A command that finishes leaves its engine, where everything else stays. -/
theorem cpyFinish_cluster (s : State) (cl : Nat) (c : CpyCmd) :
    (cpyFinish s cl c).cluster cl = { s.cluster cl with copies := (s.cluster cl).copies.filter (fun x => x.id != c.id) } := by
  unfold cpyFinish
  rw [cluster_congr (State.modWarp_clusters _ _ _), State.modCluster_same]

theorem cpyFinish_gone (s : State) (cl : Nat) (c : CpyCmd) : ∀ x ∈ ((cpyFinish s cl c).cluster cl).copies, x.id ≠ c.id := by
  intro x hx
  rw [cpyFinish_cluster] at hx
  simpa using (List.mem_filter.mp hx).2

@[simp] theorem cpyFinish_mem (s : State) (cl : Nat) (c : CpyCmd) : (cpyFinish s cl c).mem = s.mem := by simp [cpyFinish]
@[simp] theorem cpyFinish_crews (s : State) (cl : Nat) (c : CpyCmd) : (cpyFinish s cl c).crews = s.crews := by simp [cpyFinish]

/-! ## The start of a command (R319) -/

theorem cpyStart_eq {s : State} {cl : Nat} {c : CpyCmd} (hfind : (s.cluster cl).copies.find? (fun x => x.id = c.id) = some c)
    (hmay : cpyMayStart s (s.cluster cl) c = true) (hfirst : (cpyEarlier (s.cluster cl) c).any (cpyMayStart s (s.cluster cl)) = false) :
    cpyStart s cl c.id = cpyPiece (setCopy s cl { c with started := true }) cl c.id 0 := by
  unfold cpyStart
  simp only [hfind, hmay, hfirst]
  rfl

/-- A command that has bytes to move and none to count stays as it is. -/
theorem cpyCount_idle {c : CpyCmd} (hdue : c.due = 0) (hmoved : c.moved < cpyTotal c) (s : State) (cl : Nat) : cpyCount s cl c = setCopy s cl c := by
  have hgo : ∀ d : Nat, ¬ (c.moved = cpyTotal c ∧ d = 0) := fun d h => by omega
  have hsame : { c with due := 0 } = c := by rw [← hdue]
  unfold cpyCount
  split
  · rw [hsame]
    exact if_neg (by simpa using hgo c.due)
  · have hnone : (decide (min c.due 4096 = 0) || countHeld s c) = true := by rw [hdue]; rfl
    dsimp only
    rw [if_pos hnone]
    exact if_neg (by simpa using hgo c.due)

/-- A command without an arrival word counts nothing: it finishes with its last element. -/
theorem cpyCount_uncounted {c : CpyCmd} (harr : c.arr = none) (s : State) (cl : Nat) : cpyCount s cl c =
    if c.moved = cpyTotal c then cpyFinish s cl { c with due := 0 } else setCopy s cl { c with due := 0 } := by
  unfold cpyCount
  split
  · exact if_congr (by rw [Bool.and_eq_true]; exact ⟨fun h => of_decide_eq_true h.1, fun h => ⟨decide_eq_true h, rfl⟩⟩) rfl rfl
  · rename_i h
    cases harr.symm.trans h

/-- No scratchpad of the command has gone with its crew (R323). -/
def cpyCrewsStand (s : State) (c : CpyCmd) : Prop := ∀ i, c.dcrew = some i ∨ c.screw = some i → (s.crew i).isSome = true

/-- The crew of one side of a command has gone. -/
def crewGoneAt (s : State) : Option Nat → Bool
  | some k => (s.crew k).isNone
  | none => false

theorem crewGoneAt_stands {s : State} {o : Option Nat} (h : ∀ i, o = some i → (s.crew i).isSome = true) : crewGoneAt s o = false := by
  cases o with
  | none => rfl
  | some i => simpa [crewGoneAt] using h i rfl

/-- A step of a command that copies, and of which no fault waits for its answer. -/
theorem cpyPiece_copy {s : State} {cl : Nat} {c : CpyCmd} (hfind : (s.cluster cl).copies.find? (fun x => x.id = c.id) = some c)
    (hstarted : c.started = true) (htable : c.table = none) (hquiet : s.faults.any (fun f => f.waiter = .copy cl c.id) = false)
    (hcrews : cpyCrewsStand s c) (bytes : Nat) : cpyPiece s cl c.id bytes =
      if cpyPieceLen c bytes = 0 then cpyCount s cl c else match cpyMove s cl (cpyPieceLen c bytes) c with
        | .inl s1 => s1
        | .inr (s1, c1) => cpyCount s1 cl c1 := by
  have hsrc : crewGoneAt s c.screw = false := crewGoneAt_stands fun i h => hcrews i (.inr h)
  have hdst : crewGoneAt s c.dcrew = false := crewGoneAt_stands fun i h => hcrews i (.inl h)
  unfold cpyPiece
  simp only [hfind, hstarted, hquiet, htable]
  change (if (crewGoneAt s c.screw || crewGoneAt s c.dcrew) = true then _ else _) = _
  rw [hsrc, hdst]
  rfl

theorem cpyPiece_table {s : State} {cl n va : Nat} {c : CpyCmd} (hfind : (s.cluster cl).copies.find? (fun x => x.id = c.id) = some c)
    (hstarted : c.started = true) (htable : c.table = some (n, va)) (hquiet : s.faults.any (fun f => f.waiter = .copy cl c.id) = false)
    (bytes : Nat) : cpyPiece s cl c.id bytes = cpyLoad s cl c n va := by
  unfold cpyPiece
  simp only [hfind, hstarted, hquiet, htable]
  rfl

/-! ## CVTTAB (R321) -/

/-- The table of 256 halfwords that 512 bytes with their marks hold. -/
def tableOf (bs : List (Byte × Bool)) : FMap (BitVec 16 × Bool) :=
  (List.range 256).map (fun j => (j, (BitVec.ofNat 16 ((((bs.drop (2 * j)).take 2).zipIdx).foldl (fun a b => a + b.1.1.toNat * 256 ^ b.2) 0),
    ((bs.drop (2 * j)).take 2).any (fun b => b.2))))

theorem cpyLoad_ok {s s1 : State} {cl n va : Nat} {c : CpyCmd} {bs : List (Byte × Bool)} (hgo : cpyTableWaits (s.cluster cl) c = false)
    (hread : vmRdBytes ⟨1368 + cl, c.cregs, .copy cl c.id⟩ 512 s va = .ok (s1, bs)) :
    cpyLoad s cl c n va = cpyFinish (s1.modCluster cl (fun k => { k with tables := k.tables.set n (tableOf bs) })) cl c := by
  unfold cpyLoad
  simp only [hgo, hread]
  rfl

/-- An entry of a table that lists the numbers below m. -/
theorem fmFind_range {α : Type} (f : Nat → α) {m j : Nat} (h : j < m) : fmFind ((List.range m).map (fun i => (i, f i))) j = some (f j) := by
  induction m with
  | zero => exact absurd h (Nat.not_lt_zero j)
  | succ m ih =>
    rw [List.range_succ, List.map_append, fmFind_append]
    by_cases hj : j < m
    · rw [ih hj]
      rfl
    · obtain rfl : j = m := by omega
      have hnone : fmFind ((List.range j).map (fun i => (i, f i))) j = none := by
        cases hf : fmFind ((List.range j).map (fun i => (i, f i))) j with
        | none => rfl
        | some v =>
          obtain ⟨i, hi, he⟩ := List.mem_map.mp (fmFind_mem _ _ _ hf)
          have : i = j := congrArg Prod.fst he
          have := List.mem_range.mp hi
          omega
      rw [hnone]
      simp [fmFind_cons]

theorem tableOf_entry (bs : List (Byte × Bool)) {j : Nat} (hj : j < 256) : ((fmGet (0, false) (tableOf bs) j).1).toNat =
    (((bs.drop (2 * j)).take 2).zipIdx.foldl (fun a b => a + b.1.1.toNat * 256 ^ b.2) 0) % 65536 := by
  unfold tableOf fmGet
  rw [fmFind_range (fun j => _) hj, Option.getD_some, BitVec.toNat_ofNat]

/-! ## A piece between scratchpads (R315, R316) -/

/-- The word of a destination byte is complete once n more elements have been moved. -/
def cpyReady (c : CpyCmd) (n a : Nat) : Bool := !cpyLater c (cpyDst c) (cpyWd c) (c.moved + n) (a / 8)

/-- The numbers of the next n elements. -/
def cpyNext (c : CpyCmd) (n : Nat) : List Nat := (List.range n).map (fun i => c.moved + i)

/-- The destination bytes that a piece of n elements writes: kept ones and new ones whose words it completes. -/
def cpyOut (c : CpyCmd) (n : Nat) (mv : Moved) : List (Nat × Byte × Bool) := (c.held ++ mv.bytes).filter (fun b => cpyReady c n b.1)

/-- The addresses that it would write. -/
def cpyPlaces (c : CpyCmd) (n : Nat) : List Nat :=
  (c.held.map (fun b => b.1) ++ (cpyNext c n).flatMap (fun i => (List.range (cpyWd c)).map (fun j => cpyDst c i + j))).filter (cpyReady c n)

/-- The command after the piece. -/
def cpyMoved (c : CpyCmd) (n : Nat) (seen : FMap (Nat × Bool)) (mv : Moved) : CpyCmd :=
  { c with
    moved := c.moved + n, flags := c.flags ||| mv.flags, held := (c.held ++ mv.bytes).filter (fun b => !cpyReady c n b.1)
    due := c.due + (cpyOut c n mv).length, seen := seen.filter (fun e => cpyLater c (cpySrc c) (cpyWs c) (c.moved + n) e.1) }

/-- The destination's crew has the bytes in its banks, and what waited there goes on. -/
def cpyBanked (s : State) (dk : Nat) (out : List (Nat × Byte × Bool)) : State :=
  if out.isEmpty then s else afterScratch (s.modCrew dk (fun t => spPut t out)) dk

/-- CPYERR notes uncorrectable words and poisoned entries (R313). -/
def cpyNoted (s : State) (cl : Nat) (mv : Moved) : State :=
  s.modCluster cl (fun k => { k with cpyerr := k.cpyerr ||| (if mv.unc then 8 else 0) ||| (if mv.tpoi then 4 else 0) })

/-- Without addresses in global memory nothing is translated. -/
theorem pagesOf_nil (e : Env) (s : State) (need : Nat) : pagesOf e s need [] = .ok (s, []) := by
  simp [pagesOf, walksWait, walksGo, translateEls]

theorem cpyMove_scratch {s s1 : State} {cl n dk sk : Nat} {c : CpyCmd} {seen : FMap (Nat × Bool)} {mv : Moved} (hd : c.dcrew = some dk)
    (hs : c.screw = some sk) (harr : c.arr = none) (hwaits : cpyTableWaits (s.cluster cl) c = false)
    (hbehind : cpyBehind s (s.cluster cl) c (cpyPlaces c n) = false) (hgather : cpyGather cl c [] (cpyNext c n) s c.seen = .ok (s1, seen, mv)) :
    cpyMove s cl n c = .inr (cpyNoted (cpyBanked s1 dk (cpyOut c n mv)) cl mv, cpyMoved c n seen mv) := by
  have hgo : (cpyBehind s (s.cluster cl) c (cpyPlaces c n) || cpyTableWaits (s.cluster cl) c) = false := by rw [hbehind, hwaits]; rfl
  unfold cpyPlaces cpyNext cpyReady at hgo
  unfold cpyNext at hgather
  unfold cpyMove
  simp only [hd, hs, Option.isSome_some, if_true, pagesOf_nil, hgo, hgather, Bool.false_eq_true, if_false, List.any_nil, countClears, harr, cpyMoved]
  rfl

/-- A source in a scratchpad is read without changing anything. -/
theorem cpyWord_scratch {s : State} {cl sk w : Nat} {c : CpyCmd} {m : FMap Nat} {seen : FMap (Nat × Bool)}
    {r : State × FMap (Nat × Bool) × Nat × Bool} (hs : c.screw = some sk) (h : cpyWord cl c m s seen w = .ok r) : r.1 = s := by
  unfold cpyWord engineRead at h
  simp only [hs] at h
  split at h
  · cases h
    rfl
  · cases hc : s.crew sk with
    | none => simp [hc] at h
    | some t =>
      simp only [hc] at h
      cases h
      rfl

theorem cpyElem_scratch {s : State} {cl sk a n : Nat} {c : CpyCmd} {m : FMap Nat} {seen : FMap (Nat × Bool)}
    {r : State × FMap (Nat × Bool) × Nat × Bool} (hs : c.screw = some sk) (h : cpyElem cl c m s seen a n = .ok r) : r.1 = s := by
  unfold cpyElem at h
  split at h
  · cases h
  · rename_i s1 _ _ _ h1
    have hs1 : s1 = s := cpyWord_scratch hs h1
    subst hs1
    split at h
    · cases h
      rfl
    · split at h
      · cases h
      · rename_i h2
        cases h
        have hs2 := cpyWord_scratch hs h2
        exact hs2

theorem cpyGather_scratch {cl sk : Nat} {c : CpyCmd} {m : FMap Nat} (hs : c.screw = some sk) {ks : List Nat} {s : State} {seen : FMap (Nat × Bool)}
    {r : State × FMap (Nat × Bool) × Moved} (h : cpyGather cl c m ks s seen = .ok r) : r.1 = s := by
  induction ks generalizing s seen r with
  | nil =>
    cases h
    rfl
  | cons k ks ih =>
    unfold cpyGather at h
    split at h
    · cases h
    · rename_i s1 _ _ _ h1
      have hs1 : s1 = s := cpyElem_scratch hs h1
      subst hs1
      dsimp only at h
      split at h
      · cases h
      · rename_i h2
        cases h
        have hs2 := ih h2
        exact hs2

/-! ## What the banks hold after a piece (R316) -/

/-- One byte written. -/
def putByte (c : Crew) (b : Nat × Byte × Bool) : Crew := { c with sp := memSet c.sp b.1 b.2.1 }

/-- But for the marks, bytes come to the banks one by one. -/
theorem spPut_keeps (c : Crew) (bs : List (Nat × Byte × Bool)) : { spPut c bs with spBad := [] } = { bs.foldl putByte c with spBad := [] } := by
  refine foldl_keeps (fun c : Crew => { c with spBad := [] }) (fun c w _ => ?_) _
  dsimp only
  split_ifs <;> rfl

theorem spPut_sp (c : Crew) (bs : List (Nat × Byte × Bool)) : (spPut c bs).sp = (bs.foldl putByte c).sp :=
  (congrArg Crew.sp (spPut_keeps c bs) :)

/-- Bytes put into the banks leave nothing of the crew changed but bytes and marks. -/
theorem spPut_frame (c : Crew) (bs : List (Nat × Byte × Bool)) : { spPut c bs with sp := [], spBad := [] } = { c with sp := [], spBad := [] } :=
  (congrArg (fun c : Crew => { c with sp := [] }) (spPut_keeps c bs) :).trans
    (foldl_keeps (f := putByte) (l := bs) (fun c : Crew => { c with sp := [], spBad := [] }) (fun _ _ _ => rfl) c)

theorem memGet_putBytes_outside {a : Nat} {bs : List (Nat × Byte × Bool)} (h : ∀ b ∈ bs, b.1 ≠ a) (c : Crew) :
    memGet (bs.foldl putByte c).sp a = memGet c.sp a :=
  foldl_keeps (fun c : Crew => memGet c.sp a) (fun _ b hb => (memGet_memSet _ _ _ _).trans (if_neg (h b hb).symm)) c

/-- Of bytes at different addresses each stands in its place. -/
theorem memGet_putBytes {bs : List (Nat × Byte × Bool)} (hnodup : (bs.map (fun b => b.1)).Nodup) {b : Nat × Byte × Bool} (hb : b ∈ bs)
    (c : Crew) : memGet (bs.foldl putByte c).sp b.1 = b.2.1 := by
  induction bs generalizing c with
  | nil => cases hb
  | cons x bs ih =>
    obtain ⟨hx, hbs⟩ := List.nodup_cons.mp hnodup
    rcases List.mem_cons.mp hb with rfl | hb
    · rw [List.foldl_cons, memGet_putBytes_outside fun y hy he => hx (List.mem_map.mpr ⟨y, hy, he⟩)]
      exact (memGet_memSet _ _ _ _).trans (if_pos rfl)
    · exact ih hbs hb _

theorem cpyBanked_eq {s : State} {dk : Nat} {dc : Crew} (hdc : s.crew dk = some dc) (out : List (Nat × Byte × Bool)) :
    cpyBanked s dk out = if out = [] then s else afterScratch (s.modCrew dk (fun _ => spPut dc out)) dk := by
  unfold cpyBanked
  rw [State.modCrew_some _ _ _ _ hdc, State.modCrew_some _ _ _ _ hdc]
  exact if_congr List.isEmpty_iff rfl rfl

theorem cpyBanked_offCore (s : State) (dk : Nat) (out : List (Nat × Byte × Bool)) : (cpyBanked s dk out).offCore = s.offCore := by
  unfold cpyBanked
  split <;> simp

/-- The commands of the engine after the banks have changed and CPYERR has been written. -/
theorem cpyNoted_copies (s : State) (cl dk : Nat) (out : List (Nat × Byte × Bool)) (mv : Moved) :
    ((cpyNoted (cpyBanked s dk out) cl mv).cluster cl).copies = (s.cluster cl).copies := by
  rw [cpyNoted, State.modCluster_same, cluster_of_offCore (cpyBanked_offCore s dk out)]

/-! ## Abandonment (R323) -/

/-- INFO of the record and of the trap of a datapath miscompare: the handle of hD (log 92) and the reason. -/
def cpyFaultInfo (c : CpyCmd) : Word := BitVec.ofNat 64 (c.hd + 6 * 4096)

/-- The record of the miscompare. -/
def cpyRecord (s : State) (cl : Nat) (c : CpyCmd) : FaultRec :=
  ofCrew s c.crew (engineFault 4 6 8 c.cregs c.ctx 0 (1368 + cl) (if keyAcorn c.key then 0 else keySlot c.key) (cpyFaultInfo c) .nobody)

/-- The state once the command has left its engine, with the fault in CPYERR. -/
def cpyLeft (s : State) (cl : Nat) (c : CpyCmd) : State :=
  s.modCluster cl (fun k => { k with
    copies := k.copies.filter (fun x => x.id != c.id)
    cpyerr := cpyErr k c.hd 6 (keyUnit c.key) (if keyAcorn c.key then 0 else keySlot c.key) })

/-- The state once its record is sent. -/
def cpyAbandoned (s : State) (cl : Nat) (c : CpyCmd) : State := sendFault (orphanFaults (cpyLeft s cl c) (.copy cl c.id)) (cpyRecord s cl c)

/-- The issuer's trap. -/
def cpyTrap (s : State) (c : CpyCmd) : TrapRec :=
  { cause := cENGFAULT, stage := .late, late := true, info := cpyFaultInfo c, pc := c.pc, act := c.act, exec := c.exec, word := c.word,
    slots := none, cycle := s.cycle }

theorem cpyGiveUp_miscompare {s : State} {cl : Nat} {c : CpyCmd} (hfind : (s.cluster cl).copies.find? (fun x => x.id = c.id) = some c) :
    cpyGiveUp s cl c.id 6 = match s.warp c.key with
      | none => cpyAbandoned s cl c
      | some w => if w.crew != c.crew then cpyAbandoned s cl c
        else raiseLate ((cpyAbandoned s cl c).setWarp c.key { w with cpyFlt := true }) c.key (cpyTrap s c) c.tm := by
  unfold cpyGiveUp
  simp only [hfind]
  rfl

theorem copyAbandon_miscompare {s : State} {cl : Nat} {c : CpyCmd} (hfind : (s.cluster cl).copies.find? (fun x => x.id = c.id) = some c) :
    exec (.copyAbandon cl c.id 6) s = .next (cpyGiveUp s cl c.id 6) := by
  change execCopyAbandon cl c.id 6 s = _
  unfold execCopyAbandon
  simp only [hfind]
  rfl

/-- The issuer's trap changes no more than warps and crews. -/
theorem cpyGiveUp_offCore {s : State} {cl : Nat} {c : CpyCmd} (hfind : (s.cluster cl).copies.find? (fun x => x.id = c.id) = some c) :
    (cpyGiveUp s cl c.id 6).offCore = (cpyAbandoned s cl c).offCore := by
  rw [cpyGiveUp_miscompare hfind]
  split
  · rfl
  · split
    · rfl
    · rw [raiseLate_offCore, setWarp_offCore]

theorem cpyAbandoned_copies (s : State) (cl : Nat) (c : CpyCmd) :
    ((cpyAbandoned s cl c).cluster cl).copies = (s.cluster cl).copies.filter (fun x => x.id != c.id) := by
  change ((cpyLeft s cl c).cluster cl).copies = _
  rw [cpyLeft, State.modCluster_same]

theorem cpyAbandoned_gone (s : State) (cl : Nat) (c : CpyCmd) : ∀ x ∈ ((cpyAbandoned s cl c).cluster cl).copies, x.id ≠ c.id := by
  intro x hx
  rw [cpyAbandoned_copies] at hx
  simpa using (List.mem_filter.mp hx).2

/-- What a record says beside its ring, launch and crew is what its unit gave. -/
theorem ofCrew_fields (s : State) (crew : Nat) (f : FaultRec) : (ofCrew s crew f).ftype = f.ftype ∧ (ofCrew s crew f).reason = f.reason ∧
    (ofCrew s crew f).unit = f.unit ∧ (ofCrew s crew f).info = f.info := by
  unfold ofCrew
  split
  · exact ⟨rfl, rfl, rfl, rfl⟩
  · split <;> exact ⟨rfl, rfl, rfl, rfl⟩

/-- The record is on its way; its type has no tag (R412). -/
theorem cpyRecord_sent (s : State) (cl : Nat) (c : CpyCmd) : { cpyRecord s cl c with tag := 0 } ∈ (cpyAbandoned s cl c).faults := by
  have htype : (cpyRecord s cl c).ftype = 4 := (ofCrew_fields _ _ _).1
  refine List.mem_append_right _ (List.mem_singleton.mpr ?_)
  rw [if_neg (show ¬ (cpyRecord s cl c).ftype = 1 by rw [htype]; decide)]

theorem raiseLate_handler {s : State} {key : Nat} {w : Warp} (hw : s.warp key = some w) (hghost : isGhost key = false) (t : TrapRec) :
    raiseLate s key t true = handlerEnds s key w t.cause t.info := by
  simp only [raiseLate, hw, hghost, Bool.false_eq_true, if_false, if_true]

/-- A late trap of no abandoned access joins the end of the held ones (R177). -/
theorem raiseLate_held {s : State} {key : Nat} {w : Warp} {t : TrapRec} (hw : s.warp key = some w) (hghost : isGhost key = false)
    (hleads : leads t = false) : raiseLate s key t false = s.setWarp key { w with traps := w.traps ++ [t] } := by
  simp only [raiseLate, hw, hghost, hleads, Bool.false_eq_true, if_false]

section Issuer
variable {s : State} {cl : Nat} {c : CpyCmd} {w : Warp} (hfind : (s.cluster cl).copies.find? (fun x => x.id = c.id) = some c)
  (hw : s.warp c.key = some w) (hghost : isGhost c.key = false) (hcrew : w.crew = c.crew)
include hfind hw hcrew

/-- The issuer is still in its slot, and traps. -/
theorem cpyGiveUp_issuer : cpyGiveUp s cl c.id 6 =
    raiseLate ((cpyAbandoned s cl c).setWarp c.key { w with cpyFlt := true }) c.key (cpyTrap s c) c.tm := by
  rw [cpyGiveUp_miscompare hfind]
  simp only [hw]
  exact if_neg (by simp [hcrew])

include hghost

/-- A command of the handler ends the crew (R185). -/
theorem cpyGiveUp_handler {cr : Crew} (htm : c.tm = true) (hcr : s.crew w.crew = some cr) (hend : cr.ending = none) :
    ∃ e, (cpyGiveUp s cl c.id 6).crew w.crew = some { cr with ending := some e } := by
  have hcr' : ((cpyAbandoned s cl c).setWarp c.key { w with cpyFlt := true }).crew w.crew = some cr := hcr
  rw [cpyGiveUp_issuer hfind hw hcrew, htm, raiseLate_handler (warp_setWarp_same _ _ _) hghost]
  exact ⟨_, handlerEnds_ending (w := { w with cpyFlt := true }) hcr' hend _ _ _⟩

/-- Another command's trap is held with the warp's own. -/
theorem cpyGiveUp_held (htm : c.tm = false) : (cpyGiveUp s cl c.id 6).crews = s.crews ∧
    (cpyGiveUp s cl c.id 6).warp c.key = some { w with cpyFlt := true, traps := w.traps ++ [cpyTrap s c] } := by
  rw [cpyGiveUp_issuer hfind hw hcrew, htm, raiseLate_held (warp_setWarp_same _ _ _) hghost rfl]
  exact ⟨rfl, warp_setWarp_same _ _ _⟩

end Issuer

end Sys2Proof.Machine

namespace Sys2Proof.Proofs
open Sys2Proof Sys2Proof.Machine

/-- Settles O42: a start is one change of the engine, or the read of a table; a piece between scratchpads is the bytes that it completes, put into
one crew's banks; an abandoned command leaves its record, and its issuer traps. -/
theorem copyResults : Obligations.CopyResults := by
  unfold Obligations.CopyResults
  intro cl s c k hfind quiet
  refine ⟨fun hmay hfirst hquiet => ?start, ?piece, ?abandon⟩
  case start =>
    intro c1 s0
    have hstart : exec (.copyCommandStart cl c.id) s = .next (cpyPiece s0 cl c1.id 0) := congrArg Host.Outcome.next (cpyStart_eq hfind hmay hfirst)
    have hfind0 : (s0.cluster cl).copies.find? (fun x => x.id = c1.id) = some c1 := by
      rw [setCopy_copies]
      exact find_setCopy (d := c1) hfind
    refine ⟨fun htable hmoved hdue hcrews => ?_, fun n va s1 bs htable hgo hread hn => ?_⟩
    · have hlen : cpyPieceLen c1 0 = 0 := by simp [cpyPieceLen]
      have ht : cpyPiece s0 cl c1.id 0 = setCopy s cl c1 := by
        rw [cpyPiece_copy hfind0 rfl htable hquiet hcrews, if_pos hlen, cpyCount_idle (c := c1) hdue hmoved]
        exact setCopy_twice s cl c1
      refine ⟨_, hstart.trans (congrArg _ ht), setCopy_copies s cl c1, fun j hj => modCluster_ne s cl _ hj, rfl⟩
    · have ht := (cpyPiece_table hfind0 rfl htable hquiet 0).trans (cpyLoad_ok (n := n) hgo hread)
      refine ⟨_, hstart.trans (congrArg _ ht), by simp, cpyFinish_gone _ cl c1, fun j hj => ?_⟩
      rw [cpyFinish_cluster, State.modCluster_same]
      change ((fmGet (0, false) (((s1.cluster cl).tables.set n (tableOf bs)).getD n []) j).1).toNat = _
      rw [List.getD_eq_getElem?_getD, List.getElem?_set_self hn]
      exact tableOf_entry bs hj
  case piece =>
    intro bytes dk sk dc hstarted htable hpos hquiet hd hs hdc hsk harr hwaits n ready ks hbehind s1 seen mv hgather out
    obtain rfl : s1 = s := cpyGather_scratch hs hgather
    have hcrews : cpyCrewsStand s1 c := by
      rintro i (hi | hi)
      · obtain rfl := Option.some.inj (hd.symm.trans hi)
        rw [hdc]
        rfl
      · obtain rfl := Option.some.inj (hs.symm.trans hi)
        exact hsk
    have ht : cpyPiece s1 cl c.id bytes = if c.moved + n = cpyTotal c
        then cpyFinish (cpyNoted (cpyBanked s1 dk out) cl mv) cl { cpyMoved c n seen mv with due := 0 }
        else setCopy (cpyNoted (cpyBanked s1 dk out) cl mv) cl { cpyMoved c n seen mv with due := 0 } := by
      rw [cpyPiece_copy hfind hstarted htable hquiet hcrews, if_neg hpos.ne', cpyMove_scratch hd hs harr hwaits hbehind hgather]
      exact cpyCount_uncounted (c := cpyMoved c n seen mv) harr _ cl
    have hmem : (cpyBanked s1 dk out).mem = s1.mem := mem_of_offCore (cpyBanked_offCore s1 dk out)
    refine ⟨_, spPut dc out, congrArg Host.Outcome.next ht, ?_, spPut_frame dc out, fun a ha => ?_, fun hnodup b hb => ?_, ?_,
      fun hlt => ?_, fun heq => ?_⟩
    · rw [← cpyBanked_eq hdc out]
      split
      · exact cpyFinish_crews _ _ _
      · rfl
    · rw [spPut_sp, memGet_putBytes_outside ha]
    · rw [spPut_sp, memGet_putBytes hnodup hb]
    · rw [← hmem]
      split
      · exact cpyFinish_mem _ _ _
      · rfl
    · rw [if_neg (by omega), setCopy_copies, cpyNoted_copies]
      exact ⟨_, List.mem_map.mpr ⟨c, List.mem_of_find?_eq_some hfind, if_pos rfl⟩, rfl, rfl, rfl, rfl⟩
    · rw [if_pos heq]
      exact cpyFinish_gone _ cl _
  case abandon =>
    have hoff := cpyGiveUp_offCore hfind
    obtain ⟨htype, hreason, hunit, hinfo⟩ := ofCrew_fields s c.crew
      (engineFault 4 6 8 c.cregs c.ctx 0 (1368 + cl) (if keyAcorn c.key then 0 else keySlot c.key) (cpyFaultInfo c) .nobody)
    refine ⟨_, { cpyRecord s cl c with tag := 0 }, copyAbandon_miscompare hfind, ?gone, ?sent, htype, hreason, hunit, hinfo,
      (mem_of_offCore hoff).trans rfl,
      fun w cr hw hghost hcrew htm hcr hend => ?handler, fun w hw hghost hcrew htm => ?held⟩
    case gone =>
      rw [cluster_of_offCore hoff]
      exact cpyAbandoned_gone s cl c
    case sent =>
      rw [faults_of_offCore hoff]
      exact cpyRecord_sent s cl c
    case handler =>
      obtain ⟨e, he⟩ := cpyGiveUp_handler hfind hw hghost hcrew htm hcr hend
      exact ⟨_, he, rfl⟩
    case held =>
      obtain ⟨hcrews, hwarp⟩ := cpyGiveUp_held hfind hw hghost hcrew htm
      exact ⟨hcrews, _, cpyTrap s c, hwarp, List.mem_append_right _ (List.mem_singleton.mpr rfl), rfl, rfl, rfl, rfl, rfl⟩

end Sys2Proof.Proofs
end

section
/-! PROOF. The instructions of the group unit: what the body of each does where the conditions of its rule hold (08_core_groups.md R201-R208). -/

namespace Sys2Proof.Machine

theorem ruleGroup_calm {g : Nat} {r : GrpReq} {regs : Ctx → List RegWr} {c : Ctx} {s1 t : State} (ht : ruleGroup g r regs c s1 = some t) :
    calm c (fun _ => []) = true := by
  obtain ⟨_, hcalm, -⟩ := Option.bind_eq_some_iff.mp ht
  exact (guard_some _ _).mp hcalm

/-- A request whose lanes agree stands in the warp's list, and is applied at once where it may be. -/
theorem groupBody_of_rule {g : Nat} {r : GrpReq} {regs : Ctx → List RegWr} {c : Ctx} {s1 t : State} (ht : ruleGroup g r regs c s1 = some t) :
    groupBody c s1 g r (regs c) = .ok t := by
  have hcalm := ruleGroup_calm ht
  obtain ⟨_, -, ht⟩ := Option.bind_eq_some_iff.mp ht
  obtain ⟨w, hw, ht⟩ := Option.bind_eq_some_iff.mp ht
  obtain ⟨p, hp, ht⟩ := Option.bind_eq_some_iff.mp ht
  unfold groupBody
  rw [protGuard_calm hcalm, ← Option.some.inj ht]
  simp only [hw, hp]
  split_ifs <;> rfl

/-- JOIN, LEAVE, GBAR and GCOUNT: all that they do beyond the checks is their request. -/
theorem answers_group {i : Instr} {h : Hdr} {s : State} {g : Nat} {r : GrpReq} {extra : Ctx → Option Nat} {regs : Ctx → List RegWr}
    (he : exec i s = issueWith i h s (fun _ => false) extra (fun c s1 => groupBody c s1 g r (regs c)))
    (hp : ((instrInfo i).pipe == .m) = true) : AnswersWith i h s (fun _ => false) extra (ruleGroup g r regs) :=
  answersWith_body he (.inl hp) fun _ _ _ ht => groupBody_of_rule ht

end Sys2Proof.Machine

namespace Sys2Proof.Proofs
open Sys2Proof Sys2Proof.Machine

/-- Settles O21: four of the five are their request to the group unit, and so is ROLE where no warp is partly in the group or it is not
applied at issue. -/
theorem groupResults : Obligations.GroupResults := by
  unfold Obligations.GroupResults
  intro h o s
  refine ⟨?join, ?leave, ?gbar, ?gcount, ?role⟩
  case join => exact answers_group (show exec (.join h o) s = execJoin h o s from rfl) rfl
  case leave => exact answers_group (show exec (.leave h o) s = execLeave h o s from rfl) rfl
  case gbar => exact answers_group (show exec (.gbar h o) s = execGbar h o s from rfl) rfl
  case gcount => exact answers_group (show exec (.gcount h o) s = execGcount h o s from rfl) rfl
  case role =>
    refine answersWith_body (show exec (.role h o) s = execRole h o s from rfl) (.inl rfl) fun w t _ ht => ?_
    obtain ⟨cr, hcr, ht⟩ := Option.bind_eq_some_iff.mp ht
    obtain ⟨_, hwhole, ht⟩ := Option.bind_eq_some_iff.mp ht
    rw [guard_some, Bool.not_eq_true'] at hwhole
    dsimp only
    rw [protGuard_calm (ruleGroup_calm ht)]
    simp only [hcr, hwhole]
    exact groupBody_of_rule ht

end Sys2Proof.Proofs
end

section
/-! PROOF. Members of a group under JOIN, LEAVE and GCOUNT, where no thread waits on it (08_core_groups.md R200-R205). -/

namespace Sys2Proof.Machine

/-! ## Tables of masks and of groups -/

/-- A list built by number, read at any place. -/
theorem getD_map_range_default {α : Type} (f : Nat → α) (d : α) (n i : Nat) : ((List.range n).map f).getD i d = if i < n then f i else d := by
  by_cases hi : i < n
  · rw [if_pos hi, getD_map_range f d hi]
  · rw [if_neg hi]
    exact List.getD_eq_default _ _ (by simpa using hi)

theorem getD_setMask (ms : List Mask) (w i : Nat) (m : Mask) : (setMask ms w m).getD i 0 = if i = w then m else ms.getD i 0 := by
  rw [setMask, getD_map_range_default]
  by_cases hi : i < max ms.length (w + 1)
  · rw [if_pos hi]
  · rw [if_neg hi, if_neg (by omega), List.getD_eq_default _ _ (by omega)]

theorem crewGroup_setGroup (c : Crew) (g i : Nat) (v : Group) : crewGroup (setGroup c g v) i = if i = g then v else crewGroup c i := by
  rw [crewGroup, setGroup, getD_map_range_default]
  by_cases hi : i < max c.groups.length (g + 1)
  · rw [if_pos hi]
  · rw [if_neg hi, if_neg (by omega), crewGroup, List.getD_eq_default _ _ (by omega)]

/-! ## A group that no thread waits on (R203) -/

/-- An incomplete instruction has a thread that waits on a group. -/
def waitsOn (g : Nat) (p : Pend) : Bool :=
  match p.late with
  | .groupWait q waiting _ => q = g && waiting != 0
  | _ => false

theorem grpWaits_eq_false {s : State} {crew g : Nat} :
    grpWaits s crew g = false ↔ ∀ e ∈ s.warps, e.2.crew = crew → isGhost e.1 = false → ∀ p ∈ e.2.pend, waitsOn g p = false := by
  have hdef : grpWaits s crew g = (crewWarps s crew).any (fun e => e.2.pend.any (waitsOn g)) := rfl
  simp only [hdef, crewWarps, List.any_eq_false, List.mem_filter, Bool.and_eq_true, decide_eq_true_eq, Bool.not_eq_true', Bool.not_eq_true,
    and_imp]

/-- An instruction that now waits on nothing makes nobody wait on a group. -/
theorem grpWaits_modPend {s : State} {crew g : Nat} (h : grpWaits s crew g = false) (key op : Nat) {f : Pend → Pend}
    (hf : ∀ p, waitsOn g (f p) = false) : grpWaits (modPend s key op f) crew g = false := by
  cases hw : s.warp key with
  | none => simpa only [modPend, State.modWarp, hw] using h
  | some w =>
    rw [modPend, modWarp_some _ _ _ _ hw]
    rw [grpWaits_eq_false] at h ⊢
    intro e he hcrew hghost p hp
    rcases fmPut_mem _ _ _ _ he with rfl | he
    · obtain ⟨q, hq, rfl⟩ := List.mem_map.mp hp
      split
      · exact hf q
      · exact h _ (fmFind_mem _ _ _ hw) hcrew hghost q hq
    · exact h e he hcrew hghost p hp

/-- No phase ends where nobody waits. -/
theorem settleGroup_quiet {s : State} {crew g : Nat} (h : grpWaits s crew g = false) (n : Nat) : settleGroup crew g n s = s := by
  cases n with
  | zero => rfl
  | succ n =>
    unfold settleGroup
    split
    · rfl
    · rw [h, Bool.false_and, if_neg Bool.false_ne_true]

/-! ## JOIN and LEAVE (R202) -/

/-- A change of an incomplete instruction changes the table of warps alone. -/
theorem modPend_frame (s : State) (key op : Nat) (f : Pend → Pend) : { modPend s key op f with warps := [] } = { s with warps := [] } := by
  unfold modPend State.modWarp
  split <;> rfl

/-- A group in which the members of one warp are replaced. -/
def Group.withMembers (v : Group) (widx : Nat) (m : Mask) : Group := { v with members := setMask v.members widx m }

/-- The instruction of a JOIN or LEAVE that has been applied. -/
def servedAt (n : Nat) (p : Pend) : Pend := { p with late := .done, ready := n }

/-- The members of one warp are replaced, and the instruction is done. -/
def remembered (s : State) (key g : Nat) (w : Warp) (c : Crew) (p : Pend) (m : Mask) : State :=
  modPend (s.setCrew w.crew (setGroup c g ((crewGroup c g).withMembers w.widx m))) key p.op (servedAt (s.cycle + 1))

section Quiet
variable {s : State} {key g : Nat} {w : Warp} {c : Crew} (hquiet : grpWaits s w.crew g = false)
include hquiet

/-- Nobody waits after the change either. -/
theorem remembered_settled (key : Nat) (c : Crew) (p : Pend) (m : Mask) (n : Nat) :
    settleGroup w.crew g n (remembered s key g w c p m) = remembered s key g w c p m :=
  settleGroup_quiet (grpWaits_modPend (s := s.setCrew w.crew _) hquiet key p.op fun _ => rfl) n

variable (hw : s.warp key = some w) (hc : s.crew w.crew = some c)
include hw hc

theorem applyGroup_join (p : Pend) : applyGroup s key p g .join =
    remembered s key g w c p (grpMembers (crewGroup c g) w.widx ||| threadLanes w p.exec) := by
  rw [← remembered_settled hquiet key c p _ 64]
  simp only [applyGroup, hw, hc]
  rfl

theorem applyGroup_leave (p : Pend) : applyGroup s key p g .leave =
    remembered s key g w c p (grpMembers (crewGroup c g) w.widx &&& ~~~threadLanes w p.exec) := by
  rw [← remembered_settled hquiet key c p _ 64]
  simp only [applyGroup, hw, hc]
  rfl

end Quiet

/-- What the change of members leaves: the arrivals, the other groups, the other crews, every unit. -/
theorem remembered_crew (s : State) (key g : Nat) (w : Warp) (c : Crew) (p : Pend) (m : Mask) (k : Nat) :
    (remembered s key g w c p m).crew k =
      if k = w.crew then some (setGroup c g ((crewGroup c g).withMembers w.widx m)) else s.crew k := by
  have hcrews := congrArg State.crews (modPend_frame (s.setCrew w.crew (setGroup c g ((crewGroup c g).withMembers w.widx m))) key p.op
    (servedAt (s.cycle + 1)))
  exact (congrArg (fmFind · k) hcrews).trans (fmFind_fmPut _ _ _ _)

theorem remembered_frame (s : State) (key g : Nat) (w : Warp) (c : Crew) (p : Pend) (m : Mask) :
    { remembered s key g w c p m with crews := [], warps := [] } = { s with crews := [], warps := [] } :=
  (congrArg (fun t : State => { t with crews := [] }) (modPend_frame _ key p.op (servedAt (s.cycle + 1))) :)

/-! ## GCOUNT (R205) -/

theorem applyGroup_gcount_crews (s : State) (key g : Nat) (p : Pend) : (applyGroup s key p g .gcount).crews = s.crews := by
  unfold applyGroup
  split
  · rfl
  · split
    · rfl
    · exact (congrArg State.crews (modPend_frame s key p.op _) :)

end Sys2Proof.Machine

namespace Sys2Proof.Proofs
open Sys2Proof Sys2Proof.Machine

/-- Settles O22: where nobody waits, JOIN and LEAVE are one replacement of the members of a warp; GCOUNT changes its own instruction alone. -/
theorem groupMembers : Obligations.GroupMembers := by
  unfold Obligations.GroupMembers
  intro s key g w c p hw hc hquiet _ v after
  have hafter : ∀ r m, applyGroup s key p g r = remembered s key g w c p m → after r m := by
    intro r m h
    have hg : crewGroup (setGroup c g (v.withMembers w.widx m)) g = v.withMembers w.widx m :=
      (crewGroup_setGroup c g g _).trans (if_pos rfl)
    refine ⟨setGroup c g (v.withMembers w.widx m), ?crew, ?own, fun i hi => ?others, ?arrived, fun i hi => ?groups, rfl, fun k hk => ?crews, ?frame⟩
    case crew => rw [h, remembered_crew, if_pos rfl]
    case own => rw [hg]; exact (getD_setMask _ _ _ _).trans (if_pos rfl)
    case others => rw [hg]; exact (getD_setMask _ _ _ _).trans (if_neg hi)
    case arrived => rw [hg]; rfl
    case groups => exact (crewGroup_setGroup c g i _).trans (if_neg hi)
    case crews => rw [h, remembered_crew, if_neg hk]
    case frame => rw [h]; exact remembered_frame s key g w c p m
  exact ⟨hafter _ _ (applyGroup_join hquiet hw hc p), hafter _ _ (applyGroup_leave hquiet hw hc p), applyGroup_gcount_crews s key g p⟩

end Sys2Proof.Proofs
end

section
/-! PROOF. REGCLAIM, REGGIVE, SLEEP, WAKE and PRIO: the body of each does what its rule says where its lanes agree
(08_core_groups.md R210, R211, R215-R217). -/

namespace Sys2Proof.Machine

/-- An instruction of the M pipe whose body, past the comparison of its pairs, is the state that its rule gives. -/
theorem answersWith_calm {i : Instr} {h : Hdr} {s : State} {extra : Ctx → Option Nat} {f : Ctx → State → State}
    (he : exec i s = issueWith i h s (fun _ => false) extra (fun c s1 => protGuard c (fun _ => []) (.ok (f c s1))))
    (hp : ((instrInfo i).pipe == .m) = true) :
    AnswersWith i h s (fun _ => false) extra (fun c s1 => guard (calm c (fun _ => [])) >>= fun _ => some (f c s1)) := by
  refine answersWith_body he (.inl hp) fun w t _ ht => ?_
  obtain ⟨_, hcalm, ht⟩ := Option.bind_eq_some_iff.mp ht
  rw [guard_some] at hcalm
  rw [protGuard_calm hcalm, Option.some.inj ht]

/-- In trap mode a SLEEP is done at once; outside it the halves with a lane of it fall asleep or lose their wake-pending bits. -/
theorem answers_sleep (h : Hdr) (q : OpI) (s : State) : Answers (.sleep h q) h s (ruleSleep q) := by
  refine answers_body (show exec (.sleep h q) s = execSleep h q s from rfl) rfl fun w t _ ht => ?_
  obtain ⟨_, hcalm, ht⟩ := Option.bind_eq_some_iff.mp ht
  rw [guard_some] at hcalm
  rw [protGuard_calm hcalm]
  exact ite_ok_of_some ht

/-- A WAKE of every other warp, or of one whose number is clean and in range, wakes the warps one after another. -/
theorem answers_wake (h : Hdr) (o : OpR) (s : State) : Answers (.wake h o) h s (ruleWake o) := by
  refine answers_body (show exec (.wake h o) s = execWake h o s from rfl) rfl fun w t _ ht => ?_
  obtain ⟨_, hcalm, ht⟩ := Option.bind_eq_some_iff.mp ht
  obtain ⟨cr, hcr, ht⟩ := Option.bind_eq_some_iff.mp ht
  obtain ⟨_, hnamed, ht⟩ := Option.bind_eq_some_iff.mp ht
  rw [guard_some] at hcalm hnamed
  rw [protGuard_calm hcalm]
  have hgo : o.x = 1 ∨ (lowVal (issueCtx (.wake h o) h s w) o.o2).poi = 0 ∧ (lowVal (issueCtx (.wake h o) h s w) o.o2).val.toNat <
      (if (issueCtx (.wake h o) h s w).w.c16 then 2 else 1) * cr.slots.length := by simpa using hnamed
  simp only [hcr]
  rcases hgo with hall | ⟨hclean, hrange⟩
  · simp only [hall, decide_true, Bool.not_true, Bool.false_and, Bool.false_eq_true, if_false, if_true] at ht ⊢
    exact congrArg Res.ok (Option.some.inj ht)
  · refine (if_neg ?_).trans ((if_neg ?_).trans (congrArg Res.ok (Option.some.inj ht)))
    · rw [Bool.and_eq_true, bne_iff_ne]
      exact fun hpoi => hpoi.2 hclean
    · rw [ite_mul, one_mul] at hrange
      rw [Bool.and_eq_true, decide_eq_true_eq]
      exact fun hlim => absurd hlim.2 (Nat.not_le.mpr hrange)

end Sys2Proof.Machine

namespace Sys2Proof.Proofs
open Sys2Proof Sys2Proof.Machine

/-- Settles O23: past the comparison of their pairs REGCLAIM, REGGIVE and PRIO always do what they do, SLEEP goes by trap mode, and WAKE by the
warp that it names. -/
theorem poolAndSleepResults : Obligations.PoolAndSleepResults := by
  unfold Obligations.PoolAndSleepResults
  intro h o q s
  refine ⟨?regclaim, ?reggive, answers_sleep h q s, answers_wake h o s, ?prio⟩
  case regclaim => exact answersWith_calm (show exec (.regclaim h q) s = execRegclaim h q s from rfl) rfl
  case reggive => exact answersWith_calm (show exec (.reggive h q) s = execReggive h q s from rfl) rfl
  case prio => exact answersWith_calm (show exec (.prio h q) s = execPrio h q s from rfl) rfl

end Sys2Proof.Proofs
end

section
/-! PROOF. The register pool: a claim that is granted, by what it waited for, and the return of given rows (08_core_groups.md R207-R211). -/

namespace Sys2Proof.Machine

/-! ## What the pool's steps leave unchanged -/

/-- A wake event leaves of every core what is not its clock: its pool and its deadlock record among it. -/
theorem wakeCore_keeps (s : State) (unit bit k : Nat) :
    { (wakeCore s unit bit).core k with gated := false, wakeAt := 0, waker := 0 } = { s.core k with gated := false, wakeAt := 0, waker := 0 } := by
  simp only [wakeCore]
  by_cases hk : k = unit
  · subst hk
    split_ifs <;> simp
  · split_ifs <;> simp [State.setCore_ne _ _ _ _ hk]

@[simp] theorem wakeCore_warp (s : State) (unit bit k : Nat) : (wakeCore s unit bit).warp k = s.warp k :=
  congrArg (fmFind · k) (wakeCore_warps s unit bit)

theorem wakeCore_poolFree (s : State) (unit bit k : Nat) : ((wakeCore s unit bit).core k).poolFree = (s.core k).poolFree :=
  (congrArg Core.poolFree (wakeCore_keeps s unit bit k) :)

theorem wakeCore_claims (s : State) (unit bit k : Nat) : ((wakeCore s unit bit).core k).claims = (s.core k).claims :=
  (congrArg Core.claims (wakeCore_keeps s unit bit k) :)

/-- A register of the pool read after rows have been zeroed (R209). -/
theorem zeroRegs_get (w : Warp) (lo n : Nat) {r : Nat} (hr : r < 256) :
    fmGet emptyRow (zeroRegs w lo n).regs r = if lo ≤ r ∧ r < lo + n then emptyRow else fmGet emptyRow w.regs r := by
  have hfind := fmFind_filter w.regs (fun k => k < lo || lo + n ≤ k || 256 ≤ k) r
  by_cases hin : lo ≤ r ∧ r < lo + n
  · rw [if_neg (by simp only [Bool.or_eq_true, decide_eq_true_eq]; omega)] at hfind
    rw [if_pos hin, fmGet, zeroRegs]
    exact congrArg (Option.getD · emptyRow) hfind
  · rw [if_pos (by simp only [Bool.or_eq_true, decide_eq_true_eq]; omega)] at hfind
    rw [if_neg hin, fmGet, zeroRegs]
    exact congrArg (Option.getD · emptyRow) hfind

/-- An instruction without results completes: it leaves the list, and its counters fall. -/
theorem completePend_noWrites {s : State} {key : Nat} {w : Warp} {p : Pend} (hw : s.warp key = some w) (hregs : p.regs = []) (hpreds : p.preds = []) :
    completePend s key p = { s.setWarp key (w.without p s.cycle) with draw := s.draw + 1 } := by
  have hleave : s.modWarp key (fun w => w.without p s.cycle) = s.setWarp key (w.without p s.cycle) := modWarp_some _ _ _ _ hw
  rw [completePend_eq, hleave, hregs, hpreds]
  rfl

/-! ## CLAIM_GRANT (R209) -/

/-- The rows of the head claim have left the pool, and the core has taken a wake event. -/
def rowsTaken (s : State) (core : Nat) (q : Claim) (rest : List Claim) : State :=
  wakeCore (s.setCore core { s.core core with claims := rest, poolFree := (s.core core).poolFree - q.rows, poolAt := s.cycle + 1 }) core 3

theorem rowsTaken_warp (s : State) (core : Nat) (q : Claim) (rest : List Claim) (k : Nat) : (rowsTaken s core q rest).warp k = s.warp k :=
  wakeCore_warp _ _ _ _

theorem rowsTaken_crews (s : State) (core : Nat) (q : Claim) (rest : List Claim) : (rowsTaken s core q rest).crews = s.crews :=
  wakeCore_crews _ _ _

theorem rowsTaken_mem (s : State) (core : Nat) (q : Claim) (rest : List Claim) : (rowsTaken s core q rest).mem = s.mem :=
  wakeCore_mem _ _ _

theorem rowsTaken_pool (s : State) (core : Nat) (q : Claim) (rest : List Claim) :
    ((rowsTaken s core q rest).core core).poolFree = (s.core core).poolFree - q.rows ∧ ((rowsTaken s core q rest).core core).claims = rest := by
  unfold rowsTaken
  rw [wakeCore_poolFree, wakeCore_claims, State.setCore_same]
  exact ⟨rfl, rfl⟩

/-- A warp whose allotment has grown by registers that read zero (R210). -/
def Warp.enlarged (w : Warp) (n : Nat) : Warp := { zeroRegs w w.allot n with allot := w.allot + n }

/-- What a granted claim does for its warp: a REGCLAIM completes (R210), and any other claim is that of a warp under ROLE (R207). -/
def claimServed (s : State) (q : Claim) (w : Warp) : State :=
  match findPend w q.op with
  | some p => match p.late with
    | .claim n => completePend (s.setWarp q.key (w.enlarged n)) q.key p
    | _ => roleGrant s q.key q.rows
  | none => roleGrant s q.key q.rows

theorem claimGrant_serves {core : Nat} {s : State} {q : Claim} {rest : List Claim} {w : Warp} (hclaims : (s.core core).claims = q :: rest)
    (hrows : q.rows ≤ (s.core core).poolFree) (hat : (s.core core).poolAt ≤ s.cycle) (hw : s.warp q.key = some w) :
    exec (.claimGrant core) s = .next (claimServed (rowsTaken s core q rest) q w) := by
  have hgo : (decide ((s.core core).poolFree < q.rows) || decide (s.cycle < (s.core core).poolAt)) = false := by
    simp [Nat.not_lt.mpr hrows, Nat.not_lt.mpr hat]
  have hw1 := (rowsTaken_warp s core q rest q.key).trans hw
  unfold rowsTaken at hw1 ⊢
  change Host.Outcome.next (grantClaim s core) = _
  simp only [grantClaim, hclaims, hgo, Bool.false_eq_true, if_false, hw1]
  rfl

theorem claimServed_regclaim {w : Warp} {q : Claim} {p : Pend} {n : Nat} (hp : findPend w q.op = some p) (hlate : p.late = .claim n) (s : State) :
    claimServed s q w = completePend (s.setWarp q.key (w.enlarged n)) q.key p := by
  simp only [claimServed, hp, hlate]

theorem claimServed_role {w : Warp} {q : Claim} (hnone : ∀ p n, findPend w q.op = some p → p.late ≠ .claim n) (s : State) :
    claimServed s q w = roleGrant s q.key q.rows := by
  unfold claimServed
  split
  · rename_i p hp
    split
    · rename_i n hlate
      exact absurd hlate (hnone p n hp)
    · rfl
  · rfl

/-! ## A warp under ROLE (R207, R208) -/

/-- A warp that has switched to a role: its registers above the smaller allotment are gone, its live threads stand at the role's entry. -/
def Warp.switched (w : Warp) (index : Nat) (r : RoleEnt) : Warp :=
  { (if w.allot < r.regs then zeroRegs w w.allot (r.regs - w.allot) else zeroRegs w r.regs (w.allot - r.regs)) with
    allot := r.regs, prio := r.cls, role := index, switching := none, granted := 0, pairNext := none
    pt := { w.pt with
      pcs := (List.range 32).map (fun l => if w.pt.live.getLsbD l then r.entry else w.pt.pcs.getD l 0)
      skips := (List.range 32).map (fun l => if w.pt.live.getLsbD l then 0 else w.pt.skips.getD l 0) } }

theorem roleFinish_eq {s : State} {key : Nat} {w : Warp} {c : Crew} (hw : s.warp key = some w) (hc : s.crew w.crew = some c) (index granted : Nat) :
    roleFinish s key index granted = (s.setWarp key (w.switched index (c.roles.getD index ⟨0, 8, 0⟩))).modCore (keyUnit key)
      (fun k => returnRows k s.cycle (w.allot + granted - (c.roles.getD index ⟨0, 8, 0⟩).regs)) := by
  simp only [roleFinish, hw, hc]
  rfl

theorem switched_pc (w : Warp) (index : Nat) (r : RoleEnt) {l : Nat} (hl : l < 32) (hlive : w.pt.live.getLsbD l = true) :
    pcLane (w.switched index r) l = r.entry :=
  (getD_range_map (fun l => if w.pt.live.getLsbD l then r.entry else w.pt.pcs.getD l 0) 0 l hl).trans (if_pos hlive)

/-- Its rows are kept for its switch after its TRET where a trap holds it. -/
theorem roleGrant_held {s : State} {key rows i : Nat} {w : Warp} (hw : s.warp key = some w) (hsw : w.switching = some i)
    (hheld : w.tm = true ∨ w.traps ≠ []) : roleGrant s key rows = s.setWarp key { w with granted := rows } := by
  have hb : (w.tm || !w.traps.isEmpty) = true := by simpa using hheld
  simp only [roleGrant, hw, hsw, hb, if_true]

theorem roleGrant_switches {s : State} {key rows i : Nat} {w : Warp} (hw : s.warp key = some w) (hsw : w.switching = some i)
    (htm : w.tm = false) (htraps : w.traps = []) : roleGrant s key rows = roleFinish s key i rows := by
  simp only [roleGrant, hw, hsw, htm, htraps, List.isEmpty_nil, Bool.not_true, Bool.or_self, Bool.false_eq_true, if_false]

/-! ## REGGIVE_RETURN (R211) -/

theorem reggiveReturn_goes {s : State} {unit slot reg rows : Nat} {w : Warp} {p : Pend} (hw : s.warp (unit * 32 + slot) = some w)
    (hp : findPend w p.op = some p) (hlate : p.late = .give reg rows) (hready : p.ready ≤ s.cycle) (hgive : giveReady w p.op reg rows = true) :
    exec (.reggiveReturn unit slot p.op) s = .next (completePend (s.modCore (keyUnit (unit * 32 + slot)) (fun c => returnRows c s.cycle rows))
      (unit * 32 + slot) p) := by
  change Host.Outcome.next (giveReturn s (unit * 32 + slot) p.op) = _
  simp only [giveReturn, hw, hp, hlate, hready, hgive, decide_true, Bool.and_self, if_true]

end Sys2Proof.Machine

namespace Sys2Proof.Proofs
open Sys2Proof Sys2Proof.Machine

/-- Settles O35: a grant takes the rows from the pool and goes on by what claimed them; given rows return when their instruction completes. -/
theorem poolResults : Obligations.PoolResults := by
  unfold Obligations.PoolResults
  refine ⟨fun core s q rest w hclaims hrows hat hw => ?_, fun unit slot s w p reg rows hw hp hlate hready hgive => ?returned⟩
  · obtain ⟨hfree, hrest⟩ := rowsTaken_pool s core q rest
    have hw1 := (rowsTaken_warp s core q rest q.key).trans hw
    have hcrews := rowsTaken_crews s core q rest
    have hgo := claimGrant_serves hclaims hrows hat hw
    refine ⟨fun p n hp hlate hregs hpreds => ?regclaim, fun i hnone hsw hheld => ?held, fun i c hnone hsw htm htraps hc hunit => ?switches⟩
    case regclaim =>
      rw [claimServed_regclaim hp hlate, completePend_noWrites (warp_setWarp_same _ _ _) hregs hpreds] at hgo
      refine ⟨_, _, hgo, hfree, hrest, warp_setWarp_same _ _ _, rfl, fun r hr => zeroRegs_get w w.allot n hr, fun k hk => ?_,
        rowsTaken_mem s core q rest, hcrews⟩
      exact (warp_setWarp_ne _ _ _ _ hk).trans ((warp_setWarp_ne _ _ _ _ hk).trans (rowsTaken_warp s core q rest k))
    case held =>
      rw [claimServed_role hnone, roleGrant_held hw1 hsw hheld] at hgo
      exact ⟨_, hgo, hfree, hrest, warp_setWarp_same _ _ _, fun k hk => (warp_setWarp_ne _ _ _ _ hk).trans (rowsTaken_warp s core q rest k), hcrews⟩
    case switches =>
      have hc1 : (rowsTaken s core q rest).crew w.crew = some c := (congrArg (fmFind · w.crew) hcrews).trans hc
      rw [claimServed_role hnone, roleGrant_switches hw1 hsw htm htraps, roleFinish_eq hw1 hc1, hunit] at hgo
      refine ⟨_, _, hgo, ?pool, ?claims, warp_setWarp_same _ _ _, rfl, rfl, rfl, rfl, fun l hl hlive => switched_pc w i _ hl hlive, fun k hk => ?_⟩
      case pool => rw [State.modCore_same]; exact congrArg (· + _) hfree
      case claims => rw [State.modCore_same]; exact hrest
      exact (warp_setWarp_ne _ _ _ _ hk).trans (rowsTaken_warp s core q rest k)
  case returned =>
    have hw1 : (s.modCore (keyUnit (unit * 32 + slot)) (fun c => returnRows c s.cycle rows)).warp (unit * 32 + slot) = some w := hw
    obtain ⟨v, ⟨hwarp, hkept, -, hout⟩, -⟩ := completePend_lands hw1 p
    have hpool := State.modCore_same s (keyUnit (unit * 32 + slot)) (fun c => returnRows c s.cycle rows)
    have hcores := congrArg State.cores hout
    refine ⟨_, v, reggiveReturn_goes hw hp hlate hready hgive, hwarp, ?_, (congrArg Warp.pend hkept :), (congrArg Warp.ctrs hkept :),
      (congrArg Warp.allot hkept :)⟩
    exact congrArg Core.poolFree ((congrArg (fmGet Core.start · _) hcores).trans hpool)

end Sys2Proof.Proofs
end

section
/-! PROOF. Clock gating, wakes and the deadlock report (08_core_groups.md R218-R223). -/

namespace Sys2Proof.Machine

/-! ## CLOCK_GATE (R218) -/

theorem modCore_ne (s : State) (core : Nat) (f : Core → Core) {k : Nat} (hk : k ≠ core) : (s.modCore core f).core k = s.core k :=
  State.setCore_ne _ _ _ _ hk

theorem setCore_setCore (s : State) (core : Nat) (k x : Core) : (s.setCore core k).setCore core x = s.setCore core x := by
  simp [State.setCore, fmPut_fmPut]

theorem clockGate_gates {s : State} {core : Nat} (hcore : core < 1216) (hrun : (s.core core).gated = false) (hidle : coreIdle s core = true)
    (hfroz : s.pkg.frozen = false) : exec (.clockGate core) s = .next (s.modCore core (fun c => { c with gated := true })) := by
  change execClockGate core s = _
  simp only [execClockGate, hcore, hrun, hidle, hfroz, decide_true, Bool.not_false, Bool.and_self, if_true]

/-! ## CORE_WAKE (R218, R219) -/

/-- A gated core after wake events of one cycle: WAKER has counted once, and holds their bits of REASON. -/
def Core.woken (k : Core) (cycle reason : Nat) : Core :=
  { k with
    gated := false, wakeAt := cycle + Config.wakeCycles
    waker := BitVec.ofNat 64 ((k.waker.toNat / 2 ^ 32 + 1) % 2 ^ 32 * 2 ^ 32 + reason) }

/-- A further bit of REASON above those that WAKER holds. -/
theorem waker_or (n : Nat) {r b : Nat} (hr : r < 2 ^ b) (hb : b < 32) :
    BitVec.ofNat 64 (n * 2 ^ 32 + r) ||| BitVec.ofNat 64 (2 ^ b) = BitVec.ofNat 64 (n * 2 ^ 32 + (r + 2 ^ b)) := by
  have hpow : 2 ^ b * 2 ≤ 2 ^ 32 := by
    rw [← Nat.pow_succ]
    exact Nat.pow_le_pow_right (by omega) hb
  have hlow : r ||| 2 ^ b = r + 2 ^ b := by
    rw [Nat.or_comm, Nat.add_comm]
    simpa using (Nat.two_pow_add_eq_or_of_lt hr 1).symm
  rw [← BitVec.ofNat_or, Nat.mul_comm n, Nat.two_pow_add_eq_or_of_lt (by omega : r < 2 ^ 32), Nat.or_assoc, hlow,
    ← Nat.two_pow_add_eq_or_of_lt (by omega : r + 2 ^ b < 2 ^ 32)]

theorem woken_or (k : Core) (cycle : Nat) {r b : Nat} (hr : r < 2 ^ b) (hb : b < 32) :
    { k.woken cycle r with waker := (k.woken cycle r).waker ||| BitVec.ofNat 64 (2 ^ b) } = k.woken cycle (r + 2 ^ b) := by
  unfold Core.woken
  dsimp only
  rw [waker_or _ hr hb]

section Wake
variable {s : State} {core : Nat} (hcore : core < 1216) (hcrew : s.crews.any (fun e => e.2.unit = core) = true)
include hcore hcrew

theorem wakeCore_first (hgated : (s.core core).gated = true) (b : Nat) :
    wakeCore s core b = s.setCore core ((s.core core).woken s.cycle (2 ^ b)) := by
  have hgo : (decide (1216 ≤ core) || !s.crews.any (fun e => e.2.unit = core)) = false := by simp [hcrew, hcore]
  simp only [wakeCore, hgo, hgated, Bool.false_eq_true, if_false, if_true]
  rfl

/-- A further event of the cycle in which the core has woken joins the first. -/
theorem wakeCore_again (hrun : (s.core core).gated = false) (hnow : (s.core core).wakeAt = s.cycle + Config.wakeCycles) (b : Nat) :
    wakeCore s core b = s.setCore core { s.core core with waker := (s.core core).waker ||| BitVec.ofNat 64 (2 ^ b) } := by
  have hgo : ¬ (decide (1216 ≤ core) || !s.crews.any (fun e => e.2.unit = core)) = true := by simp [hcrew, hcore]
  have hgate : ¬ (s.core core).gated = true := by simp [hrun]
  exact (if_neg hgo).trans ((if_neg hgate).trans (if_pos hnow))

theorem wakeCore_joins (k : Core) {r b : Nat} (hr : r < 2 ^ b) (hb : b < 32) :
    wakeCore (s.setCore core (k.woken s.cycle r)) core b = s.setCore core (k.woken s.cycle (r + 2 ^ b)) := by
  have hsame : (s.setCore core (k.woken s.cycle r)).core core = k.woken s.cycle r := State.setCore_same _ _ _
  rw [wakeCore_again (s := s.setCore core (k.woken s.cycle r)) hcore hcrew (by rw [hsame]; rfl) (by rw [hsame]; rfl), hsame, woken_or k _ hr hb,
    setCore_setCore]

/-- The first bits of a reason: where one is set the core has woken with them, and otherwise nothing has changed. -/
theorem wakeBits (hgated : (s.core core).gated = true) (reason : BitVec 8) {n : Nat} (hn : n ≤ 8) :
    (List.range n).foldl (fun s b => if reason.getLsbD b then wakeCore s core b else s) s =
      if reason.toNat % 2 ^ n = 0 then s else s.setCore core ((s.core core).woken s.cycle (reason.toNat % 2 ^ n)) := by
  induction n with
  | zero => simp [Nat.mod_one]
  | succ n ih =>
    have hlt : reason.toNat % 2 ^ n < 2 ^ n := Nat.mod_lt _ (Nat.two_pow_pos n)
    have hbit : reason.toNat % 2 ^ (n + 1) = reason.toNat % 2 ^ n + 2 ^ n * (reason.getLsbD n).toNat :=
      Nat.mod_pow_succ.trans (by rw [BitVec.getLsbD, Nat.toNat_testBit])
    rw [List.range_succ, List.foldl_concat, ih (by omega), hbit]
    cases hset : reason.getLsbD n with
    | false => simp
    | true =>
      have hpos := Nat.two_pow_pos n
      rw [if_pos rfl, Bool.toNat_true, Nat.mul_one, if_neg (by omega : ¬ reason.toNat % 2 ^ n + 2 ^ n = 0)]
      by_cases h0 : reason.toNat % 2 ^ n = 0
      · rw [if_pos h0, h0, Nat.zero_add]
        exact wakeCore_first hcore hcrew hgated n
      · rw [if_neg h0]
        exact wakeCore_joins hcore hcrew _ hlt (by omega)

theorem coreWake_wakes (hgated : (s.core core).gated = true) {reason : BitVec 8} (hreason : reason ≠ 0) :
    exec (.coreWake core reason) s = .next (s.setCore core ((s.core core).woken s.cycle reason.toNat)) := by
  have hmod : reason.toNat % 2 ^ 8 = reason.toNat := Nat.mod_eq_of_lt reason.isLt
  have hne : ¬ reason.toNat = 0 := fun h => hreason (BitVec.eq_of_toNat_eq h)
  refine congrArg Host.Outcome.next ((wakeBits hcore hcrew hgated reason (Nat.le_refl 8)).trans ?_)
  rw [hmod, if_neg hne]

end Wake

/-! ## What breaking a deadlock does to warps and cores (R222) -/

/-- From s to t no warp leaves, none loses a trap or gains an incomplete instruction, and no deadlock record changes. -/
structure Breaks (s t : State) : Prop where
  warps : ∀ k w, s.warp k = some w → ∃ v, t.warp k = some v ∧ (∀ r ∈ w.traps, r ∈ v.traps) ∧ ∀ q ∈ v.pend, ∃ p ∈ w.pend, q.op = p.op
  deadlk : ∀ u, (t.core u).deadlk = (s.core u).deadlk

theorem Breaks.refl (s : State) : Breaks s s := ⟨fun _ w hw => ⟨w, hw, fun _ hr => hr, fun q hq => ⟨q, hq, rfl⟩⟩, fun _ => rfl⟩

theorem Breaks.trans {s t r : State} (h1 : Breaks s t) (h2 : Breaks t r) : Breaks s r := by
  refine ⟨fun k w hw => ?_, fun u => (h2.deadlk u).trans (h1.deadlk u)⟩
  obtain ⟨v, hv, htraps, hops⟩ := h1.warps k w hw
  obtain ⟨x, hx, htraps', hops'⟩ := h2.warps k v hv
  refine ⟨x, hx, fun r hr => htraps' r (htraps r hr), fun q hq => ?_⟩
  obtain ⟨p, hp, hqp⟩ := hops' q hq
  obtain ⟨o, ho, hpo⟩ := hops p hp
  exact ⟨o, ho, hqp.trans hpo⟩

/-- A change that leaves warps and cores. -/
theorem Breaks.of_tables {s t : State} (hwarps : t.warps = s.warps) (hcores : t.cores = s.cores) : Breaks s t := by
  refine ⟨fun k w hw => ⟨w, ?_, fun _ hr => hr, fun q hq => ⟨q, hq, rfl⟩⟩, fun u => ?_⟩
  · rw [State.warp, hwarps]
    exact hw
  · rw [State.core, hcores]
    rfl

/-- A change of one warp. -/
theorem Breaks.modWarp (s : State) (k : Nat) {f : Warp → Warp} (htraps : ∀ w, ∀ r ∈ w.traps, r ∈ (f w).traps)
    (hops : ∀ w, ∀ q ∈ (f w).pend, ∃ p ∈ w.pend, q.op = p.op) : Breaks s (s.modWarp k f) := by
  cases hk : s.warp k with
  | none =>
    rw [State.modWarp, hk]
    exact Breaks.refl s
  | some x =>
    rw [modWarp_some _ _ _ _ hk]
    refine ⟨fun j w hw => ?_, fun _ => rfl⟩
    by_cases hj : j = k
    · subst hj
      obtain rfl := Option.some.inj (hk.symm.trans hw)
      exact ⟨f x, warp_setWarp_same _ _ _, htraps x, hops x⟩
    · exact ⟨w, (warp_setWarp_ne _ _ _ _ hj).trans hw, fun _ hr => hr, fun q hq => ⟨q, hq, rfl⟩⟩

/-- A change of one core that leaves its record. -/
theorem Breaks.modCore (s : State) (k : Nat) {f : Core → Core} (hf : (f (s.core k)).deadlk = (s.core k).deadlk) : Breaks s (s.modCore k f) := by
  refine ⟨fun _ w hw => ⟨w, hw, fun _ hr => hr, fun q hq => ⟨q, hq, rfl⟩⟩, fun u => ?_⟩
  by_cases hu : u = k
  · rw [hu, State.modCore_same, hf]
  · rw [modCore_ne _ _ _ hu]

theorem Breaks.setCrew (s : State) (k : Nat) (c : Crew) : Breaks s (s.setCrew k c) := Breaks.of_tables rfl rfl

theorem Breaks.modCrew (s : State) (k : Nat) (f : Crew → Crew) : Breaks s (s.modCrew k f) := Breaks.of_tables (by simp) (by simp)

theorem Breaks.foldl {α : Type} {f : State → α → State} (hf : ∀ s a, Breaks s (f s a)) (as : List α) (s : State) : Breaks s (as.foldl f s) :=
  List.foldlRecOn as f (Breaks.refl s) fun _ ht _ _ => ht.trans (hf _ _)

/-- What one step of several leaves, where the later ones keep it, stands after all of them. -/
theorem Breaks.foldl_reaches {α : Type} {f : State → α → State} (hf : ∀ s a, Breaks s (f s a)) {P : State → Prop}
    (hkeep : ∀ s t, Breaks s t → P s → P t) {as : List α} {a : α} (ha : a ∈ as) {s : State} (hstep : ∀ t, Breaks s t → P (f t a)) :
    P (as.foldl f s) := by
  obtain ⟨before, after, rfl⟩ := List.append_of_mem ha
  rw [List.foldl_append, List.foldl_cons]
  exact hkeep _ _ (Breaks.foldl hf after _) (hstep _ (Breaks.foldl hf before s))

theorem releasePend_op (c : Crew) (crew : Nat) (bads : List Nat) (p : Pend) : (releasePend c crew bads p).op = p.op := by
  unfold releasePend
  split
  · dsimp only
    split_ifs <;> rfl
  · rfl

theorem wakeCore_breaks (s : State) (unit bit : Nat) : Breaks s (wakeCore s unit bit) :=
  ⟨fun _ w hw => ⟨w, (wakeCore_warp s unit bit _).trans hw, fun _ hr => hr, fun q hq => ⟨q, hq, rfl⟩⟩,
    fun u => (congrArg Core.deadlk (wakeCore_keeps s unit bit u) :)⟩

theorem releaseAwaits_breaks (s : State) (crew : Nat) (bads : List Nat) : Breaks s (releaseAwaits s crew bads) := by
  cases hc : s.crew crew with
  | none =>
    rw [releaseAwaits, hc]
    exact Breaks.refl s
  | some c =>
    refine ⟨fun k w hw => ?_, fun u => ?_⟩
    · refine ⟨w.mapPend (releasePend c crew bads), by rw [releaseAwaits_warp hc, hw]; rfl, fun _ hr => hr, fun q hq => ?_⟩
      obtain ⟨p, hp, rfl⟩ := List.mem_map.mp hq
      exact ⟨p, hp, releasePend_op _ _ _ _⟩
    · obtain ⟨b, h⟩ := releaseAwaits_eq hc bads
      rw [h]
      cases b with
      | false => rfl
      | true => exact (wakeCore_breaks s c.unit 0).deadlk u

theorem qMarkWaiters_breaks (s : State) (crew qn : Nat) : Breaks s (qMarkWaiters s crew qn) := by
  unfold qMarkWaiters
  split
  · exact Breaks.refl s
  · split
    · exact Breaks.refl s
    · split_ifs
      · exact Breaks.refl s
      · exact (Breaks.setCrew s crew _).trans (releaseAwaits_breaks _ crew [])

/-! ## A cancelled wait (R222 step 2) -/

/-- A wait leaves the list of its warp without a result, and its counters fall. -/
def waitGone (s : State) (key : Nat) (p : Pend) : State := s.modWarp key (fun w => w.without p s.cycle)

theorem mem_without {w : Warp} {p q : Pend} {cycle : Nat} : q ∈ (w.without p cycle).pend ↔ q ∈ w.pend ∧ q.op ≠ p.op := by
  simp [Warp.without]

theorem waitGone_breaks (s : State) (key : Nat) (p : Pend) : Breaks s (waitGone s key p) :=
  Breaks.modWarp s key (fun _ _ hr => hr) fun _ q hq => ⟨q, (mem_without.mp hq).1, rfl⟩

/-- A warp of a key is there, and has no incomplete instruction of a number. -/
def Lacks (key op : Nat) (s : State) : Prop := ∃ v, s.warp key = some v ∧ ∀ q ∈ v.pend, q.op ≠ op

theorem Lacks.kept {key op : Nat} (s t : State) (h : Breaks s t) : Lacks key op s → Lacks key op t := by
  rintro ⟨w, hw, hlacks⟩
  obtain ⟨v, hv, -, hops⟩ := h.warps key w hw
  refine ⟨v, hv, fun q hq => ?_⟩
  obtain ⟨p, hp, hqp⟩ := hops q hq
  exact hqp ▸ hlacks p hp

theorem waitGone_lacks {s : State} {key : Nat} {w : Warp} (hw : s.warp key = some w) (p : Pend) : Lacks key p.op (waitGone s key p) :=
  ⟨w.without p s.cycle, by rw [waitGone, modWarp_some _ _ _ _ hw]; exact warp_setWarp_same _ _ _, fun _ hq => (mem_without.mp hq).2⟩

/-- A cancelled wait takes back its claim, its warps' ROLE or its arrivals, leaves the list, and gives up its place in its queue. -/
theorem cancelWait_cases {s : State} {key : Nat} {w : Warp} (hw : s.warp key = some w) (p : Pend) :
    ∃ t, Breaks s t ∧ Breaks (waitGone t key p) (cancelWait s key p) := by
  unfold cancelWait
  simp only [hw]
  split
  case h_1 => exact ⟨_, Breaks.modCore s (keyUnit key) rfl, Breaks.refl _⟩
  case h_2 =>
    refine ⟨_, (Breaks.modCore s (keyUnit key) rfl).trans (Breaks.foldl (fun s k => ?_) _ _), Breaks.refl _⟩
    exact Breaks.modWarp s k (fun _ _ hr => hr) fun _ q hq => ⟨q, hq, rfl⟩
  case h_3 => exact ⟨_, Breaks.modCrew s _ _, Breaks.refl _⟩
  case h_4 => exact ⟨s, Breaks.refl s, qMarkWaiters_breaks _ _ _⟩
  case h_5 => exact ⟨s, Breaks.refl s, Breaks.refl _⟩

theorem cancelWait_breaks (s : State) (key : Nat) (p : Pend) : Breaks s (cancelWait s key p) := by
  cases hw : s.warp key with
  | none =>
    rw [cancelWait, hw]
    exact Breaks.refl s
  | some w =>
    obtain ⟨t, hst, hgone⟩ := cancelWait_cases hw p
    exact hst.trans ((waitGone_breaks t key p).trans hgone)

theorem cancelWait_lacks {s : State} {key : Nat} {w : Warp} (hw : s.warp key = some w) (p : Pend) : Lacks key p.op (cancelWait s key p) := by
  obtain ⟨t, hst, hgone⟩ := cancelWait_cases hw p
  obtain ⟨v, hv, -⟩ := hst.warps key w hw
  exact Lacks.kept _ _ hgone (waitGone_lacks hv p)

/-! ## The trap of a blocked warp (R222 step 3) -/

/-- A warp of a key is there, with the DEADLOCK trap of a wait. -/
def TrappedAt (key : Nat) (p : Pend) (s : State) : Prop :=
  ∃ v r, s.warp key = some v ∧ r ∈ v.traps ∧ r.cause = cDEADLOCK ∧ r.pc = p.pc ∧ r.act = p.act ∧ r.exec = p.exec ∧ r.word = p.word ∧ r.info = 0

theorem TrappedAt.kept {key : Nat} {p : Pend} (s t : State) (h : Breaks s t) : TrappedAt key p s → TrappedAt key p t := by
  rintro ⟨w, r, hw, hr, htrap⟩
  obtain ⟨v, hv, htraps, -⟩ := h.warps key w hw
  exact ⟨v, r, hv, htraps r hr, htrap⟩

/-- A warp takes one more trap. -/
theorem Breaks.trap {s : State} {k : Nat} {w : Warp} (hw : s.warp k = some w) (t : TrapRec) :
    Breaks s (s.setWarp k { w with pairNext := none, traps := w.traps ++ [t] }) := by
  rw [← modWarp_some s k w (fun w => { w with pairNext := none, traps := w.traps ++ [t] }) hw]
  exact Breaks.modWarp s k (fun _ _ hr => List.mem_append_left _ hr) fun _ q hq => ⟨q, hq, rfl⟩

theorem breakWarp_breaks (c : Crew) (s : State) (e : Nat × List Pend) : Breaks s (breakWarp c s e) := by
  unfold breakWarp
  split
  · exact Breaks.refl s
  · rename_i w hw
    split
    · exact Breaks.trap hw _
    · split
      · exact Breaks.refl s
      · exact Breaks.trap hw _

theorem breakWarp_traps (c : Crew) {s : State} {key : Nat} {w : Warp} (hw : s.warp key = some w) (p : Pend) (rest : List Pend) :
    TrappedAt key p (breakWarp c s (key, p :: rest)) := by
  simp only [breakWarp, hw]
  exact ⟨_, _, warp_setWarp_same _ _ _, List.mem_append_right _ (List.mem_singleton.mpr rfl), rfl, rfl, rfl, rfl, rfl, rfl⟩

/-! ## The whole report (R222, R223) -/

/-- The core once DEADLK has taken the record, or bit 46 where it holds one already (R223). -/
def Core.reported (k : Core) (record : Word) : Core :=
  if k.deadlk.getLsbD 47 then { k with deadlk := k.deadlk ||| (1#64 <<< 46) } else { k with deadlk := record ||| (k.deadlk &&& (1#64 <<< 46)) }

theorem reported_deadlk (k : Core) (record : Word) : (k.reported record).deadlk =
    if k.deadlk.getLsbD 47 then k.deadlk ||| (1#64 <<< 46) else record ||| (k.deadlk &&& (1#64 <<< 46)) := by
  unfold Core.reported
  split_ifs <;> rfl

/-- The waits of one warp cancelled, oldest first. -/
def cancelAll (s : State) (e : Nat × List Pend) : State := e.2.foldl (fun s p => cancelWait s e.1 p) s

theorem cancelAll_breaks (s : State) (e : Nat × List Pend) : Breaks s (cancelAll s e) := Breaks.foldl (fun s p => cancelWait_breaks s e.1 p) _ _

theorem cancelAll_lacks {s : State} {key : Nat} {w : Warp} (hw : s.warp key = some w) {ps : List Pend} {p : Pend} (hp : p ∈ ps) :
    Lacks key p.op (cancelAll s (key, ps)) := by
  refine Breaks.foldl_reaches (fun s p => cancelWait_breaks s key p) (fun s t => Lacks.kept s t) hp fun t hst => ?_
  obtain ⟨v, hv, -⟩ := hst.warps key w hw
  exact cancelWait_lacks hv p

/-- The state with the record in DEADLK. -/
def recorded (s : State) (id : Nat) (c : Crew) : State := s.setCore c.unit ((s.core c.unit).reported (deadlockRecord s id c))

/-- The state with the record in DEADLK and every blocked wait of the crew cancelled. -/
def cancelled (s : State) (id : Nat) (c : Crew) : State := (crewWaits s id).foldl cancelAll (recorded s id c)

theorem reportDeadlock_eq (s : State) (id : Nat) (c : Crew) : reportDeadlock s id c =
    (((crewWaits s id).filter (fun e => !isGhost e.1)).foldl (breakWarp c) (cancelled s id c)).modCrew id (fun c => { c with blocked := none }) := rfl

theorem deadlockReport_goes {s : State} {crew n : Nat} {c : Crew} (hc : s.crew crew = some c) (hblocked : c.blocked = some n)
    (hlong : n + 4096 ≤ s.cycle) (hdead : crewDeadlocked s crew c = true) (hfroz : s.pkg.frozen = false) :
    exec (.deadlockReport c.unit crew) s = .next (reportDeadlock s crew c) := by
  have hlong' : n + Config.deadlockCycles ≤ s.cycle := hlong
  change execDeadlockReport c.unit crew s = _
  simp only [execDeadlockReport, hc, hblocked, hlong', hdead, hfroz, decide_true, Bool.not_false, Bool.and_self, if_true]

theorem cancelled_breaks (s : State) (id : Nat) (c : Crew) : Breaks (recorded s id c) (cancelled s id c) := Breaks.foldl cancelAll_breaks _ _

theorem cancelled_report (s : State) (id : Nat) (c : Crew) : Breaks (cancelled s id c) (reportDeadlock s id c) := by
  rw [reportDeadlock_eq]
  exact (Breaks.foldl (breakWarp_breaks c) _ _).trans (Breaks.modCrew _ _ _)

section Report
variable {s : State} {id key : Nat} {w : Warp} {p : Pend} {rest : List Pend} (hw : s.warp key = some w) (hcrew : w.crew = id)
  (hwaits : w.pend.filter (blockedIn s key w) = p :: rest)
include hw hcrew hwaits

/-- The blocked waits of a warp are among those of its crew. -/
theorem mem_crewWaits : (key, p :: rest) ∈ crewWaits s id :=
  List.mem_map.mpr ⟨(key, w), List.mem_filter.mpr ⟨fmFind_mem _ _ _ hw, decide_eq_true hcrew⟩, by rw [hwaits]⟩

theorem reportDeadlock_lacks (c : Crew) : Lacks key p.op (reportDeadlock s id c) := by
  refine Lacks.kept _ _ (cancelled_report s id c) ?_
  refine Breaks.foldl_reaches cancelAll_breaks (fun s t => Lacks.kept s t) (mem_crewWaits hw hcrew hwaits) fun t hst => ?_
  obtain ⟨v, hv, -⟩ := hst.warps key w hw
  exact cancelAll_lacks hv List.mem_cons_self

theorem reportDeadlock_traps (hghost : isGhost key = false) (c : Crew) : TrappedAt key p (reportDeadlock s id c) := by
  rw [reportDeadlock_eq]
  refine TrappedAt.kept _ _ (Breaks.modCrew _ _ _) ?_
  refine Breaks.foldl_reaches (breakWarp_breaks c) (fun s t => TrappedAt.kept s t)
    (List.mem_filter.mpr ⟨mem_crewWaits hw hcrew hwaits, by simp [hghost]⟩) fun t hst => ?_
  obtain ⟨v, hv, -⟩ := ((cancelled_breaks s id c).trans hst).warps key w hw
  exact breakWarp_traps c hv p rest

end Report

end Sys2Proof.Machine

namespace Sys2Proof.Proofs
open Sys2Proof Sys2Proof.Machine

/-- Settles O37: a gate and a wake are one change of a core; after the record a report only cancels waits and adds traps, the oldest wait of each
blocked warp among both. -/
theorem clockResults : Obligations.ClockResults := by
  unfold Obligations.ClockResults
  refine ⟨fun core s hcore hrun hidle hfroz => ?gate, fun core reason s hcore hgated hcrew hreason => ?wake,
    fun crew n s c hc hblocked hlong hdead hfroz => ?deadlock⟩
  case gate => exact ⟨_, clockGate_gates hcore hrun hidle hfroz, State.modCore_same _ _ _, fun k hk => modCore_ne _ _ _ hk, rfl⟩
  case wake => exact ⟨_, coreWake_wakes hcore hcrew hgated hreason, State.setCore_same _ _ _, fun k hk => State.setCore_ne _ _ _ _ hk, rfl⟩
  case deadlock =>
    refine ⟨_, deadlockReport_goes hc hblocked hlong hdead hfroz, ?_, fun key w p rest hw hcrew hghost _ hwaits => ?_⟩
    · rw [((cancelled_breaks s crew c).trans (cancelled_report s crew c)).deadlk, recorded, State.setCore_same, reported_deadlk]
    · obtain ⟨v, r, hv, hr, hcause, hpc, hact, hexec, hword, hinfo⟩ := reportDeadlock_traps hw hcrew hwaits hghost c
      obtain ⟨x, hx, hops⟩ := reportDeadlock_lacks hw hcrew hwaits c
      obtain rfl := Option.some.inj (hv.symm.trans hx)
      exact ⟨v, r, hv, hr, hcause, hpc, hact, hexec, hword, hinfo, hops⟩

end Sys2Proof.Proofs
end

section
/-! PROOF. What package reset leaves (08_core_groups.md R212, R219, R223; 11_cluster_matrix.md R286, R302; 12_cluster_copy_gemm.md R324;
16_package.md R405; 18_device.md R466). -/

namespace Sys2Proof.Proofs
open Sys2Proof Sys2Proof.Machine

/-- Settles O56: after reset no table lists an entry, so that every register of a table reads as its start value, and memory lists nothing. -/
theorem resetValues : Obligations.ResetValues := by
  unfold Obligations.ResetValues
  refine ⟨fun c => ?core, fun c => ?cluster, fun i => ?contexts, fun r => ?rings, fun n => ?connection, rfl, rfl, wf_reset⟩
  case core =>
    have hstart : State.reset.core c = Core.start := rfl
    exact hstart ▸ ⟨rfl, rfl, rfl, rfl⟩
  case cluster =>
    have hstart : State.reset.cluster c = Cluster.start := rfl
    exact hstart ▸ ⟨rfl, rfl, rfl, rfl, rfl⟩
  case contexts =>
    have hfree : State.reset.snap i = Snap.free := rfl
    exact hfree ▸ ⟨rfl, rfl, rfl, rfl⟩
  case rings =>
    have hring : State.reset.ring r = Ring.start := rfl
    have hfring : State.reset.fring r = FRing.start := rfl
    exact hring ▸ hfring ▸ ⟨rfl, rfl, rfl, rfl⟩
  case connection =>
    have hstart : State.reset.conn n = Conn.start := rfl
    exact hstart ▸ ⟨rfl, rfl, rfl, rfl, rfl⟩

end Sys2Proof.Proofs
end

section
/-! PROOF. The top of the scratchpad and the ordering instructions: the body of each does what its rule says (09_core_memory.md R231-R233,
10_core_ordering.md R265-R269). -/

namespace Sys2Proof.Machine

/-! ## The entry of an instruction that takes a step at once -/

/-- A warp that retires an instruction stays with its crew. -/
theorem retired_crew (s : State) (w : Warp) (cur : Cursor) (h : Hdr) (info : Info) (floor : Nat) (exec : Mask) :
    (retired s w cur h info floor exec).crew = w.crew :=
  (congrArg Warp.crew (retired_fields s w cur h info floor exec).1.1 :)

/-- After an instruction of its own a warp lists an entry of that operation. -/
theorem addPend_findPend (w : Warp) (p : Pend) : ∃ q, findPend (addPend w p) p.op = some q ∧ q.op = p.op := by
  obtain ⟨regs, preds, hmem, -⟩ := addPend_entry w p
  have hsome : ((addPend w p).pend.find? (fun q => q.op == p.op)).isSome := List.find?_isSome.mpr ⟨_, hmem, beq_self_eq_true _⟩
  obtain ⟨q, hq⟩ := Option.isSome_iff_exists.mp hsome
  exact ⟨q, hq, by simpa using List.find?_some hq⟩

/-- An instruction left incomplete finds its entry in the list of its warp, which is still of its crew. -/
theorem addLate_findPend {c : Ctx} {s : State} {v : Warp} (hv : s.warp c.key = some v) (late : Late) (regs : List RegWr) (preds : List PredWr) :
    ∃ w p, (addLate c s late regs preds).warp c.key = some w ∧ w.crew = v.crew ∧ findPend w c.op = some p ∧ p.op = c.op := by
  obtain ⟨p, hp, hop⟩ := addPend_findPend v (pendOf c (s.cycle + 1) late regs preds)
  refine ⟨addPend v (pendOf c (s.cycle + 1) late regs preds), p, ?_, rfl, hp, hop⟩
  rw [addLate, modWarp_some _ _ _ _ hv]
  exact warp_setWarp_same _ _ _

/-- An instruction left incomplete takes its step from its entry. -/
theorem addStep_entry {c : Ctx} {s : State} {late : Late} {regs : List RegWr} {preds : List PredWr} {w : Warp} {p : Pend}
    (hw : (addLate c s late regs preds).warp c.key = some w) (hp : findPend w c.op = some p) (step : State → Pend → State) :
    addStep c s late regs preds step = step (addLate c s late regs preds) p := by
  simp only [addStep, hw, hp]

/-- The warp of the cursor after the issue, as an instruction of it finds it. -/
theorem issued_warp (i : Instr) (h : Hdr) (s : State) (w : Warp) :
    ∃ v, (issued i h s w).warp (issueCtx i h s w).key = some v ∧ v.crew = (issueCtx i h s w).w.crew :=
  ⟨_, warp_retire _ _ _ _ _ _ _ _, retired_crew _ _ _ _ _ _ _⟩

/-! ## SPALLOC, SPFREE and SPFENCE (R232, R233) -/

/-- A line leaves the L1 within the cycle. -/
theorem l1Evict_cycle (s : State) (core ln : Nat) : (l1Evict s core ln).cycle = s.cycle := by
  unfold l1Evict
  split
  · rfl
  · dsimp only
    split_ifs <;> rfl

theorem l1Shrink_cycle (core st ways fuel : Nat) (s : State) : (l1Shrink core st ways fuel s).cycle = s.cycle := by
  induction fuel generalizing s with
  | zero => rfl
  | succ fuel ih =>
    simp only [l1Shrink]
    split_ifs
    · rfl
    · split
      · rfl
      · exact (ih _).trans (l1Evict_cycle s core _)

/-- Lines give way to pinned ones within the cycle. -/
theorem pinEvict_cycle (s : State) (core : Nat) : (pinEvict s core).cycle = s.cycle :=
  foldl_keeps State.cycle (fun t _ _ => l1Shrink_cycle core _ _ _ t) s

/-- The first step of an allocation waits, grants or refuses, as the rule has it. -/
theorem spallocStep_of_rule {o : OpI} {c : Ctx} {s1 t : State} {v : Warp} (hv : s1.warp c.key = some v) (hvc : v.crew = c.w.crew)
    (ht : ruleSpalloc o c s1 = some t) :
    addStep c s1 (.spalloc o.imm.toNat) (laterReg c o.o1) [] (fun s p => spallocStep s c.key p o.imm.toNat) = t := by
  obtain ⟨cr, hcr, ht⟩ := Option.bind_eq_some_iff.mp ht
  obtain ⟨w, p, hw, hcrew, hp, hop⟩ := addLate_findPend hv (.spalloc o.imm.toNat) (laterReg c o.o1) []
  rw [addStep_entry hw hp, ← Option.some.inj ht]
  simp only [spallocStep, hw, hcrew.trans hvc, hcr, hop, Ctx.unit, Bool.and_eq_true, decide_eq_true_eq, pinEvict_cycle, State.setCrew_cycle]
  split_ifs <;> rfl

/-- The first step of a free lets the lines go or waits, as the rule has it, once the top has fallen. -/
theorem spfreeStep_of_rule {o : OpI} {c : Ctx} {s1 t : State} {v : Warp} (hv : s1.warp c.key = some v) (hvc : v.crew = c.w.crew)
    (ht : ruleSpfree o c s1 = some t) : ∃ cr, s1.crew c.w.crew = some cr ∧ cr.spBytes + Config.trapArea + o.imm.toNat ≤ cr.top ∧
      addStep c (s1.setCrew c.w.crew { cr with top := cr.top - o.imm.toNat }) .spfree [] [] (fun s p => spfreeStep s c.key p) = t := by
  obtain ⟨cr, hcr, ht⟩ := Option.bind_eq_some_iff.mp ht
  obtain ⟨_, hroom, ht⟩ := Option.bind_eq_some_iff.mp ht
  have hv' : (s1.setCrew c.w.crew { cr with top := cr.top - o.imm.toNat }).warp c.key = some v := hv
  obtain ⟨w, p, hw, hcrew, hp, hop⟩ := addLate_findPend hv' .spfree [] []
  refine ⟨cr, hcr, (guard_some _ _).mp hroom, ?_⟩
  rw [addStep_entry hw hp, ← Option.some.inj ht]
  simp only [spfreeStep, hw, hcrew.trans hvc, hop]

theorem answers_spalloc (h : Hdr) (q : OpI) (s : State) : Answers (.spalloc h q) h s (ruleSpalloc q) := by
  refine answers_body (show exec (.spalloc h q) s = execSpalloc h q s from rfl) rfl fun w t _ ht => ?_
  obtain ⟨v, hv, hvc⟩ := issued_warp (.spalloc h q) h s w
  exact congrArg Res.ok (spallocStep_of_rule hv hvc ht)

/-- A top that stays above the static region and the trap area does not trap. -/
theorem answers_spfree (h : Hdr) (q : OpI) (s : State) : Answers (.spfree h q) h s (ruleSpfree q) := by
  refine answers_body (show exec (.spfree h q) s = execSpfree h q s from rfl) rfl fun w t _ ht => ?_
  obtain ⟨v, hv, hvc⟩ := issued_warp (.spfree h q) h s w
  obtain ⟨cr, hcr, hroom, ht⟩ := spfreeStep_of_rule hv hvc ht
  simp only [hcr, Nat.not_lt.mpr hroom, if_false]
  exact congrArg Res.ok ht

/-- A fence over a clean range below the top waits. -/
theorem answers_spfence (h : Hdr) (o : OpR) (s : State) : Answers (.spfence h o) h s (ruleSpfence o) := by
  refine answers_body (show exec (.spfence h o) s = execSpfence h o s from rfl) rfl fun w t _ ht => ?_
  obtain ⟨cr, hcr, ht⟩ := Option.bind_eq_some_iff.mp ht
  obtain ⟨_, hclean, ht⟩ := Option.bind_eq_some_iff.mp ht
  obtain ⟨_, hbelow, ht⟩ := Option.bind_eq_some_iff.mp ht
  rw [guard_some] at hclean hbelow
  rw [Bool.and_eq_true, decide_eq_true_eq, decide_eq_true_eq] at hclean
  simp only [lowVal] at hclean hbelow
  simp only [hcr, hclean, bne_self_eq_false, Bool.or_self, Bool.false_eq_true, Nat.not_lt.mpr hbelow, if_false]
  exact congrArg Res.ok (Option.some.inj ht)

/-! ## ACQ, REL, ACQR and FENCE (R266-R269) -/

/-- An instruction of the M pipe whose body, past the comparison of its pairs, is the state that its rule gives. -/
theorem answers_calm {i : Instr} {h : Hdr} {s : State} {f : Ctx → State → State}
    (he : exec i s = issue i h s (fun c s1 => protGuard c (fun _ => []) (.ok (f c s1)))) (hp : ((instrInfo i).pipe == .m) = true) :
    Answers i h s (fun c s1 => guard (calm c (fun _ => [])) >>= fun _ => some (f c s1)) :=
  answersWith_calm he hp

/-- An Acorn has nothing to discard; a core discards at issue. -/
theorem answers_acq (h : Hdr) (o : OpR) (s : State) : Answers (.acq h o) h s ruleAcq := by
  refine answers_body (show exec (.acq h o) s = execAcq h o s from rfl) rfl fun w t _ ht => ?_
  obtain ⟨_, hcalm, ht⟩ := Option.bind_eq_some_iff.mp ht
  rw [guard_some] at hcalm
  rw [protGuard_calm hcalm]
  exact ite_ok_of_some ht

/-- An ACQR of a clean number of a core waits. -/
theorem answers_acqr (h : Hdr) (o : OpR) (s : State) : Answers (.acqr h o) h s (ruleAcqr o) := by
  refine answers_body (show exec (.acqr h o) s = execAcqr h o s from rfl) rfl fun w t _ ht => ?_
  obtain ⟨_, hcalm, ht⟩ := Option.bind_eq_some_iff.mp ht
  obtain ⟨_, hcore, ht⟩ := Option.bind_eq_some_iff.mp ht
  rw [guard_some] at hcalm hcore
  rw [Bool.and_eq_true, decide_eq_true_eq, decide_eq_true_eq] at hcore
  simp only [lowVal] at hcore
  obtain ⟨hclean, hrange⟩ := hcore
  rw [protGuard_calm hcalm]
  simp only [hclean, bne_self_eq_false, Bool.false_eq_true, Nat.not_le.mpr hrange, if_false]
  exact congrArg Res.ok (Option.some.inj ht)

end Sys2Proof.Machine

namespace Sys2Proof.Proofs
open Sys2Proof Sys2Proof.Machine

/-- Settles O26: SPALLOC and SPFREE take a first step from the entry that they leave; SPFENCE, ACQ and ACQR check their operands; REL and
FENCE only compare their pairs. -/
theorem scratchAndOrderResults : Obligations.ScratchAndOrderResults := by
  unfold Obligations.ScratchAndOrderResults
  intro h o q s
  refine ⟨answers_spalloc h q s, answers_spfree h q s, answers_spfence h o s, answers_acq h o s, ?rel, answers_acqr h o s, ?fence⟩
  case rel => exact answers_calm (show exec (.rel h o) s = execRel h o s from rfl) rfl
  case fence => exact answers_calm (show exec (.fence h o) s = execFence h o s from rfl) rfl

end Sys2Proof.Proofs
end

section
/-! PROOF. Memory accesses: the body of each does what its rule says where the checks of R242 pass, and through a class-3 record where those
of R386 and R388 do (09_core_memory.md R237-R248, 15_die_fitted.md R386). -/

namespace Sys2Proof.Machine

/-! ## Lane-wise accesses (R237-R243) -/

/-- An access whose checks pass goes through a valid record of one of its instruction's classes (R242, check 1). -/
theorem memCheck_passed_class {s : State} {crew : Nat} {cr : Crew} {tm pair : Bool} {quad h : Nat} {r : Tensor} {disp : Int} {n : Nat}
    {classes : List Nat} {write : Bool} {poison : Mask} {els es : List MemEl} {space : Space}
    (hok : memCheck s crew cr tm pair quad (.tensor h r) disp n classes write poison els = .ok es space) : tClass r ∈ classes := by
  by_contra hout
  have hbad : (!tensorValid r || !classes.contains (tClass r) || tensorUnsized r || (tClass r = 5 && (crewVia s cr r).isNone)) = true := by
    simp [hout]
  simp only [memCheck, if_pos hbad] at hok
  cases hok

theorem ruleAccess_calm {kind : MemKind} {names : Names} {disp : Int} {n : Nat} {classes : List Nat} {poison : Mask} {els : List MemEl}
    {vals : Nat → List Word} {regs : List RegWr} {preds : List PredWr} {c : Ctx} {s1 t : State}
    (ht : ruleAccess kind names disp n classes poison els vals regs preds c s1 = some t) : calm c vals = true := by
  obtain ⟨_, hcalm, -⟩ := Option.bind_eq_some_iff.mp ht
  exact (guard_some _ _).mp hcalm

/-- A lane-wise access past its checks starts: of the forms that accept class 3 too, since its checks refuse such a record. -/
theorem memIssue_of_rule {kind : MemKind} {names : Names} {disp : Int} {n : Nat} {classes : List Nat} {poison : Mask} {els : List MemEl}
    {vals : Nat → List Word} {regs : List RegWr} {preds : List PredWr} {c : Ctx} {s1 t : State} (region : Option (Byte × Byte))
    (h3 : 3 ∉ classes) (ht : ruleAccess kind names disp n classes poison els vals regs preds c s1 = some t) :
    memIssue c s1 kind names disp n classes poison els region regs preds = .ok t := by
  obtain ⟨_, -, ht⟩ := Option.bind_eq_some_iff.mp ht
  obtain ⟨cr, hcr, ht⟩ := Option.bind_eq_some_iff.mp ht
  cases names with
  | raw =>
    obtain ⟨⟨es, space⟩, hcheck, ht⟩ := Option.bind_eq_some_iff.mp ht
    simp only [memIssue, hcr, passed_some hcheck]
    exact congrArg Res.ok (Option.some.inj ht)
  | own =>
    obtain ⟨⟨es, space⟩, hcheck, ht⟩ := Option.bind_eq_some_iff.mp ht
    simp only [memIssue, hcr, passed_some hcheck]
    exact congrArg Res.ok (Option.some.inj ht)
  | record h =>
    simp only [memIssue, hcr]
    obtain ⟨⟨s2, r⟩, hfound, ht⟩ := Option.bind_eq_some_iff.mp ht
    obtain ⟨⟨es, space⟩, hcheck, ht⟩ := Option.bind_eq_some_iff.mp ht
    have hcheck := passed_some hcheck
    have hclass : tClass r ≠ 3 := fun h => h3 (h ▸ memCheck_passed_class hcheck)
    refine (withRecord_found hfound).trans ?_
    simp only [hclass, hcheck, decide_false, Bool.and_false, keeping_ok]
    exact congrArg Res.ok (Option.some.inj ht)

/-- A load past its checks starts (R240, R241). -/
theorem loadBody_of_rule {names : Names} {o : OpM} {classes : List Nat} (region : Bool) {c : Ctx} {s1 t : State} (h3 : 3 ∉ classes)
    (ht : ruleLoad names o classes c s1 = some t) : loadBody c s1 names o classes region = .ok t :=
  (protGuard_calm (ruleAccess_calm ht)).trans (memIssue_of_rule _ h3 ht)

/-- A store past its checks starts (R240). -/
theorem storeBody_of_rule {names : Names} {o : OpM} {classes : List Nat} (region : Bool) {c : Ctx} {s1 t : State} (h3 : 3 ∉ classes)
    (ht : ruleStore names o classes c s1 = some t) : storeBody c s1 names o classes region = .ok t :=
  (protGuard_calm (ruleAccess_calm ht)).trans (memIssue_of_rule _ h3 ht)

/-- An atomic past its checks starts (R246, R247). -/
theorem atomBody_of_rule {names : Names} {o : OpM} {classes : List Nat} {c : Ctx} {s1 t : State} (h3 : 3 ∉ classes)
    (ht : ruleAtom names o classes c s1 = some t) : atomBody c s1 names o classes = .ok t :=
  (protGuard_calm (ruleAccess_calm ht)).trans (memIssue_of_rule _ h3 ht)

/-- A compare and swap past its checks starts (R245, R247). -/
theorem casBody_of_rule {names : Names} {o : OpM} {classes : List Nat} {c : Ctx} {s1 t : State} (h3 : 3 ∉ classes)
    (ht : ruleCas names o classes c s1 = some t) : casBody c s1 names o classes = .ok t :=
  (protGuard_calm (ruleAccess_calm ht)).trans (memIssue_of_rule _ h3 ht)

/-- A reduction past its checks starts (R248). -/
theorem redBody_of_rule {names : Names} {o : OpM} {classes : List Nat} {c : Ctx} {s1 t : State} (h3 : 3 ∉ classes)
    (ht : ruleRed names o classes c s1 = some t) : redBody c s1 names o classes = .ok t :=
  (protGuard_calm (ruleAccess_calm ht)).trans (memIssue_of_rule _ h3 ht)

/-! ## Accesses through a class-3 record (R386, R388) -/

theorem ruleRegion_calm {store : Bool} {o : OpM} {c : Ctx} {s1 t : State} (ht : ruleRegion store o c s1 = some t) :
    calm c (fun l => if store then [(c.val o.o2 l).val, BitVec.ofNat 64 (opVal c o.o1 (codeBytes c.h.f) l)] else [(c.val o.o2 l).val]) = true := by
  obtain ⟨_, hcalm, -⟩ := Option.bind_eq_some_iff.mp ht
  exact (guard_some _ _).mp hcalm

/-- No lane of a mask is marked where what marks a lane holds of none of its lanes. -/
theorem maskOf_exec_zero {m : Mask} {f : Nat → Bool} (h : ∀ l ∈ lanesOf m, f l = false) : maskOf (fun l => m.getLsbD l && f l) = 0 := by
  refine maskOf_eq_zero fun l hl => ?_
  cases hex : m.getLsbD l with
  | false => rfl
  | true => rw [Bool.true_and, h l (mem_lanesOf.mpr ⟨hl, hex⟩)]

/-- A mask that counts under a condition alone has a lane where the condition holds and the mask has one. -/
theorem ite_bne_zero (p : Bool) (m : Mask) : ((if p = true then m else 0) != 0) = (p && m != 0) := by
  cases p <;> simp

/-- A choice between a state and what goes on to one. -/
theorem ok_ite {p : Prop} [Decidable p] {a b : State} {k : Res} (h : k = .ok b) : (if p then .ok a else k) = Res.ok (if p then a else b) := by
  rw [h, apply_ite Res.ok]

/-- A region access whose record is found and whose lanes are clean and inside enters: on its way, or in the operand log. -/
theorem regionIssue_of_rule {store : Bool} {o : OpM} {c : Ctx} {s1 t : State} (ht : ruleRegion store o c s1 = some t) :
    ∃ cr s2 r, c.s.crew c.w.crew = some cr ∧ found c s1 o.hnd.toNat = some (s2, r) ∧ (tensorValid r && tClass r = 3) = true ∧
      regionIssue c s2 o.hnd.toNat r (c.h.f.toNat % 16) o.disp.toInt store o.o1 o.o2 = .ok t := by
  obtain ⟨_, -, ht⟩ := Option.bind_eq_some_iff.mp ht
  obtain ⟨cr, hcr, ht⟩ := Option.bind_eq_some_iff.mp ht
  obtain ⟨⟨s2, r⟩, hfound, ht⟩ := Option.bind_eq_some_iff.mp ht
  obtain ⟨_, hrecord, ht⟩ := Option.bind_eq_some_iff.mp ht
  obtain ⟨_, hclean, ht⟩ := Option.bind_eq_some_iff.mp ht
  obtain ⟨_, hallowed, ht⟩ := Option.bind_eq_some_iff.mp ht
  rw [guard_some] at hrecord hclean hallowed
  simp only [Bool.and_eq_true, decide_eq_true_eq, Bool.not_eq_true'] at hrecord
  obtain ⟨⟨⟨⟨hvalid, hclass⟩, hety⟩, hcore⟩, hdisp⟩ := hrecord
  refine ⟨cr, s2, r, hcr, hfound, by simp [hvalid, hclass], ?_⟩
  have hpoi : maskOf (fun l => c.exec.getLsbD l && ((c.val o.o2 l).poi != 0 || (store && (c.val o.o1 l).poi.getLsbD 0))) = 0 :=
    maskOf_exec_zero fun l hl => by simpa [← Bool.not_and, imp_iff_not_or] using List.all_eq_true.mp hclean l hl
  simp only [regionIssue, hety, hcore, hdisp, hcr, hpoi, bne_self_eq_false, Bool.or_self, Bool.false_eq_true, if_false]
  obtain ⟨hrec, hblock⟩ := (Bool.and_eq_true _ _).mp hallowed
  rw [Bool.not_eq_true'] at hrec
  rcases hb : vmRdWords ⟨c.unit, cr.cregs, .fetch c.key c.cur.pc⟩ 16 c.s (regPblk r) with v | ⟨s3, b, n⟩
  case' error => simp only [hrec, bne_self_eq_false, Bool.false_eq_true, if_false]
  case' ok =>
    simp only [hb, Bool.and_eq_true, Bool.not_eq_true'] at hblock
    obtain ⟨⟨hpast, hinside⟩, hopen⟩ := hblock
    have hout : maskOf (fun l => c.exec.getLsbD l && decide (regionKey b (tBmode r) (c.val o.o2 l).val.toNat = .out)) = 0 :=
      maskOf_exec_zero fun l hl => by simpa using List.all_eq_true.mp hinside l hl
    simp only [hrec, hpast, hout, ite_bne_zero, hopen, bne_self_eq_false, Bool.false_eq_true, if_false]
  all_goals
    refine Eq.trans (ok_ite (ok_ite ?_)) (congrArg Res.ok (Option.some.inj ht))
    rcases regionTry ⟨c.unit, cr.cregs, .fetch c.key c.cur.pc⟩ s2 cr.ctx o.hnd.toNat r store _ with v | done
    · cases v <;> rfl
    · rfl

/-- LD and ST hand a class-3 record to the region access. -/
theorem memIssue_region {kind : MemKind} {store : Bool} {o : OpM} {n : Nat} {classes : List Nat} {poison : Mask} {els : List MemEl}
    {regs : List RegWr} {preds : List PredWr} {c : Ctx} {s1 t : State} (hk : kindWrites kind = store) (ht : ruleRegion store o c s1 = some t) :
    memIssue c s1 kind (.record o.hnd) o.disp.toInt n classes poison els (some (o.o1, o.o2)) regs preds = .ok t := by
  obtain ⟨cr, s2, r, hcr, hfound, hclass, hissue⟩ := regionIssue_of_rule ht
  simp only [memIssue, hcr]
  refine (withRecord_found hfound).trans ?_
  simp only [hclass, hk, hissue, keeping_ok]

/-! ## PREF (R244) -/

/-- A prefetch whose record does not translate, or of which no lane is left, is done; the lanes that are left ask for their lines. -/
theorem answers_pref (h : Hdr) (o : OpM) (s : State) : Answers (.pref h o) h s (rulePref o) := by
  refine answers_body (show exec (.pref h o) s = execPref h o s from rfl) rfl fun w t _ ht => ?_
  obtain ⟨_, hcalm, ht⟩ := Option.bind_eq_some_iff.mp ht
  obtain ⟨cr, hcr, ht⟩ := Option.bind_eq_some_iff.mp ht
  obtain ⟨⟨s2, f⟩, hl, ht⟩ := Option.bind_eq_some_iff.mp ht
  rw [guard_some] at hcalm
  rw [protGuard_calm hcalm]
  simp only [hcr, lookedUp_some hl]
  cases f with
  | fault va r p => exact congrArg Res.ok (Option.some.inj ht)
  | found r bad => exact ite_ok_of_some ht

end Sys2Proof.Machine

namespace Sys2Proof.Proofs
open Sys2Proof Sys2Proof.Machine

/-- Settles O24: every form is one body of five kinds, which starts the access where its rule's checks pass; LD and ST have the region
access beside it, and PREF drops lanes. -/
theorem accessResults : Obligations.AccessResults := by
  unfold Obligations.AccessResults
  intro h o s rec_ mine sp
  have h1245 : 3 ∉ [1, 2, 4, 5] := by decide
  have h5 : 3 ∉ [5] := by decide
  refine ⟨?ld, ?ldRegion, ?st, ?stRegion, ?lda, ?sta, ?atom, ?cas, ?red, ?lds, ?sts, ?atoms, ?cass, ?reds, answers_pref h o s⟩
  case ld => exact answers_body (show exec (.ld h o) s = execLd h o s from rfl) rfl fun _ _ _ => loadBody_of_rule true h1245
  case ldRegion =>
    exact answers_body (show exec (.ld h o) s = execLd h o s from rfl) rfl fun _ _ _ ht =>
      (protGuard_calm (ruleRegion_calm ht)).trans (memIssue_region rfl ht)
  case st => exact answers_body (show exec (.st h o) s = execSt h o s from rfl) rfl fun _ _ _ => storeBody_of_rule true h1245
  case stRegion =>
    exact answers_body (show exec (.st h o) s = execSt h o s from rfl) rfl fun _ _ _ ht =>
      (protGuard_calm (ruleRegion_calm ht)).trans (memIssue_region rfl ht)
  case lda => exact answers_body (show exec (.lda h o) s = execLda h o s from rfl) rfl fun _ _ _ => loadBody_of_rule false List.not_mem_nil
  case sta => exact answers_body (show exec (.sta h o) s = execSta h o s from rfl) rfl fun _ _ _ => storeBody_of_rule false List.not_mem_nil
  case atom => exact answers_body (show exec (.atom h o) s = execAtom h o s from rfl) rfl fun _ _ _ => atomBody_of_rule h1245
  case cas => exact answers_body (show exec (.cas h o) s = execCas h o s from rfl) rfl fun _ _ _ => casBody_of_rule h1245
  case red => exact answers_body (show exec (.red h o) s = execRed h o s from rfl) rfl fun _ _ _ => redBody_of_rule h1245
  case lds => exact answersWith_body (show exec (.lds h o) s = execLds h o s from rfl) (.inl rfl) fun _ _ _ => loadBody_of_rule false h5
  case sts => exact answersWith_body (show exec (.sts h o) s = execSts h o s from rfl) (.inl rfl) fun _ _ _ => storeBody_of_rule false h5
  case atoms => exact answersWith_body (show exec (.atoms h o) s = execAtoms h o s from rfl) (.inl rfl) fun _ _ _ => atomBody_of_rule h5
  case cass => exact answersWith_body (show exec (.cass h o) s = execCass h o s from rfl) (.inl rfl) fun _ _ _ => casBody_of_rule h5
  case reds => exact answersWith_body (show exec (.reds h o) s = execReds h o s from rfl) (.inl rfl) fun _ _ _ => redBody_of_rule h5

end Sys2Proof.Proofs
end

section
/-! PROOF. Arrival words and queues of the own scratchpad: the body of each instruction does what its rule says, up to its first step
(09_core_memory.md R249-R255, 11_cluster_matrix.md R278). -/

namespace Sys2Proof.Machine

/-! ## Arrival words (R249-R251) -/

/-- An arrival past its checks goes to its words, or stands before them. -/
theorem arrivalBody_of_rule {k : ArrKind} {va : Byte} {regs : Ctx → List RegWr} {c : Ctx} {s1 t : State}
    (ht : ruleArrival k va regs c s1 = some t) : arrivalBody c s1 k va (regs c) = .ok t := by
  obtain ⟨_, hcalm, ht⟩ := Option.bind_eq_some_iff.mp ht
  obtain ⟨cr, hcr, ht⟩ := Option.bind_eq_some_iff.mp ht
  obtain ⟨⟨es, space⟩, hcheck, ht⟩ := Option.bind_eq_some_iff.mp ht
  obtain ⟨w, hw, ht⟩ := Option.bind_eq_some_iff.mp ht
  obtain ⟨p, hp, ht⟩ := Option.bind_eq_some_iff.mp ht
  rw [guard_some] at hcalm
  rw [arrivalBody, protGuard_calm hcalm]
  simp only [hcr, passed_some hcheck, hw, hp]
  exact congrArg Res.ok (Option.some.inj ht)

/-- The five arrival instructions differ in what they ask of their words and in their result. -/
theorem answers_arrival {i : Instr} {h : Hdr} {s : State} {k : ArrKind} {va : Byte} {extra : Ctx → Option Nat} {regs : Ctx → List RegWr}
    (he : exec i s = issueWith i h s (fun _ => false) extra (fun c s1 => arrivalBody c s1 k va (regs c)))
    (hp : ((instrInfo i).pipe == .m) = true) : AnswersWith i h s (fun _ => false) extra (ruleArrival k va regs) :=
  answersWith_body he (.inl hp) fun _ _ _ => arrivalBody_of_rule

/-! ## Queues (R252-R255, R278) -/

/-- A queue operation that goes is left incomplete, and reaches its queue where it may. -/
theorem queueStart_of_goes {c : Ctx} {s t : State} {late : Late} {regs : List RegWr} {preds : List PredWr}
    (ht : queueGoes c s late regs preds = some t) : queueStart c s late regs preds = .ok t := by
  obtain ⟨w, hw, ht⟩ := Option.bind_eq_some_iff.mp ht
  obtain ⟨p, hp, ht⟩ := Option.bind_eq_some_iff.mp ht
  rw [queueStart, addStep_entry hw hp, ← Option.some.inj ht, apply_ite Res.ok]
  rfl

/-- The queue that a rule finds is the one that the instruction goes on with; a trap of what follows keeps the record's copy (R236). -/
theorem withQueue_found {c : Ctx} {s1 s2 : State} {qn crew n : Nat} {regs : Option Byte} {kind : Option QueueKind} {q : QueueEnt}
    {k : State → Nat → Nat → QueueEnt → Res} {t : State} (h : queueFound c s1 qn regs kind = some (s2, crew, n, q)) (hk : k s2 crew n q = .ok t) :
    withQueue c s1 qn regs kind k = .ok t := by
  obtain ⟨cr, hcr, h⟩ := Option.bind_eq_some_iff.mp h
  simp only [withQueue, hcr]
  cases hac : c.acorn with
  | false =>
    rw [hac] at h
    obtain ⟨q', hq, h⟩ := Option.bind_eq_some_iff.mp h
    obtain ⟨_, hpast, h⟩ := Option.bind_eq_some_iff.mp h
    rw [guard_some, Bool.not_eq_true'] at hpast
    cases h
    simp only [hq, hpast, Bool.not_false, Bool.false_eq_true, if_true, if_false]
    exact hk
  | true =>
    rw [hac] at h
    obtain ⟨⟨s3, r⟩, hfound, h⟩ := Option.bind_eq_some_iff.mp h
    obtain ⟨⟨tc, n'⟩, hqueue, h⟩ := Option.bind_eq_some_iff.mp h
    obtain ⟨q', hq, h⟩ := Option.bind_eq_some_iff.mp h
    obtain ⟨_, hfits, h⟩ := Option.bind_eq_some_iff.mp h
    rw [guard_some, Bool.and_eq_true, Bool.not_eq_true'] at hfits
    obtain ⟨hrange, hpast⟩ := hfits
    cases h
    refine (withRecord_found hfound).trans ?_
    simp only [hqueue, hq, hpast, Bool.false_eq_true, if_false]
    cases regs with
    | none => exact congrArg (Res.keeping s2) hk
    | some b =>
      rw [Bool.not_eq_true'] at hrange
      simp only [hrange, Bool.false_eq_true, if_false]
      exact congrArg (Res.keeping s2) hk

/-- A push of clean elements goes (R255). -/
theorem pushBody_of_rule {o : OpR} {late : Nat → Nat → List (List Lane) → Late} {preds : Ctx → List PredWr} {c : Ctx} {s1 t : State}
    (ht : rulePush o late preds c s1 = some t) : pushBody c s1 (o.x.toNat % 32) o.o2 late (preds c) = .ok t := by
  obtain ⟨_, hcalm, ht⟩ := Option.bind_eq_some_iff.mp ht
  obtain ⟨⟨s2, crew, n, q⟩, hfound, ht⟩ := Option.bind_eq_some_iff.mp ht
  obtain ⟨_, hclean, ht⟩ := Option.bind_eq_some_iff.mp ht
  rw [guard_some] at hcalm hclean
  refine (protGuard_calm hcalm).trans (withQueue_found hfound ?_)
  simp only [hclean, bne_self_eq_false, Bool.false_eq_true, if_false]
  exact queueStart_of_goes ht

/-- PUSH and TRYPUSH with clean elements go; the second writes a predicate too (R255). -/
theorem answers_push {i : Instr} {h : Hdr} {s : State} {o : OpR} {late : Nat → Nat → List (List Lane) → Late} {preds : Ctx → List PredWr}
    {extra : Ctx → Option Nat} (he : exec i s = issueWith i h s (fun _ => false) extra
      (fun c s1 => pushBody c s1 (o.x.toNat % 32) o.o2 late (preds c)))
    (hp : ((instrInfo i).pipe == .m) = true) : AnswersWith i h s (fun _ => false) extra (rulePush o late preds) :=
  answersWith_body he (.inl hp) fun _ _ _ => pushBody_of_rule

/-- POP and TRYPOP whose pairs agree go (R255). -/
theorem answers_pop {i : Instr} {h : Hdr} {s : State} {o : OpR} {late : Nat → Nat → Late} {preds : Ctx → List PredWr}
    {extra : Ctx → Option Nat} (he : exec i s = issueWith i h s (fun _ => false) extra (fun c s1 =>
      protGuard c (fun _ => []) (withQueue c s1 (o.x.toNat % 32) (some o.o1) (some .pop) (fun s2 crew n q =>
        queueStart c s2 (late crew n) (elemRegs c.w o.o1 q.regs c.exec) (preds c)))))
    (hp : ((instrInfo i).pipe == .m) = true) : AnswersWith i h s (fun _ => false) extra (rulePop o late preds) := by
  refine answersWith_body he (.inl hp) fun w t _ ht => ?_
  obtain ⟨_, hcalm, ht⟩ := Option.bind_eq_some_iff.mp ht
  obtain ⟨⟨s2, crew, n, q⟩, hfound, ht⟩ := Option.bind_eq_some_iff.mp ht
  rw [guard_some] at hcalm
  exact (protGuard_calm hcalm).trans (withQueue_found hfound (queueStart_of_goes ht))

/-- The status of a queue that is found is on its way (R255). -/
theorem answers_qstat (h : Hdr) (o : OpR) (s : State) :
    AnswersWith (.qstat h o) h s (fun _ => false) (fun c => queueExtra c (o.x.toNat % 32) none false) (ruleQstat o) := by
  refine answersWith_body (by change execQstat h o s = _; delta execQstat; rfl) (.inl rfl) fun w t _ ht => ?_
  obtain ⟨⟨s2, crew, n, q⟩, hfound, ht⟩ := Option.bind_eq_some_iff.mp ht
  exact withQueue_found hfound (queueStart_of_goes ht)

/-- A QINIT of a clean, aligned address in range is on its way (R255). -/
theorem answers_qinit (h : Hdr) (o : OpI) (s : State) : AnswersWith (.qinit h o) h s (fun _ => false)
    (fun c => match c.s.crew c.w.crew with
      | some cr => if cr.nqueues ≤ o.imm.toNat / 2 ^ 27 then some cQBOUND else none
      | none => none) (ruleQinit o) := by
  refine answersWith_body (by change execQinit h o s = _; delta execQinit; rfl) (.inl rfl) fun w t _ ht => ?_
  obtain ⟨cr, hcr, ht⟩ := Option.bind_eq_some_iff.mp ht
  obtain ⟨_, hgood, ht⟩ := Option.bind_eq_some_iff.mp ht
  rw [guard_some, Bool.and_eq_true, Bool.and_eq_true, decide_eq_true_eq, Bool.not_eq_true', decide_eq_true_eq] at hgood
  simp only [lowVal] at hgood
  obtain ⟨⟨hclean, hin⟩, haligned⟩ := hgood
  simp only [hcr, hclean, hin, haligned, bne_self_eq_false, Bool.false_eq_true, if_false]
  exact queueStart_of_goes ht

end Sys2Proof.Machine

namespace Sys2Proof.Proofs
open Sys2Proof Sys2Proof.Machine

/-- Settles O27: the five arrivals are one body and both pushes another, a pop is its queue's operation, and QINIT checks its operand. -/
theorem arrivalAndQueueResults : Obligations.ArrivalAndQueueResults := by
  unfold Obligations.ArrivalAndQueueResults
  intro h o q s qn arr que res
  refine ⟨?awinit, ?arrive, ?arrdrop, ?await, ?awtest, answers_qinit h q s, ?push, ?pop, ?trypush, ?trypop, answers_qstat h o s⟩
  case awinit => exact answers_arrival (show exec (.awinit h q) s = execAwinit h q s from rfl) rfl
  case arrive => exact answers_arrival (show exec (.arrive h q) s = execArrive h q s from rfl) rfl
  case arrdrop => exact answers_arrival (show exec (.arrdrop h q) s = execArrdrop h q s from rfl) rfl
  case await => exact answers_arrival (show exec (.await h q) s = execAwait h q s from rfl) rfl
  case awtest => exact answers_arrival (show exec (.awtest h q) s = execAwtest h q s from rfl) rfl
  case push => exact answers_push (show exec (.push h o) s = execPush h o s from rfl) rfl
  case pop => exact answers_pop (show exec (.pop h o) s = execPop h o s from rfl) rfl
  case trypush => exact answers_push (show exec (.trypush h o) s = execTrypush h o s from rfl) rfl
  case trypop => exact answers_pop (show exec (.trypop h o) s = execTrypop h o s from rfl) rfl

end Sys2Proof.Proofs
end

section
/-! PROOF. Requests at their home slice and the fill of a line (10_core_ordering.md R258, R259; 13_die_cache.md R328, R330, R333; 14_die_tiles.md
R368). -/

namespace Sys2Proof.Machine

/-! ## A line that stands in its slice (R328-R333) -/

/-- The state without the slices and second-tier memory. -/
def State.offCache (s : State) : State := { s with slices := [], mem := [], memBad := [] }

@[simp] theorem cxlWrite_offCache (s : State) (ln : Nat) (d : Line) (bad : BitVec 16) : (cxlWrite s ln d bad).offCache = s.offCache := by
  unfold cxlWrite
  split <;> rfl

@[simp] theorem writeBacks_offCache (s : State) (vs : List (Nat × SLine)) : (writeBacks s vs).offCache = s.offCache :=
  foldl_keeps State.offCache (fun s v _ => by split <;> simp) s

/-- Room is made among the lines: the directory stays. -/
theorem makeRoom_dir {ln tags sect : Nat} {grow : Bool} {spare : List Nat} {fuel : Nat} {sl sl1 : Slice} {out out1 : List (Nat × SLine)}
    (h : makeRoom ln tags sect grow spare fuel sl out = .ok (sl1, out1)) : sl1.dir = sl.dir := by
  induction fuel generalizing sl out with
  | zero => cases h
  | succ fuel ih =>
    unfold makeRoom at h
    dsimp only at h
    split at h
    · cases h; rfl
    · split at h
      · cases h
      · exact (ih h :)

/-- The line is dirty in its slice. -/
def lineDirty (s : State) (ln : Nat) : Bool := (fmFind (s.slice (lineHome ln)).lines ln).any (fun l => l.dirty)

/-- A step from `s` to `t` leaves `l` as the line of a slice, with its data, marks and dirty bit, and nothing else of the package but lines that it
evicts has changed. -/
structure Leaves (s t : State) (ln : Nat) (d : Line) (bad : BitVec 16) (dirty : Bool) (l : SLine) : Prop where
  found : fmFind (t.slice (lineHome ln)).lines ln = some l
  data : l.data = d
  bad : l.bad = bad
  dirty : l.dirty = dirty
  dir : (t.slice (lineHome ln)).dir = (s.slice (lineHome ln)).dir
  others : ∀ k, k ≠ lineHome ln → t.slice k = s.slice k
  rest : t.offCache = s.offCache

/-- A line that is stored stands in its slice, dirty where it was or the store makes it so. -/
theorem slPut_leaves {s t : State} {ln : Nat} {d : Line} {bad : BitVec 16} {dirty : Bool} {spare : List Nat}
    (h : slPut s ln d bad dirty spare = .ok t) : ∃ l, Leaves s t ln d bad (lineDirty s ln || dirty) l := by
  unfold slPut at h
  dsimp only at h
  split at h
  · cases h
  · rename_i sl1 out hroom
    obtain rfl := Except.ok.inj h
    have hdir : sl1.dir = (s.slice (lineHome ln)).dir := by split at hroom <;> exact makeRoom_dir hroom
    have hslice : ∀ (u : State) (v : List (Nat × SLine)) (k : Nat), (writeBacks u v).slice k = u.slice k := fun u v k => by
      simp only [State.slice, writeBacks_slices]
    refine ⟨_, by rw [hslice, State.setSlice_same]; exact fmFind_fmPut_same _ _ _, rfl, rfl, ?dirty, ?dir, fun k hk => ?others, ?rest⟩
    case dirty => unfold lineDirty; cases fmFind (s.slice (lineHome ln)).lines ln <;> simp
    case dir => rw [hslice, State.setSlice_same]; exact hdir
    case others => rw [hslice, State.setSlice_ne _ _ _ _ hk]
    case rest => exact writeBacks_offCache _ _

/-- A resident line is used. -/
theorem slGet_resident {s : State} {ln : Nat} {l : SLine} (h : fmFind (s.slice (lineHome ln)).lines ln = some l) (spare : List Nat) :
    slGet s ln spare = .ok (s.setSlice (lineHome ln) { s.slice (lineHome ln) with
      lines := fmPut (s.slice (lineHome ln)).lines ln (l.used (s.slice (lineHome ln)).clock), clock := (s.slice (lineHome ln)).clock + 1 },
      l.used (s.slice (lineHome ln)).clock) := by
  simp only [slGet, h]

/-- A line that is brought in stands in its slice with its value, dirty only where it was. -/
theorem slGet_leaves {s t : State} {ln : Nat} {spare : List Nat} {l : SLine} (h : slGet s ln spare = .ok (t, l)) :
    Leaves s t ln (peekLine s ln).1 (peekLine s ln).2 (lineDirty s ln) l := by
  cases hl : fmFind (s.slice (lineHome ln)).lines ln with
  | some old =>
    rw [slGet_resident hl] at h
    obtain ⟨rfl, rfl⟩ := Prod.mk.inj (Except.ok.inj h)
    refine ⟨by simp, ?_, ?_, ?_, by simp, fun k hk => State.setSlice_ne _ _ _ _ hk, rfl⟩ <;> simp [peekLine, lineDirty, hl, SLine.used]
  | none =>
    simp only [slGet, hl] at h
    split at h
    · cases h
    · rename_i s1 hput
      obtain ⟨l1, hput⟩ := slPut_leaves hput
      rw [hput.found] at h
      obtain ⟨rfl, rfl⟩ := Prod.mk.inj (Except.ok.inj h)
      simpa [peekLine, lineDirty, hl] using hput

/-! ## What a served request leaves (R333) -/

/-- The slice without its note of the requests of a cycle. -/
def Slice.offServed (sl : Slice) : Slice := { sl with servedAt := 0, served := [] }

theorem markServed_slice (s : State) (ln unit k : Nat) : ((markServed s ln unit).slice k).offServed = (s.slice k).offServed := by
  simp only [markServed]
  split
  · rfl
  · by_cases hk : k = lineHome ln
    · rw [hk, State.modSlice_same]
      rfl
    · rw [State.modSlice, State.setSlice_ne _ _ _ _ hk]

theorem markServed_slice_ne (s : State) {ln k : Nat} (unit : Nat) (hk : k ≠ lineHome ln) : (markServed s ln unit).slice k = s.slice k := by
  simp only [markServed]
  split
  · rfl
  · rw [State.modSlice, State.setSlice_ne _ _ _ _ hk]

theorem markServed_lines (s : State) (ln unit k : Nat) : ((markServed s ln unit).slice k).lines = (s.slice k).lines :=
  (congrArg Slice.lines (markServed_slice s ln unit k) :)

theorem markServed_dir (s : State) (ln unit k : Nat) : ((markServed s ln unit).slice k).dir = (s.slice k).dir :=
  (congrArg Slice.dir (markServed_slice s ln unit k) :)

theorem markServed_frame (s : State) (ln unit : Nat) : { markServed s ln unit with slices := [] } = { s with slices := [] } := by
  simp only [markServed]
  split <;> rfl

/-- A request leaves the path of its unit. -/
def dequeued (s : State) (id : Nat) : State := { s with net := s.net.filter (fun q => q.id != id) }

/-- Where a computation at a slice goes through, no request of the number is left on the path. -/
def Dequeues (id : Nat) (x : Room State) : Prop := ∀ t, x = .ok t → ∀ q ∈ t.net, q.id ≠ id

theorem Dequeues.done (u : State) (id : Nat) : Dequeues id (pure (dequeued u id)) := by
  rintro t ⟨⟩ q hq
  simpa using (List.mem_filter.1 hq).2

theorem Dequeues.bind {α : Type} {id : Nat} (x : Room α) {f : α → Room State} (h : ∀ a, Dequeues id (f a)) : Dequeues id (x >>= f) :=
  fun t ht => let ⟨a, _, hf⟩ := except_bind_ok ht; h a t hf

/-- An applied request has left the path, whatever its kind: its removal is the last step of each. -/
theorem applyReq_dequeues (s : State) (r : Req) : Dequeues r.id (applyReq s r) := by
  unfold applyReq
  cases r.kind with
  | register g =>
    dsimp only
    split <;> exact .bind _ fun _ => .bind _ fun _ => .done _ _
  | registerObj lns gen g => exact .bind _ fun _ => .bind _ fun _ => .done _ _
  | writeBack m kn d b => exact .bind _ fun _ => .done _ _
  | read i k se cached => exact .bind _ fun _ => .done _ _
  | write bytes d => exact .bind _ fun _ => .done _ _
  | atoms k e els pair => exact .bind _ fun _ => .done _ _
  | recSet off d ctx h => exact .bind _ fun _ => .done _ _
  | recGen off ctx h => exact .bind _ fun _ => .bind _ fun _ => .done _ _

/-! ## A step of a request (R330, R333, R368) -/

/-- A lock or an earlier waiting access holds a request back at one of its lines (R368). -/
def reqHeld (s : State) (r : Req) : Bool := (reqLines r).any (fun ln => heldBack s ln (reqWrites r.kind) r.place)
/-- A higher unit has reached one of a request's lines in this cycle (R333). -/
def reqPassed (s : State) (r : Req) : Bool := (reqLines r).any (fun ln => servedLater s ln r.unit)

/-- The four outcomes of a request's event: applied, evicted for, passed, and placed behind a lock. -/
def ServesRequest (e : Instr) (s : State) (r : Req) : Prop :=
  (reqHeld s r = false ∧ reqPassed s r = false → ∀ t, applyReq s r = .ok t →
    exec e s = .next (markAll t (reqLines r) r.unit) ∧ ∀ q ∈ t.net, q.id ≠ r.id) ∧
  (reqHeld s r = false ∧ reqPassed s r = false → ∀ lack, applyReq s r = .error lack → exec e s = .next (evictFor s lack)) ∧
  (reqHeld s r = false → reqPassed s r = true → exec e s = .next s) ∧
  (reqHeld s r = true → r.place = none → ∃ t, exec e s = .next t ∧ t.mem = s.mem ∧
    (t.slice (lineHome r.line)).clock = (s.slice (lineHome r.line)).clock + 1 ∧
    t.net = s.net.map (fun q => if q.id = r.id then { q with place := some (s.slice (lineHome r.line)).clock } else q))

/-- A request takes its place in the order of arrival at its slice, and the slice counts one wait (R338, R368). -/
def placed (s : State) (r : Req) : State :=
  let sl := s.slice (lineHome r.line)
  { s.setSlice (lineHome r.line) { sl with clock := sl.clock + 1, lockw := sl.lockw + 1 } with
    net := s.net.map (fun q => if q.id = r.id then { q with place := some sl.clock } else q) }

section Request
variable {s : State} {r : Req} (hnamed : s.net.find? (fun q => q.id = r.id) = some r) (hfirst : reqFirst s r = true)
  (htile : tileHolds s r = false) (hregion : regionAhead s r = false)
include hnamed hfirst htile hregion

/-- The step of the oldest request of its unit that no tile and no region store of its own core keeps back. -/
theorem stepReq_eq {mine : ReqKind → Bool} (hmine : mine r.kind = true) : stepReq s r.id mine =
    if reqHeld s r = true then (match r.place with
      | some _ => s
      | none => placed s r)
    else if reqPassed s r = true then s
    else match applyReq s r with
      | .ok t => markAll t (reqLines r) r.unit
      | .error lack => evictFor s lack := by
  unfold stepReq
  simp only [hnamed, hmine, hfirst, hregion, htile]
  rfl

/-- So its event has the four outcomes. -/
theorem servesRequest {e : Instr} {mine : ReqKind → Bool} (he : exec e s = .next (stepReq s r.id mine)) (hmine : mine r.kind = true) :
    ServesRequest e s r := by
  rw [stepReq_eq hnamed hfirst htile hregion hmine] at he
  refine ⟨fun ⟨hheld, hpassed⟩ t ht => ?applied, fun ⟨hheld, hpassed⟩ lack hlack => ?room, fun hheld hpassed => ?passed,
    fun hheld hplace => ?placed⟩
  case applied => exact ⟨by simp [he, hheld, hpassed, ht], applyReq_dequeues s r t ht⟩
  case room => simp [he, hheld, hpassed, hlack]
  case passed => simp [he, hheld, hpassed]
  case placed => exact ⟨placed s r, by simp [he, hheld, hplace], rfl, congrArg Slice.clock (State.setSlice_same s _ _), rfl⟩

end Request

/-! ## A line that no directory entry, object entry or snapshot concerns -/

/-- A directory with a new entry for a line (R258). -/
def registered (s : State) (ln core : Nat) (mask : BitVec 32) : State :=
  s.modSlice (lineHome ln) (fun sl =>
    { sl with dir := fmPut sl.dir ln { owner := core, mask := mask, stamp := sl.clock }, clock := sl.clock + 1 })

/-- A step that has gone through hands its result on. -/
theorem room_ok_bind {α β : Type} (a : α) (f : α → Room β) : ((.ok a : Room α) >>= f) = f a := rfl

section Quiet
variable {s : State} {ln : Nat} (hsnap : snapsNeeding s ln = []) (hdir : dirEnt s ln = none) (hobj : objEnt s ln = none)

include hdir hobj in
/-- A read brings in the slice's own line (R259). -/
theorem homeRead_quiet (mask : BitVec 32) : homeRead s ln mask = slGet s ln := by
  simp only [homeRead, hdir, hobj, room_ok_bind]

include hsnap hdir hobj in
/-- A registration enters the core in the directory and brings the line in (R258, R328). -/
theorem homeRegister_quiet (hroom : ((s.slice (lineHome ln)).dir.filter (fun e => e.1 % 4096 = ln % 4096)).length < 16) (core : Nat)
    (mask : BitVec 32) : homeRegister s core ln mask = slTouch (registered s ln core mask) ln [ln] := by
  have hdirRoom : dirRoom s ln = .ok s := if_pos hroom
  simp only [homeRegister, snapCopy, hsnap, recallCover, hobj, recallLine, hdirRoom, hdir, room_ok_bind]
  rfl

include hsnap hdir hobj in
/-- A write of bytes brings in the slice's own line and writes it (R328). -/
theorem homeWrite_quiet {t : State} {bytes : BitVec 128} {d : Line} {bad : BitVec 16} (h : homeWrite s ln bytes d bad = .ok t) :
    ∃ marks l, Leaves s t ln (mergeLine (peekLine s ln).1 d (byteBits bytes)) marks true l := by
  simp only [homeWrite, snapCopy, hsnap, recallCover, hobj, hdir, room_ok_bind] at h
  obtain ⟨⟨s1, old⟩, hget, hput⟩ := except_bind_ok h
  have hget := slGet_leaves hget
  obtain ⟨l, hput⟩ := slPut_leaves hput
  exact ⟨_, l, hput.found, by rw [hput.data, hget.data], hput.bad, hput.dirty.trans (Bool.or_true _),
    hput.dir.trans hget.dir, fun k hk => (hput.others k hk).trans (hget.others k hk), hput.rest.trans hget.rest⟩

end Quiet

/-! ## What each kind of request does there -/

/-- The state after a request to one line has been applied. -/
def homeServed (s : State) (r : Req) : State := markServed (dequeued s r.id) r.line r.unit

theorem ServesRequest.applied {e : Instr} {s s1 : State} {r : Req} (h : ServesRequest e s r) (hfree : reqHeld s r = false ∧ reqPassed s r = false)
    (hline : reqLines r = [r.line]) (happly : applyReq s r = .ok (dequeued s1 r.id)) : exec e s = .next (homeServed s1 r) := by
  rw [(h.1 hfree _ happly).1, hline]
  rfl

theorem homeServed_warps (s : State) (r : Req) : (homeServed s r).warps = s.warps :=
  (congrArg State.warps (markServed_frame (dequeued s r.id) r.line r.unit) :)

theorem homeServed_mem (s : State) (r : Req) : (homeServed s r).mem = s.mem :=
  (congrArg State.mem (markServed_frame (dequeued s r.id) r.line r.unit) :)

theorem homeServed_lines (s : State) (r : Req) (k : Nat) : ((homeServed s r).slice k).lines = (s.slice k).lines :=
  markServed_lines (dequeued s r.id) r.line r.unit k

theorem homeServed_dirEnt (s : State) (r : Req) (ln : Nat) : dirEnt (homeServed s r) ln = dirEnt s ln :=
  congrArg (fmFind · ln) (markServed_dir (dequeued s r.id) r.line r.unit (lineHome ln))

theorem homeServed_slice_ne (s : State) (r : Req) {k : Nat} (hk : k ≠ lineHome r.line) : (homeServed s r).slice k = s.slice k :=
  markServed_slice_ne (dequeued s r.id) r.unit hk

/-- A read answers with the line that its home holds (R259). -/
theorem applyReq_read {s s1 : State} {r : Req} {i k se cached : Bool} {l : SLine} (hkind : r.kind = .read i k se cached)
    (hread : homeRead s r.line (readMask s r i) = .ok (s1, l)) :
    applyReq s r = .ok (dequeued (replyRead s1 r i k se (if cached then readMask s r false else 0) l) r.id) := by
  simp only [applyReq, hkind, hread, room_ok_bind]
  rfl

/-- What an operation at the home overtakes in L1 changes the cores alone (R99). -/
theorem l1Overtake_frame (s : State) (core ln : Nat) (m : BitVec 32) : { l1Overtake s core ln m with cores := [] } = { s with cores := [] } := by
  unfold l1Overtake
  split <;> rfl

/-- A reply changes no slice. -/
theorem takeReply_slices (s : State) (key op : Nat) : (takeReply s key op).slices = s.slices :=
  (State.modWarp_slices _ _ _).trans (congrArg State.slices (wakeCore_frame s (keyUnit key) 2) :)

/-- A write is the home's write of its bytes; the reply that it sends changes no slice (R226). -/
theorem applyReq_write {s t : State} {r : Req} {bytes : BitVec 128} {d : Line} (hkind : r.kind = .write bytes d) (h : applyReq s r = .ok t) :
    ∃ s1, homeWrite s r.line bytes d 0 = .ok s1 ∧ t.slices = s1.slices := by
  simp only [applyReq, hkind] at h
  obtain ⟨s1, hwrite, h⟩ := except_bind_ok h
  obtain rfl := Except.ok.inj h
  refine ⟨s1, hwrite, (takeReply_slices _ _ _).trans ?_⟩
  split
  · exact (congrArg State.slices (l1Overtake_frame s1 r.unit r.line (wordsOfBytes bytes)) :)
  · rfl

/-- Every element of a load that waits for the line takes its bytes from it (R259). -/
theorem replyRead_load {s : State} {r : Req} {w : Warp} (hw : s.warp r.key = some w) (keep seals : Bool) (got : BitVec 32) (l : SLine) :
    ∃ v, (replyRead s r false keep seals got l).warp r.key = some v ∧ ∀ p ∈ w.pend, p.op = r.op → ∀ es sink, p.late = .load es sink →
      { p with late := .load (es.map (fun e => elemFill e r.line l.data l.bad)) sink, ready := max p.ready (s.cycle + 1) } ∈ v.pend := by
  have hkept : (wakeCore (l1Overtake s r.unit r.line got) r.unit 2).warp r.key = some w := by
    rw [wakeCore_warp, ← hw]
    exact (congrArg (fun t : State => fmFind t.warps r.key) (l1Overtake_frame s r.unit r.line got) :)
  refine ⟨w.withLanded r.op _, (congrArg (fun t : State => t.warp r.key) (modWarp_some _ _ _ _ hkept)).trans (warp_setWarp_same _ _ _),
    fun p hp hop es sink hlate => List.mem_map.2 ⟨p, hp, ?_⟩⟩
  simp only [hop, if_true, hlate]

theorem registered_slice_ne (s : State) {ln k : Nat} (core : Nat) (mask : BitVec 32) (hk : k ≠ lineHome ln) :
    (registered s ln core mask).slice k = s.slice k := State.setSlice_ne _ _ _ _ hk

theorem registered_lines (s : State) (ln core : Nat) (mask : BitVec 32) :
    ((registered s ln core mask).slice (lineHome ln)).lines = (s.slice (lineHome ln)).lines := by
  rw [registered, State.modSlice_same]

theorem registered_dir (s : State) (ln core : Nat) (mask : BitVec 32) : ((registered s ln core mask).slice (lineHome ln)).dir =
    fmPut (s.slice (lineHome ln)).dir ln { owner := core, mask := mask, stamp := (s.slice (lineHome ln)).clock } := by
  rw [registered, State.modSlice_same]

/-- The entry of a registration changes nothing of the line that is brought in then. -/
theorem registered_leaves {s t : State} {ln core : Nat} {mask : BitVec 32} {spare : List Nat} {l : SLine}
    (h : slGet (registered s ln core mask) ln spare = .ok (t, l)) :
    Leaves (registered s ln core mask) t ln (peekLine s ln).1 (peekLine s ln).2 (lineDirty s ln) l := by
  have hpeek : peekLine (registered s ln core mask) ln = peekLine s ln := by
    simp only [peekLine, registered_lines]
    rfl
  have hdirty : lineDirty (registered s ln core mask) ln = lineDirty s ln := by simp only [lineDirty, registered_lines]
  rw [← hpeek, ← hdirty]
  exact slGet_leaves h

/-- The directory entry of an homeServed registration (R258). -/
theorem dirEnt_registered {s t : State} {r : Req} {mask : BitVec 32} {spare : List Nat} {l : SLine}
    (h : slGet (registered s r.line r.unit mask) r.line spare = .ok (t, l)) :
    dirEnt (homeServed t r) r.line = some { owner := r.unit, mask := mask, stamp := (s.slice (lineHome r.line)).clock } := by
  rw [homeServed_dirEnt, dirEnt, (registered_leaves h).dir, registered_dir, fmFind_fmPut_same]

/-- Each byte of a line after a write of some of its bytes. -/
theorem mergeLine_byte (old new : Line) (m : BitVec 128) {k : Nat} (hk : k < 128) : (mergeLine old new (byteBits m)).extractLsb' (8 * k) 8 =
    if m.getLsbD k then new.extractLsb' (8 * k) 8 else old.extractLsb' (8 * k) 8 := by
  refine BitVec.eq_of_getLsbD_eq fun i hi => ?_
  have hdiv : (8 * k + i) / 8 = k := by omega
  rw [BitVec.getLsbD_extractLsb', mergeLine_getLsbD, byteBits_getLsbD _ _ (by omega), hdiv]
  split <;> simp [hi]

section QuietRequest
variable {s : State} {r : Req} (hfree : reqHeld s r = false ∧ reqPassed s r = false) (hsnap : snapsNeeding s r.line = [])
  (hdir : dirEnt s r.line = none) (hobj : objEnt s r.line = none)

section Registration
variable {g : StoreReg} (hkind : r.kind = .register g) (hmask : g.mask ≠ 0) (hpart : g.part = 0)
  (hroom : ((s.slice (lineHome r.line)).dir.filter (fun e => e.1 % 4096 = r.line % 4096)).length < 16)
  (hserves : ServesRequest (.registration r.id) s r)

include hsnap hdir hobj hkind hmask hpart hroom in
/-- A registration of words that the core holds whole enters the directory and brings the line in (R257, R258). -/
theorem applyReq_register : applyReq s r =
    (slGet (registered s r.line r.unit g.mask) r.line [r.line]).map (fun x => dequeued x.1 r.id) := by
  simp only [applyReq, hkind, hmask, hpart, if_true, if_false, homeRegister_quiet hsnap hdir hobj hroom, slTouch]
  cases slGet (registered s r.line r.unit g.mask) r.line [r.line] <;> rfl

include hfree hsnap hdir hobj hkind hmask hpart hroom hserves

/-- Its event leaves the state in which the line is brought in, less the request. -/
theorem registration_next {t : State} {l : SLine} (hget : slGet (registered s r.line r.unit g.mask) r.line [r.line] = .ok (t, l)) :
    exec (.registration r.id) s = .next (homeServed t r) :=
  hserves.applied hfree (by rw [reqLines, hkind]) (by rw [applyReq_register hsnap hdir hobj hkind hmask hpart hroom, hget]; rfl)

/-- A resident line only becomes the most recent. -/
theorem registration_resident {l : SLine} (hl : fmFind (s.slice (lineHome r.line)).lines r.line = some l) :
    ∃ t d, exec (.registration r.id) s = .next t ∧ dirEnt t r.line = some d ∧ d.owner = r.unit ∧ d.mask = g.mask ∧ t.mem = s.mem ∧
      (∀ ln, (fmFind (t.slice (lineHome r.line)).lines ln).map (fun l => (l.data, l.bad, l.sectors, l.dirty)) =
        (fmFind (s.slice (lineHome r.line)).lines ln).map (fun l => (l.data, l.bad, l.sectors, l.dirty))) ∧
      ∀ k, k ≠ lineHome r.line → t.slice k = s.slice k := by
  have hlines := registered_lines s r.line r.unit g.mask
  have hget := slGet_resident ((congrArg (fmFind · r.line) hlines).trans hl) [r.line]
  refine ⟨_, _, registration_next hfree hsnap hdir hobj hkind hmask hpart hroom hserves hget, dirEnt_registered hget, rfl, rfl,
    homeServed_mem _ _, fun ln => ?_, fun k hk => ?_⟩
  · rw [homeServed_lines, State.setSlice_same, hlines, fmFind_fmPut]
    split
    · rename_i h
      rw [h, hl]
      rfl
    · rfl
  · rw [homeServed_slice_ne _ _ hk, (registered_leaves hget).others k hk, registered_slice_ne _ _ _ hk]

/-- An absent line is filled with what second-tier memory holds, clean (R328). -/
theorem registration_absent {u : State} (hout : fmFind (s.slice (lineHome r.line)).lines r.line = none) (hu : applyReq s r = .ok u) :
    ∃ t d l, exec (.registration r.id) s = .next t ∧ dirEnt t r.line = some d ∧ d.owner = r.unit ∧ d.mask = g.mask ∧
      fmFind (t.slice (lineHome r.line)).lines r.line = some l ∧ l.data = (peekLine s r.line).1 ∧ l.dirty = false ∧
      ∀ k, k ≠ lineHome r.line → t.slice k = s.slice k := by
  rw [applyReq_register hsnap hdir hobj hkind hmask hpart hroom] at hu
  cases hget : slGet (registered s r.line r.unit g.mask) r.line [r.line] with
  | error lack =>
    rw [hget] at hu
    cases hu
  | ok x =>
    have hleaves := registered_leaves hget
    refine ⟨_, _, x.2, registration_next hfree hsnap hdir hobj hkind hmask hpart hroom hserves hget, dirEnt_registered hget, rfl, rfl,
      by rw [homeServed_lines]; exact hleaves.found, hleaves.data, hleaves.dirty.trans (by simp [lineDirty, hout]), fun k hk => ?_⟩
    rw [homeServed_slice_ne _ _ hk, hleaves.others k hk, registered_slice_ne _ _ _ hk]

end Registration

include hfree hdir hobj in
/-- A read without a fill of L1 answers its load with the line (R259). -/
theorem homeRead_results {k se cached : Bool} (hkind : r.kind = .read false k se cached) (hserves : ServesRequest (.homeRead r.id) s r)
    {s1 : State} {l : SLine} {w : Warp} (hget : slGet s r.line = .ok (s1, l)) (hw : s.warp r.key = some w) :
    l.data = (peekLine s r.line).1 ∧ ∃ t v, exec (.homeRead r.id) s = .next t ∧ t.warp r.key = some v ∧
      ∀ p ∈ w.pend, p.op = r.op → ∀ es sink, p.late = .load es sink →
        { p with
          late := .load (es.map (fun e => elemFill e r.line (peekLine s r.line).1 l.bad)) sink
          ready := max p.ready (s.cycle + 1) } ∈ v.pend := by
  have hleaves := slGet_leaves hget
  have hw1 : s1.warp r.key = some w := (congrArg (fun t : State => fmFind t.warps r.key) hleaves.rest :).trans hw
  have hcycle : s1.cycle = s.cycle := (congrArg State.cycle hleaves.rest :)
  have happly := applyReq_read hkind ((homeRead_quiet hdir hobj _).trans hget)
  obtain ⟨v, hv, hload⟩ := replyRead_load hw1 k se (if cached then readMask s r false else 0) l
  rw [hleaves.data, hcycle] at hload
  exact ⟨hleaves.data, _, v, hserves.applied hfree (by rw [reqLines, hkind]) happly,
    (congrArg (fmFind · r.key) (homeServed_warps _ _)).trans hv, hload⟩

include hsnap hdir hobj in
/-- A write leaves the line dirty in its slice, each byte the new one or the old (R333). -/
theorem sliceWrite_results {b : BitVec 128} {d : Line} (hkind : r.kind = .write b d) {t : State} (ht : applyReq s r = .ok t) :
    ∃ l, fmFind (t.slice (lineHome r.line)).lines r.line = some l ∧ l.dirty = true ∧ ∀ k, k < 128 → l.data.extractLsb' (8 * k) 8 =
      if b.getLsbD k then d.extractLsb' (8 * k) 8 else (peekLine s r.line).1.extractLsb' (8 * k) 8 := by
  obtain ⟨s1, hwrite, hslices⟩ := applyReq_write hkind ht
  obtain ⟨marks, l, hleaves⟩ := homeWrite_quiet hsnap hdir hobj hwrite
  refine ⟨l, ?_, hleaves.dirty, fun k hk => ?_⟩
  · rw [State.slice, hslices]
    exact hleaves.found
  · rw [hleaves.data]
    exact mergeLine_byte _ _ _ hk

end QuietRequest

/-- LINE_FILL of a line that a request names: it is the line that its slice brings in (R328). -/
theorem lineFill_next {s s1 : State} {line : Nat} {l : SLine} (hnamed : s.net.any (fun r => r.line = line) = true)
    (hout : fmFind (s.slice (lineHome line)).lines line = none) (hget : slGet s line = .ok (s1, l)) : exec (.lineFill line) s = .next s1 := by
  change Host.Outcome.next (if _ then _ else _) = _
  rw [if_pos (by simp [hnamed, hout]), hget]

end Sys2Proof.Machine

namespace Sys2Proof.Proofs
open Sys2Proof Sys2Proof.Machine

/-- Settles O38: a request's event is one step with four outcomes; where nothing else concerns its line, what it applies is the slice's own line. -/
theorem sliceResults : Obligations.SliceResults := by
  unfold Obligations.SliceResults
  refine ⟨fun s r hnamed hfirst htile hregion => ?requests, fun line s s1 l hnamed hout hget => ?fill⟩
  case fill =>
    have hleaves := slGet_leaves hget
    simp only [peekLine, lineDirty, hout] at hleaves
    exact ⟨lineFill_next hnamed hout hget, hleaves.found, hleaves.dirty, hleaves.data, hleaves.bad, (congrArg State.warps hleaves.rest :),
      (congrArg State.crews hleaves.rest :), (congrArg State.net hleaves.rest :)⟩
  case requests =>
    intro h now held passed free quiet shown goes
    have hnow : now = (peekLine s r.line).1 := by
      simp only [now, h, peekLine]
      cases fmFind (s.slice (lineHome r.line)).lines r.line <;> rfl
    have serves {e : Instr} {mine : ReqKind → Bool} (he : exec e s = .next (stepReq s r.id mine)) (hmine : mine r.kind = true) :
        ServesRequest e s r := servesRequest hnamed hfirst htile hregion he hmine
    refine ⟨fun g hkind => ?register, fun _ _ _ hkind => serves rfl (by rw [hkind]), fun _ _ _ _ hkind => serves rfl (by rw [hkind]),
      fun i k se cached hkind => ?read, fun b d hkind => ?write, fun _ _ _ _ hkind => serves rfl (by rw [hkind]),
      fun _ _ _ _ hkind => serves rfl (by rw [hkind]), fun _ _ _ hkind => serves rfl (by rw [hkind])⟩
    case register =>
      have hserves : ServesRequest (.registration r.id) s r := serves rfl (by rw [hkind])
      refine ⟨hserves, fun ⟨hfree, hsnap, hdir, hobj⟩ hmask hpart hroom => ⟨fun l hl => ?_, fun u hout hu => ?_⟩⟩
      · exact registration_resident hfree hsnap hdir hobj hkind hmask hpart hroom hserves hl
      · rw [hnow]
        exact registration_absent hfree hsnap hdir hobj hkind hmask hpart hroom hserves hout hu
    case read =>
      have hserves : ServesRequest (.homeRead r.id) s r := serves rfl (by rw [hkind])
      refine ⟨hserves, ?_⟩
      rintro s1 l w ⟨hfree, -, hdir, hobj⟩ rfl hget hw
      rw [hnow]
      exact homeRead_results hfree hdir hobj hkind hserves hget hw
    case write =>
      refine ⟨serves rfl (by rw [hkind]), fun ⟨_, hsnap, hdir, hobj⟩ t ht => ?_⟩
      rw [hnow]
      exact sliceWrite_results hsnap hdir hobj hkind ht

end Sys2Proof.Proofs
end

section
/-! PROOF. The instructions of the matrix array and of the copy engine: the body of each does what its rule says
(11_cluster_matrix.md R286-R296, 12_cluster_copy_gemm.md R307-R322). -/

namespace Sys2Proof.Machine

/-! ## Conditions of a rule and checks of a body -/

/-- What a rule gives behind a condition, it gives where the condition holds. -/
theorem guard_bind_some {α : Type} {p : Prop} [Decidable p] {k : Unit → Option α} {a : α} (h : (guard p >>= k) = some a) :
    p ∧ k () = some a := by
  obtain ⟨_, hp, hk⟩ := Option.bind_eq_some_iff.mp h
  exact ⟨(guard_some _ _).mp hp, hk⟩

/-- What a rule gives behind a value that it chooses between two ways to find. -/
theorem ite_bind_some {α β : Type} {p : Prop} [Decidable p] {x y : Option α} {k : α → Option β} {b : β}
    (h : (if p then x >>= k else y >>= k) = some b) : ∃ a, (if p then x else y) = some a ∧ k a = some b := by
  split_ifs at h ⊢ <;> exact Option.bind_eq_some_iff.mp h

/-- A check that finds nothing lets the instruction go on. -/
theorem check_passes {p : Prop} [Decidable p] {cause : Nat} {info : Word} {k : Res} {t : State} (hp : ¬p) (hk : k = .ok t) :
    (if p then Res.trap cause info else k) = .ok t :=
  (if_neg hp).trans hk

/-- An instruction whose record is found goes on where what follows the record does. -/
theorem withRecord_goes {c : Ctx} {s1 s2 t : State} {n : Nat} {r : Tensor} {k : State → Tensor → Res} (h : found c s1 n = some (s2, r))
    (hk : k s2 r = .ok t) : withRecord c s1 n k = .ok t := by
  rw [withRecord_found h, hk, keeping_ok]

/-- The same for a second record that only one form of the instruction has. -/
theorem foundIf_goes {b : Bool} {c : Ctx} {s1 s2 t : State} {n : Nat} {r : Tensor} {k₀ : Res} {k : State → Tensor → Res}
    (h : foundIf b c s1 n = some (s2, r)) (hwithout : b = false → s2 = s1 → r = 0 → k₀ = .ok t) (hwith : b = true → k s2 r = .ok t) :
    (if !b then k₀ else withRecord c s1 n k) = .ok t := by
  cases b with
  | false =>
    cases h
    exact hwithout rfl rfl rfl
  | true => exact withRecord_goes h (hwith rfl)

/-- A command of the sequencer past its checks waits for room in the queue. -/
theorem mxIssue_of_rule {k : MxKind} {c : Ctx} {s t : State} (ht : ruleCommand k c s = some t) : mxIssue c s k = .ok t :=
  congrArg Res.ok (Option.some.inj ht)

/-- A copy past its checks waits for room in the queue. -/
theorem cpyIssue_of_rule {k : CpyCmd} {c : Ctx} {s t : State} (ht : copyGoes c s k = some t) : cpyIssue c s k = .ok t :=
  congrArg Res.ok (Option.some.inj ht)

/-! ## MMA and MMAS (R289, R290) -/

/-- A multiplication whose records, entry and sizes pass is on its way; a legal operand is the number of its first K-block. -/
theorem mmaBody_of_rule {o : OpT} {scaled : Bool} {c : Ctx} {s1 t : State} (ht : ruleMma o scaled c s1 = some t) :
    mmaBody c s1 o scaled = .ok t := by
  obtain ⟨cr, hcr, ht⟩ := Option.bind_eq_some_iff.mp ht
  obtain ⟨⟨s2, ra⟩, ha, ht⟩ := Option.bind_eq_some_iff.mp ht
  obtain ⟨⟨s3, rb⟩, hb, ht⟩ := Option.bind_eq_some_iff.mp ht
  obtain ⟨crew, hcrew, ht⟩ := Option.bind_eq_some_iff.mp ht
  obtain ⟨e, he, ht⟩ := Option.bind_eq_some_iff.mp ht
  obtain ⟨hloaded, ht⟩ := guard_bind_some ht
  obtain ⟨⟨s4, rs⟩, hs, ht⟩ := Option.bind_eq_some_iff.mp ht
  obtain ⟨screw, hscrew, ht⟩ := Option.bind_eq_some_iff.mp ht
  obtain ⟨hscale, ht⟩ := guard_bind_some ht
  obtain ⟨hformat, ht⟩ := guard_bind_some ht
  obtain ⟨hsize, ht⟩ := guard_bind_some ht
  obtain ⟨hrows, ht⟩ := guard_bind_some ht
  obtain ⟨hsp, ht⟩ := guard_bind_some ht
  simp only [Bool.and_eq_true, decide_eq_true_eq] at hsize
  obtain ⟨⟨⟨⟨⟨hclean, hkb⟩, hm0⟩, hm⟩, hka⟩, hke⟩ := hsize
  unfold mmaBody
  rw [hcr]
  refine withRecord_goes ha (withRecord_goes hb ?_)
  extract_lets ent v kn m kb0
  simp -zeta only [hcrew, show ent = some e from he]
  refine check_passes (by simpa [imp_iff_not_or] using hloaded) ?_
  extract_lets go
  have hgo : go s4 rs screw = .ok t := by
    have hkb0 : kb0 = v.val.toNat := Nat.mod_eq_of_lt hkb
    simp only [go, hkb0, Nat.div_eq_of_lt (show v.val.toNat < 32 from hkb)]
    refine check_passes ?format (check_passes ?poison (check_passes ?bounds (check_passes ?space (mxIssue_of_rule ht))))
    case format => simpa [← or_iff_not_imp_left] using hformat
    case poison => simpa using hclean
    case bounds => simpa [v, kn, m, hm0.ne', hm, hka, hke, imp_iff_not_or] using hrows
    case space => simpa [kn, m, imp_iff_not_or] using hsp
  refine foundIf_goes hs ?plain ?scales
  case plain =>
    rintro rfl rfl rfl
    cases hscrew
    exact hgo
  case scales =>
    rintro rfl
    have hscrew : crewVia s4 cr rs = some screw := hscrew
    simp only [hscrew]
    exact (if_pos (by simpa using hscale)).trans hgo

/-! ## MDRAIN (R293) -/

/-- A drain whose records and sizes pass is on its way, with the crew of its scales where it has a record for them. -/
theorem answers_mdrain (h : Hdr) (o : OpT) (s : State) : Answers (.mdrain h o) h s (ruleMdrain o) := by
  refine answers_body (show exec (.mdrain h o) s = execMdrain h o s from rfl) rfl fun w t _ ht => ?_
  generalize issueCtx (.mdrain h o) h s w = c at ht ⊢
  generalize issued (.mdrain h o) h s w = s1 at ht ⊢
  obtain ⟨cr, hcr, ht⟩ := Option.bind_eq_some_iff.mp ht
  obtain ⟨⟨s2, rd⟩, hd, ht⟩ := Option.bind_eq_some_iff.mp ht
  obtain ⟨crew, hcrew, ht⟩ := Option.bind_eq_some_iff.mp ht
  obtain ⟨⟨s3, rs⟩, hs, ht⟩ := Option.bind_eq_some_iff.mp ht
  obtain ⟨screw, hscrew, ht⟩ := ite_bind_some ht
  obtain ⟨hformat, ht⟩ := guard_bind_some ht
  obtain ⟨hsize, ht⟩ := guard_bind_some ht
  obtain ⟨hrows, ht⟩ := guard_bind_some ht
  obtain ⟨hsp, ht⟩ := guard_bind_some ht
  obtain ⟨haligned, ht⟩ := guard_bind_some ht
  simp only [Bool.and_eq_true, decide_eq_true_eq] at hsize
  obtain ⟨⟨⟨⟨⟨⟨hclean, hv⟩, hcols0⟩, hcols⟩, hrows0⟩, hrows256⟩, hlast⟩ := hsize
  rw [hcr]
  refine withRecord_goes hd ?_
  extract_lets f cols rows go
  rw [hcrew]
  have hgo : go s3 rs screw crew = .ok t := by
    simp only [go, Nat.div_eq_of_lt hv]
    refine check_passes ?format (check_passes ?poison (check_passes ?bounds (check_passes ?space
      (check_passes ?align (mxIssue_of_rule ht)))))
    case format => simpa [f, cols, imp_iff_not_or, and_assoc, or_assoc] using hformat
    case poison => simpa using hclean
    case bounds =>
      simpa [-Nat.reducePow, f, cols, rows, hcols0.ne', hcols, hrows0.ne', hrows256, hlast, imp_iff_not_or] using hrows
    case space => simpa [f, cols, rows, imp_iff_not_or, and_assoc] using hsp
    case align => simpa using haligned
  refine foundIf_goes hs ?plain ?scales
  case plain =>
    intro hbs
    rintro rfl rfl
    rw [hbs] at hscrew
    cases hscrew
    exact hgo
  case scales =>
    intro hbs
    rw [hbs] at hscrew
    have hscrew : tileCrew s3 cr rs = some screw := hscrew
    simp only [hscrew]
    exact hgo

/-! ## WLOAD (R287) -/

/-- A load of the codebook goes by the address of its table; one of weights by its record, the record of its scales where it has one, its sizes,
and the room that the directory will have. -/
theorem answers_wload (h : Hdr) (o : OpT) (s : State) : Answers (.wload h o) h s (ruleWload o) := by
  refine answers_body (show exec (.wload h o) s = execWload h o s from rfl) rfl fun w t _ ht => ?_
  generalize issueCtx (.wload h o) h s w = c at ht ⊢
  generalize issued (.wload h o) h s w = s1 at ht ⊢
  obtain ⟨⟨s2, r⟩, hr, ht⟩ := Option.bind_eq_some_iff.mp ht
  refine withRecord_goes hr ?_
  cases hcb : o.x.getLsbD 1 with
  | true =>
    simp only [hcb, if_true] at ht
    obtain ⟨a, ha, ht⟩ := Option.bind_eq_some_iff.mp ht
    simp only [if_true, addressed_some ha]
    exact mxIssue_of_rule ht
  | false =>
    simp only [hcb, Bool.false_eq_true, if_false] at ht
    obtain ⟨hweights, ht⟩ := guard_bind_some ht
    obtain ⟨⟨s3, q⟩, hq, ht⟩ := Option.bind_eq_some_iff.mp ht
    obtain ⟨hscale, ht⟩ := guard_bind_some ht
    obtain ⟨hsize, ht⟩ := guard_bind_some ht
    obtain ⟨hrows, ht⟩ := guard_bind_some ht
    obtain ⟨hglobal, ht⟩ := guard_bind_some ht
    obtain ⟨hroom, ht⟩ := guard_bind_some ht
    obtain ⟨haligned, ht⟩ := guard_bind_some ht
    simp only [Bool.and_eq_true, decide_eq_true_eq, Bool.not_eq_true'] at hsize hroom hrows hglobal
    obtain ⟨⟨⟨⟨⟨⟨⟨hclean, hoff⟩, hk32⟩, hk0⟩, hk⟩, hn0⟩, hn⟩, hpacked⟩ := hsize
    obtain ⟨hend, hdir⟩ := hroom
    obtain ⟨hfit, hscfit⟩ := hrows
    obtain ⟨hva, hscva⟩ := hglobal
    extract_lets k n off go
    have hgo : go s3 (if o.x.getLsbD 0 then some q else none) = .ok t := by
      have hoff' : off = (c.val o.o2 0).val.toNat := Nat.mod_eq_of_lt hoff
      simp only [go, hoff', Nat.div_eq_of_lt hoff]
      refine check_passes ?poison (check_passes ?bounds (check_passes ?align (mxIssue_of_rule ht)))
      case poison => simpa using hclean
      case bounds =>
        cases hx : o.x.getLsbD 0 with
        | false =>
          simp only [hx, Bool.false_eq_true, if_false, Option.isSome_none] at hend hdir
          simpa [-Nat.reducePow, k, n, hk32, hk0, hk, hn0.ne', hn, hfit, hva, hend, hdir, imp_iff_not_or] using hpacked
        | true =>
          simp only [hx, if_true, Option.isSome_some, Bool.true_and, decide_eq_false_iff_not, not_lt] at hend hdir hscfit hscva
          simpa [-Nat.reducePow, k, n, hk32, hk0, hk, hn0.ne', hn, hfit, hva, hend, hdir, hscfit, hscva, imp_iff_not_or] using hpacked
      case align => simpa using haligned
    refine check_passes (by simpa using hweights) (foundIf_goes hq ?plain ?scales)
    case plain =>
      intro hx
      rintro rfl rfl
      rw [hx] at hgo
      exact hgo
    case scales =>
      intro hx
      rw [hx] at hgo hscale
      exact (if_pos (by simpa using hscale)).trans hgo

/-! ## CPY, CPYT and CVTTAB (R307-R314, R321) -/

/-- A copy past the checks of R314 is on its way as the command that its rule makes of the operands. -/
theorem cpyBody_of_rule {o : OpT} {rect : Bool} {c : Ctx} {s1 t : State} (ht : ruleCopy o rect c s1 = some t) :
    cpyBody c s1 o rect = .ok t := by
  obtain ⟨cr, hcr, ht⟩ := Option.bind_eq_some_iff.mp ht
  obtain ⟨hcalm, ht⟩ := guard_bind_some ht
  obtain ⟨⟨s2, rd⟩, hd, ht⟩ := Option.bind_eq_some_iff.mp ht
  obtain ⟨⟨s3, rs⟩, hs, ht⟩ := Option.bind_eq_some_iff.mp ht
  unfold cpyBody
  rw [hcr]
  refine (protGuard_calm hcalm).trans (withRecord_goes hd (withRecord_goes hs ?_))
  dsimp -zeta only at ht ⊢
  extract_lets l a b0 b1 len noarr so dst src fields sized acrew cmd classes counted at ht
  extract_lets va a' noarr' acr dcrew' acrew' fields' len' sized' cmd'
  have hcmd : cmd' = cmd := rfl
  clear_value cmd'
  subst hcmd
  obtain ⟨hclass, ht⟩ := guard_bind_some ht
  obtain ⟨hformat, ht⟩ := guard_bind_some ht
  obtain ⟨hclean, ht⟩ := guard_bind_some ht
  obtain ⟨hfits, ht⟩ := guard_bind_some ht
  obtain ⟨hsp, ht⟩ := guard_bind_some ht
  obtain ⟨haligned, ht⟩ := guard_bind_some ht
  obtain ⟨hopen, ht⟩ := guard_bind_some ht
  obtain ⟨hclassD, hclassS⟩ := (Bool.and_eq_true _ _).mp hclass
  refine check_passes (by simpa using hclassD) (check_passes (by simpa using hclassS) (check_passes ?format (check_passes ?poison
    (check_passes ?bounds (check_passes ?space (check_passes ?align (check_passes ?sealed (cpyIssue_of_rule ht))))))))
  case format => simpa [-Nat.reducePow, imp_iff_not_or, and_assoc, or_assoc] using hformat
  case poison => simpa [and_assoc] using hclean
  case bounds => simpa using hfits
  case space =>
    simp only [Bool.and_eq_true, Bool.not_eq_true'] at hsp
    obtain ⟨⟨hcounted, hdst⟩, hsrc⟩ := hsp
    simp only [hdst, hsrc, Bool.or_false]
    cases harr : cmd.arr with
    | none => simp
    | some word =>
      simp only [counted, harr] at hcounted
      cases hk : s3.crew word.1 with
      | none => simp [hk] at hcounted
      | some u => simpa [hk] using hcounted
  case align => simpa [imp_iff_not_or] using haligned
  case sealed => simpa using hopen

/-- A table whose address passes is on its way. -/
theorem answers_cvttab (h : Hdr) (o : OpM) (s : State) : Answers (.cvttab h o) h s (ruleCvttab o) := by
  refine answers_body (show exec (.cvttab h o) s = execCvttab h o s from rfl) rfl fun w t _ ht => ?_
  obtain ⟨⟨s2, r⟩, hr, ht⟩ := Option.bind_eq_some_iff.mp ht
  obtain ⟨cr, hcr, ht⟩ := Option.bind_eq_some_iff.mp ht
  obtain ⟨a, ha, ht⟩ := Option.bind_eq_some_iff.mp ht
  refine withRecord_goes hr ?_
  simp only [hcr, addressed_some ha]
  exact cpyIssue_of_rule ht

end Sys2Proof.Machine

namespace Sys2Proof.Proofs
open Sys2Proof Sys2Proof.Machine

/-- Settles O29: MMA, MMAS, MDRAIN, WLOAD and the copies go where their checks pass; the others check nothing. -/
theorem clusterResults : Obligations.ClusterResults := by
  unfold Obligations.ClusterResults
  intro h t o r q s cluster
  refine ⟨?mma, ?mmas, ?mzero, answers_mdrain h t s, answers_wload h t s, ?winv, ?mcfg, ?mstat, ?mwait, ?mstepRd, ?mstepHalt, ?mstepGo,
    ?cpy, ?cpyt, answers_cvttab h o s, ?cpystat⟩
  case mma => exact answers_body (show exec (.mma h t) s = execMma h t s from rfl) rfl fun _ _ _ => mmaBody_of_rule
  case mmas => exact answers_body (show exec (.mmas h t) s = execMmas h t s from rfl) rfl fun _ _ _ => mmaBody_of_rule
  case mzero => exact answers_always (show exec (.mzero h r) s = execMzero h r s from rfl) rfl
  case winv => exact answers_always (show exec (.winv h o) s = execWinv h o s from rfl) rfl
  case mcfg => exact answers_always (show exec (.mcfg h q) s = execMcfg h q s from rfl) rfl
  case mstat => exact answers_always (show exec (.mstat h r) s = execMstat h r s from rfl) rfl
  case mwait => exact answers_always (show exec (.mwait h r) s = execMwait h r s from rfl) rfl
  case mstepRd => exact answers_always (show exec (.mstepRd h r) s = execMstepRd h r s from rfl) rfl
  case mstepHalt => exact answers_always (show exec (.mstepHalt h r) s = execMstepHalt h r s from rfl) rfl
  case mstepGo => exact answers_always (show exec (.mstepGo h r) s = execMstepGo h r s from rfl) rfl
  case cpy => exact answers_body (show exec (.cpy h t) s = execCpy h t s from rfl) rfl fun _ _ _ => cpyBody_of_rule
  case cpyt => exact answers_body (show exec (.cpyt h t) s = execCpyt h t s from rfl) rfl fun _ _ _ => cpyBody_of_rule
  case cpystat => exact answers_always (show exec (.cpystat h r) s = execCpystat h r s from rfl) rfl

end Sys2Proof.Proofs
end

section
/-! PROOF. A frozen package whose clocks have stopped: no warp issues, no line is fetched, and no turn but a reset or an unlock changes
anything (18_device.md R469). -/

namespace Sys2Proof.Machine

/-! ## Nothing issues while the package is frozen (R469) -/

section Frozen
variable {s : State} (hf : s.pkg.frozen = true)
include hf

theorem secondSlot_frozen (w : Warp) : secondSlot s w = none := by
  unfold secondSlot
  cases w.pairNext with
  | none => rfl
  | some p => simp [hf]

theorem secondWarp_frozen : secondWarp s = none := by
  simp [secondWarp, secondSlot_frozen hf]

theorem warpRuns_frozen (key : Nat) (w : Warp) (c : Crew) : warpRuns s key w c = false := by
  simp [warpRuns, hf]

theorem eligible_frozen (key : Nat) : eligible s key = false := by
  unfold eligible
  cases s.warp key with
  | none => rfl
  | some w => cases hc : s.crewSeen w.crew <;> simp [hc, warpRuns_frozen hf]

theorem chosen_frozen (q : Nat) : chosen s q = none := by
  cases h : chosen s q with
  | none => rfl
  | some key => exact absurd (chosen_eligible h) (by simp [eligible_frozen hf])

theorem nextIssue_frozen : nextIssue s = none := by
  simp [nextIssue, secondWarp_frozen hf, chosen_frozen hf]

theorem mayIssue_frozen (key : Nat) : mayIssue s key = false := by
  simp [mayIssue, secondWarp_frozen hf, chosen_frozen hf]

theorem needsLine_frozen (key : Nat) (w : Warp) : needsLine s key w = false := by
  unfold needsLine
  cases hc : s.crewSeen w.crew <;> simp [hf]

theorem nextOf_frozen : nextOf s = .tick := by
  have hfetch : s.warps.find? (fun e => needsLine s e.1 e.2) = none := List.find?_eq_none.2 fun e _ => by simp [needsLine_frozen hf]
  simp only [nextOf, secondWarp_frozen hf, hfetch, nextIssue_frozen hf]

/-! ## Turns and steps of a package whose clocks have stopped (R469) -/

theorem tick_stopped (hstop : allStopped s = true) (run : Run) : tick run s = .next s := by
  simp [tick, frozenTick, hf, hstop]

/-- A turn that asks for no reset and no unlock changes nothing. -/
theorem runTurn_stopped (hstop : allStopped s = true) (run : Run) {t : Turn} (ht : ∀ e, t = .event e → whileFrozen e = false) :
    runTurn run s t = .next s := by
  cases t with
  | tick => exact tick_stopped hf hstop run
  | issue key => simp [runTurn, mayIssue_frozen hf]
  | event e => simp [runTurn, hf, ht e rfl]
  | table t => simp [runTurn, replaceTable, hf]
  | upset u => simp [runTurn, applyUpset, hf]
  | endContext ctx => simp [runTurn, endContext, hf]
  | windowRead offset => simp [runTurn, readWindow, hf]
  | badFrame frame => simp [runTurn, appendBadFrame, hf]

/-- A step takes a turn off the agenda, where one is left, and changes nothing else. -/
theorem step_stopped (hstop : allStopped s = true) (hasks : ∀ e, .event e ∈ s.agenda → whileFrozen e = false) :
    step s = .next { s with agenda := s.agenda.tail } := by
  cases ha : s.agenda with
  | nil =>
    have hown : step s = tick exec s := by simp [step, stepWith, secondWarp_frozen hf, ha, nextOf_frozen hf]
    rw [hown, tick_stopped hf hstop, List.tail_nil, ← ha]
  | cons t rest =>
    have hturn : step s = runTurn exec { s with agenda := rest } t := by
      simp [step, stepWith, secondWarp_frozen hf, ha, nextIssue_frozen hf]
    rw [hturn, List.tail_cons]
    exact runTurn_stopped (s := { s with agenda := rest }) hf hstop exec fun e he => hasks e (by rw [ha, he]; exact List.mem_cons_self)

end Frozen

/-- Once as many cycles have passed since the edge as the slowest clock may take, every clock has stopped. -/
theorem allStopped_after {s : State} {t0 n : Nat} (hedge : s.pkg.edge = some t0) (hstops : ∀ m ∈ s.pkg.stops, m ≤ n) (hcycle : t0 + n ≤ s.cycle) :
    allStopped s = true := by
  simp only [allStopped, hedge, List.all_eq_true, decide_eq_true_eq]
  intro m hm
  have := hstops m hm
  omega

end Sys2Proof.Machine

namespace Sys2Proof.Proofs
open Sys2Proof Sys2Proof.Machine

/-- Settles O60: a step of a frozen package whose clocks have stopped takes at most a turn off the agenda. -/
theorem frozenStays : Obligations.FrozenStays := by
  unfold Obligations.FrozenStays
  refine ⟨fun s t0 hedge hstops hcycle => allStopped_after hedge hstops hcycle, ?_⟩
  intro s0 s t hf hstop hsame hasks hstep
  obtain rfl : { s with agenda := s.agenda.tail } = t := Host.Outcome.next.inj ((step_stopped hf hstop hasks).symm.trans hstep)
  exact ⟨hf, hstop, hsame, fun e he => hasks e (List.mem_of_mem_tail he)⟩

end Sys2Proof.Proofs
end

section
/-! PROOF. Tiles, seals, snapshots, cache counters and fitted regions: the body of each instruction does what its rule says
(13_die_cache.md R339-R351, 14_die_tiles.md R354-R360, 15_die_fitted.md R398-R401). -/

namespace Sys2Proof.Machine

/-! ## SEAL and UNSEAL (R342-R344) -/

theorem sealRange_some {c : Ctx} {r : Tensor} {n : Nat} {x : Nat × Nat} (h : sealRange c r n = some x) : sealRec c r n = .ok x := by
  unfold sealRange at h
  cases hr : sealRec c r n <;> simp_all

theorem answers_seal (h : Hdr) (o : OpM) (s : State) : Answers (.seal h o) h s (ruleSeal o) := by
  refine answers_body (show exec (.seal h o) s = execSeal h o s from rfl) rfl fun w t _ ht => ?_
  obtain ⟨hcalm, ht⟩ := guard_bind_some ht
  obtain ⟨⟨s2, r⟩, hr, ht⟩ := Option.bind_eq_some_iff.mp ht
  obtain ⟨⟨base, len⟩, hrange, ht⟩ := Option.bind_eq_some_iff.mp ht
  refine (protGuard_calm hcalm).trans (withRecord_goes hr ?_)
  rw [sealRange_some hrange]
  exact congrArg Res.ok (Option.some.inj ht)

theorem answers_unseal (h : Hdr) (o : OpM) (s : State) : Answers (.unseal h o) h s (ruleUnseal o) := by
  refine answers_body (show exec (.unseal h o) s = execUnseal h o s from rfl) rfl fun w t _ ht => ?_
  obtain ⟨hcalm, ht⟩ := guard_bind_some ht
  obtain ⟨⟨s2, r⟩, hr, ht⟩ := Option.bind_eq_some_iff.mp ht
  obtain ⟨⟨base, len⟩, hrange, ht⟩ := Option.bind_eq_some_iff.mp ht
  refine (protGuard_calm hcalm).trans (withRecord_goes hr ?_)
  rw [sealRange_some hrange]
  exact congrArg Res.ok (Option.some.inj ht)

/-! ## SNAP and SNAPWAIT (R347, R351) -/

theorem answers_snap (h : Hdr) (o : OpM) (s : State) : Answers (.snap h o) h s (ruleSnap o) := by
  refine answers_body (show exec (.snap h o) s = execSnap h o s from rfl) rfl fun w t _ ht => ?_
  refine Eq.trans (protGuard_calm (guard_bind_some ht).1) ?_
  extract_lets l v a hs hd arr noarr
  have hv : lowVal (issueCtx (.snap h o) h s w) o.o2 = v := rfl
  have ha : v.val.toNat = a := rfl
  have harrow : a / 4096 % 2 ^ 20 = arr := rfl
  have hnoarr : a.testBit 32 = noarr := rfl
  unfold ruleSnap at ht
  simp only [hv, ha, harrow, hnoarr] at ht
  obtain ⟨-, ht⟩ := guard_bind_some ht
  obtain ⟨cr, hcr, ht⟩ := Option.bind_eq_some_iff.mp ht
  obtain ⟨⟨s2, r⟩, hr, ht⟩ := Option.bind_eq_some_iff.mp ht
  obtain ⟨hsource, ht⟩ := guard_bind_some ht
  obtain ⟨⟨s3, d⟩, hdest, ht⟩ := Option.bind_eq_some_iff.mp ht
  obtain ⟨hshape, ht⟩ := guard_bind_some ht
  obtain ⟨hapart, ht⟩ := guard_bind_some ht
  obtain ⟨hrange, ht⟩ := guard_bind_some ht
  obtain ⟨hfits, ht⟩ := guard_bind_some ht
  obtain ⟨haligned, ht⟩ := guard_bind_some ht
  obtain ⟨hopen, ht⟩ := guard_bind_some ht
  rw [hcr]
  refine withRecord_goes hr ?_
  simp only [Bool.and_eq_true, decide_eq_true_eq] at hsource
  obtain ⟨⟨⟨⟨hvalid, hclass⟩, hcoh⟩, hsnap⟩, hhandle⟩ := hsource
  simp only [Bool.and_eq_true, decide_eq_true_eq] at hshape hfits
  obtain ⟨⟨⟨hvalidD, hclassD⟩, hheader⟩, harr⟩ := hshape
  obtain ⟨⟨hclean, hlong⟩, hspace⟩ := hfits
  refine check_passes ?source (check_passes (Nat.not_le.mpr hhandle) (withRecord_goes hdest ?_))
  case source => simpa [hvalid, hcoh, hsnap, imp_iff_not_or, or_assoc] using hclass
  extract_lets overlap
  refine check_passes ?dest (check_passes ?shape (check_passes ?poison (check_passes ?bounds (check_passes ?space (check_passes ?align
    (check_passes ?sealed ?_))))))
  case dest => simp [hvalidD, hclassD]
  case shape => simpa [-Nat.reducePow, show a / 2 ^ 33 = 0 from hheader, overlap, imp_iff_not_or] using And.intro harr hapart
  case poison => exact (by simpa using hclean : ¬(v.poi != 0) = true)
  case bounds => simpa [-Nat.reducePow, hlong, imp_iff_not_or] using hrange
  case space => simpa [imp_iff_not_or] using hspace
  case align => simpa [and_assoc] using haligned
  case sealed => simpa using hopen
  exact congrArg Res.ok (Option.some.inj ht)

/-- The one value of a register result, put into a result that was still to be filled. -/
theorem oneReg_eq (c : Ctx) (b : Byte) (v : Word) :
    oneReg c b v = (regWr c.w b c.exec (fun _ => Lane.zero)).map (fun r => { r with row := mkRow (fun _ => ⟨v, 0⟩) }) := by
  unfold oneReg regWr
  split <;> rfl

/-- SNAPWAIT's word is that of its id as it stands; only the .t form acts on it at once. -/
theorem answers_snapwait (h : Hdr) (o : OpI) (s : State) : Answers (.snapwait h o) h s (ruleSnapwait o) := by
  refine answers_body (show exec (.snapwait h o) s = execSnapwait h o s from rfl) rfl fun w t _ ht => ?_
  obtain ⟨hcalm, ht⟩ := guard_bind_some ht
  obtain ⟨hid, ht⟩ := guard_bind_some ht
  simp only [Bool.and_eq_true, decide_eq_true_eq] at hid
  obtain ⟨hclean, hid⟩ := hid
  refine (protGuard_calm hcalm).trans (check_passes (by simpa [lowVal] using hclean) (check_passes (Nat.not_le.mpr hid) ?_))
  rw [← Option.some.inj ht, apply_ite Res.ok, oneReg_eq]
  rfl

/-! ## LLCSTAT (R339) -/

theorem answers_llcstat (h : Hdr) (o : OpR) (s : State) : Answers (.llcstat h o) h s (ruleLlcstat o) := by
  refine answers_body (show exec (.llcstat h o) s = execLlcstat h o s from rfl) rfl fun w t _ ht => ?_
  obtain ⟨hcalm, ht⟩ := guard_bind_some ht
  obtain ⟨hclean, ht⟩ := guard_bind_some ht
  obtain ⟨hscope, ht⟩ := guard_bind_some ht
  unfold lowVal at hclean hscope
  refine (protGuard_calm hcalm).trans (check_passes ?poison (check_passes ?bounds (congrArg Res.ok (Option.some.inj ht))))
  case poison => simpa [imp_iff_not_or] using hclean
  case bounds => simpa [imp_iff_not_or] using hscope

/-! ## Regions (R398-R401) -/

/-- A region's block that is read goes to what follows. -/
theorem withBlock_read {c : Ctx} {s s1 : State} {r : Tensor} {b : Nat} {bad : Bool} (h : blockRead c s r = some (s1, b, bad))
    (k : State → Nat → Bool → Res) : withBlock c s c.cregs r k = k s1 b bad := by
  unfold blockRead issueEnv at h
  unfold withBlock
  cases hb : vmRdWords ⟨c.unit, c.cregs, .fetch c.key c.cur.pc⟩ 256 s (regPblk r) with
  | error v => simp [hb] at h
  | ok x =>
    obtain ⟨rfl, rfl, rfl⟩ : x.1 = s1 ∧ x.2.1 = b ∧ x.2.2.contains 0 = bad := by simpa [hb] using h
    simp only [hb]

/-- An instruction whose region is fitted goes on where what follows the record does. -/
theorem fittedRec_goes {c : Ctx} {s1 s3 t : State} {n : Nat} {r : Tensor} {bad : Bool} {k : State → Tensor → Bool → Res}
    (h : fittedFound c s1 n = some (s3, r, bad)) (hk : k s3 r bad = .ok t) : fittedRec c s1 n k = .ok t := by
  obtain ⟨⟨s2, r'⟩, hr, h⟩ := Option.bind_eq_some_iff.mp h
  obtain ⟨hrec, h⟩ := guard_bind_some h
  obtain ⟨⟨s4, b, bad'⟩, hb, h⟩ := Option.bind_eq_some_iff.mp h
  obtain ⟨hinit, h⟩ := guard_bind_some h
  obtain ⟨rfl, rfl, rfl⟩ : s4 = s3 ∧ r' = r ∧ bad' = bad := by simpa using h
  refine withRecord_goes hr (check_passes ?_ ?_)
  · simpa [imp_iff_not_or] using hrec
  · rw [withBlock_read hb]
    exact check_passes (by simpa using hinit) hk

theorem answers_frfit (h : Hdr) (o : OpM) (s : State) : Answers (.frfit h o) h s (ruleFrfit o) := by
  refine answers_body (show exec (.frfit h o) s = execFrfit h o s from rfl) rfl fun w t _ ht => ?_
  obtain ⟨⟨s2, r, bad⟩, hr, ht⟩ := Option.bind_eq_some_iff.mp ht
  exact fittedRec_goes hr (congrArg Res.ok (Option.some.inj ht))

theorem answers_frstat (h : Hdr) (o : OpM) (s : State) : Answers (.frstat h o) h s (ruleFrstat o) := by
  refine answers_body (show exec (.frstat h o) s = execFrstat h o s from rfl) rfl fun w t _ ht => ?_
  obtain ⟨⟨s2, r, bad⟩, hr, ht⟩ := Option.bind_eq_some_iff.mp ht
  refine fittedRec_goes hr ?_
  extract_lets e
  have he : issueEnv (issueCtx (.frstat h o) h s w) = e := rfl
  simp only [he] at ht
  cases hst : regionStatus e s2 (issueCtx (.frstat h o) h s w).ctxId o.hnd.toNat with
  | error v => simp [hst] at ht
  | ok x =>
    simp only [hst] at ht
    exact congrArg Res.ok (Option.some.inj ht)

theorem answers_frinit (h : Hdr) (o : OpM) (s : State) : Answers (.frinit h o) h s (ruleFrinit o) := by
  refine answers_body (show exec (.frinit h o) s = execFrinit h o s from rfl) rfl fun w t _ ht => ?_
  extract_lets hr l v src
  have hv : lowVal (issueCtx (.frinit h o) h s w) o.o2 = v := rfl
  unfold ruleFrinit at ht
  simp only [hv] at ht
  obtain ⟨⟨s2, r⟩, hrec, ht⟩ := Option.bind_eq_some_iff.mp ht
  obtain ⟨hregion, ht⟩ := guard_bind_some ht
  simp only [Bool.and_eq_true, decide_eq_true_eq] at hregion
  obtain ⟨⟨⟨hclass, hvalid⟩, hlow⟩, hhandle⟩ := hregion
  have hsrc : src = v.val.toNat := Nat.mod_eq_of_lt hlow
  obtain ⟨⟨s3, q⟩, hsource, ht⟩ := Option.bind_eq_some_iff.mp ht
  obtain ⟨hvalidQ, ht⟩ := guard_bind_some ht
  obtain ⟨⟨s4, b, bad⟩, hblock, ht⟩ := Option.bind_eq_some_iff.mp ht
  obtain ⟨hfits, ht⟩ := guard_bind_some ht
  obtain ⟨hlegal, ht⟩ := guard_bind_some ht
  obtain ⟨haligned, ht⟩ := guard_bind_some ht
  rw [hsrc]
  refine withRecord_goes hrec (check_passes ?record (check_passes ?shape (check_passes (Nat.not_le.mpr hhandle) (withRecord_goes hsource ?_))))
  case record => simp [hclass, hvalid]
  case shape => simpa using hlow
  extract_lets fits
  simp only [Bool.and_eq_true, decide_eq_true_eq] at hfits hlegal
  obtain ⟨⟨⟨hclassQ, hformatQ⟩, hbias⟩, hclean⟩ := hfits
  obtain ⟨⟨hblk, hextent⟩, hhalf⟩ := hlegal
  have hfits : fits = true := by simp [fits, hclassQ, hformatQ]
  refine check_passes (by simp [hvalidQ]) ?_
  rw [withBlock_read hblock]
  extract_lets arena hsz
  refine check_passes ?source (check_passes ?poison (check_passes ?bounds (check_passes ?align (congrArg Res.ok (Option.some.inj ht)))))
  case source => simpa [hfits, imp_iff_not_or] using hbias
  case poison => simpa using hclean
  case bounds => simpa [hblk, hextent, imp_iff_not_or, arena, hsz] using hhalf
  case align => simpa using haligned

/-! ## LDT and STT (R356, R360) -/

/-- A tile past the checks of R360, none of whose pages is parked, enters with its elements translated. -/
theorem tileBody_of_rule {o : OpT} {store : Bool} {c : Ctx} {s1 t : State} (ht : ruleTile o store c s1 = some t) :
    tileBody c s1 o store = .ok t := by
  obtain ⟨cr, hcr, ht⟩ := Option.bind_eq_some_iff.mp ht
  obtain ⟨hcalm, ht⟩ := guard_bind_some ht
  obtain ⟨⟨s2, rm⟩, hm, ht⟩ := Option.bind_eq_some_iff.mp ht
  obtain ⟨⟨s3, rs⟩, hs, ht⟩ := Option.bind_eq_some_iff.mp ht
  unfold tileBody
  rw [hcr]
  refine (protGuard_calm hcalm).trans (withRecord_goes hm (withRecord_goes hs ?_))
  dsimp -zeta only at ht ⊢
  extract_lets l es i0 j0 p0 q0 rows cols off spOff inside g real outs spBase els asid at ht
  obtain ⟨hrecM, ht⟩ := guard_bind_some ht
  obtain ⟨hrecS, ht⟩ := guard_bind_some ht
  obtain ⟨target, htarget, ht⟩ := Option.bind_eq_some_iff.mp ht
  obtain ⟨hformat, ht⟩ := guard_bind_some ht
  obtain ⟨hclean, ht⟩ := guard_bind_some ht
  obtain ⟨hsize, ht⟩ := guard_bind_some ht
  obtain ⟨hinside, ht⟩ := guard_bind_some ht
  obtain ⟨hextent, ht⟩ := guard_bind_some ht
  extract_lets fits tile at ht
  obtain ⟨hspace, ht⟩ := guard_bind_some ht
  obtain ⟨haligned, ht⟩ := guard_bind_some ht
  obtain ⟨hopen, ht⟩ := guard_bind_some ht
  obtain ⟨hpages, ht⟩ := guard_bind_some ht
  simp only [Bool.and_eq_true, decide_eq_true_eq] at hrecM hrecS hformat hclean hsize haligned hopen
  rw [htarget]
  extract_lets +onlyGivenNames a b
  dsimp -zeta only [a, b]
  extract_lets target' va0 hint tile' slots park
  refine check_passes ?recM (check_passes ?recS (check_passes ?format (check_passes ?poison (check_passes ?size ?_))))
  case recM => simpa [hrecM.1.1, imp_iff_not_or] using And.intro hrecM.1.2 hrecM.2
  case recS => simp [hrecS.1, hrecS.2]
  case format => simpa using hformat
  case poison => simpa using hclean
  case size => simpa using hsize
  refine check_passes ?bounds (check_passes ?space (check_passes ?align (check_passes ?sealed (check_passes ?window ?_))))
  case bounds => simpa [imp_iff_not_or, and_assoc] using And.intro hinside hextent
  case space =>
    simp only [target', Option.getD_some]
    cases hk : s3.crew target with
    | none => simp
    | some k => simpa [fits, hk] using hspace
  case align => simpa [va0, and_assoc] using haligned
  case sealed => simpa [imp_iff_not_or] using hopen.1
  case window => simpa using hopen.2
  have htile : tile' = tile := rfl
  clear_value tile'
  subst htile
  refine (if_neg (by simpa using hpages)).trans ?_
  cases htr : tileTranslate s3 cr.cregs tile with
  | error v => simp [htr] at ht
  | ok x =>
    simp only [htr] at ht ⊢
    split_ifs at ht ⊢
    exact congrArg Res.ok (Option.some.inj ht)

end Sys2Proof.Machine

namespace Sys2Proof.Proofs
open Sys2Proof Sys2Proof.Machine

/-- Settles O28: each instruction goes where the conditions of its rule hold. -/
theorem dieResults : Obligations.DieResults := by
  unfold Obligations.DieResults
  intro h t o r q s
  exact ⟨answers_body (show exec (.ldt h t) s = execLdt h t s from rfl) rfl fun _ _ _ => tileBody_of_rule,
    answers_body (show exec (.stt h t) s = execStt h t s from rfl) rfl fun _ _ _ => tileBody_of_rule,
    answers_seal h o s, answers_unseal h o s, answers_snap h o s, answers_snapwait h q s, answers_llcstat h r s, answers_frfit h o s,
    answers_frstat h o s, answers_frinit h o s⟩

end Sys2Proof.Proofs
end

section
/-! PROOF. The fabric, LAUNCH, shootdown and pre-emption: the body of each instruction does what its rule says
(16_package.md R416-R438, 17_fabric.md R449-R462). -/

namespace Sys2Proof.Machine

/-! ## FSTORE, FLOAD and FRED (R449, R459) -/

/-- A fabric command past the checks of R449 is on its way. -/
theorem fabBody_of_rule {o : OpT} {load : Bool} {c : Ctx} {s1 t : State} (ht : ruleFabric o load c s1 = some t) :
    fabBody c s1 o load = .ok t := by
  obtain ⟨cr, hcr, ht⟩ := Option.bind_eq_some_iff.mp ht
  obtain ⟨hcalm, ht⟩ := guard_bind_some ht
  obtain ⟨⟨s2, rr⟩, hrr, ht⟩ := Option.bind_eq_some_iff.mp ht
  obtain ⟨⟨s3, rl⟩, hrl, ht⟩ := Option.bind_eq_some_iff.mp ht
  unfold fabBody
  rw [hcr]
  refine (protGuard_calm hcalm).trans (withRecord_goes hrr (withRecord_goes hrl ?_))
  dsimp -zeta only at ht ⊢
  extract_lets l a len arr noarr so dO ro lo rva at ht
  extract_lets +onlyGivenNames va
  dsimp -zeta only [va]
  extract_lets lcrew
  generalize peerEntry s3 cr.cregs (fabSlot rva) = peer at ht ⊢
  obtain ⟨s4, valid, n⟩ := peer
  dsimp -zeta only at ht ⊢
  obtain ⟨hremote, ht⟩ := guard_bind_some ht
  obtain ⟨hheader, ht⟩ := guard_bind_some ht
  obtain ⟨hclean, ht⟩ := guard_bind_some ht
  obtain ⟨hsize, ht⟩ := guard_bind_some ht
  obtain ⟨hspace, ht⟩ := guard_bind_some ht
  obtain ⟨haligned, ht⟩ := guard_bind_some ht
  obtain ⟨hopen, ht⟩ := guard_bind_some ht
  simp only [Bool.and_eq_true, decide_eq_true_eq] at hremote
  refine check_passes ?remote (check_passes ?near (check_passes ?header (check_passes ?poison (check_passes ?bounds (check_passes ?space
    (check_passes ?align (check_passes ?sealed (congrArg Res.ok (Option.some.inj ht)))))))))
  case remote => simpa using hremote.1
  case near => simp [hremote.2]
  case header =>
    cases load with
    | false => simpa [-Nat.reducePow] using hheader
    | true => simpa [-Nat.reducePow, imp_iff_not_or] using hheader
  case poison => simpa [and_assoc] using hclean
  case bounds => simpa [-Nat.reducePow, and_assoc] using hsize
  case space => simpa [imp_iff_not_or] using hspace
  case align => simpa [and_assoc, imp_iff_not_or] using haligned
  case sealed => simpa [imp_iff_not_or] using hopen

theorem answers_fred (h : Hdr) (o : OpT) (s : State) : Answers (.fred h o) h s (ruleFred o) := by
  refine answers_body (show exec (.fred h o) s = execFred h o s from rfl) rfl fun w t _ ht => ?_
  generalize issueCtx (.fred h o) h s w = c at ht ⊢
  generalize issued (.fred h o) h s w = s1 at ht ⊢
  obtain ⟨cr, hcr, ht⟩ := Option.bind_eq_some_iff.mp ht
  obtain ⟨hcalm, ht⟩ := guard_bind_some ht
  obtain ⟨⟨s2, r⟩, hr, ht⟩ := Option.bind_eq_some_iff.mp ht
  rw [hcr]
  refine (protGuard_calm hcalm).trans (withRecord_goes hr ?_)
  dsimp only [lowVal] at ht ⊢
  obtain ⟨hheader, ht⟩ := guard_bind_some ht
  obtain ⟨p, hp, ht⟩ := Option.bind_eq_some_iff.mp ht
  obtain ⟨hsize, ht⟩ := guard_bind_some ht
  obtain ⟨hspace, ht⟩ := guard_bind_some ht
  simp only [Bool.and_eq_true, decide_eq_true_eq] at hheader hspace
  obtain ⟨⟨⟨hnear, hlow⟩, hmid⟩, hclean⟩ := hheader
  refine check_passes (by simp [hnear]) (check_passes (by simpa using And.intro hlow hmid) (check_passes (by simp [hclean]) ?_))
  rw [hp]
  refine check_passes ?bounds (check_passes ?space (check_passes ?align (congrArg Res.ok (Option.some.inj ht))))
  case bounds => simpa [and_assoc] using hsize
  case space => simpa using hspace.1.1
  case align => simpa using And.intro hspace.1.2 hspace.2

/-! ## FREL and FSTAT (R453, R462) -/

theorem answers_frel (h : Hdr) (o : OpR) (s : State) : Answers (.frel h o) h s (ruleFrel o) := by
  refine answers_body (show exec (.frel h o) s = execFrel h o s from rfl) rfl fun w t _ ht => ?_
  generalize issueCtx (.frel h o) h s w = c at ht ⊢
  generalize issued (.frel h o) h s w = s1 at ht ⊢
  obtain ⟨hcalm, ht⟩ := guard_bind_some ht
  refine (protGuard_calm hcalm).trans ?_
  dsimp only [lowVal] at ht ⊢
  by_cases hall : o.x = 1
  · rw [if_pos hall] at ht ⊢
    exact congrArg Res.ok (Option.some.inj ht)
  · rw [if_neg hall] at ht ⊢
    obtain ⟨hslot, ht⟩ := guard_bind_some ht
    simp only [Bool.and_eq_true, decide_eq_true_eq] at hslot
    rw [Nat.mod_eq_of_lt hslot.2] at ht
    rw [Nat.mod_eq_of_lt hslot.2]
    refine check_passes (by simp [hslot.1]) ?_
    generalize peerEntry s1 c.cregs _ = peer at ht ⊢
    obtain ⟨s2, valid, n⟩ := peer
    obtain ⟨hvalid, ht⟩ := guard_bind_some ht
    exact check_passes (by simpa [Nat.div_eq_of_lt hslot.2] using hvalid) (congrArg Res.ok (Option.some.inj ht))

theorem answers_fstat (h : Hdr) (o : OpR) (s : State) : Answers (.fstat h o) h s (ruleFstat o) := by
  refine answers_body (show exec (.fstat h o) s = execFstat h o s from rfl) rfl fun w t _ ht => ?_
  generalize issueCtx (.fstat h o) h s w = c at ht ⊢
  generalize issued (.fstat h o) h s w = s1 at ht ⊢
  obtain ⟨hcalm, ht⟩ := guard_bind_some ht
  refine (protGuard_calm hcalm).trans ?_
  dsimp only [lowVal] at ht ⊢
  by_cases hall : o.x = 0
  · rw [if_pos hall] at ht ⊢
    exact congrArg Res.ok (Option.some.inj ht)
  · rw [if_neg hall] at ht ⊢
    obtain ⟨hslot, ht⟩ := guard_bind_some ht
    simp only [Bool.and_eq_true, decide_eq_true_eq] at hslot
    refine check_passes (by simp [hslot.1]) (check_passes ?_ (congrArg Res.ok (Option.some.inj ht)))
    have hmine := hslot.2
    generalize s1.plan? _ = p at hmine ⊢
    cases p with
    | none => simp
    | some p => simpa using hmine

/-! ## COLL (R458) -/

theorem planBlock_some {c : Ctx} {cr : Crew} {s s1 : State} {a b : Nat} (h : planBlock c cr s a = some (s1, b)) :
    vmRdWords ⟨c.unit, cr.cregs, .fetch c.key c.cur.pc⟩ 8 s a = .ok (s1, b, []) := by
  unfold planBlock at h
  cases hb : vmRdWords ⟨c.unit, cr.cregs, .fetch c.key c.cur.pc⟩ 8 s a with
  | error v => simp [hb] at h
  | ok x =>
    obtain ⟨u, d, bad⟩ := x
    obtain ⟨rfl, rfl, rfl⟩ : bad = [] ∧ u = s1 ∧ d = b := by simpa [hb] using h
    rfl

theorem answers_collOpen (h : Hdr) (o : OpM) (s : State) : Answers (.collOpen h o) h s (ruleCollOpen o) := by
  refine answers_body (show exec (.collOpen h o) s = execCollOpen h o s from rfl) rfl fun w t _ ht => ?_
  generalize issueCtx (.collOpen h o) h s w = c at ht ⊢
  generalize issued (.collOpen h o) h s w = s1 at ht ⊢
  obtain ⟨hcalm, ht⟩ := guard_bind_some ht
  obtain ⟨⟨s2, r⟩, hr, ht⟩ := Option.bind_eq_some_iff.mp ht
  obtain ⟨cr, hcr, ht⟩ := Option.bind_eq_some_iff.mp ht
  obtain ⟨a, ha, ht⟩ := Option.bind_eq_some_iff.mp ht
  obtain ⟨⟨s3, b⟩, hb, ht⟩ := Option.bind_eq_some_iff.mp ht
  refine (protGuard_calm hcalm).trans (withRecord_goes hr ?_)
  simp only [hcr, addressed_some ha, planBlock_some hb]
  dsimp only at ht
  obtain ⟨hform, ht⟩ := guard_bind_some ht
  obtain ⟨htree, ht⟩ := guard_bind_some ht
  obtain ⟨hzero, ht⟩ := guard_bind_some ht
  obtain ⟨hnumber, ht⟩ := guard_bind_some ht
  obtain ⟨⟨s4, ra⟩, hra, ht⟩ := Option.bind_eq_some_iff.mp ht
  obtain ⟨⟨s5, rr⟩, hrr, ht⟩ := Option.bind_eq_some_iff.mp ht
  obtain ⟨hrecord, ht⟩ := guard_bind_some ht
  obtain ⟨hspace, ht⟩ := guard_bind_some ht
  generalize (decide (blk b 0 1 = 2) || decide (blk b 12 2 = 65535)) = has at ht hrr hnumber hrecord hspace ⊢
  simp only [Bool.and_eq_true, decide_eq_true_eq] at hform htree hzero hnumber hrecord hspace
  obtain ⟨harrival, hresult⟩ := hrecord
  refine check_passes ?shape (check_passes ?arrived (check_passes ?resulted
    (withRecord_goes hra (withRecord_goes hrr (check_passes ?arrival (check_passes ?result (check_passes ?room (check_passes ?stack ?opened))))))))
  case shape =>
    simp only [List.isEmpty_nil, Bool.not_true, Bool.or_false, Bool.not_eq_true', Bool.not_eq_false, Bool.and_eq_true, decide_eq_true_eq]
    simp only [hform, htree, hzero, and_self]
  case arrived => simpa using hnumber.1
  case resulted => cases has with
    | false => simp
    | true => simpa using hnumber.2
  case arrival => simpa [Option.isSome_iff_ne_none, and_assoc] using harrival
  case result => cases has with
    | false => simp
    | true =>
      simp only [Bool.not_true, Bool.false_or, Bool.and_eq_true] at hresult
      simp [hresult.1]
  case room => cases has with
    | false => simp
    | true =>
      simp only [Bool.not_true, Bool.false_or, Bool.and_eq_true, decide_eq_true_eq] at hresult
      simpa using hresult.2
  case stack => cases has with
    | false => simpa using hspace
    | true => simpa using hspace
  case opened =>
    revert ht
    cases (List.range 64).find? (fun i => (s5.plan? i).isNone) with
    | none => exact fun ht => congrArg Res.ok (Option.some.inj ht)
    | some i => exact fun ht => congrArg Res.ok (Option.some.inj ht)

/-- COLL.next and COLL.close act on an open slot of the context. -/
theorem collBody_of_rule {o : OpM} {late : Nat → Late} {regs : Ctx → List RegWr} {c : Ctx} {s1 t : State} (ht : ruleColl o late regs c s1 = some t) :
    (protGuard c (fun l => [(c.val o.o2 l).val]) (match collSlot c o.o2 with
      | .error (cause, info) => .trap cause info
      | .ok n => .ok (addLate c s1 (late n) (regs c) []))) = .ok t := by
  obtain ⟨hcalm, ht⟩ := guard_bind_some ht
  obtain ⟨hslot, ht⟩ := guard_bind_some ht
  obtain ⟨p, hp, ht⟩ := Option.bind_eq_some_iff.mp ht
  obtain ⟨hctx, ht⟩ := guard_bind_some ht
  simp only [Bool.and_eq_true, decide_eq_true_eq] at hslot hctx
  refine (protGuard_calm hcalm).trans ?_
  have hcoll : collSlot c o.o2 = .ok (lowVal c o.o2).val.toNat := by
    unfold lowVal at hslot hp ⊢
    simp [collSlot, hslot.1, hslot.2, hp, hctx]
  rw [hcoll]
  exact congrArg Res.ok (Option.some.inj ht)

/-! ## LAUNCH (R428) -/

theorem answers_launch (h : Hdr) (o : OpM) (s : State) : Answers (.launch h o) h s (ruleLaunch o) := by
  refine answers_body (show exec (.launch h o) s = execLaunch h o s from rfl) rfl fun w t _ ht => ?_
  obtain ⟨hcalm, ht⟩ := guard_bind_some ht
  obtain ⟨⟨s2, r⟩, hr, ht⟩ := Option.bind_eq_some_iff.mp ht
  obtain ⟨a, ha, ht⟩ := Option.bind_eq_some_iff.mp ht
  obtain ⟨hinside, ht⟩ := guard_bind_some ht
  refine (protGuard_calm hcalm).trans (withRecord_goes hr ?_)
  simp only [addressed_some ha]
  exact check_passes (by simpa [imp_iff_not_or, or_assoc] using hinside) (congrArg Res.ok (Option.some.inj ht))

/-! ## TLBINV and FRAMERET (R416, R419) -/

theorem answers_tlbinv (h : Hdr) (o : OpR) (s : State) : Answers (.tlbinv h o) h s (ruleTlbinv o) := by
  refine answers_body (show exec (.tlbinv h o) s = execTlbinv h o s from rfl) rfl fun w t _ ht => ?_
  dsimp -zeta only [ruleTlbinv, lowVal] at ht ⊢
  extract_lets form used va vb asid at ht
  extract_lets
  obtain ⟨hclean, ht⟩ := guard_bind_some ht
  obtain ⟨hrange, ht⟩ := guard_bind_some ht
  simp only [Bool.and_eq_true, Bool.or_eq_true, decide_eq_true_eq, bne_iff_ne] at hrange
  refine check_passes ?poison (check_passes ?align (check_passes ?bounds (congrArg Res.ok (Option.some.inj ht))))
  case poison => simpa using hclean
  case align => simpa [imp_iff_not_or, ← or_iff_not_imp_left] using hrange.imp_right And.left
  case bounds => simpa [imp_iff_not_or] using hrange.imp_right And.right

theorem answers_frameret (h : Hdr) (o : OpR) (s : State) : Answers (.frameret h o) h s (ruleFrameret o) := by
  refine answers_body (show exec (.frameret h o) s = execFrameret h o s from rfl) rfl fun w t _ ht => ?_
  dsimp -zeta only [ruleFrameret, lowVal] at ht ⊢
  extract_lets vs va vb ve at ht
  extract_lets
  obtain ⟨hclean, ht⟩ := guard_bind_some ht
  obtain ⟨hpage, ht⟩ := guard_bind_some ht
  simp only [Bool.and_eq_true, decide_eq_true_eq] at hpage
  refine check_passes ?poison (check_passes ?align (check_passes ?bounds (congrArg Res.ok (Option.some.inj ht))))
  case poison => simpa using hclean
  case align => simpa [and_assoc] using hpage.1
  case bounds => simpa using hpage.2

/-! ## CTXSAVE and CTXLOAD (R438) -/

/-- An image's record that passes its checks goes to what follows. -/
theorem imageRecord_goes {c : Ctx} {s1 s2 t : State} {n : Nat} {r : Tensor} {k : State → Tensor → Res} (h : found c s1 n = some (s2, r))
    (hrec : tensorValid r = true ∧ tClass r = 1) (haligned : tBase r % 4096 = 0) (hva : vaOut c.cregs (tBase r) 64 = false)
    (hk : k s2 r = .ok t) : imageRecord c s1 n k = .ok t :=
  withRecord_goes h (check_passes (by simp [hrec]) (check_passes (by simp [haligned]) (check_passes (by simp [hva]) hk)))

theorem answers_ctxsave (h : Hdr) (o : OpM) (s : State) : Answers (.ctxsave h o) h s (ruleCtxsave o) := by
  refine answers_body (show exec (.ctxsave h o) s = execCtxsave h o s from rfl) rfl fun w t _ ht => ?_
  obtain ⟨⟨s2, r⟩, hr, ht⟩ := Option.bind_eq_some_iff.mp ht
  obtain ⟨hgo, ht⟩ := guard_bind_some ht
  simp only [Bool.and_eq_true, Bool.not_eq_true', decide_eq_true_eq] at hgo
  unfold lowVal at hgo
  obtain ⟨⟨⟨⟨⟨hvalid, hclass⟩, haligned⟩, hva⟩, hclean⟩, htarget⟩ := hgo
  refine imageRecord_goes hr ⟨hvalid, hclass⟩ haligned hva ?_
  exact check_passes (by simp [hclean]) (check_passes (by simpa using htarget) (congrArg Res.ok (Option.some.inj ht)))

theorem answers_ctxload (h : Hdr) (o : OpM) (s : State) : Answers (.ctxload h o) h s (ruleCtxload o) := by
  refine answers_body (show exec (.ctxload h o) s = execCtxload h o s from rfl) rfl fun w t _ ht => ?_
  obtain ⟨⟨s2, r⟩, hr, ht⟩ := Option.bind_eq_some_iff.mp ht
  obtain ⟨hgo, ht⟩ := guard_bind_some ht
  simp only [Bool.and_eq_true, Bool.not_eq_true', decide_eq_true_eq] at hgo
  obtain ⟨⟨⟨hvalid, hclass⟩, haligned⟩, hva⟩ := hgo
  exact imageRecord_goes hr ⟨hvalid, hclass⟩ haligned hva (congrArg Res.ok (Option.some.inj ht))

end Sys2Proof.Machine

namespace Sys2Proof.Proofs
open Sys2Proof Sys2Proof.Machine

/-- Settles O30: each instruction goes where the conditions of its rule hold. -/
theorem packageResults : Obligations.PackageResults := by
  unfold Obligations.PackageResults
  intro h t o r s
  exact ⟨answers_body (show exec (.fstore h t) s = execFstore h t s from rfl) rfl fun _ _ _ => fabBody_of_rule,
    answers_body (show exec (.fload h t) s = execFload h t s from rfl) rfl fun _ _ _ => fabBody_of_rule,
    answers_fred h t s, answers_frel h r s, answers_fstat h r s, answers_collOpen h o s,
    answers_body (show exec (.collNext h o) s = execCollNext h o s from rfl) rfl fun _ _ _ => collBody_of_rule,
    answers_body (show exec (.collClose h o) s = execCollClose h o s from rfl) rfl fun _ _ _ => collBody_of_rule,
    answers_launch h o s, answers_tlbinv h r s, answers_frameret h r s, answers_ctxsave h o s, answers_ctxload h o s⟩

end Sys2Proof.Proofs
end

section
/-! PROOF. The resets and the stages of boot (18_device.md R466-R470). -/

namespace Sys2Proof.Machine

/-- A reset clears every array and register on chip, and stage 1 begins. -/
theorem resetPackage_clears {e : Instr} {s : State} {warm : Bool} (he : exec e s = .next (resetPackage s warm)) : ∃ t, exec e s = .next t ∧ t.mem = s.mem ∧ t.memBad = s.memBad ∧
    t.agenda = s.agenda ∧ t.foreign = s.foreign ∧ t.nextOp = s.nextOp ∧
    { t with mem := [], memBad := [], draw := 0, agenda := [], foreign := [], nextOp := State.reset.nextOp, pkg := State.reset.pkg } = State.reset ∧
    t.pkg = { State.reset.pkg with
      debug := s.pkg.debug, images := s.pkg.images, crewNames := s.pkg.crewNames, flash := s.pkg.flash, boot := { Boot.start with stage := 1, warm := warm } } :=
  ⟨resetPackage s warm, he, rfl, rfl, rfl, rfl, rfl, rfl, rfl⟩

/-- PACKAGE_RESET clears the part where no stage is in progress. -/
theorem bootStep_clears {s : State} (o : BootOutcome) (h : s.pkg.frozen = true ∨ s.pkg.boot.stage = 0 ∨ s.pkg.boot.stage = 7 ∨ s.pkg.boot.fail ≠ 0) :
    bootStep s o = resetPackage s false :=
  if_pos (by simpa [or_assoc] using h)

/-- Where no boot has failed, a stage from 1 to 6 ends by its outcome. -/
theorem bootStep_ends {s : State} (o : BootOutcome) (hz : s.pkg.frozen = false) (hf : s.pkg.boot.fail = 0) {n : Nat} (hb : s.pkg.boot.stage = n)
    (hn : n ≠ 0 ∧ n ≠ 7) : bootStep s o =
      if n = 1 then (if o = .ok then bootTo s 2 else s)
      else if n = 3 then (if o = .ok then bootTo s 4 else if o = .badSignature then bootFails s 4 else s)
      else if n = 4 then (if o = .ok then bootTo { s with retired := s.pkg.flash } 5 else if o = .trainingFailed then bootFails s 5 else s)
      else if n = 5 then (if o = .ok then bootTo (loadTable s) 6 else if o = .badTable then bootFails s 6 else s)
      else if n = 6 then (if o = .ok then bootTo (setRings s) 7 else s)
      else s := by
  subst hb
  exact if_neg (by simp [hz, hf, hn])

/-- Stage 5 keeps every part of the package but the decode table, the fabric id and the dies. -/
theorem loadTable_pkg (s : State) : (loadTable s).pkg = { s.pkg with
    table := if s.pkg.table = DecTable.shipped then { s.pkg.table with version := bootValue s 0 16 } else s.pkg.table, fid := bootValue s 10 32 } := by
  unfold loadTable
  dsimp only
  refine (foldl_keeps State.pkg ?_ _).trans rfl
  exact fun _ _ _ => rfl

/-! ## The rings of stage 6 (R405, R466) -/

/-- What a table of the values of `f`, those that are the default left out, holds at a key. -/
theorem fmGet_filterMap {α : Type} [DecidableEq α] (d : α) (f : Nat → α) (l : List Nat) (k : Nat) :
    fmGet d (l.filterMap (fun r => if f r = d then none else some (r, f r))) k = if k ∈ l then f k else d := by
  unfold fmGet
  induction l with
  | nil => rfl
  | cons r l ih =>
    by_cases hr : f r = d
    · by_cases hk : k = r
      · subst hk
        simpa [hr] using ih
      · simpa [hr, hk] using ih
    · by_cases hk : r = k
      · subst hk
        simp [hr, fmFind_cons]
      · simpa [hr, hk, Ne.symm hk, fmFind_cons] using ih

theorem setRings_ring (s : State) (r : Nat) : (setRings s).ring r = if r ∈ List.range 32 then imageRing s r else Ring.start :=
  fmGet_filterMap Ring.start (imageRing s) (List.range 32) r

/-- A ring that the image lists is legal, enabled and empty. -/
theorem imageRing_legal (s : State) (r : Nat) (h : imageRing s r ≠ Ring.start) : ringEnabled (imageRing s r) = true ∧
    ringLegal (imageRing s r) = true ∧ ringClass (imageRing s r) ≠ 3 ∧ (imageRing s r).head = 0 ∧ (imageRing s r).tail = 0 := by
  unfold imageRing at h ⊢
  extract_lets v at h
  extract_lets
  split at h
  · exact absurd rfl h
  · rw [if_neg ‹_›]
    generalize v 4 _ = slots
    refine ⟨?enabled, ?legal, ?writer, rfl, rfl⟩
    case enabled =>
      simp only [ringEnabled, Nat.testBit_eq_decide_div_mod_eq, decide_eq_true_eq]
      omega
    case legal =>
      simp only [ringLegal, Bool.and_eq_true, decide_eq_true_eq]
      unfold ringLog
      dsimp only
      omega
    case writer =>
      simp only [ringClass]
      omega

theorem setRings_spec (s : State) : 1 ≤ (setRings s).pkg.ctxn ∧ (setRings s).pkg.ctxn < 2 ^ 16 ∧ (setRings s).pkg.ctxtab % 4096 = 0 ∧
    ∀ r, (setRings s).ring r ≠ Ring.start → r < 32 ∧ ringEnabled ((setRings s).ring r) = true ∧ ringLegal ((setRings s).ring r) = true ∧
      ringClass ((setRings s).ring r) ≠ 3 ∧ ((setRings s).ring r).head = 0 ∧ ((setRings s).ring r).tail = 0 := by
  have hn : (setRings s).pkg.ctxn = 1 + bootValue s 12 16 % 65535 := rfl
  have htab : (setRings s).pkg.ctxtab = bootValue s 11 36 * 4096 := rfl
  refine ⟨by omega, by omega, by omega, fun r hr => ?_⟩
  rw [setRings_ring] at hr ⊢
  split at hr
  · rw [if_pos ‹_›]
    exact ⟨List.mem_range.mp ‹_›, imageRing_legal s r hr⟩
  · exact absurd rfl hr

/-! ## The fetches of stage 2 (R466) -/

/-- A failed fetch counts, and the eighth ends boot with its code. -/
theorem fetchFails_boot {s : State} (hf : s.pkg.boot.fail = 0) (code : Nat) : (fetchFails s code).pkg.boot =
    { s.pkg.boot with tries := s.pkg.boot.tries + 1, fail := if s.pkg.boot.tries < 7 then 0 else code } := by
  unfold fetchFails
  dsimp only [State.modPkg, bootFails]
  by_cases h : s.pkg.boot.tries < 7
  · rw [if_neg (by omega), if_pos h, hf.symm]
  · rw [if_pos (by omega), if_neg h]

theorem fetchFails_mem (s : State) (code : Nat) : (fetchFails s code).mem = s.mem := by
  unfold fetchFails
  extract_lets s1
  split <;> rfl

theorem fetchFails_frozen (s : State) (code : Nat) : (fetchFails s code).pkg.frozen = s.pkg.frozen := by
  unfold fetchFails
  extract_lets s1
  split <;> rfl

/-- An attempt of stage 2, by its outcome. -/
theorem execImageFetchAttempt_stage {s : State} (o : BootOutcome) (hz : s.pkg.frozen = false) (hf : s.pkg.boot.fail = 0) (hb : s.pkg.boot.stage = 2) :
    execImageFetchAttempt o s = .next (match o with
      | .warmImage => if s.pkg.boot.warm && s.pkg.boot.tries = 0 then bootTo s 3 else s
      | .ok => bootTo (s.modPkg (fun p => { p with boot := { p.boot with tries := p.boot.tries + 1 } })) 3
      | .noLink => fetchFails s 1
      | .noAddress => fetchFails s 2
      | .httpError => fetchFails s 3
      | .badSignature => s
      | .trainingFailed => s
      | .badTable => s) :=
  congrArg _ (if_neg (by simp [hz, hf, hb]))

end Sys2Proof.Machine

namespace Sys2Proof.Proofs
open Sys2Proof Sys2Proof.Machine

/-- Settles O51: each reset is `resetPackage`, and each stage ends by its branch of `bootStep`. -/
theorem bootResults : Obligations.BootResults := by
  unfold Obligations.BootResults
  intro s o b clear goes stageTo fails
  have hstage : ∀ (x : BootOutcome) (f : Boot → Boot) (u : State), bootStep s x = u → u.pkg.boot = f b → u.mem = s.mem → u.pkg.frozen = false →
      goes (.packageReset x) f := fun x f u hu hboot hmem hz => ⟨u, congrArg _ hu, hboot, hmem, hz⟩
  refine ⟨resetPackage_clears rfl, resetPackage_clears rfl, fun h => ?reset, fun hz hf => ⟨fun hb => ?stage1, fun hb => ?stage3, fun hb => ?stage4,
    fun hb => ?stage5, fun hb => ?stage6, fun hb => ?stage2⟩⟩
  case reset => exact resetPackage_clears (congrArg Host.Outcome.next (bootStep_clears o h))
  case stage1 => exact hstage .ok _ (bootTo s 2) (bootStep_ends .ok hz hf hb (by decide)) rfl rfl hz
  case stage3 => exact ⟨hstage .ok _ (bootTo s 4) (bootStep_ends .ok hz hf hb (by decide)) rfl rfl hz,
    hstage .badSignature _ (bootFails s 4) (bootStep_ends .badSignature hz hf hb (by decide)) rfl rfl hz⟩
  case stage4 =>
    have hok : bootStep s .ok = bootTo { s with retired := s.pkg.flash } 5 := bootStep_ends .ok hz hf hb (by decide)
    exact ⟨hstage .trainingFailed _ (bootFails s 5) (bootStep_ends .trainingFailed hz hf hb (by decide)) rfl rfl hz,
      hstage .ok _ _ hok rfl rfl hz, _, congrArg Host.Outcome.next hok, rfl⟩
  case stage5 =>
    have hok : bootStep s .ok = bootTo (loadTable s) 6 := bootStep_ends .ok hz hf hb (by decide)
    have htable : (bootTo (loadTable s) 6).pkg.table = if s.pkg.table = DecTable.shipped then { s.pkg.table with version := bootValue s 0 16 }
        else s.pkg.table := congrArg Pkg.table (loadTable_pkg s)
    refine ⟨hstage .badTable _ (bootFails s 6) (bootStep_ends .badTable hz hf hb (by decide)) rfl rfl hz, _, congrArg Host.Outcome.next hok, rfl, fun hne => ?_, ?_, ?_⟩
    · rw [htable, if_neg hne]
    · rw [htable]
      split <;> rfl
    · rw [htable]
      split <;> rfl
  case stage6 =>
    have hok : bootStep s .ok = bootTo (setRings s) 7 := bootStep_ends .ok hz hf hb (by decide)
    exact ⟨hstage .ok _ _ hok rfl rfl hz, _, congrArg Host.Outcome.next hok, setRings_spec s⟩
  case stage2 =>
    have hfetch := fun x => execImageFetchAttempt_stage x hz hf hb
    refine ⟨⟨_, hfetch .ok, rfl, rfl, hz⟩, fun hwarm htries => ⟨bootTo s 3, ?_, rfl, rfl, hz⟩, fun e n he => ⟨fetchFails s n, ?_, fetchFails_boot hf n,
      fetchFails_mem s n, (fetchFails_frozen s n).trans hz⟩⟩
    · exact (hfetch .warmImage).trans (congrArg _ (if_pos (by simp [b] at hwarm htries; simp [hwarm, htries])))
    · obtain ⟨rfl, rfl⟩ | ⟨rfl, rfl⟩ | ⟨rfl, rfl⟩ := he
      · exact hfetch .noLink
      · exact hfetch .noAddress
      · exact hfetch .httpError

end Sys2Proof.Proofs
end

section
/-! PROOF. What reads and writes at the home slices leave unchanged, and the line that a write leaves (13_die_cache.md R328-R337,
10_core_ordering.md R258, R259; 16_package.md R409). -/

namespace Sys2Proof.Machine

/-! ## What the slices alone take -/

/-- The state without the slices. -/
def State.offSlices (s : State) : State := { s with slices := [] }

theorem markAll_offSlices (s : State) (lns : List Nat) (unit : Nat) : (markAll s lns unit).offSlices = s.offSlices :=
  foldl_keeps State.offSlices (fun s ln _ => markServed_frame s ln unit) s

theorem markAll_locks (s : State) (lns : List Nat) (unit j : Nat) : ((markAll s lns unit).slice j).locks = (s.slice j).locks :=
  foldl_keeps (fun u : State => (u.slice j).locks) (fun s ln _ => (congrArg Slice.locks (markServed_slice s ln unit j) :)) s

theorem slLow_offSlices (s : State) (lns : List Nat) : (slLow s lns).offSlices = s.offSlices := by
  refine foldl_keeps State.offSlices ?_ s
  exact fun _ _ _ => rfl

/-! ## Reads at the homes -/

/-- The state without what a read at a home or a walk may change: the slices, second-tier memory and the translations kept. -/
def State.offReads (s : State) : State := { s with slices := [], mem := [], memBad := [], tlb := [] }

theorem offReads_of_offCache {s t : State} (h : t.offCache = s.offCache) : t.offReads = s.offReads := (congrArg State.offReads h :)

theorem offReads_pkg {s t : State} (h : t.offReads = s.offReads) : t.pkg = s.pkg := (congrArg State.pkg h :)

/-- A fold that may fail keeps what each of its steps keeps. -/
theorem foldlM_keeps {ε σ α β : Type} (g : σ → β) {f : σ → α → Except ε σ} (h : ∀ c e d, f c e = .ok d → g d = g c) {l : List α} {c d : σ}
    (hf : l.foldlM f c = .ok d) : g d = g c := by
  induction l generalizing c with
  | nil => exact congrArg g (Except.ok.inj hf).symm
  | cons e l ih =>
    obtain ⟨b, hb, hf⟩ := except_bind_ok hf
    exact (ih hf).trans (h c e b hb)

@[simp] theorem State.modSlice_offReads (s : State) (k : Nat) (f : Slice → Slice) : (s.modSlice k f).offReads = s.offReads := rfl
@[simp] theorem State.setSlice_offReads (s : State) (k : Nat) (v : Slice) : (s.setSlice k v).offReads = s.offReads := rfl
@[simp] theorem objTouch_offReads (s : State) (e : ObjEnt) : (objTouch s e).offReads = s.offReads := rfl
@[simp] theorem dropDir_offReads (s : State) (ln : Nat) : (dropDir s ln).offReads = s.offReads := rfl
@[simp] theorem countRecall_offReads (s : State) (k : Nat) : (countRecall s k).offReads = s.offReads := rfl

@[simp] theorem writeBacks_offReads (s : State) (vs : List (Nat × SLine)) : (writeBacks s vs).offReads = s.offReads :=
  offReads_of_offCache (writeBacks_offCache s vs)

@[simp] theorem evictFor_offReads (s : State) (v : Lack) : (evictFor s v).offReads = s.offReads :=
  foldl_keeps State.offReads (fun s e _ => by split <;> simp) s

theorem slPut_offReads {s t : State} {ln : Nat} {d : Line} {bad : BitVec 16} {dirty : Bool} {spare : List Nat}
    (h : slPut s ln d bad dirty spare = .ok t) : t.offReads = s.offReads := by
  obtain ⟨l, h⟩ := slPut_leaves h
  exact offReads_of_offCache h.rest

theorem slGet_offReads {s : State} {ln : Nat} {spare : List Nat} {r : State × SLine} (h : slGet s ln spare = .ok r) :
    r.1.offReads = s.offReads :=
  offReads_of_offCache (slGet_leaves h).rest

theorem takeWords_offReads {s t : State} {ln : Nat} {v : OwnerView} {spare : List Nat} (h : takeWords s ln v spare = .ok t) :
    t.offReads = s.offReads := by
  unfold takeWords at h
  split at h
  · rw [← Except.ok.inj h]
  · obtain ⟨r, hget, hput⟩ := except_bind_ok h
    exact (slPut_offReads hput).trans (slGet_offReads hget)

theorem homeRead_offReads {s : State} {ln : Nat} {mask : BitVec 32} {r : State × SLine} (h : homeRead s ln mask = .ok r) :
    r.1.offReads = s.offReads := by
  unfold homeRead at h
  have hsecond : ∀ s1, (match objEnt s1 ln with
      | some e => takeWords (objTouch s1 e) ln (ownerWords s1 e.owner ln (objWords s1 e.owner ln &&& mask)) >>= fun s2 => slGet s2 ln
      | none => slGet s1 ln) = .ok r → r.1.offReads = s1.offReads := by
    intro s1 h1
    split at h1
    · obtain ⟨s2, htake, hget⟩ := except_bind_ok h1
      exact (slGet_offReads hget).trans (takeWords_offReads htake :)
    · exact slGet_offReads h1
  split at h
  · obtain ⟨s1, htake, h⟩ := except_bind_ok h
    exact (hsecond s1 h).trans (takeWords_offReads htake)
  · exact hsecond s h

theorem homeBytes_offReads {s : State} {pa n : Nat} {r : State × Nat × Bool} (h : homeBytes s pa n = .ok r) : r.1.offReads = s.offReads := by
  unfold homeBytes at h
  dsimp only at h
  split at h
  · cases h
  · rename_i hread
    rw [← Except.ok.inj h]
    exact homeRead_offReads hread

theorem snapCopy_offReads {s t : State} {ln : Nat} (h : snapCopy s ln = .ok t) : t.offReads = s.offReads := by
  unfold snapCopy at h
  split at h
  · rw [← Except.ok.inj h]
  · obtain ⟨r, hget, h⟩ := except_bind_ok h
    dsimp only at h
    split at h
    · cases h
    · rw [← Except.ok.inj h]
      exact slGet_offReads hget

/-! ## Walks and translations (R409) -/

@[simp] theorem walkRead_offReads (s : State) (pa : Nat) : (walkRead s pa).1.offReads = s.offReads := by
  unfold walkRead
  split
  · exact homeBytes_offReads ‹_›
  · rfl

@[simp] theorem walkStep_offReads (s : State) (table index : Nat) : (walkStep s table index).1.offReads = s.offReads := by
  unfold walkStep
  dsimp only
  split_ifs <;> simp

@[simp] theorem walk_offReads (s : State) (cr : CtxRegs) (va : Nat) : (walk s cr va).1.offReads = s.offReads := by
  unfold walk
  have h1 := walkStep_offReads s cr.ptbr.toNat (va / 2 ^ 40 % 4096)
  split
  · next hs => rwa [hs] at h1
  · next s1 t1 hs =>
    rw [hs] at h1
    have h2 := walkStep_offReads s1 t1 (va / 2 ^ 28 % 4096)
    split
    · next hs => rw [hs] at h2; exact h2.trans h1
    · next s2 t2 hs =>
      rw [hs] at h2
      dsimp only
      split_ifs <;> simp [h1, h2]

@[simp] theorem translate_offReads (s : State) (unit : Nat) (cr : CtxRegs) (va need : Nat) : (translate s unit cr va need).1.offReads = s.offReads := by
  have hw := walk_offReads s cr va
  unfold translate
  split
  · rfl
  · split
    · split <;> rfl
    · dsimp only
      split
      · rfl
      · split
        · next hs => rwa [hs] at hw
        · next hs =>
          rw [hs] at hw
          split
          · split
            · exact hw
            · exact hw
          · exact hw

@[simp] theorem leavePlace_offReads (s : State) (who : Waiter) (ln : Nat) : (leavePlace s who ln).offReads = s.offReads := by
  unfold leavePlace
  split <;> rfl

@[simp] theorem markServed_offReads (s : State) (ln unit : Nat) : (markServed s ln unit).offReads = s.offReads :=
  (congrArg State.offReads (markServed_frame s ln unit) :)

@[simp] theorem engineGoes_offReads (s : State) (who : Waiter) (unit ln : Nat) : (engineGoes s who unit ln).offReads = s.offReads := by
  simp [engineGoes]

@[simp] theorem engineWait_offReads (s : State) (who : Waiter) (ln : Nat) (write : Bool) : (engineWait s who ln write).offReads = s.offReads := by
  unfold engineWait
  split <;> rfl

@[simp] theorem walksGo_offReads (s : State) (who : Waiter) (unit : Nat) (cr : CtxRegs) (vas : List Nat) :
    (walksGo s who unit cr vas).offReads = s.offReads := by
  unfold walksGo
  split
  · refine foldl_keeps State.offReads (fun s p _ => ?_) s
    split
    · exact foldl_keeps State.offReads (fun s ln _ => leavePlace_offReads s who ln) s
    · rfl
  · rfl

theorem envTr_offReads {e : Env} {s : State} {va need : Nat} {r : State × Nat} (h : envTr e s va need = .ok r) : r.1.offReads = s.offReads := by
  unfold envTr at h
  split at h
  · cases h
  · have htr := translate_offReads (walksGo s e.who e.unit e.cr [va]) e.unit e.cr va need
    split at h
    · cases h
    · next hs =>
      rw [hs] at htr
      rw [← Except.ok.inj h]
      simpa using htr

@[simp] theorem waits_offReads (v : VErr) (e : Env) (s : State) : (v.waits e s).offReads = s.offReads := by
  cases v <;> simp [VErr.waits, VErr.waitsAs]

/-! ## Writes at the homes -/

/-- The state without what a write at a home may change: what a read may, and the cores, whose words it recalls. -/
def State.offHomes (s : State) : State := { s with slices := [], mem := [], memBad := [], tlb := [], cores := [] }

theorem offHomes_of_offReads {s t : State} (h : t.offReads = s.offReads) : t.offHomes = s.offHomes := (congrArg State.offHomes h :)
theorem offHomes_pkg {s t : State} (h : t.offHomes = s.offHomes) : t.pkg = s.pkg := (congrArg State.pkg h :)
theorem offHomes_faults {s t : State} (h : t.offHomes = s.offHomes) : t.faults = s.faults := (congrArg State.faults h :)
theorem offHomes_snaps {s t : State} (h : t.offHomes = s.offHomes) : t.snaps = s.snaps := (congrArg State.snaps h :)

@[simp] theorem dropDir_offHomes (s : State) (ln : Nat) : (dropDir s ln).offHomes = s.offHomes := rfl
@[simp] theorem countRecall_offHomes (s : State) (k : Nat) : (countRecall s k).offHomes = s.offHomes := rfl

@[simp] theorem uncover_offHomes (s : State) (core ln : Nat) (mask : BitVec 32) : (uncover s core ln mask).offHomes = s.offHomes := by
  unfold uncover
  split <;> rfl

theorem recallLine_offHomes {s t : State} {ln : Nat} {spare : List Nat} (h : recallLine s ln spare = .ok t) : t.offHomes = s.offHomes := by
  unfold recallLine at h
  split at h
  · rw [← Except.ok.inj h]
  · next e _ =>
    cases htake : takeWords s ln (ownerWords s e.owner ln e.mask) spare with
    | error v => rw [htake] at h; cases h
    | ok s1 =>
      rw [htake] at h
      rw [← Except.ok.inj h]
      rw [countRecall_offHomes, dropDir_offHomes, uncover_offHomes]
      exact offHomes_of_offReads (takeWords_offReads htake)

theorem recallObj_offHomes {s t : State} {e : ObjEnt} {spare : List Nat} (h : recallObj s e spare = .ok t) : t.offHomes = s.offHomes := by
  unfold recallObj at h
  dsimp only at h
  obtain ⟨s1, hfold, h⟩ := except_bind_ok h
  rw [← Except.ok.inj h]
  refine (foldlM_keeps State.offHomes (fun c ln d hd => ?_) hfold :)
  obtain ⟨c1, htake, hd⟩ := except_bind_ok hd
  rw [← Except.ok.inj hd, uncover_offHomes]
  have hc := offHomes_of_offReads (takeWords_offReads htake)
  split <;> exact hc

theorem recallCover_offHomes {s t : State} {ln : Nat} {spare : List Nat} (h : recallCover s ln spare = .ok t) : t.offHomes = s.offHomes := by
  unfold recallCover at h
  split at h
  · exact recallObj_offHomes h
  · rw [← Except.ok.inj h]

theorem recallAll_offHomes {s t : State} {ln : Nat} {spare : List Nat} (h : recallAll s ln spare = .ok t) : t.offHomes = s.offHomes := by
  obtain ⟨s1, hcover, hline⟩ := except_bind_ok h
  exact (recallLine_offHomes hline).trans (recallCover_offHomes hcover)

/-- The 8-byte words all of whose bytes a write names. -/
def wholeOfBytes (bytes : BitVec 128) : BitVec 16 :=
  (List.range 16).foldl (fun (a : BitVec 16) i => if bytes.extractLsb' (8 * i) 8 = 0xFF#8 then a ||| (1#16 <<< i) else a) 0

/-- A write at a home as its steps: the copies for snapshots and the recalls, then the line stored with the written bytes over what it held. -/
theorem homeWrite_steps {s t : State} {ln : Nat} {bytes : BitVec 128} {d : Line} {bad : BitVec 16} {engine : Bool}
    (h : homeWrite s ln bytes d bad engine = .ok t) : ∃ (s1 : State) (l : SLine), s1.offHomes = s.offHomes ∧
      slPut s1 ln (mergeLine l.data d (byteBits bytes)) ((l.bad &&& ~~~wholeOfBytes bytes) ||| bad) true = .ok t := by
  unfold homeWrite at h
  obtain ⟨s0, hcopy, h⟩ := except_bind_ok h
  obtain ⟨s1, hcover, h⟩ := except_bind_ok h
  have h1 : s1.offHomes = s.offHomes := (recallCover_offHomes hcover).trans (offHomes_of_offReads (snapCopy_offReads hcopy))
  have hrecall : ∃ s2, s2.offHomes = s1.offHomes ∧ (slGet s2 ln [] >>= fun r => slPut r.1 ln (mergeLine r.2.data d (byteBits bytes))
      ((r.2.bad &&& ~~~wholeOfBytes bytes) ||| bad) true) = .ok t := by
    split_ifs at h
    · obtain ⟨s2, hrecall, h⟩ := except_bind_ok h
      exact ⟨s2, recallLine_offHomes hrecall, h⟩
    · exact ⟨s1, rfl, h⟩
  obtain ⟨s2, h2, h⟩ := hrecall
  obtain ⟨⟨s3, l⟩, hget, hput⟩ := except_bind_ok h
  exact ⟨s3, l, (offHomes_of_offReads (slGet_offReads hget)).trans (h2.trans h1), hput⟩

theorem homeWrite_offHomes {s t : State} {ln : Nat} {bytes : BitVec 128} {d : Line} {bad : BitVec 16} {engine : Bool}
    (h : homeWrite s ln bytes d bad engine = .ok t) : t.offHomes = s.offHomes := by
  obtain ⟨s1, l, h1, hput⟩ := homeWrite_steps h
  exact (offHomes_of_offReads (slPut_offReads hput)).trans h1

theorem homeStore_offHomes {s t : State} {pa n v : Nat} {bad engine : Bool} (h : homeStore s pa n v bad engine = .ok t) : t.offHomes = s.offHomes :=
  homeWrite_offHomes h

theorem byteMask_getLsbD {off n k : Nat} (hk : k < 128) : (byteMask off n).getLsbD k = (decide (off ≤ k) && decide (k < off + n)) := by
  simp only [byteMask, BitVec.getLsbD_ofNat, Nat.testBit_shiftLeft, Nat.testBit_two_pow_sub_one, hk, decide_true, Bool.true_and]
  by_cases h : off ≤ k <;> simp [h, Nat.sub_lt_iff_lt_add, Nat.add_comm]

/-- An aligned 8-byte word lies in one line. -/
theorem word_in_line {pa : Nat} (h : pa % 8 = 0) : pa % 128 + 8 ≤ 128 := by omega

/-- A write of all of a line leaves its data and its marks there. -/
theorem homeWrite_whole {s t : State} {ln : Nat} {d : Line} {bad : BitVec 16} {engine : Bool}
    (h : homeWrite s ln (BitVec.allOnes 128) d bad engine = .ok t) :
    ∃ l, fmFind (t.slice (lineHome ln)).lines ln = some l ∧ l.data = d ∧ l.bad = bad := by
  obtain ⟨s1, old, -, hput⟩ := homeWrite_steps h
  obtain ⟨l, hput⟩ := slPut_leaves hput
  refine ⟨l, hput.found, hput.data.trans (BitVec.eq_of_getLsbD_eq fun i hi => ?_), hput.bad.trans ?_⟩
  · rw [mergeLine_getLsbD, byteBits_getLsbD _ _ hi, if_pos (by rw [BitVec.getLsbD_allOnes]; exact decide_eq_true (by omega))]
  · rw [show wholeOfBytes (BitVec.allOnes 128) = BitVec.allOnes 16 by decide]
    simp

/-- An engine's store of n bytes inside a line leaves their value there. -/
theorem homeStore_line {s t : State} {pa n v : Nat} {bad engine : Bool} (h : homeStore s pa n v bad engine = .ok t) (hn : pa % 128 + n ≤ 128) :
    ∃ l, fmFind (t.slice (lineHome (pa / 128))).lines (pa / 128) = some l ∧ lineTake l.data (pa % 128) n = v % 2 ^ (8 * n) := by
  obtain ⟨l, old, hl, hdata⟩ := homeWrite_line h
  refine ⟨l, hl, ?_⟩
  have hfield : BitVec.extractLsb' (8 * (pa % 128)) (8 * n) l.data = BitVec.ofNat (8 * n) v := by
    refine BitVec.eq_of_getLsbD_eq fun i hi => ?_
    have hmask : (byteMask (pa % 128) n).getLsbD ((8 * (pa % 128) + i) / 8) = true := by
      rw [byteMask_getLsbD (by omega), Bool.and_eq_true, decide_eq_true_eq, decide_eq_true_eq]
      omega
    rw [hdata, BitVec.getLsbD_extractLsb', mergeLine_getLsbD, byteBits_getLsbD _ _ (by omega), hmask, if_pos rfl, BitVec.getLsbD_ofNat,
      BitVec.getLsbD_ofNat, Nat.testBit_shiftLeft, Nat.testBit_mod_two_pow]
    simp [hi, show 8 * (pa % 128) + i < 1024 by omega]
  rw [lineTake_eq, hfield, BitVec.toNat_ofNat]

/-! ## Completions -/

theorem outside_tiles {s t : State} (h : t.outside = s.outside) : t.tiles = s.tiles := (congrArg State.tiles h :)
theorem outside_slices {s t : State} (h : t.outside = s.outside) : t.slices = s.slices := (congrArg State.slices h :)

theorem landReg_outside (key : Nat) (s : State) (g : RegWr) : (landReg key s g).outside = s.outside := by
  unfold landReg storeReg
  split
  · unfold State.modWarp
    split <;> rfl
  · rfl

theorem landPred_outside (key : Nat) (s : State) (g : PredWr) : (landPred key s g).outside = s.outside := by
  unfold landPred State.modWarp
  split <;> rfl

/-- A completion changes the warps, a quad's trap bank and the count of undefined values alone. -/
theorem completePend_outside (s : State) (key : Nat) (p : Pend) : (completePend s key p).outside = s.outside := by
  rw [completePend_eq]
  refine ((foldl_keeps State.outside (fun c g _ => landPred_outside key c g) _).trans ((foldl_keeps State.outside
    (fun c g _ => landReg_outside key c g) _).trans ?_) :)
  unfold State.modWarp
  split <;> rfl

theorem completeWith_outside (s : State) (key : Nat) (p : Pend) (v : Word) : (completeWith s key p v).outside = s.outside :=
  completePend_outside s key _

/-- A warp that is gone stays gone. -/
theorem modWarp_isNone (s : State) (key : Nat) (f : Warp → Warp) : ((s.modWarp key f).warp key).isNone = (s.warp key).isNone := by
  cases hw : s.warp key with
  | none => simp [State.modWarp, hw]
  | some w => simp [modWarp_some _ _ _ _ hw, warp_setWarp_same]

theorem completePend_isNone (s : State) (key : Nat) (p : Pend) : ((completePend s key p).warp key).isNone = (s.warp key).isNone := by
  rw [completePend_eq]
  refine ((foldl_keeps (fun u : State => (u.warp key).isNone) (fun u _ _ => modWarp_isNone u key _) _).trans
    ((foldl_keeps (fun u : State => (u.warp key).isNone) (fun u g _ => ?_) _).trans (modWarp_isNone s key _)) :)
  unfold landReg storeReg
  split
  · exact modWarp_isNone u key _
  · rfl

/-- A completed instruction is no longer in the list of its warp. -/
theorem completePend_gone {s : State} {key : Nat} {p : Pend} {v : Warp} (hv : (completePend s key p).warp key = some v) : ∀ q ∈ v.pend, q.op ≠ p.op := by
  cases hw : s.warp key with
  | none =>
    have hnone := completePend_isNone s key p
    rw [hv, hw] at hnone
    cases hnone
  | some w =>
    obtain ⟨x, ⟨hx, hkept, -, -⟩, -⟩ := completePend_lands hw p
    obtain rfl := Option.some.inj (hv.symm.trans hx)
    have hpend : v.pend = w.pend.filter (fun q => q.op != p.op) := (congrArg Warp.pend hkept :)
    intro q hq
    rw [hpend] at hq
    simpa using (List.mem_filter.mp hq).2

/-! ## The issuer of an abandoned command -/

/-- The state without what a completion and a trap of an issuer may change. -/
def State.offIssuer (s : State) : State := { s with warps := [], quads := [], draw := 0, nextOp := 0, crews := [], cores := [] }

theorem completeWith_offIssuer (s : State) (key : Nat) (p : Pend) (v : Word) : (completeWith s key p v).offIssuer = s.offIssuer :=
  (congrArg State.offIssuer (completeWith_outside s key p v) :)

theorem raiseLate_offIssuer (s : State) (key : Nat) (t : TrapRec) (handlers : Bool) : (raiseLate s key t handlers).offIssuer = s.offIssuer :=
  (congrArg State.offIssuer (raiseLate_offCore s key t handlers) :)

theorem offIssuer_mem {s t : State} (h : t.offIssuer = s.offIssuer) : t.mem = s.mem := (congrArg State.mem h :)
theorem offIssuer_faults {s t : State} (h : t.offIssuer = s.offIssuer) : t.faults = s.faults := (congrArg State.faults h :)
theorem offIssuer_clusters {s t : State} (h : t.offIssuer = s.offIssuer) : t.clusters = s.clusters := (congrArg State.clusters h :)
theorem offIssuer_snaps {s t : State} (h : t.offIssuer = s.offIssuer) : t.snaps = s.snaps := (congrArg State.snaps h :)
theorem offIssuer_pkg {s t : State} (h : t.offIssuer = s.offIssuer) : t.pkg = s.pkg := (congrArg State.pkg h :)

/-- A record that is sent is on its way; only one of type 1 has a tag (R412). -/
theorem sendFault_sent (s : State) {f : FaultRec} (h : f.ftype ≠ 1) : { f with tag := 0 } ∈ (sendFault s f).faults := by
  refine List.mem_append_right _ (List.mem_singleton.mpr ?_)
  rw [if_neg h]

/-- What a record says beside its ring, launch and crew is what its unit gave. -/
theorem ofCrew_kept (s : State) (crew : Nat) (f : FaultRec) :
    { ofCrew s crew f with ring := 0, launchid := 0, vcrew := 0 } = { f with ring := 0, launchid := 0, vcrew := 0 } := by
  unfold ofCrew
  split
  · rfl
  · split <;> rfl

/-- Nothing waits for what is over. -/
theorem orphanFaults_waiter (s : State) {who : Waiter} (h : who ≠ .nobody) : ∀ g ∈ (orphanFaults s who).faults, g.waiter ≠ who := by
  intro g hg
  obtain ⟨f, -, hf⟩ := List.mem_filterMap.mp hg
  split at hf
  · obtain rfl := Option.some.inj hf
    simpa using ‹(f.waiter != who) = true›
  · split at hf
    · cases hf
    · obtain rfl := Option.some.inj hf
      exact h.symm

/-! ## Counts into arrival words and invalidated words -/

@[simp] theorem trapLate_offCore (s : State) (key : Nat) (p : Pend) (cause : Nat) : (trapLate s key p cause).offCore = s.offCore :=
  raiseLate_offCore s key _ _

@[simp] theorem releaseBad_offCore (s : State) (crew : Nat) (bads : List Nat) : (releaseBad s crew bads).offCore = s.offCore :=
  (foldl_keeps State.offCore (fun s e _ => trapLate_offCore s e.1 e.2 cPOISON) _).trans (releaseAwaits_offCore s crew bads)

@[simp] theorem countInto_offCore (s : State) (crew a n : Nat) : (countInto s crew a n).1.offCore = s.offCore := by
  unfold countInto
  split
  · rfl
  · split <;> simp

@[simp] theorem l1Invalidate_offCore (s : State) (core ln : Nat) (m : BitVec 32) : (l1Invalidate s core ln m).offCore = s.offCore := by
  unfold l1Invalidate
  split
  · rfl
  · unfold l1Put
    split <;> rfl

/-! ## Tables of the package: descriptors and peers (R406, R445) -/

/-- The state without what the reading of a table entry may change: what a read may, and the records of entries that are uncorrectable. -/
def State.offTables (s : State) : State := { s with slices := [], mem := [], memBad := [], tlb := [], faults := [], nextTag := 0 }

theorem offTables_of_offReads {s t : State} (h : t.offReads = s.offReads) : t.offTables = s.offTables := (congrArg State.offTables h :)
theorem offTables_pkg {s t : State} (h : t.offTables = s.offTables) : t.pkg = s.pkg := (congrArg State.pkg h :)
theorem offTables_snaps {s t : State} (h : t.offTables = s.offTables) : t.snaps = s.snaps := (congrArg State.snaps h :)
theorem offTables_crews {s t : State} (h : t.offTables = s.offTables) : t.crews = s.crews := (congrArg State.crews h :)
theorem offTables_warps {s t : State} (h : t.offTables = s.offTables) : t.warps = s.warps := (congrArg State.warps h :)
theorem offTables_cores {s t : State} (h : t.offTables = s.offTables) : t.cores = s.cores := (congrArg State.cores h :)

@[simp] theorem tableMark_offTables (s : State) (unit ctx : Nat) (cr : CtxRegs) (word : Nat) (bad : Bool) :
    (tableMark s unit ctx cr word bad).offTables = s.offTables := by
  unfold tableMark
  split <;> rfl

@[simp] theorem descWords_offReads (s : State) (ctx : Nat) : (descWords s ctx).1.offReads = s.offReads :=
  foldl_keeps (fun a : State × List Nat × Bool => a.1.offReads) (fun a _ _ => walkRead_offReads a.1 _) _

@[simp] theorem readDesc_offTables (s : State) (unit ctx : Nat) : (readDesc s unit ctx).1.offTables = s.offTables := by
  have hwords := descWords_offReads s ctx
  unfold readDesc
  generalize descWords s ctx = r at hwords ⊢
  exact (tableMark_offTables _ _ _ _ _ _).trans (offTables_of_offReads hwords)

@[simp] theorem peerPaths_offTables (s : State) (cr : CtxRegs) (conn : Nat) : (peerPaths s cr conn).1.offTables = s.offTables := by
  unfold peerPaths
  exact (tableMark_offTables _ _ _ _ _ _).trans (offTables_of_offReads (walkRead_offReads _ _))

@[simp] theorem peerName_offTables (s : State) (cr : CtxRegs) (conn : Nat) : (peerName s cr conn).1.offTables = s.offTables := by
  have hread := walkRead_offReads s (cr.fabric.toNat / 2 ^ 32 * 65536 + 16 * (conn % 4096))
  unfold peerName
  generalize walkRead s _ = r at hread ⊢
  exact (tableMark_offTables _ _ _ _ _ _).trans (offTables_of_offReads hread)

/-- A packet that is sent changes its connection; the reading of the peer table changes what such a reading may. -/
theorem sendPacket_eq (s : State) (cr : CtxRegs) (conn : Nat) (cmd : Option Nat) (snap : Option (Nat × Nat)) (body : PacketBody) :
    ∃ (s1 : State) (k : Conn) (p : FPacket), s1.offTables = s.offTables ∧ sendPacket s cr conn cmd snap body = s1.modConn conn (fun _ => k) ∧
      k.unacked = (s.conn conn).unacked ++ [p] ∧ p.cmd = cmd ∧ p.snap = snap ∧ p.body = body := by
  have h1 : (peerPaths (peerName s cr conn).1 cr conn).1.offTables = s.offTables :=
    (peerPaths_offTables _ _ _).trans (peerName_offTables s cr conn)
  have hconn : (peerPaths (peerName s cr conn).1 cr conn).1.conn conn = s.conn conn := by
    rw [State.conn, offTables_pkg h1]
    rfl
  exact ⟨_, _, _, h1, rfl, congrArg (fun k : Conn => k.unacked ++ [_]) hconn, rfl, rfl, rfl⟩

end Sys2Proof.Machine
end

section
/-! PROOF. A fault record goes into its ring, or waits for room there (16_package.md R405, R412, R413). -/

namespace Sys2Proof.Machine

theorem bytesLE_length (v n : Nat) : (bytesLE v n).length = n := by
  induction n generalizing v with
  | zero => rfl
  | succ n ih => simp [bytesLE, ih]

theorem recordBytes_length (f : FaultRec) (seq : Nat) : (recordBytes f seq).length = 64 := by
  simp only [recordBytes, List.length_append, bytesLE_length, List.length_cons, List.length_nil]

/-- The number that bytes make up, lowest first, stays below the power of 256 of their count. -/
theorem foldr_bytes_lt (bs : List Byte) : bs.foldr (fun b a => b.toNat + 256 * a) 0 < 2 ^ (8 * bs.length) := by
  induction bs with
  | nil => decide
  | cons b bs ih =>
    have hb : b.toNat < 256 := b.isLt
    rw [List.foldr_cons, List.length_cons, Nat.mul_succ, Nat.pow_add]
    omega

/-- A record whose ring has room goes to its line, past what may hold that line. -/
theorem writeRecord_room {s s1 : State} {n i pa : Nat} {f : FaultRec} {g : FRing} (hf : s.faults[n]? = some f) (hw : f.written = false)
    (hi : faultRing f.asid = i) (hg : s.fring i = g) (hpa : g.base + 64 * (g.head % 2 ^ (g.cfg % 32)) = pa) (hroom : fringRoom g = true)
    (hfree : lineHeld s (.record i) f.unit (pa / 128) true = false)
    (hstore : homeStore (engineGoes s (.record i) f.unit (pa / 128)) pa 64 ((recordBytes f s.seq).foldr (fun b a => b.toNat + 256 * a) 0) false true =
      .ok s1) :
    writeRecord s n = raiseIrq { s1.setFring i { g with head := (g.head + 1) % 2 ^ 64 } with
        seq := s.seq + 1, faults := if f.waiter = .nobody then s1.faults.eraseIdx n else s1.faults.set n { f with written := true } }
      (g.cfg.testBit 17) (if g.cfg.testBit 17 then g.cfg / 2 ^ 20 % 32 else i) := by
  simp only [writeRecord, hf, hw, hi, hg, hpa, hroom, hfree, hstore, Bool.false_eq_true, Bool.not_true, if_false]
  cases g.cfg.testBit 17 <;> rfl

/-- A record whose ring has no room waits, and is counted once. -/
theorem writeRecord_full {s : State} {n i : Nat} {f : FaultRec} {g : FRing} (hf : s.faults[n]? = some f) (hw : f.written = false)
    (hi : faultRing f.asid = i) (hg : s.fring i = g) (hfull : fringRoom g = false) : writeRecord s n = if f.counted then s
      else { s.setFring i { g with stat := (g.stat + 1) % 2 ^ 32 } with faults := s.faults.set n { f with counted := true } } := by
  simp only [writeRecord, hf, hw, hi, hg, hfull, Bool.false_eq_true, Bool.not_false, if_false, if_true]

end Sys2Proof.Machine

namespace Sys2Proof.Proofs
open Sys2Proof Sys2Proof.Machine

/-- Settles O44: the store at FHEAD leaves the record's bytes in their line and the rest of the package, with the record's ring, as it was. -/
theorem faultRecordResults : Obligations.FaultRecordResults := by
  unfold Obligations.FaultRecordResults
  intro n s f hf hw hz i g pa v
  have hexec : exec (.faultRecordWrite n) s = .next (writeRecord s n) := congrArg _ (if_neg (by simp [hz]))
  refine ⟨fun s1 hroom hfree hstore => ?room, fun hfull => ?full⟩
  case room =>
    have hkept : s1.offHomes = s.offHomes := (homeStore_offHomes hstore).trans (offHomes_of_offReads (engineGoes_offReads _ _ _ _))
    have hpkg : s1.pkg = s.pkg := offHomes_pkg hkept
    have hfaults : s1.faults = s.faults := offHomes_faults hkept
    have hv : v < 2 ^ (8 * 64) := recordBytes_length f s.seq ▸ foldr_bytes_lt _
    have hring := State.setFring_same s1 i { g with head := (g.head + 1) % 2 ^ 64 }
    obtain ⟨l, -, hl, -⟩ := homeWrite_line hstore
    refine ⟨_, l, hexec.trans (congrArg _ (writeRecord_room hf hw rfl rfl rfl hroom hfree hstore)), (congrArg FRing.head hring :),
      (congrArg FRing.base hring :), (congrArg FRing.tail hring :), rfl, ?irq, ?faults, hl, fun hfit => ?bytes⟩
    case irq =>
      show s1.pkg.irqs ++ [_] = _
      rw [hpkg]
      cases hbit : g.cfg.testBit 17 <;> rfl
    case faults =>
      show (if f.waiter = .nobody then s1.faults.eraseIdx n else s1.faults.set n _) = _
      rw [hfaults]
    case bytes =>
      obtain ⟨l2, hl2, htake⟩ := homeStore_line hstore (by omega)
      obtain rfl : l = l2 := Option.some.inj (hl.symm.trans hl2)
      rw [htake, Nat.mod_eq_of_lt hv]
  case full =>
    have hwrite := writeRecord_full hf hw rfl rfl hfull
    cases hc : f.counted with
    | true =>
      rw [hc, if_pos rfl] at hwrite
      obtain ⟨hn, hget⟩ := List.getElem?_eq_some_iff.mp hf
      have hsame : { f with counted := true } = s.faults[n] := by rw [hget, ← hc]
      exact ⟨s, hexec.trans (congrArg _ hwrite), rfl, rfl, rfl, by rw [hsame, List.set_getElem_self]⟩
    | false =>
      rw [hc, if_neg (by decide)] at hwrite
      exact ⟨_, hexec.trans (congrArg _ hwrite), rfl, rfl, (congrArg FRing.stat (State.setFring_same s i _) :), rfl⟩

end Sys2Proof.Proofs
end

section
/-! PROOF. A launch ends and a save is withdrawn (16_package.md R427, R432). -/

namespace Sys2Proof.Machine

/-- A launch leaves: with its interrupt, if any, the lists of launches change and nothing else. -/
theorem launchLeaves_eq (s : State) (l : Launch) : ∃ irqs, launchLeaves s l = s.modPkg (fun p => { p with
    launches := p.launches.filter (fun x => x.id != l.id)
    finished := p.finished.filter (fun e => e != (l.ring, l.lid)) ++ [(l.ring, l.lid)], irqs := irqs }) := by
  unfold launchLeaves ringIrq raiseIrq
  dsimp only
  split
  · split <;> exact ⟨_, rfl⟩
  · exact ⟨_, rfl⟩

/-- A launch that is over, past the test of its own word. -/
theorem execLaunchCompletion_over {id : Nat} {s : State} {l : Launch} (hl : s.pkg.launches.find? (fun x => x.id = id) = some l)
    (hover : launchOver s l = true) (hz : s.pkg.frozen = false) (hfault : s.faults.any (fun f => f.waiter = .done id) = false) :
    (l.done = 0 → exec (.launchCompletion id) s = .next (launchLeaves s l)) ∧
    (l.done ≠ 0 → storesHome s l = false → exec (.launchCompletion id) s = .next s) := by
  have hexec : exec (.launchCompletion id) s = execLaunchCompletion id s := rfl
  refine ⟨fun hd => ?_, fun hd hstores => ?_⟩ <;>
    simp [hexec, execLaunchCompletion, hl, hover, hz, hfault, hd]
  simp [hstores]

theorem doneWord_lt {l : Launch} (hlid : l.lid < 2 ^ 16) (hfaulted : l.faulted < 2 ^ 32) : doneWord l < 2 ^ (8 * 8) := by
  unfold doneWord
  split <;> omega

/-- Once its word is at its home the launch leaves. -/
theorem execLaunchCompletion_written {id pa : Nat} {s s2 s3 : State} {l : Launch} (hl : s.pkg.launches.find? (fun x => x.id = id) = some l)
    (hover : launchOver s l = true) (hz : s.pkg.frozen = false) (hfault : s.faults.any (fun f => f.waiter = .done id) = false)
    (hd : l.done ≠ 0) (hstores : storesHome s l = true) (htop : l.done < 2 ^ 52) (hwindow : fabricVa (readDesc s (dispUnit l.ring) l.ctx).2 l.done = false)
    (htr : envTr ⟨dispUnit l.ring, (readDesc s (dispUnit l.ring) l.ctx).2, .done id⟩ (readDesc s (dispUnit l.ring) l.ctx).1 l.done permW = .ok (s2, pa))
    (hfree : lineHeld s2 (.done id) (dispUnit l.ring) (pa / 128) true = false)
    (hstore : homeStore (engineGoes s2 (.done id) (dispUnit l.ring) (pa / 128)) pa 8 (doneWord l) false true = .ok s3) :
    exec (.launchCompletion id) s = .next (launchLeaves s3 l) := by
  have hexec : exec (.launchCompletion id) s = execLaunchCompletion id s := rfl
  have hin : ¬ 2 ^ 52 ≤ l.done := by omega
  simp [hexec, execLaunchCompletion, hl, hover, hz, hfault, hd, hstores, hin, hwindow, htr, hfree, hstore, -Nat.reducePow]

/-- A withdrawn save: the crew's runs are candidates again, and the CTXSAVE that asked for it completes. -/
theorem withdrawSave_outside (s : State) (id : Nat) : (withdrawSave s id).outside = (s.modCrew id (fun c => { c with preempt := none })).outside := by
  refine foldl_keeps State.outside (fun s e _ => foldl_keeps State.outside (fun s p _ => ?_) s) _
  split
  · split
    · exact completeWith_outside _ _ _ _
    · rfl
  · rfl

end Sys2Proof.Machine

namespace Sys2Proof.Proofs
open Sys2Proof Sys2Proof.Machine

/-- Settles O48: the store of the completion word leaves the package as it was, and a withdrawal changes the crew and warps alone. -/
theorem launchEndResults : Obligations.LaunchEndResults := by
  unfold Obligations.LaunchEndResults
  refine ⟨fun id s l hl hover hz hfault => ⟨fun hd => ?silent, fun hd hstores => ?waits, fun hd hstores htop => ?word⟩,
    fun crew n s c hc hp hlate hstop hz => ?withdrawn⟩
  case silent =>
    obtain ⟨irqs, hleaves⟩ := launchLeaves_eq s l
    refine ⟨_, (execLaunchCompletion_over hl hover hz hfault).1 hd, ?_⟩
    rw [hleaves]
    exact ⟨rfl, List.mem_append_right _ List.mem_cons_self, rfl⟩
  case waits => exact (execLaunchCompletion_over hl hover hz hfault).2 hd hstores
  case word =>
    have hread := offTables_pkg (readDesc_offTables s (dispUnit l.ring) l.ctx)
    generalize hdesc : readDesc s (dispUnit l.ring) l.ctx = desc at hread ⊢
    intro _ hwindow s2 pa s3 htr hfree halign hstore hlid hfaulted
    obtain ⟨irqs, hleaves⟩ := launchLeaves_eq s3 l
    have hexec := execLaunchCompletion_written hl hover hz hfault hd hstores htop (hdesc ▸ hwindow) (hdesc ▸ htr) hfree hstore
    have hkept : s3.offHomes = desc.1.offHomes := (homeStore_offHomes hstore).trans (offHomes_of_offReads
      ((engineGoes_offReads _ _ _ _).trans (envTr_offReads htr)))
    have hpkg : s3.pkg = s.pkg := (offHomes_pkg hkept).trans hread
    obtain ⟨x, hx, htake⟩ := homeStore_line hstore (word_in_line halign)
    refine ⟨_, x, hexec, ?_⟩
    rw [hleaves]
    refine ⟨?launches, List.mem_append_right _ List.mem_cons_self, hx, ?value⟩
    case launches =>
      show s3.pkg.launches.filter _ = _
      rw [hpkg]
    case value => exact htake.trans (Nat.mod_eq_of_lt (doneWord_lt hlid hfaulted))
  case withdrawn =>
    have hexec : exec (.ctxsaveWithdraw crew) s = .next (withdrawSave s crew) := by
      show execCtxsaveWithdraw crew s = _
      simp [execCtxsaveWithdraw, hc, hp, hlate, hstop, hz]
    have hout := withdrawSave_outside s crew
    have hmod : s.modCrew crew (fun c => { c with preempt := none }) = s.setCrew crew { c with preempt := none } := by
      simp [State.modCrew, hc]
    rw [hmod] at hout
    have hcrew : ∀ k, (withdrawSave s crew).crew k = (s.setCrew crew { c with preempt := none }).crew k := fun k => (congrArg (fun u => u.crew k) hout :)
    exact ⟨_, hexec, (hcrew crew).trans (State.setCrew_same _ _ _), fun k hk => (hcrew k).trans (State.setCrew_ne _ _ _ _ hk),
      (congrArg State.mem hout :), (congrArg State.pkg hout :)⟩

end Sys2Proof.Proofs
end

section
/-! PROOF. The answers to fault records (16_package.md R414, 07_thread_control_traps.md R191, R192, 12_cluster_copy_gemm.md R323,
13_die_cache.md R352). -/

namespace Sys2Proof.Machine

/-- A waiting record is found by its tag. -/
theorem waitingRecord_tag {s : State} {tag : Nat} {f : FaultRec} (h : waitingRecord s tag = some f) : f.tag = tag := by
  unfold waitingRecord at h
  split at h
  · cases h
  · have := List.find?_some h
    simp only [Bool.and_eq_true, decide_eq_true_eq] at this
    exact this.1.1

/-- RETRY of a waiting record. -/
theorem execFrespRetry_some {s : State} {tag : Nat} {f : FaultRec} (h : waitingRecord s tag = some f) (hz : s.pkg.frozen = false) :
    exec (.frespRetry tag) s = .next (retryFault s f) := by
  show execFrespRetry tag s = _
  simp [execFrespRetry, h, hz]

/-- ABORT of a waiting record. -/
theorem execFrespAbort_some {s : State} {tag : Nat} {f : FaultRec} (h : waitingRecord s tag = some f) (hz : s.pkg.frozen = false) :
    exec (.frespAbort tag) s = .next (abortFault s f) := by
  show execFrespAbort tag s = _
  simp [execFrespAbort, h, hz]

/-- RETRY of what is no access changes no more than the records and the core that it wakes. -/
theorem retryFault_frame (s : State) {f : FaultRec} (h : ∀ k op, f.waiter ≠ .access k op) : (retryFault s f).faults = (answered s f.tag).faults ∧
    { retryFault s f with faults := [], cores := [] } = { s with faults := [], cores := [] } := by
  unfold retryFault
  dsimp only
  split
  · exact absurd ‹_› (h _ _)
  · have hwake := wakeCore_frame (answered s f.tag) (keyUnit ‹Nat›) 4
    exact ⟨(congrArg State.faults hwake :), (congrArg (fun u : State => { u with faults := [] }) hwake :)⟩
  · exact ⟨rfl, rfl⟩

/-- A late trap of an abandoned access goes before every other held one but those like it (R192). -/
theorem raiseLate_leads {s : State} {key : Nat} {w : Warp} {t : TrapRec} (hw : s.warp key = some w) (hghost : isGhost key = false)
    (hleads : leads t = true) : raiseLate s key t false = s.setWarp key { w with
      traps := (w.traps.filter (fun u => u.late)).filter leads ++ [t] ++ (w.traps.filter (fun u => u.late)).filter (fun u => !leads u) } := by
  simp only [raiseLate, hw, hghost, hleads, Bool.false_eq_true, if_false, if_true]

/-- The trap of a run whose fetch is abandoned (R414). -/
def heldTrap (s : State) (pc : Word) (act : Mask) (va : Nat) : TrapRec :=
  { cause := cPAGE, stage := .execution, late := false, info := BitVec.ofNat 64 va, pc := pc, act := act, exec := act, word := freeInst s,
    slots := some (List.replicate 5 emptyRow), cycle := s.cycle }

/-- The late trap of a parked access that becomes unrecoverable. -/
def parkedTrap (s : State) (p : Pend) (m : MemOp) (sl : List Row) (va : Nat) : TrapRec :=
  { cause := cPAGE, stage := .late, late := true, info := BitVec.ofNat 64 (m.fail.getD va), pc := p.pc, act := p.act, exec := p.exec, word := p.word,
    slots := some sl, cycle := s.cycle }

/-- A parked access that becomes unrecoverable leaves its warp, with its trap among the held ones. -/
theorem abandonAccess_parked {s : State} {key op va : Nat} {w : Warp} {p : Pend} {m : MemOp} {sl : List Row} (hw : s.warp key = some w)
    (hghost : isGhost key = false) (hp : findPend w op = some p) (hlate : p.late = .parked m sl) (htm : p.tm = false) :
    ∃ v, (abandonAccess s key op va).warp key = some v ∧ (abandonAccess s key op va).outside = s.outside ∧
      v.traps = (w.traps.filter (fun x => x.late)).filter leads ++ parkedTrap s p m sl va :: (w.traps.filter (fun x => x.late)).filter (fun x => !leads x) ∧
      v.pend = w.pend.filter (fun q => q.op != p.op) ∧ v.ctrs = ctrSub w.ctrs p.ctrs := by
  have hgo : abandonAccess s key op va = raiseLate (completePend s key { p with
      regs := p.regs.map (fun g => { g with clob := g.mask }), preds := p.preds.map (fun g => { g with clob := g.mask }) }) key
      (parkedTrap s p m sl va) false := by
    simp only [abandonAccess, hw, hp, hlate, htm]
    rfl
  obtain ⟨v, ⟨hv, hkept, -, -⟩, -⟩ := completePend_lands hw { p with
    regs := p.regs.map (fun g => { g with clob := g.mask }), preds := p.preds.map (fun g => { g with clob := g.mask }) }
  have htraps : v.traps = w.traps := (congrArg Warp.traps hkept :)
  rw [hgo, raiseLate_leads hv hghost rfl, htraps]
  refine ⟨_, warp_setWarp_same _ _ _, (completePend_outside s key _ :), ?_, (congrArg Warp.pend hkept :), (congrArg Warp.ctrs hkept :)⟩
  simp

/-- A command of a copy engine that is abandoned is gone, and its record is on its way (R323). -/
theorem cpyGiveUp_leaves {s : State} {cl id : Nat} {c : CpyCmd} (hfind : (s.cluster cl).copies.find? (fun x => x.id = id) = some c) (reason : Nat) :
    (∀ x ∈ ((cpyGiveUp s cl id reason).cluster cl).copies, x.id ≠ id) ∧
    ∃ g ∈ (cpyGiveUp s cl id reason).faults, g.ftype = 4 ∧ g.reason = reason ∧ g.unit = 1368 + cl := by
  simp only [cpyGiveUp, hfind]
  generalize (if reason = 1 then c.hs else _ : Nat) = h
  generalize hs1 : s.modCluster cl _ = s1
  generalize hr : ofCrew s c.crew _ = r
  have hkept : ∀ u : State, u.offIssuer = (sendFault (orphanFaults s1 (.copy cl id)) r).offIssuer →
      (∀ x ∈ (u.cluster cl).copies, x.id ≠ id) ∧ ∃ g ∈ u.faults, g.ftype = 4 ∧ g.reason = reason ∧ g.unit = 1368 + cl := by
    intro u hu
    obtain ⟨htype, hreason, hunit, -⟩ : r.ftype = 4 ∧ r.reason = reason ∧ r.unit = 1368 + cl ∧ _ := hr ▸ ofCrew_fields s c.crew _
    have hcopies : (u.cluster cl).copies = (s.cluster cl).copies.filter (fun x => x.id != id) := by
      have hclusters : u.clusters = s1.clusters := (offIssuer_clusters hu :)
      rw [State.cluster, hclusters, ← State.cluster, ← hs1, State.modCluster_same]
    refine ⟨fun x hx => ?_, { r with tag := 0 }, offIssuer_faults hu ▸ sendFault_sent _ (by rw [htype]; decide), htype, hreason, hunit⟩
    rw [hcopies] at hx
    simpa using (List.mem_filter.mp hx).2
  split
  · exact hkept _ rfl
  · split
    · exact hkept _ rfl
    · exact hkept _ (raiseLate_offIssuer _ _ _ _)

/-! ## The abandonment of a snapshot (R352) -/

/-- The record of an abandoned snapshot. -/
def snapRecord (s : State) (id unit reason : Nat) : FaultRec :=
  ofCrew s (s.snap id).crew (engineFault 5 reason (if reason = 8 then 9 else if reason = 11 then 8 else 10) (s.snap id).cregs (s.snap id).ctx 0 unit 0
    (BitVec.ofNat 64 ((if reason = 8 then (s.snap id).handle else (s.snap id).dstHandle) + reason * 4096 + id * 65536)) .nobody)

/-- The state once an active snapshot is abandoned and its record sent. -/
def snapLeft (s : State) (id unit reason : Nat) : State :=
  sendFault (orphanFaults { s.setSnap id { s.snap id with active := false, abandoned := true } with
    slices := s.slices.map (fun e => (e.1, { e.2 with drain := e.2.drain.filter (fun d => d.snap != id) })) } (.snap id)) (snapRecord s id unit reason)

/-- Beyond its table, its copies and its record an abandonment reaches the issuer alone. -/
theorem snapGiveUp_offIssuer {s : State} {id : Nat} (hactive : (s.snap id).active = true) (unit reason : Nat) :
    (snapGiveUp s id unit reason).offIssuer = (snapLeft s id unit reason).offIssuer := by
  simp only [snapGiveUp, hactive, Bool.not_true, Bool.false_eq_true, if_false]
  split
  · rfl
  · split
    · rfl
    · rw [raiseLate_offIssuer]
      split
      · exact completeWith_offIssuer _ _ _ _
      · rfl

/-- A snapshot that is abandoned is active no more, and marked so. -/
theorem snapGiveUp_snap {s : State} {id : Nat} (hid : id < 16) (hactive : (s.snap id).active = true) (unit reason : Nat) :
    (snapGiveUp s id unit reason).snap id = { s.snap id with active := false, abandoned := true } := by
  have hsnaps := congrArg (fun l : List Snap => l.getD id Snap.free) (offIssuer_snaps (snapGiveUp_offIssuer hactive unit reason))
  exact hsnaps.trans ((State.setSnap_snap s id _ id hid).trans (if_pos rfl))

end Sys2Proof.Machine

namespace Sys2Proof.Proofs
open Sys2Proof Sys2Proof.Machine

/-- Settles O45: each answer by what waited for it. -/
theorem faultAnswers : Obligations.FaultAnswers := by
  unfold Obligations.FaultAnswers
  intro tag s clear
  refine ⟨fun hnone => ?ignored, fun f hf hz => ?answered⟩
  case ignored =>
    constructor
    · show execFrespRetry tag s = _
      simp [execFrespRetry, hnone]
    · show execFrespAbort tag s = _
      simp [execFrespAbort, hnone]
  case answered =>
    obtain rfl := waitingRecord_tag hf
    have hretry := execFrespRetry_some hf hz
    have habort := execFrespAbort_some hf hz
    refine ⟨fun k op hk => ?retryAccess, fun hk => ?retryOther, fun k pc w hk hw hghost htm => ?fetch,
      fun k op w p m sl hk hw hghost hp hlate htm => ?access, fun cl id c hk hfind => ?copy, fun id hk hid hactive => ?snapshot⟩
    case retryAccess =>
      rw [hretry, retryFault, hk]
      rfl
    case retryOther => exact ⟨_, hretry, retryFault_frame s hk⟩
    case fetch =>
      intro act hact
      have hgo : abortFault s f = raiseTrap clear k (heldTrap clear pc act f.va) := by
        have hfetch : abortFault s f = fetchTrap clear k pc f.va := by
          rw [abortFault, hk]
          rfl
        rw [hfetch, fetchTrap, show clear.warp k = some w from hw]
        exact if_neg hact
      refine ⟨_, heldTrap clear pc act f.va, habort, ?_⟩
      rw [hgo, raiseTrap_pending (show clear.warp k = some w from hw) hghost htm]
      exact ⟨warp_setWarp_same _ _ _, rfl, rfl, rfl, rfl, rfl, rfl⟩
    case access =>
      obtain ⟨v, hv, hout, htraps, hpend, hctrs⟩ := abandonAccess_parked (s := clear) (va := f.va) hw hghost hp hlate htm
      have hgo : abortFault s f = replayWarp (abandonAccess clear k op f.va) k := by
        have haccess : abortFault s f = abortAccess clear k op f.va := by
          rw [abortFault, hk]
          rfl
        simp only [haccess, abortAccess, show clear.warp k = some w from hw, hp, hlate]
      exact ⟨abandonAccess clear k op f.va, v, parkedTrap clear p m sl f.va, habort.trans (congrArg _ hgo), hv, htraps, rfl, rfl, rfl, rfl, rfl, rfl,
        hpend, hctrs, (congrArg State.mem hout :), (congrArg State.faults hout :)⟩
    case copy =>
      have hgo : abortFault s f = cpyGiveUp clear cl id (if f.access.testBit 1 then 2 else if c.table.isSome then 5 else 1) := by
        rw [abortFault, hk]
        simp only [show (answered s f.tag).cluster cl = s.cluster cl from rfl, hfind]
        rfl
      obtain ⟨hgone, g, hg, hfields⟩ := cpyGiveUp_leaves (s := clear) hfind (if f.access.testBit 1 then 2 else if c.table.isSome then 5 else 1)
      exact ⟨_, g, habort.trans (congrArg _ hgo), hgone, hg, hfields⟩
    case snapshot =>
      have hgo : abortFault s f = snapGiveUp clear id f.unit (if f.access.testBit 1 then 9 else 8) := by
        rw [abortFault, hk]
        rfl
      have hsnap := snapGiveUp_snap (s := clear) hid hactive f.unit (if f.access.testBit 1 then 9 else 8)
      exact ⟨_, habort.trans (congrArg _ hgo), congrArg Snap.active hsnap, congrArg Snap.abandoned hsnap⟩

end Sys2Proof.Proofs
end

section
/-! PROOF. Lines, end and abandonment of a snapshot (13_die_cache.md R347-R352, 18_device.md R474). -/

namespace Sys2Proof.Machine

/-- What the counting of a line's bytes may change lies in the cores. -/
theorem snapCount_offCore (s : State) (x : Snap) (ln : Option Nat) : (snapCount s x ln).offCore = s.offCore := by
  unfold snapCount
  split
  · refine (countInto_offCore _ _ _ _).trans ?_
    split
    · exact l1Invalidate_offCore _ _ _ _
    · rfl
  · rfl

/-- A line that becomes a first candidate keeps its data and its marks. -/
theorem slLow_line {s : State} {ln : Nat} {l : SLine} (h : fmFind (s.slice (lineHome ln)).lines ln = some l) :
    fmFind ((slLow s [ln]).slice (lineHome ln)).lines ln = some { l with low := true } := by
  simp only [slLow, List.foldl_cons, List.foldl_nil, State.modSlice_same, h]
  exact fmFind_fmPut_same _ _ _

section Sends
variable {id k ln : Nat} {s : State} (hk : (s.snap id).src[k]? = some ln) (henter : snapEntered s id = true)
  (hsent : (s.snap id).sent.contains k = false) (hfault : s.faults.any (fun f => f.waiter = .snap id) = false)
  (hheld : snapCountHeld s (s.snap id) = false)
include hk henter hsent hfault hheld

/-- A line goes to its place in memory past everything that may hold it. -/
theorem drainSend_goes {s1 s2 s3 : State} {pa : Nat} {d : Line} {bad : BitVec 16} (hlocal : (s.snap id).fabric = false)
    (hseal : sealHit s ((s.snap id).cregs.asid.toNat % 65536) ((s.snap id).dst + 128 * k) 128 = false)
    (htr : envTr ⟨lineDrain ln, (s.snap id).cregs, .snap id⟩ s ((s.snap id).dst + 128 * k) permW = .ok (s1, pa))
    (hline : snapLine s1 id k ln = .ok (s2, d, bad))
    (hfree : lineHeld (s2.setSnap id { s.snap id with sent := (s.snap id).sent ++ [k] }) (.snap id) (lineDrain ln) (pa / 128) true = false)
    (hwrite : homeWrite (engineGoes (s2.setSnap id { s.snap id with sent := (s.snap id).sent ++ [k] }) (.snap id) (lineDrain ln) (pa / 128))
      (pa / 128) (BitVec.allOnes 128) d bad true = .ok s3) :
    exec (.drainLineSend id k) s = .next (snapCount (slLow (noteWrites s3 [pa / 128]) [pa / 128]) (s.snap id) (some (pa / 128))) := by
  show execDrainLineSend id k s = _
  have hgo : ¬ (!snapEntered s id || (s.snap id).fabric || (s.snap id).sent.contains k || s.faults.any (fun f => f.waiter = .snap id)
      || snapCountHeld s (s.snap id)) = true := by
    simp only [henter, hlocal, hsent, hfault, hheld]
    decide
  dsimp only at hfree hwrite
  rw [execDrainLineSend, hlocal, if_neg Bool.false_ne_true]
  simp only [drainSend, hk, if_neg hgo, hseal, htr, hline, hfree, hwrite, Bool.false_eq_true, if_false]

/-- A line goes to a peer as a packet. -/
theorem drainPeer_goes {s1 : State} {d : Line} {bad : BitVec 16} (hpeer : (s.snap id).fabric = true)
    (hlive : (s.conn (connOf (s.snap id).ctx (fabSlot ((s.snap id).dst + 128 * k)))).failed = false)
    (hline : snapLine s id k ln = .ok (s1, d, bad)) :
    exec (.drainLineSend id k) s = .next (sendPacket
      (s1.setSnap id { s.snap id with sent := (s.snap id).sent ++ [k], unacked := (s.snap id).unacked ++ [k] }) (s.snap id).cregs
      (connOf (s.snap id).ctx (fabSlot ((s.snap id).dst + 128 * k))) none (some (id, k))
      (.write (fabOff ((s.snap id).dst + 128 * k)) ((List.range 16).map (fun i => (d.extractLsb' (64 * i) 64, bad.getLsbD i))))) := by
  show execDrainLineSend id k s = _
  have hgo : ¬ (!snapEntered s id || !(s.snap id).fabric || (s.snap id).sent.contains k || s.faults.any (fun f => f.waiter = .snap id)
      || snapCountHeld s (s.snap id)) = true := by
    simp only [henter, hpeer, hsent, hfault, hheld]
    decide
  rw [execDrainLineSend, hpeer, if_pos rfl]
  simp only [drainPeer, hk, if_neg hgo, hlive, hline, Bool.false_eq_true, if_false]

end Sends

/-- A snapshot that has entered its slices is active. -/
theorem snapEntered_active {s : State} {id : Nat} (h : snapEntered s id = true) : (s.snap id).active = true := (Bool.and_eq_true_iff.mp h).1

/-- An active snapshot that may be abandoned is. -/
theorem execSnapshotAbandon_goes {s : State} {id reason : Nat} (hactive : (s.snap id).active = true)
    (hwhy : (reason = 10 ∧ (s.snap id).fabric = false ∧ sealHit s ((s.snap id).cregs.asid.toNat % 65536) (s.snap id).dst (s.snap id).len = true)
      ∨ (reason = 11 ∧ (s.snap id).fabric = true ∧ (s.conn (connOf (s.snap id).ctx (fabSlot (s.snap id).dst))).failed = true) ∨ reason = 12) :
    exec (.snapshotAbandon id reason) s = .next (snapGiveUp s id (drainUnit (s.snap id)) reason) := by
  refine congrArg Host.Outcome.next (if_pos ?_)
  obtain ⟨rfl, hlocal, hseal⟩ | ⟨rfl, hpeer, hfailed⟩ | rfl := hwhy <;> simp [*]

theorem snapRecord_kept {s : State} {id unit reason : Nat} (h8 : reason ≠ 8) : (snapRecord s id unit reason).ftype = 5 ∧
    (snapRecord s id unit reason).reason = reason ∧ (snapRecord s id unit reason).unit = unit ∧ (snapRecord s id unit reason).ctxid = (s.snap id).ctx ∧
    (snapRecord s id unit reason).waiter = .nobody ∧
    (snapRecord s id unit reason).info = BitVec.ofNat 64 ((s.snap id).dstHandle + reason * 4096 + id * 65536) := by
  have hkept := ofCrew_kept s (s.snap id).crew (engineFault 5 reason (if reason = 8 then 9 else if reason = 11 then 8 else 10) (s.snap id).cregs
    (s.snap id).ctx 0 unit 0 (BitVec.ofNat 64 ((if reason = 8 then (s.snap id).handle else (s.snap id).dstHandle) + reason * 4096 + id * 65536)) .nobody)
  have hinfo : (snapRecord s id unit reason).info = BitVec.ofNat 64
      ((if reason = 8 then (s.snap id).handle else (s.snap id).dstHandle) + reason * 4096 + id * 65536) := (congrArg FaultRec.info hkept :)
  rw [if_neg h8] at hinfo
  exact ⟨(congrArg FaultRec.ftype hkept :), (congrArg FaultRec.reason hkept :), (congrArg FaultRec.unit hkept :), (congrArg FaultRec.ctxid hkept :),
    (congrArg FaultRec.waiter hkept :), hinfo⟩

/-- What waited for an abandoned snapshot waits no more. -/
theorem snapLeft_orphans {s : State} {id unit reason : Nat} (h8 : reason ≠ 8) : ∀ g ∈ (snapLeft s id unit reason).faults, g.waiter ≠ .snap id := by
  intro g hg
  obtain hg | hg := List.mem_append.mp hg
  · exact orphanFaults_waiter _ (who := .snap id) nofun g hg
  · obtain ⟨-, -, -, -, hwaiter, -⟩ := snapRecord_kept (s := s) (id := id) (unit := unit) h8
    rw [List.mem_singleton.mp hg, show FaultRec.waiter _ = Waiter.nobody from hwaiter]
    nofun

end Sys2Proof.Machine

namespace Sys2Proof.Proofs
open Sys2Proof Sys2Proof.Machine

/-- Settles O39: a write at a home and a packet leave the table of snapshots but for the line that counts as sent. -/
theorem snapshotResults : Obligations.SnapshotResults := by
  unfold Obligations.SnapshotResults
  intro id k ln s hid x
  refine ⟨fun hlocal hk henter hsent hfault hheld hseal => ?drained, fun hpeer hk henter hsent hfault hheld hlive => ?packet,
    fun henter hall hacked => ?finished, fun reason hactive hwhy => ?abandoned⟩
  case drained =>
    intro s1 pa s2 d bad s3 htr hline hfree hwrite
    obtain ⟨l, hl, hdata, hbad⟩ := homeWrite_whole hwrite
    have hcount := snapCount_offCore (slLow (noteWrites s3 [pa / 128]) [pa / 128]) x (some (pa / 128))
    have hsnaps : (snapCount (slLow (noteWrites s3 [pa / 128]) [pa / 128]) x (some (pa / 128))).snap id = { x with sent := x.sent ++ [k] } := by
      have hkept := offHomes_snaps ((homeWrite_offHomes hwrite).trans (offHomes_of_offReads (engineGoes_offReads _ _ _ _)))
      have hall : (snapCount (slLow (noteWrites s3 [pa / 128]) [pa / 128]) x (some (pa / 128))).snaps = _ := (congrArg State.snaps hcount :).trans hkept
      rw [State.snap, hall]
      exact (State.setSnap_snap s2 id _ id hid).trans (if_pos rfl)
    have hslice := (congrArg (fun u => u.slice (lineHome (pa / 128))) hcount :)
    exact ⟨_, { l with low := true }, drainSend_goes hk henter hsent hfault hheld hlocal hseal htr hline hfree hwrite, congrArg Snap.sent hsnaps,
      (congrArg Snap.active hsnaps).trans (snapEntered_active henter),
      (congrArg (fun sl => fmFind sl.lines (pa / 128)) hslice).trans (slLow_line (s := noteWrites s3 [pa / 128]) hl), hdata, hbad⟩
  case packet =>
    intro s1 d bad hline
    obtain ⟨s2, c, p, hkept, hsend, hunacked, -, hsnap, hbody⟩ := sendPacket_eq
      (s1.setSnap id { x with sent := x.sent ++ [k], unacked := x.unacked ++ [k] }) x.cregs (connOf x.ctx (fabSlot (x.dst + 128 * k))) none (some (id, k))
      (.write (fabOff (x.dst + 128 * k)) ((List.range 16).map (fun i => (d.extractLsb' (64 * i) 64, bad.getLsbD i))))
    refine ⟨_, p, drainPeer_goes hk henter hsent hfault hheld hpeer hlive hline, ?_⟩
    have hentry : (s2.modConn (connOf x.ctx (fabSlot (x.dst + 128 * k))) (fun _ => c)).snap id =
        { x with sent := x.sent ++ [k], unacked := x.unacked ++ [k] } := by
      rw [State.snap, State.modConn_snaps, offTables_snaps hkept]
      exact (State.setSnap_snap s1 id _ id hid).trans (if_pos rfl)
    rw [hsend]
    refine ⟨congrArg Snap.sent hentry, congrArg Snap.unacked hentry, ?_, hsnap, hbody⟩
    rw [State.modConn_same, hunacked]
    exact List.mem_append_right _ List.mem_cons_self
  case finished =>
    refine ⟨s.setSnap id Snap.free, congrArg _ (if_pos (by simp [henter, x, hall, hacked])), (State.setSnap_snap s id _ id hid).trans (if_pos rfl),
      fun j hj hne => (State.setSnap_snap s id _ j hj).trans (if_neg hne), rfl⟩
  case abandoned =>
    have hleft := snapGiveUp_offIssuer hactive (drainUnit x) reason
    have hsnap := snapGiveUp_snap hid hactive (drainUnit x) reason
    have hfaults := offIssuer_faults hleft
    have h8 : reason ≠ 8 := by omega
    obtain ⟨htype, hreason, hunit, hctx, -, hinfo⟩ := snapRecord_kept (s := s) (id := id) (unit := drainUnit x) h8
    refine ⟨_, { snapRecord s id (drainUnit x) reason with tag := 0 }, execSnapshotAbandon_goes hactive hwhy, congrArg Snap.active hsnap,
      congrArg Snap.abandoned hsnap, ?sent, htype, hreason, hinfo, hunit, hctx, ?orphans, (offIssuer_mem hleft :)⟩
    case sent =>
      rw [hfaults]
      exact sendFault_sent _ (htype ▸ by decide)
    case orphans =>
      rw [hfaults]
      exact snapLeft_orphans h8

end Sys2Proof.Proofs
end

section
/-! PROOF. Tile locks and the commit of a tile (14_die_tiles.md R359, R363-R368, R376). -/

namespace Sys2Proof.Machine

/-! ## What releases, marks and completions leave -/

/-- A released tile is forgotten. -/
theorem tileRelease_tiles (s : State) (id : Nat) : ∀ x ∈ (tileRelease s id).tiles, x.id ≠ id := fun x hx => by
  simpa using (List.mem_filter.mp hx).2

/-- A slice without the locks of a tile. -/
def Slice.released (sl : Slice) (id : Nat) : Slice := { sl with locks := sl.locks.filter (fun k => k.tile != id) }

/-- A released tile holds no lock. -/
theorem tileRelease_locks (s : State) (id j : Nat) : ∀ k ∈ ((tileRelease s id).slice j).locks, k.tile ≠ id := by
  have hslice : (tileRelease s id).slice j = ((fmFind s.slices j).map (fun v => v.released id)).getD Slice.start :=
    congrArg (fun o => Option.getD o Slice.start) (fmFind_map (fun v : Slice => v.released id) s.slices j)
  intro k hk
  rw [hslice] at hk
  cases hv : fmFind s.slices j with
  | none => simp [hv, Slice.start] at hk
  | some v =>
    rw [hv] at hk
    simpa using (List.mem_filter.mp hk).2

/-! ## The request of a lock (R359, R366-R368, R376) -/

/-- The request of a tile at a slice: the one that waits there, else one that arrives now. -/
def lockRequest (s : State) (t : Tile) (h : Nat) : TileLock :=
  ((s.slice h).locks.find? (fun k => k.tile = t.id)).getD
    { tile := t.id, lines := tileAt t h, store := t.store, granted := false, place := (s.slice h).clock }

/-- The tile has its lock at a slice, and goes on to the rest. -/
def lockGranted (s : State) (t : Tile) (h : Nat) (rest : List Nat) (k : TileLock) : State :=
  let s1 := s.modSlice h (fun sl => { sl with
    locks := (sl.locks.filter (fun x => x.tile != t.id)) ++ [{ k with granted := true }], clock := sl.clock + 1 })
  markAll { s1 with tiles := s1.tiles.map (fun x => if x.id = t.id then { x with todo := rest } else x) } k.lines t.unit

theorem lockGranted_locks (s : State) (t : Tile) (h : Nat) (rest : List Nat) (k : TileLock) :
    { k with granted := true } ∈ ((lockGranted s t h rest k).slice h).locks := by
  unfold lockGranted
  rw [markAll_locks]
  have hslice := State.modSlice_same s h (fun sl => { sl with
    locks := (sl.locks.filter (fun x => x.tile != t.id)) ++ [{ k with granted := true }], clock := sl.clock + 1 })
  exact (congrArg Slice.locks hslice :) ▸ List.mem_append_right _ List.mem_cons_self

theorem lockGranted_offSlices (s : State) (t : Tile) (h : Nat) (rest : List Nat) (k : TileLock) : (lockGranted s t h rest k).offSlices =
    { s with slices := [], tiles := s.tiles.map (fun x => if x.id = t.id then { x with todo := rest } else x) } :=
  markAll_offSlices _ _ _

/-- The tile has the rest to do. -/
theorem lockGranted_todo {s : State} {t : Tile} {h : Nat} {rest : List Nat} {k : TileLock} :
    ∀ x ∈ (lockGranted s t h rest k).tiles, x.id = t.id → x.todo = rest := by
  intro x hx hid
  rw [show (lockGranted s t h rest k).tiles = _ from (congrArg State.tiles (lockGranted_offSlices s t h rest k) :)] at hx
  obtain ⟨y, -, rfl⟩ := List.mem_map.mp hx
  split at hid
  · rw [if_pos ‹_›]
  · exact absurd hid ‹_›

section Locks
variable {s : State} {t : Tile} {h : Nat} {rest : List Nat} (hfind : s.tiles.find? (fun x => x.id = t.id) = some t) (hread : tileUnread s t = false)
  (htodo : t.todo = h :: rest) (hnet : s.net.any (fun r => r.unit = t.unit && r.id < t.id && lineHome r.line = h) = false)
  (hbefore : (tilesBefore s t h).all (fun x => (s.slice h).locks.any (fun k => k.tile = x.id)) = true)
  (hserved : (tileAt t h).any (fun ln => servedLater s ln t.unit) = false)
include hfind hread htodo hnet hbefore hserved

/-- A request whose turn it is is refused under a seal, waits, or is granted with its recalls. -/
theorem execTileLockGrant_turn : exec (.tileLockGrant t.id) s = .next (
    if t.store && t.els.any (fun e => lineHome (e.pa / 128) = h && sealHit s t.asid e.va t.es) then
      match tilePend s t with
      | some p => tileGiveUp (tileRelease s t.id) t.key p cSEALW (BitVec.ofNat 64 t.va0) none
      | none => tileRelease s t.id
    else if !(lockFree s h (lockRequest s t h) && (tilesBefore s t h).isEmpty) then
      if ((s.slice h).locks.find? (fun k => k.tile = t.id)).isSome then s
      else s.setSlice h { s.slice h with
        locks := (s.slice h).locks ++ [lockRequest s t h], clock := (s.slice h).clock + 1, lockw := (s.slice h).lockw + 1 }
    else match recallLines s (lockRequest s t h).lines with
      | .error v => evictFor s v
      | .ok s1 => lockGranted s1 t h rest (lockRequest s t h)) := by
  have hlocked : (tilesBefore s t h).any (fun x => !(s.slice h).locks.any (fun k => k.tile = x.id)) = false := by
    simpa [List.all_eq_true] using hbefore
  show execTileLockGrant t.id s = _
  simp only [execTileLockGrant, hfind]
  refine congrArg _ ?_
  rw [lockStep, htodo]
  exact if_neg (by rw [hread, hnet, hlocked, hserved]; decide)

end Locks

/-- The late trap of an STT into a sealed range. -/
def sealwTrap (s : State) (t : Tile) (p : Pend) : TrapRec :=
  { cause := cSEALW, stage := .late, late := true, info := BitVec.ofNat 64 t.va0, pc := p.pc, act := p.act, exec := p.exec, word := p.word,
    slots := none, cycle := s.cycle }

/-- A refused STT leaves its warp with a trap; its locks are gone and memory stays. -/
theorem tileGiveUp_sealed {s : State} {t : Tile} {p : Pend} {w : Warp} (hw : s.warp t.key = some w) (hghost : isGhost t.key = false)
    (htm : p.tm = false) : ∃ v, (tileGiveUp (tileRelease s t.id) t.key p cSEALW (BitVec.ofNat 64 t.va0) none).warp t.key = some v ∧
      v.traps = w.traps ++ [sealwTrap s t p] ∧ v.pend = w.pend.filter (fun q => q.op != p.op) ∧
      (tileGiveUp (tileRelease s t.id) t.key p cSEALW (BitVec.ofNat 64 t.va0) none).outside = (tileRelease s t.id).outside := by
  obtain ⟨v, ⟨hv, hkept, -, -⟩, -⟩ := completePend_lands (s := tileRelease s t.id) hw p
  have hgiven : tileGiveUp (tileRelease s t.id) t.key p cSEALW (BitVec.ofNat 64 t.va0) none =
      (completePend (tileRelease s t.id) t.key p).setWarp t.key { v with traps := v.traps ++ [sealwTrap s t p] } := by
    rw [tileGiveUp, htm]
    exact raiseLate_held hv hghost rfl
  rw [hgiven]
  exact ⟨_, warp_setWarp_same _ _ _, congrArg (· ++ [sealwTrap s t p]) (congrArg Warp.traps hkept :), (congrArg Warp.pend hkept :),
    (completePend_outside _ _ _ :)⟩

/-! ## The commit (R363, R364) -/

/-- A tile that has its locks and whose elements have moved. -/
theorem execTileCommit_moves {s s1 : State} {t : Tile} (hfind : s.tiles.find? (fun x => x.id = t.id) = some t) (hread : tileUnread s t = false)
    (htodo : t.todo = []) (hwaits : tileWaits s t = false)
    (hready : (if t.sealed then tileSealed s t else !(tileLines t).any (fun ln => servedLater s ln t.unit)) = true)
    (hmove : tileMove s t = .ok s1) : ∃ u, u.offSlices = (tileRelease s1 t.id).offSlices ∧
      (∀ j, (u.slice j).locks = ((tileRelease (if t.low then slLow s1 (tileLines t) else s1) t.id).slice j).locks) ∧
      exec (.tileCommit t.id) s = .next (match tilePend s t with
        | some p => completePend u t.key p
        | none => u) := by
  refine ⟨markAll (tileRelease (if t.low then slLow s1 (tileLines t) else s1) t.id) (if t.sealed then [] else tileLines t) t.unit, ?rest,
    fun j => markAll_locks _ _ _ j, ?goes⟩
  case rest =>
    rw [markAll_offSlices]
    split
    · exact (congrArg (fun u : State => { u with tiles := u.tiles.filter (fun x => x.id != t.id) }) (slLow_offSlices s1 (tileLines t)) :)
    · rfl
  case goes =>
    show execTileCommit t.id s = _
    simp only [execTileCommit, hfind]
    refine congrArg _ ?_
    rw [tileCommit, htodo, hread, hwaits, hmove]
    cases hs : t.sealed with
    | false =>
      rw [hs] at hready
      have hserved : (tileLines t).any (fun ln => servedLater s ln t.unit) = false := by simpa using hready
      rw [hserved]
      rfl
    | true =>
      rw [hs, if_pos rfl] at hready
      rw [hready]
      rfl

end Sys2Proof.Machine

namespace Sys2Proof.Proofs
open Sys2Proof Sys2Proof.Machine

/-- Settles O40: the request of a lock by its four ends, and the commit. -/
theorem tileResults : Obligations.TileResults := by
  unfold Obligations.TileResults
  intro s t hfind hread
  refine ⟨fun h rest htodo hnet hbefore hserved => ?lock, fun s1 htodo hwaits hready hmove => ?commit⟩
  case lock =>
    have hturn := execTileLockGrant_turn hfind hread htodo hnet hbefore hserved
    intro sl mine k sealed_
    refine ⟨fun s1 hopen hfree hfirst hrecall => ?granted, fun hopen hheld hnew => ?waits, fun p w hsealed hp htm hw hghost => ?refused⟩
    case granted =>
      have hgo : ¬ (!(lockFree s h k && (tilesBefore s t h).isEmpty)) = true := by rw [hfree, hfirst]; decide
      have hgrant := hturn.trans (congrArg _ ((if_neg (Bool.eq_false_iff.mp hopen)).trans (if_neg hgo)))
      rw [show recallLines s (lockRequest s t h).lines = .ok s1 from hrecall] at hgrant
      have hkept := lockGranted_offSlices s1 t h rest k
      exact ⟨_, hgrant, lockGranted_locks s1 t h rest k, lockGranted_todo, (congrArg State.mem hkept :), (congrArg State.warps hkept :),
        (congrArg State.crews hkept :)⟩
    case waits =>
      have hstay : (!(lockFree s h k && (tilesBefore s t h).isEmpty)) = true := by
        obtain hheld | hheld := hheld
        · rw [hheld]; rfl
        · rw [List.isEmpty_eq_false_iff.mpr hheld, Bool.and_false]; rfl
      have hnone : ¬ mine.isSome = true := by rw [hnew]; decide
      have hplace := hturn.trans (congrArg _ ((if_neg (Bool.eq_false_iff.mp hopen)).trans ((if_pos hstay).trans (if_neg hnone))))
      exact ⟨_, hplace, State.setSlice_same _ _ _, fun j hj => State.setSlice_ne _ _ _ _ hj, rfl⟩
    case refused =>
      have hrefuse := hturn.trans (congrArg _ (if_pos hsealed))
      rw [hp] at hrefuse
      replace hrefuse : exec (.tileLockGrant t.id) s = .next (tileGiveUp (tileRelease s t.id) t.key p cSEALW (BitVec.ofNat 64 t.va0) none) := hrefuse
      obtain ⟨v, hv, htraps, hpend, hout⟩ := tileGiveUp_sealed (s := s) hw hghost htm
      refine ⟨_, v, sealwTrap s t p, hrefuse, ?tiles, ?locks, (congrArg State.mem hout :), hv, htraps, rfl, rfl, rfl, rfl, hpend⟩
      case tiles =>
        rw [outside_tiles hout]
        exact tileRelease_tiles s t.id
      case locks =>
        intro j
        rw [State.slice, outside_slices hout]
        exact tileRelease_locks s t.id j
  case commit =>
    obtain ⟨u, hrest, hlocks, hgo⟩ := execTileCommit_moves hfind hread htodo hwaits hready hmove
    have htiles : u.tiles = (tileRelease s1 t.id).tiles := (congrArg State.tiles hrest :)
    have hgone : ∀ x ∈ u.tiles, x.id ≠ t.id := htiles ▸ tileRelease_tiles s1 t.id
    have hfree : ∀ j, ∀ x ∈ (u.slice j).locks, x.tile ≠ t.id := by
      intro j
      rw [hlocks]
      exact tileRelease_locks _ t.id j
    cases hp : tilePend s t with
    | none =>
      rw [hp] at hgo
      exact ⟨u, hgo, (congrArg State.mem hrest :), (congrArg State.crews hrest :), hgone, hfree, fun _ _ h => absurd h (Option.some_ne_none _).symm⟩
    | some p =>
      rw [hp] at hgo
      have hout := completePend_outside u t.key p
      refine ⟨_, hgo, (congrArg State.mem hout :).trans (congrArg State.mem hrest :), (congrArg State.crews hout :).trans (congrArg State.crews hrest :), ?_,
        fun j => ?_, fun q v hq hv => ?_⟩
      · rw [outside_tiles hout]
        exact hgone
      · rw [State.slice, outside_slices hout]
        exact hfree j
      · obtain rfl := Option.some.inj hq
        exact completePend_gone hv

end Sys2Proof.Proofs
end

section
/-! PROOF. The job of a Sprout ends, or waits with its stage (15_die_fitted.md R382, R394, R395, R399, R402). -/

namespace Sys2Proof.Machine

theorem regionOut_setOut (s : State) (ctx h out : Nat) : regionOut (setOut s ctx h out) ctx h = out := by
  have hnone : (s.outs.filter (fun o => !(o.1 = ctx && o.2.1 = h))).find? (fun o => o.1 = ctx && o.2.1 = h) = none := by
    rw [List.find?_eq_none]
    intro o ho hmine
    have := (List.mem_filter.mp ho).2
    rw [hmine] at this
    cases this
  rw [regionOut, setOut]
  dsimp only
  rw [List.find?_append, hnone]
  simp

/-! ## The end of a job -/

/-- The state without what the end of a job tells its waiters and the arena's marks. -/
def State.offJob (s : State) : State := { s with warps := [], foreign := [] }

theorem endForeign_offJob (e : Env) (s : State) (j : SproutJob) : (endForeign e s j).offJob = s.offJob := by
  unfold endForeign
  split
  · rfl
  · split <;> rfl

theorem endForeign_warps (e : Env) (s : State) (j : SproutJob) : (endForeign e s j).warps = s.warps := by
  unfold endForeign
  split
  · rfl
  · split <;> rfl

/-- A job that ends leaves its die's queue and is counted, with its outcome. -/
theorem jobEnd_offJob (s : State) (die : Nat) (j : SproutJob) (out : Nat) : (jobEnd s die j out).offJob =
    (setOut (s.setDie die { s.die die with queue := (s.die die).queue.erase j, jobs := ((s.die die).jobs + 1) % 65536 }) j.ctx j.handle out).offJob := by
  refine (foldl_keeps State.offJob ?_ _).trans (endForeign_offJob _ _ _)
  exact fun u kw _ => (congrArg State.offJob (modPend_frame u kw.1 kw.2 _) :)

theorem jobEnd_warps {s : State} {die : Nat} {j : SproutJob} {out : Nat} (h : j.waiters = []) : (jobEnd s die j out).warps = s.warps := by
  rw [jobEnd, h]
  exact endForeign_warps _ _ _

/-- What a state shows of a job that has ended with an outcome from `s`. -/
structure JobOver (s t : State) (d : Nat) (j : SproutJob) (out : Nat) : Prop where
  queue : (t.die d).queue = (s.die d).queue.erase j
  jobs : (t.die d).jobs = ((s.die d).jobs + 1) % 65536
  out : regionOut t j.ctx j.handle = out
  mem : t.mem = s.mem
  slices : t.slices = s.slices
  warps : j.waiters = [] → t.warps = s.warps

theorem jobEnd_over (s : State) (d : Nat) (j : SproutJob) (out draw : Nat) : JobOver s { jobEnd s d j out with draw := draw } d j out := by
  have h := jobEnd_offJob s d j out
  have hdie : (jobEnd s d j out).die d = { s.die d with queue := (s.die d).queue.erase j, jobs := ((s.die d).jobs + 1) % 65536 } :=
    (congrArg (fun u => u.die d) h :).trans (State.setDie_same _ _ _)
  exact ⟨congrArg Die.queue hdie, congrArg Die.jobs hdie, (congrArg (fun u => regionOut u j.ctx j.handle) h :).trans (regionOut_setOut _ _ _ _),
    (congrArg State.mem h :), (congrArg State.slices h :), jobEnd_warps⟩

/-! ## A job that runs -/

/-- The environment of a job's accesses. -/
def jobEnv (d : Nat) (j : SproutJob) : Env := ⟨1520 + d, j.cregs, .sprout d⟩

/-- A job that has run takes QUEUED from the blocks that it leaves behind, and ends. -/
def jobEnds (s : State) (d : Nat) (j : SproutJob) (s1 : State) (done : Bool) (f : State → State) : Except (Nat × VErr) State :=
  (atStage 4 (clearBits (jobEnv d j) s1 (queuedBlocks s d j done))).map (fun s2 => { f s2 with draw := s.draw + 1 })

/-- A job that does not go on: the stage in which it waits, and what it waits for. -/
def jobWaits (s : State) (d : Nat) (j : SproutJob) (rest : List SproutJob) (n : Nat) (v : VErr) : State :=
  let s1 := s.setDie d { s.die d with queue := { j with stage := n } :: rest }
  match v with
  | .fault va reason pte need =>
    sendFault s1 (ofCrew s1 j.crew
      (engineFault 1 reason (accessByte need + 8) j.cregs j.ctx va (1520 + d) 0 (BitVec.ofNat 64 pte) (.sprout d)))
  | _ => v.waits (jobEnv d j) s1

/-- A job that runs: it ends in one of its ways, or does not go on. -/
def jobRuns (s : State) (d : Nat) (j : SproutJob) (params : List (BitVec 16)) : Except (Nat × VErr) State :=
  match runJob (jobEnv d j) s j params with
  | .error x => .error x
  | .ok (.stopped s1 out) => jobEnds s d j s1 false (fun s => jobEnd s d j out)
  | .ok (.dropped s1) => jobEnds s d j s1 false (fun s => sendFault (jobEnd s d j 3) (ofCrew s j.crew (jobFault d j)))
  | .ok (.installed s1) => jobEnds s d j s1 true (fun s => jobEnd s d j 1)

section Runs
variable {d : Nat} {params : List (BitVec 16)} {s : State} {j : SproutJob} {rest : List SproutJob} (hqueue : (s.die d).queue = j :: rest)
  (hfault : s.faults.any (fun f => f.waiter = .sprout d) = false)
include hqueue hfault

theorem execSproutJob_runs : exec (.sproutJob d params) s = .next (match jobRuns s d j params with
    | .ok t => t
    | .error (n, v) => jobWaits s d j rest n v) := by
  show execSproutJob d params s = _
  simp only [execSproutJob, hqueue]
  exact congrArg _ (if_neg (Bool.eq_false_iff.mp hfault))

/-- A job that does not go on waits. -/
theorem execSproutJob_waits {n : Nat} {v : VErr} (h : jobRuns s d j params = .error (n, v)) :
    exec (.sproutJob d params) s = .next (jobWaits s d j rest n v) := by
  rw [execSproutJob_runs hqueue hfault, h]

/-- A job that has run waits in stage 4 for the blocks that it leaves behind, and ends. -/
theorem execSproutJob_ends {s1 : State} {done : Bool} {f : State → State} (h : jobRuns s d j params = jobEnds s d j s1 done f) :
    (∀ v, clearBits (jobEnv d j) s1 (queuedBlocks s d j done) = .error v → exec (.sproutJob d params) s = .next (jobWaits s d j rest 4 v)) ∧
    ∀ s2, clearBits (jobEnv d j) s1 (queuedBlocks s d j done) = .ok s2 → exec (.sproutJob d params) s = .next { f s2 with draw := s.draw + 1 } := by
  refine ⟨fun v hclear => execSproutJob_waits hqueue hfault ?_, fun s2 hclear => ?_⟩
  · rw [h, jobEnds, hclear]
    rfl
  · rw [execSproutJob_runs hqueue hfault, h, jobEnds, hclear]
    rfl

end Runs

/-- A job that waits: for room, at a locked line, or for the answer to its fault. -/
theorem jobWaits_spec {d : Nat} {s : State} {j : SproutJob} {rest : List SproutJob} {n : Nat} {v : VErr} {x : Host.Outcome State Fault Refusal}
    (hx : x = .next (jobWaits s d j rest n v)) :
    (∀ lack, v = .wait lack → x = .next (evictFor (s.setDie d { s.die d with queue := { j with stage := n } :: rest }) lack)) ∧
    (∀ ln wr, v = .held ln wr → x = .next (engineWait (s.setDie d { s.die d with queue := { j with stage := n } :: rest }) (.sprout d) ln wr)) ∧
    (∀ va reason pte need, v = .fault va reason pte need →
      ∃ t f, x = .next t ∧ (t.die d).queue = { j with stage := n } :: rest ∧ t.faults = s.faults ++ [f] ∧
        f.ftype = 1 ∧ f.reason = reason ∧ f.va = va ∧ f.unit = 1520 + d ∧ f.waiter = .sprout d ∧ f.tag = s.nextTag + 1 ∧ t.mem = s.mem) := by
  subst hx
  refine ⟨?room, ?locked, ?fault⟩
  case room => rintro lack rfl; rfl
  case locked => rintro ln wr rfl; rfl
  case fault =>
    rintro va reason pte need rfl
    have hkept := ofCrew_kept (s.setDie d { s.die d with queue := { j with stage := n } :: rest }) j.crew
      (engineFault 1 reason (accessByte need + 8) j.cregs j.ctx va (1520 + d) 0 (BitVec.ofNat 64 pte) (.sprout d))
    have htype := (congrArg FaultRec.ftype hkept :)
    exact ⟨_, _, rfl, congrArg Die.queue (State.setDie_same s d _), rfl, htype, (congrArg FaultRec.reason hkept :), (congrArg FaultRec.va hkept :),
      (congrArg FaultRec.unit hkept :), (congrArg FaultRec.waiter hkept :), if_pos htype, rfl⟩

end Sys2Proof.Machine

namespace Sys2Proof.Proofs
open Sys2Proof Sys2Proof.Machine

/-- Settles O43: a job ends in one of the three ways of `jobRuns`, or waits. -/
theorem sproutResults : Obligations.SproutResults := by
  unfold Obligations.SproutResults
  intro d params s j rest hqueue hfault e waits ends
  have hends : ∀ (s1 : State) (done : Bool) (out : Nat) (f : State → State), jobRuns s d j params = jobEnds s d j s1 done f →
      (∀ s2, JobOver s2 { f s2 with draw := s.draw + 1 } d j out) → ends s1 done out := by
    intro s1 done out f hrun hover
    obtain ⟨hwait, hend⟩ := execSproutJob_ends hqueue hfault hrun
    refine ⟨fun v hclear => jobWaits_spec (hwait v hclear), fun s2 hclear => ?_⟩
    obtain ⟨hq, hjobs, hout, hmem, hslices, hwarps⟩ := hover s2
    exact ⟨_, hend s2 hclear, hq, hjobs, hout, hmem, hslices, hwarps⟩
  refine ⟨fun s1 h => ?installed, fun s1 out h => ?stopped, fun s1 h => ?dropped, fun n v h => ?waiting⟩
  case installed => exact hends s1 true 1 _ (by rw [jobRuns, show runJob (jobEnv d j) s j params = _ from h]) fun s2 => jobEnd_over s2 d j 1 _
  case stopped => exact hends s1 false out _ (by rw [jobRuns, show runJob (jobEnv d j) s j params = _ from h]) fun s2 => jobEnd_over s2 d j out _
  case dropped =>
    have hrun : jobRuns s d j params = jobEnds s d j s1 false (fun s => sendFault (jobEnd s d j 3) (ofCrew s j.crew (jobFault d j))) := by
      rw [jobRuns, show runJob (jobEnv d j) s j params = _ from h]
    refine ⟨hends s1 false 3 _ hrun fun s2 => ?_, fun s2 hclear => ?_⟩
    · obtain ⟨hq, hjobs, hout, hmem, hslices, hwarps⟩ := jobEnd_over s2 d j 3 (s.draw + 1)
      exact ⟨hq, hjobs, hout, hmem, hslices, hwarps⟩
    · have hkept := ofCrew_kept s2 j.crew (jobFault d j)
      have htype : (ofCrew s2 j.crew (jobFault d j)).ftype = 6 := (congrArg FaultRec.ftype hkept :)
      exact ⟨_, { ofCrew s2 j.crew (jobFault d j) with tag := 0 }, (execSproutJob_ends hqueue hfault hrun).2 s2 hclear,
        sendFault_sent _ (by rw [htype]; decide), htype, (congrArg FaultRec.reason hkept :), (congrArg FaultRec.unit hkept :),
        (congrArg FaultRec.info hkept :)⟩
  case waiting =>
    exact jobWaits_spec (execSproutJob_waits hqueue hfault (by rw [jobRuns, show runJob (jobEnv d j) s j params = _ from h]))

end Sys2Proof.Proofs
end

section
/-! PROOF. A launch record is rejected, taken, or waits (16_package.md R421-R425, 18_device.md R466). -/

namespace Sys2Proof.Machine

/-! ## What the reading of a record and of a header leaves (R423) -/

theorem recordWords_offReads (s : State) (g : Ring) (first slots : Nat) : (recordWords s g first slots).1.offReads = s.offReads :=
  foldl_keeps (fun a : State × List Nat × Bool => a.1.offReads) (fun a _ _ => walkRead_offReads a.1 _) _

theorem readVa_offReads (unit : Nat) (cr : CtxRegs) (n : Nat) (s : State) (va : Nat) : (readVa unit cr n s va).1.offReads = s.offReads := by
  induction n generalizing s va with
  | zero => rfl
  | succ n ih =>
    have htr := translate_offReads s unit cr va permR
    unfold readVa
    split
    · rfl
    · split
      · next hs => rwa [hs] at htr
      · next s1 pa hs =>
        rw [hs] at htr
        have hread := walkRead_offReads s1 pa
        have hrest := ih (walkRead s1 pa).1 (va + 8)
        dsimp only
        split
        · exact hread.trans htr
        · split
          · next hr => rw [hr] at hrest; exact hrest.trans (hread.trans htr)
          · next hr => rw [hr] at hrest; exact hrest.trans (hread.trans htr)

theorem readRoles_offReads (unit : Nat) (cr : CtxRegs) (base n : Nat) (s : State) (va : Nat) :
    (readRoles unit cr base n s va).1.offReads = s.offReads := by
  induction n generalizing s va with
  | zero => rfl
  | succ n ih =>
    have hva := readVa_offReads unit cr 2 s va
    unfold readRoles
    split
    · next hs => rwa [hs] at hva
    · next s1 ws hs =>
      rw [hs] at hva
      have hrest := ih s1 (va + 16)
      dsimp only
      split
      · exact hva
      · split
        · next hr => rw [hr] at hrest; exact hrest.trans hva
        · next hr => rw [hr] at hrest; exact hrest.trans hva

theorem readSide_offReads (unit : Nat) (cr : CtxRegs) (base n : Nat) (s : State) (va : Nat) (last : Option Nat) :
    (readSide unit cr base n s va last).1.offReads = s.offReads := by
  induction n generalizing s va last with
  | zero => rfl
  | succ n ih =>
    have hva := readVa_offReads unit cr 5 s va
    unfold readSide
    split
    · next hs => rwa [hs] at hva
    · next s1 ws hs =>
      rw [hs] at hva
      dsimp only
      generalize (List.range 5).foldl _ _ = v
      have hrest := ih s1 (va + 40) (some (v % 2 ^ 32))
      split_ifs
      · exact hva
      · split
        · next hr => rw [hr] at hrest; exact hrest.trans hva
        · next hr => rw [hr] at hrest; exact hrest.trans hva

theorem readHeader_offReads (s : State) (unit : Nat) (cr : CtxRegs) (va : Nat) (acorn : Bool) :
    (readHeader s unit cr va acorn).1.offReads = s.offReads := by
  have h1 := readVa_offReads unit cr 4 s va
  unfold readHeader
  split
  · next hs => rwa [hs] at h1
  · next s1 ws hs =>
    rw [hs] at h1
    dsimp only
    split
    · exact h1
    · have h2 := readRoles_offReads unit cr va (ws.getD 1 0 / 2 ^ 32 % 8) s1 (va + ws.getD 3 0 % 2 ^ 32)
      split
      · next hr => rw [hr] at h2; exact h2.trans h1
      · next hr => rw [hr] at h2; exact h2.trans h1
      · next s2 roles hr =>
        rw [hr] at h2
        have h3 := readVa_offReads unit cr 2 s2 (va + ws.getD 2 0 / 2 ^ 32)
        split
        · next hv => rw [hv] at h3; exact h3.trans (h2.trans h1)
        · next s3 hd hv =>
          rw [hv] at h3
          split
          · exact h3.trans (h2.trans h1)
          · have h4 := readSide_offReads unit cr va (hd.getD 0 0) s3 (va + ws.getD 2 0 / 2 ^ 32 + 16) none
            split <;> next hside => rw [hside] at h4; exact h4.trans (h3.trans (h2.trans h1))

/-! ## The ends of a record (R423) -/

theorem ringIrq_ring (s : State) (g : Ring) (r : Nat) : (ringIrq s g).ring r = s.ring r := by
  unfold ringIrq
  dsimp only
  split <;> rfl

theorem ringIrq_launches (s : State) (g : Ring) : (ringIrq s g).pkg.launches = s.pkg.launches := by
  unfold ringIrq
  dsimp only
  split <;> rfl

theorem ringIrq_faults (s : State) (g : Ring) : (ringIrq s g).faults = s.faults := by
  unfold ringIrq
  dsimp only
  split <;> rfl

/-- A record that is rejected stays at RHEAD of its ring, which stops; the launches stay. -/
theorem rejectRecord_spec (s : State) (ring : Nat) (g : Ring) (first lid reason : Nat) :
    ((rejectRecord s ring g first lid reason).ring ring).rej = reason + first * 2 ^ 16 + lid * 2 ^ 32 + 2 ^ 63 ∧
    ((rejectRecord s ring g first lid reason).ring ring).head = g.head ∧
    (rejectRecord s ring g first lid reason).pkg.launches = s.pkg.launches ∧ (rejectRecord s ring g first lid reason).faults = s.faults := by
  unfold rejectRecord
  rw [ringIrq_ring, ringIrq_launches, ringIrq_faults, State.setRing_same]
  exact ⟨rfl, rfl, rfl, rfl⟩

/-- A ring whose record may be taken: the dispatcher goes on, or waits at a line. -/
theorem execDispatch_open {ring : Nat} {s : State} (hring : ring < 32) (hstage : s.pkg.boot.stage = 7) (hfail : s.pkg.boot.fail = 0)
    (hz : s.pkg.frozen = false) (hon : ringEnabled (s.ring ring) = true) (hlegal : ringLegal (s.ring ring) = true) (hclass : ringClass (s.ring ring) ≠ 3)
    (hgo : ringStopped (s.ring ring) = false) (hused : ringUsed (s.ring ring) ≠ 0) (hready : recordReady s ring = true) :
    exec (.dispatch ring) s = .next (match dispatchWait s ring with
      | some ln => engineWait s (.dispatch ring) ln false
      | none => dispatchRing (leavePlaces s (.dispatch ring)) ring) := by
  refine congrArg Host.Outcome.next (if_neg ?_)
  simp [hstage, hfail, hz, hon, hlegal, hclass, hgo, hused, hready, hring]

theorem rejectRecord_rejects {s u : State} {ring first lid n : Nat} {g : Ring} (hu : u.pkg = s.pkg) :
    ((rejectRecord u ring g first lid n).ring ring).rej = n + first * 2 ^ 16 + lid * 2 ^ 32 + 2 ^ 63 ∧
    ((rejectRecord u ring g first lid n).ring ring).head = g.head ∧ (rejectRecord u ring g first lid n).pkg.launches = s.pkg.launches :=
  have ⟨hrej, hhead, hlaunches, _⟩ := rejectRecord_spec u ring g first lid n
  ⟨hrej, hhead, hlaunches.trans (congrArg Pkg.launches hu)⟩

/-- A record of type 7 is on its way for a header, or a record, that cannot be read. -/
theorem headerFault_reported (s : State) (ring lid ctx : Nat) (cr : CtxRegs) (va pte : Nat) (g : Ring) (first n : Nat) :
    ∃ f ∈ (rejectRecord (sendFault s (headerFault ring lid ctx cr va pte)) ring g first lid n).faults, f.ftype = 7 ∧ f.reason = 9 ∧ f.va = va ∧
      f.unit = dispUnit ring ∧ f.ring = ring ∧ f.launchid = lid ∧ f.ctxid = ctx := by
  rw [(rejectRecord_spec _ _ _ _ _ _).2.2.2]
  exact ⟨_, sendFault_sent s (show (7 : Nat) ≠ 1 by decide), rfl, rfl, rfl, rfl, rfl, rfl, rfl⟩

/-! ## The reasons of a rejection (R423) -/

/-- The reasons that the words of a record give. -/
def recEarly (ctxn : Nat) (g : Ring) (first len : Nat) (ws : List Nat) : Option Nat :=
  let r := recOf ws
  lowestReason [(1, recReserved ws r || recLimits r), (2, ringSlots g ≤ first + len), (3, r.sys && ringClass g != 0),
    (4, ctxn ≤ r.ctx || (ringClass g = 2 && (match g.tags.find? (fun t => t.1 = first) with
      | some t => t.2 != r.ctx
      | none => true)))]

/-- A crew of a record is placed at an id that no core or cluster has. -/
def recBadId (r : LaunchRec) : Bool :=
  (r.place = 1 && ((List.range r.crews).map (recPlace r)).any (fun i => Config.cores ≤ i))
    || (r.place = 2 && ((List.range r.crews).map (recPlace r)).any (fun i => Config.clusters ≤ i))

/-- The reasons that a record gives whose header is not known. -/
def recLate (s : State) (ring : Nat) (r : LaunchRec) : Option Nat :=
  lowestReason [(6, 8 + 16 * r.len < recNeed r), (7, recBadId r), (8, s.pkg.launches.any (fun l => l.ring = ring && l.lid = r.lid))]

/-- The reasons that a record gives with its kernel. -/
def recKernel (s : State) (ring : Nat) (r : LaunchRec) (k : Kernel) : Option Nat :=
  let cap := if r.kind = 2 then 1 else coreCapacity k r.warps
  lowestReason [
    (5, k.nqueues < r.nq || k.regs ≤ r.narg || (r.kind = 1 && (r.slots.take r.nq).any (fun e => !queueFits k e))),
    (6, 8 + 16 * r.len < recNeed r), (7, recBadId r || cap = 0 || (r.gang && !gangCan r cap)),
    (8, s.pkg.launches.any (fun l => l.ring = ring && l.lid = r.lid))]

/-- A ring past the record at its RHEAD. -/
def ringPast (g : Ring) (first len : Nat) : Ring :=
  { g with head := (first + len + 1) % ringSlots g, tags := g.tags.filter (fun t => t.1 != first) }

/-! ## The record at RHEAD, by what has been read -/

section Record
variable {s s0 s1 : State} {ring first w0 : Nat} {b0 unc : Bool} {g : Ring} {ws : List Nat} (hg : s.ring ring = g) (hfirst : g.head % ringSlots g = first)
  (h0 : walkRead s (g.base + 128 * first) = (s0, w0, b0))
  (h1 : recordWords s0 g first (if ringSlots g ≤ first + w0 / 256 % 4 then ringSlots g - first else w0 / 256 % 4 + 1) = (s1, ws, unc))
include hg hfirst h0 h1

/-- Words of the record are uncorrectable. -/
theorem dispatchRing_damaged {s2 : State} {dws : List Nat} {marked : Bool} (hunc : unc = true) (hdesc : descWords s1 (recOf ws).ctx = (s2, dws, marked)) :
    dispatchRing s ring = rejectRecord (sendFault s2 (headerFault ring (recOf ws).lid (recOf ws).ctx (descOf dws) 0 0)) ring g first (recOf ws).lid 9 := by
  simp only [dispatchRing, hg, hfirst, h0, h1, hunc, hdesc, if_true]

variable (hunc : unc = false)
include hunc

theorem dispatchRing_early {k : Nat} (hearly : recEarly s.pkg.ctxn g first (w0 / 256 % 4) ws = some k) :
    dispatchRing s ring = rejectRecord s1 ring g first (recOf ws).lid k := by
  simp only [dispatchRing, hg, hfirst, h0, h1, hunc, Bool.false_eq_true, if_false]
  split
  · next heq => rw [Option.some.inj (heq.symm.trans hearly)]
  · next heq => cases heq.symm.trans hearly

variable (hearly : recEarly s.pkg.ctxn g first (w0 / 256 % 4) ws = none)
include hearly

/-- A no-op. -/
theorem dispatchRing_noop (hkind : (recOf ws).kind = 3) : dispatchRing s ring =
    if 8 + 16 * (recOf ws).len < recNeed (recOf ws) then rejectRecord s1 ring g first (recOf ws).lid 6
    else if (recOf ws).after && !afterHolds s1 (recOf ws).afterRing (recOf ws).afterId then s
    else if (recOf ws).notify then ringIrq (s1.setRing ring (ringPast g first (recOf ws).len)) g
    else s1.setRing ring (ringPast g first (recOf ws).len) := by
  simp only [dispatchRing, hg, hfirst, h0, h1, hunc, Bool.false_eq_true, if_false]
  split
  · next heq => cases heq.symm.trans hearly
  · exact if_pos hkind

variable (hkind : (recOf ws).kind ≠ 3) {s2 : State} {dws : List Nat} {marked : Bool} (hdesc : descWords s1 (recOf ws).ctx = (s2, dws, marked))
include hkind hdesc

theorem dispatchRing_marked (hmarked : marked = true) : dispatchRing s ring =
    rejectRecord (sendFault s2 (headerFault ring (recOf ws).lid (recOf ws).ctx (descOf dws) 0 0)) ring g first (recOf ws).lid
      ((recLate s1 ring (recOf ws)).getD 9) := by
  simp only [dispatchRing, hg, hfirst, h0, h1, hunc, Bool.false_eq_true, if_false]
  split
  · next heq => cases heq.symm.trans hearly
  · simp only [hkind, hdesc, hmarked, if_false, if_true]
    rfl

variable (hmarked : marked = false) {s3 : State}
include hmarked

theorem dispatchRing_unreadable {va x pte : Nat}
    (hread : readHeader s2 (dispUnit ring) (descOf dws) (recOf ws).kernel ((recOf ws).kind = 2) = (s3, .unreadable va x pte)) : dispatchRing s ring =
    rejectRecord (sendFault s3 (headerFault ring (recOf ws).lid (recOf ws).ctx (descOf dws) va pte)) ring g first (recOf ws).lid
      ((recLate s1 ring (recOf ws)).getD 9) := by
  simp only [dispatchRing, hg, hfirst, h0, h1, hunc, Bool.false_eq_true, if_false]
  split
  · next heq => cases heq.symm.trans hearly
  · simp only [hkind, hdesc, hmarked, hread, if_false, Bool.false_eq_true]
    rfl

theorem dispatchRing_malformed
    (hread : readHeader s2 (dispUnit ring) (descOf dws) (recOf ws).kernel ((recOf ws).kind = 2) = (s3, .malformed)) : dispatchRing s ring =
    rejectRecord s3 ring g first (recOf ws).lid 5 := by
  simp only [dispatchRing, hg, hfirst, h0, h1, hunc, Bool.false_eq_true, if_false]
  split
  · next heq => cases heq.symm.trans hearly
  · simp only [hkind, hdesc, hmarked, hread, if_false, Bool.false_eq_true]

theorem dispatchRing_kernel {k : Kernel}
    (hread : readHeader s2 (dispUnit ring) (descOf dws) (recOf ws).kernel ((recOf ws).kind = 2) = (s3, .ok k)) : dispatchRing s ring =
    match recKernel s1 ring (recOf ws) k with
    | some n => rejectRecord s3 ring g first (recOf ws).lid n
    | none =>
      if (recOf ws).after && !afterHolds s3 (recOf ws).afterRing (recOf ws).afterId then s
      else (s3.setRing ring (ringPast g first (recOf ws).len)).modPkg (fun p => { p with
        launches := p.launches ++ [launchOf s3 ring (recOf ws) k], nextLaunch := p.nextLaunch + 1
        finished := p.finished.filter (fun e => e != (ring, (recOf ws).lid)) }) := by
  simp only [dispatchRing, hg, hfirst, h0, h1, hunc, Bool.false_eq_true, if_false]
  split
  · next heq => cases heq.symm.trans hearly
  · simp only [hkind, hdesc, hmarked, hread, if_false, Bool.false_eq_true]
    rfl

end Record

end Sys2Proof.Machine

namespace Sys2Proof.Proofs
open Sys2Proof Sys2Proof.Machine

/-- Settles O46, by the branch of the dispatcher that what it has read leads to. -/
theorem dispatchResults : Obligations.DispatchResults := by
  unfold Obligations.DispatchResults
  intro ring s
  dsimp only
  generalize h0 : walkRead (leavePlaces s (.dispatch ring)) _ = x0
  obtain ⟨s0, w0, b0⟩ := x0
  dsimp only
  generalize h1 : recordWords s0 _ _ _ = x1
  obtain ⟨s1, ws, unc⟩ := x1
  dsimp only
  have hpkg : s1.pkg = s.pkg := by
    have hw := walkRead_offReads (leavePlaces s (.dispatch ring)) ((s.ring ring).base + 128 * ((s.ring ring).head % ringSlots (s.ring ring)))
    rw [h0] at hw
    have hr := recordWords_offReads s0 (s.ring ring) ((s.ring ring).head % ringSlots (s.ring ring))
      (if ringSlots (s.ring ring) ≤ (s.ring ring).head % ringSlots (s.ring ring) + w0 / 256 % 4 then
        ringSlots (s.ring ring) - (s.ring ring).head % ringSlots (s.ring ring) else w0 / 256 % 4 + 1)
    rw [h1] at hr
    exact (offReads_pkg hr).trans (offReads_pkg hw)
  have hstart (h : ring < 32 ∧ s.pkg.boot.stage = 7 ∧ s.pkg.boot.fail = 0 ∧ s.pkg.frozen = false ∧ ringEnabled (s.ring ring) = true ∧
      ringLegal (s.ring ring) = true ∧ ringClass (s.ring ring) ≠ 3 ∧ ringStopped (s.ring ring) = false ∧ ringUsed (s.ring ring) ≠ 0 ∧
      recordReady s ring = true ∧ dispatchWait s ring = none) :
      exec (.dispatch ring) s = .next (dispatchRing (leavePlaces s (.dispatch ring)) ring) := by
    obtain ⟨hring, hstage, hfail, hz, hon, hlegal, hclass, hgo, hused, hready, hwait⟩ := h
    rw [execDispatch_open hring hstage hfail hz hon hlegal hclass hgo hused hready, hwait]
  have hdesc := descWords_offReads s1 (recOf ws).ctx
  generalize hd : descWords s1 (recOf ws).ctx = desc at hdesc ⊢
  obtain ⟨s2, dws, marked⟩ := desc
  have hpkg2 : s2.pkg = s.pkg := (offReads_pkg hdesc).trans hpkg
  have hheader := readHeader_offReads s2 (dispUnit ring) (descOf dws) (recOf ws).kernel ((recOf ws).kind = 2)
  dsimp only at hheader ⊢
  generalize hh : readHeader s2 (dispUnit ring) (descOf dws) (recOf ws).kernel ((recOf ws).kind = 2) = header at hheader ⊢
  have hlate : recLate s1 ring (recOf ws) = recLate s ring (recOf ws) := by simp only [recLate, hpkg]
  refine ⟨fun hboot => ?closed, fun ln hring hstage hfail hz hon hlegal hclass hgo hused hready hwait => ?locked, fun hring => ?cleared,
    fun hopen hunc => ?damaged, fun hopen hunc k hearly => ?early, fun ⟨hopen, hunc, hearly⟩ hkind hcrowded => ?crowded,
    fun ⟨hopen, hunc, hearly⟩ hkind hfits hafter hheld => ?held, fun ⟨hopen, hunc, hearly⟩ hkind hfits hafter => ?noop,
    fun ⟨hopen, hunc, hearly⟩ hkind hmarked => ?marked, fun ⟨⟨hopen, hunc, hearly⟩, hkind, hmarked⟩ s3 va x pte hread => ?unreadable,
    fun ⟨⟨hopen, hunc, hearly⟩, hkind, hmarked⟩ s3 hread => ?malformed, fun ⟨⟨hopen, hunc, hearly⟩, hkind, hmarked⟩ s3 k hread => ?kernel⟩
  case closed =>
    refine congrArg Host.Outcome.next (if_pos ?_)
    obtain hstage | hfail := hboot <;> simp [*]
  case locked => rw [execDispatch_open hring hstage hfail hz hon hlegal hclass hgo hused hready, hwait]
  case cleared =>
    exact ⟨_, congrArg Host.Outcome.next (if_pos hring), State.setRing_same _ _ _, fun j hj => State.setRing_ne _ _ _ _ hj⟩
  case damaged =>
    exact ⟨_, (hstart hopen).trans (congrArg _ (dispatchRing_damaged rfl rfl h0 h1 hunc hd)), rejectRecord_rejects hpkg2, headerFault_reported _ _ _ _ _ _ _ _ _ _⟩
  case early =>
    exact ⟨_, (hstart hopen).trans (congrArg _ (dispatchRing_early rfl rfl h0 h1 hunc hearly)), rejectRecord_rejects hpkg⟩
  case crowded =>
    exact ⟨_, (hstart hopen).trans (congrArg _ ((dispatchRing_noop rfl rfl h0 h1 hunc hearly hkind).trans (if_pos hcrowded))), rejectRecord_rejects hpkg⟩
  case held =>
    rw [hstart hopen, dispatchRing_noop rfl rfl h0 h1 hunc hearly hkind, if_neg hfits, if_pos (by simp [hafter, hheld])]
  case noop =>
    refine ⟨_, (hstart hopen).trans (congrArg _ ((dispatchRing_noop rfl rfl h0 h1 hunc hearly hkind).trans ((if_neg hfits).trans
      (if_neg (by obtain h | h := hafter <;> simp [h]))))), ?_⟩
    split
    · rw [ringIrq_launches, ringIrq_ring, State.setRing_same]
      exact ⟨(congrArg Pkg.launches hpkg :), rfl, rfl⟩
    · rw [State.setRing_same]
      exact ⟨(congrArg Pkg.launches hpkg :), rfl, rfl⟩
  case marked =>
    have hrun := dispatchRing_marked rfl rfl h0 h1 hunc hearly hkind hd hmarked
    rw [hlate] at hrun
    exact ⟨_, (hstart hopen).trans (congrArg _ hrun), rejectRecord_rejects hpkg2, headerFault_reported _ _ _ _ _ _ _ _ _ _⟩
  case unreadable =>
    have hrun := dispatchRing_unreadable rfl rfl h0 h1 hunc hearly hkind hd hmarked (hh.trans hread)
    rw [hlate] at hrun
    have hpkg3 : s3.pkg = s.pkg := by rw [hread] at hheader; exact (offReads_pkg hheader).trans hpkg2
    exact ⟨_, (hstart hopen).trans (congrArg _ hrun), rejectRecord_rejects hpkg3, headerFault_reported _ _ _ _ _ _ _ _ _ _⟩
  case malformed =>
    have hpkg3 : s3.pkg = s.pkg := by rw [hread] at hheader; exact (offReads_pkg hheader).trans hpkg2
    exact ⟨_, (hstart hopen).trans (congrArg _ (dispatchRing_malformed rfl rfl h0 h1 hunc hearly hkind hd hmarked (hh.trans hread))),
      rejectRecord_rejects hpkg3⟩
  case kernel =>
    have hpkg3 : s3.pkg = s.pkg := by rw [hread] at hheader; exact (offReads_pkg hheader).trans hpkg2
    have hrun := dispatchRing_kernel rfl rfl h0 h1 hunc hearly hkind hd hmarked (hh.trans hread)
    have hreason : recKernel s1 ring (recOf ws) k = recKernel s ring (recOf ws) k := by simp only [recKernel, hpkg]
    rw [hreason] at hrun
    refine ⟨fun n hn => ?rejected, fun hn hafter hheld => ?waits, fun hn hafter => ?taken⟩
    case rejected =>
      rw [show recKernel s ring (recOf ws) k = some n from hn] at hrun
      exact ⟨_, (hstart hopen).trans (congrArg _ hrun), rejectRecord_rejects hpkg3⟩
    case waits =>
      rw [show recKernel s ring (recOf ws) k = none from hn] at hrun
      exact (hstart hopen).trans (congrArg _ (hrun.trans (if_pos (by simp [hafter, hheld]))))
    case taken =>
      rw [show recKernel s ring (recOf ws) k = none from hn] at hrun
      refine ⟨_, launchOf s3 ring (recOf ws) k, (hstart hopen).trans (congrArg _ (hrun.trans (if_neg (by obtain h | h := hafter <;> simp [h])))), ?_⟩
      refine ⟨(congrArg (fun p : Pkg => p.launches ++ [launchOf s3 ring (recOf ws) k]) hpkg3 :), rfl, rfl, rfl, rfl, rfl, rfl, rfl, rfl, ?_, rfl,
        congrArg Ring.head (State.setRing_same _ _ _)⟩
      exact (beq_eq_decide _ _).symm

end Sys2Proof.Proofs
end

section
/-! PROOF. Placement of crews and of Acorn programs (16_package.md R424-R426, 11_cluster_matrix.md R275). -/

namespace Sys2Proof.Machine

/-! ## What leaves the lines of a core's L1 aside -/

/-- A state without the requests of its cores and what they are. -/
def State.offL1 (s : State) : State := { s with cores := [], net := [], nextOp := 0 }

/-- A core without its L1. -/
def Core.offLines (c : Core) : Core := { c with l1 := [] }

/-- A state and its cores, but for their L1 and their requests. -/
def State.offLines (s : State) : State × (Nat → Core) := (s.offL1, fun k => (s.core k).offLines)

theorem modCore_offLines (s : State) (core : Nat) {f : Core → Core} (hf : (f (s.core core)).offLines = (s.core core).offLines) :
    (s.modCore core f).offLines = s.offLines := by
  refine Prod.ext rfl (funext fun k => ?_)
  obtain rfl | hk := eq_or_ne k core
  · exact (congrArg Core.offLines (State.modCore_same s k f)).trans hf
  · exact congrArg Core.offLines (modCore_ne s core f hk)

theorem offLines_offL1 {s t : State} (h : t.offLines = s.offLines) : t.offL1 = s.offL1 := congrArg Prod.fst h
theorem offLines_pool {s t : State} (h : t.offLines = s.offLines) (k : Nat) : (t.core k).poolFree = (s.core k).poolFree :=
  (congrArg (fun x => (x.2 k).poolFree) h :)
theorem offL1_pkg {s t : State} (h : t.offL1 = s.offL1) : t.pkg = s.pkg := (congrArg State.pkg h :)
theorem offL1_crew {s t : State} (h : t.offL1 = s.offL1) (k : Nat) : t.crew k = s.crew k := (congrArg (fun s : State => s.crew k) h :)
theorem offL1_warp {s t : State} (h : t.offL1 = s.offL1) (k : Nat) : t.warp k = s.warp k := (congrArg (fun s : State => s.warp k) h :)

theorem l1Evict_offLines (s : State) (core ln : Nat) : (l1Evict s core ln).offLines = s.offLines := by
  have hgone : (s.modCore core (fun c => { c with l1 := fmErase c.l1 ln })).offLines = s.offLines := modCore_offLines s core rfl
  unfold l1Evict
  split
  · rfl
  · dsimp only
    split_ifs <;> exact hgone

theorem l1Shrink_offLines (core st ways fuel : Nat) (s : State) : (l1Shrink core st ways fuel s).offLines = s.offLines := by
  induction fuel generalizing s with
  | zero => rfl
  | succ fuel ih =>
    simp only [l1Shrink]
    split_ifs
    · rfl
    · split
      · rfl
      · exact (ih _).trans (l1Evict_offLines s core _)

theorem pinEvict_offLines (s : State) (core : Nat) : (pinEvict s core).offLines = s.offLines :=
  foldl_keeps State.offLines (fun t _ _ => l1Shrink_offLines core _ _ _ t) s

theorem l1Put_offLines (s : State) (core ln : Nat) (x : L1Line) : (l1Put s core ln x).offLines = s.offLines := by
  unfold l1Put
  split_ifs
  · exact modCore_offLines s core rfl
  · exact modCore_offLines s core rfl

theorem State.offLines_net (s : State) (net : List Req) : { s with net := net }.offLines = s.offLines := rfl

theorem l1Acquire_offLines (s : State) (core : Nat) : (l1Acquire s core).offLines = s.offLines := by
  refine (State.offLines_net _ _).trans (foldl_keeps State.offLines ?_ s)
  exact fun t e _ => l1Put_offLines t core e.1 _

/-! ## The entry of a cluster into a context, and the role table -/

/-- A state without its clusters and its cores. -/
def State.offEntry (s : State) : State := { s with clusters := [], cores := [] }

theorem enterContext_offEntry (s : State) (cl ctx : Nat) : (enterContext s cl ctx).offEntry = s.offEntry := by
  unfold enterContext
  split_ifs
  · rfl
  · refine (foldl_keeps State.offEntry ?_ _).trans rfl
    exact fun _ _ _ => rfl

theorem enterContext_pool (s : State) (cl ctx core : Nat) : ((enterContext s cl ctx).core core).poolFree = (s.core core).poolFree := by
  unfold enterContext
  split_ifs
  · rfl
  · refine (foldl_keeps (fun s : State => (s.core core).poolFree) ?_ _).trans rfl
    intro t i _
    obtain rfl | hk := eq_or_ne core (8 * cl + i)
    · rw [State.modCore_same]
    · exact congrArg Core.poolFree (modCore_ne t _ _ hk)

/-- After the entry the cluster is of the context; the error register stays. -/
theorem enterContext_cluster (s : State) (cl ctx : Nat) : ((enterContext s cl ctx).cluster cl).ctx = some ctx ∧
    ((enterContext s cl ctx).cluster cl).mxerr = (s.cluster cl).mxerr := by
  unfold enterContext
  split_ifs with h
  · exact ⟨h, rfl⟩
  · dsimp only
    have hcores (t : State) (f : Core → Core) : ((List.range 8).foldl (fun s i => s.modCore (8 * cl + i) f) t).cluster cl = t.cluster cl := by
      refine foldl_keeps (fun s : State => s.cluster cl) ?_ t
      exact fun _ _ _ => rfl
    rw [hcores, State.modCluster_same]
    exact ⟨rfl, rfl⟩

theorem offEntry_nextOp {s t : State} (h : t.offEntry = s.offEntry) : t.nextOp = s.nextOp := (congrArg State.nextOp h :)
theorem offTables_nextOp {s t : State} (h : t.offTables = s.offTables) : t.nextOp = s.nextOp := (congrArg State.nextOp h :)
theorem offTables_cluster {s t : State} (h : t.offTables = s.offTables) (k : Nat) : t.cluster k = s.cluster k :=
  (congrArg (fun s : State => s.cluster k) h :)

theorem startRoles_offTables (s : State) (unit : Nat) (cr : CtxRegs) (l : Launch) : (startRoles s unit cr l).1.offTables = s.offTables := by
  have h := readRoles_offReads unit cr l.kernel.headVa l.kernel.roles.length s (l.kernel.headVa + l.kernel.roleTab)
  unfold startRoles
  dsimp only
  split
  · next hr => rw [hr] at h; exact offTables_of_offReads h
  · next hr => rw [hr] at h; exact (offTables_of_offReads h :)

/-! ## The crew and its warps -/

/-- A crew without its queues and its scratchpad. -/
def Crew.offQueues (c : Crew) : Crew := { c with queues := [], sp := [], spBad := [] }

theorem startQueues_offQueues (c : Crew) (es : List Nat) : (startQueues c es).offQueues = c.offQueues := by
  refine foldl_keeps Crew.offQueues ?_ c
  exact fun _ _ _ => rfl

/-- The warps of slots that differ stand each under its key, and the others stay. -/
theorem foldl_setWarp_warp (core : Nat) (f : Nat × Nat → Warp) (l : List (Nat × Nat)) (s : State) (hl : (l.map Prod.fst).Nodup) :
    (∀ e ∈ l, (l.foldl (fun s e => s.setWarp (32 * core + e.1) (f e)) s).warp (32 * core + e.1) = some (f e)) ∧
    ∀ k, (∀ e ∈ l, k ≠ 32 * core + e.1) → (l.foldl (fun s e => s.setWarp (32 * core + e.1) (f e)) s).warp k = s.warp k := by
  induction l generalizing s with
  | nil => exact ⟨fun _ he => (List.not_mem_nil he).elim, fun _ _ => rfl⟩
  | cons a l ih =>
    obtain ⟨hout, hl⟩ := List.nodup_cons.mp hl
    obtain ⟨hset, hrest⟩ := ih (s.setWarp (32 * core + a.1) (f a)) hl
    refine ⟨fun e he => ?_, fun k hk => ?_⟩
    · obtain rfl | he := List.mem_cons.mp he
      · refine (hrest _ fun b hb hab => hout ?_).trans (warp_setWarp_same _ _ _)
        exact List.mem_map.mpr ⟨b, hb, by omega⟩
      · exact hset e he
    · exact (hrest k fun e he => hk e (List.mem_cons_of_mem _ he)).trans (warp_setWarp_ne _ _ _ _ (hk a List.mem_cons_self))

theorem foldl_setWarp_frame (core : Nat) (f : Nat × Nat → Warp) (l : List (Nat × Nat)) (s : State) :
    { l.foldl (fun s e => s.setWarp (32 * core + e.1) (f e)) s with warps := [] } = { s with warps := [] } := by
  refine foldl_keeps (fun s : State => { s with warps := [] }) ?_ s
  exact fun _ _ _ => rfl

theorem freeSlots_nodup (s : State) (core n : Nat) : (((freeSlots s core).take n).zipIdx.map Prod.fst).Nodup := by
  rw [List.zipIdx_map_fst]
  exact (List.nodup_range.filter _).sublist (List.take_sublist _ _)

/-- An entry of a list stands in the table of its indices. -/
theorem fmFind_zipIdx {α β : Type} (f : α → β) (l : List α) (k i : Nat) :
    fmFind ((l.zipIdx k).map (fun a => (a.2, f a.1))) (k + i) = l[i]?.map f := by
  induction l generalizing k i with
  | nil => rfl
  | cons a l ih =>
    rw [List.zipIdx_cons, List.map_cons, fmFind_cons]
    cases i with
    | zero => simp
    | succ i => simpa [Nat.add_assoc, Nat.add_comm 1 i] using ih (k + 1) i

/-- A launch argument stands in the register of its number, in every lane that lives. -/
theorem startRegs_arg {live : Mask} {args : List Word} {i n : Nat} {a : Word} (ha : args[i]? = some a) (hn : n < 32) (hlive : live.getLsbD n = true) :
    rowGet (fmGet emptyRow (args.zipIdx.map (fun a => (a.2, mkRow (fun l => if live.getLsbD l then ⟨a.1, 0⟩ else Lane.zero)))) i) n = ⟨a, 0⟩ := by
  have h := fmFind_zipIdx (fun a => mkRow (fun l => if live.getLsbD l then ⟨a, 0⟩ else Lane.zero)) args 0 i
  rw [Nat.zero_add, ha] at h
  simp only [fmGet, h, Option.map_some, Option.getD_some, rowGet_mkRow _ _ hn, hlive, if_true]

theorem pcLane_replicate {w : Warp} {e : Word} (h : w.pt.pcs = List.replicate 32 e) {i : Nat} (hi : i < 32) : pcLane w i = e := by
  rw [pcLane, h, List.getD_replicate _ hi]

/-- Where a crew is placed the core is awake, with its rows. -/
theorem wakePlaced_core (s : State) (core : Nat) : ((wakePlaced s core).core core).gated = false ∧
    ((wakePlaced s core).core core).poolFree = (s.core core).poolFree := by
  unfold wakePlaced
  rw [State.modCore_same]
  split_ifs with h
  · exact ⟨rfl, rfl⟩
  · exact ⟨by simpa using h, rfl⟩

theorem wakePlaced_offL1 (s : State) (core : Nat) : (wakePlaced s core).offL1 = s.offL1 := rfl

/-! ## The placement of a crew (R426) -/

/-- The state in which the role table of a crew has been read. -/
def crewReady (s : State) (l : Launch) (core : Nat) : State × CtxRegs × List RoleEnt :=
  let desc := readDesc (enterContext s (core / 8) l.ctx) (dispUnit l.ring) l.ctx
  let r := startRoles desc.1 core desc.2 l
  (r.1, desc.2, r.2)

theorem crewReady_frame (s : State) (l : Launch) (core : Nat) : (crewReady s l core).1.crews = s.crews ∧ (crewReady s l core).1.warps = s.warps ∧
    (crewReady s l core).1.pkg = s.pkg ∧ (crewReady s l core).1.nextOp = s.nextOp ∧
    ((crewReady s l core).1.core core).poolFree = (s.core core).poolFree := by
  have hread : (crewReady s l core).1.offTables = (enterContext s (core / 8) l.ctx).offTables :=
    (startRoles_offTables _ _ _ _).trans (readDesc_offTables _ _ _)
  have henter := enterContext_offEntry s (core / 8) l.ctx
  refine ⟨(offTables_crews hread).trans (congrArg State.crews henter :), (offTables_warps hread).trans (congrArg State.warps henter :),
    (offTables_pkg hread).trans (congrArg State.pkg henter :), (congrArg State.nextOp hread : _ = _).trans (congrArg State.nextOp henter :), ?_⟩
  have hcores : ((crewReady s l core).1.core core) = (enterContext s (core / 8) l.ctx).core core :=
    congrArg (fun m => fmGet Core.start m core) (offTables_cores hread)
  rw [hcores, enterContext_pool]

/-- The record of the crew that is placed. -/
def placedCrew (s : State) (l : Launch) (v core base : Nat) : Crew :=
  startQueues (startCrew l (crewReady s l core).2.1 core v base ((freeSlots s core).take l.warps) (crewReady s l core).2.2) l.queues

/-- The warp that starts in a slot of the core. -/
def placedWarp (s : State) (l : Launch) (core : Nat) (e : Nat × Nat) : Warp :=
  seedWarp (32 * core + e.1)
    (startWarp s.nextOp e.2 l.kernel l.cls l.tvec (l.kernel.spBytes + e.1 / 8 * 0x620) (BitVec.allOnes 32) l.args)

/-- The crew and its warps, before its core makes room. -/
def crewSet (s : State) (l : Launch) (v core base : Nat) : State :=
  (((freeSlots s core).take l.warps).zipIdx).foldl (fun s' e => s'.setWarp (32 * core + e.1) (placedWarp s l core e))
    ({ (crewReady s l core).1 with nextOp := s.nextOp + 1 }.setCrew s.nextOp (placedCrew s l v core base))

/-- The rows of the crew leave the pool of its core, and its L1 makes room. -/
def roomMade (s : State) (l : Launch) (core : Nat) : State :=
  l1Acquire (pinEvict (s.modCore core (fun c => { c with poolFree := c.poolFree - l.warps * l.kernel.regs })) core) core

theorem roomMade_offLines (s : State) (l : Launch) (core : Nat) : (roomMade s l core).offLines =
    (s.modCore core (fun c => { c with poolFree := c.poolFree - l.warps * l.kernel.regs })).offLines :=
  (l1Acquire_offLines _ _).trans (pinEvict_offLines _ _)

theorem roomMade_offL1 (s : State) (l : Launch) (core : Nat) : (roomMade s l core).offL1 = s.offL1 :=
  (offLines_offL1 (roomMade_offLines s l core)).trans rfl

theorem roomMade_pool (s : State) (l : Launch) (core : Nat) : ((roomMade s l core).core core).poolFree =
    (s.core core).poolFree - l.warps * l.kernel.regs :=
  (offLines_pool (roomMade_offLines s l core) core).trans (congrArg Core.poolFree (State.modCore_same s core _))

/-- The launch with a crew of it placed. -/
def crewLeft (l : Launch) (v core op : Nat) (x : Launch) : Launch :=
  if x.id = l.id then { x with waiting := x.waiting.filter (fun u => u != v), placed := x.placed ++ [(op, core)] } else x

/-- What the dispatcher keeps of a placed crew. -/
def notePlaced (s : State) (l : Launch) (v core op : Nat) : State :=
  s.modPkg (fun p => { p with crewNames := fmPut p.crewNames op (l.ring, l.lid, v), launches := p.launches.map (crewLeft l v core op) })

theorem placeCrew_eq (s : State) (l : Launch) (v core base : Nat) : placeCrew s l v core base =
    notePlaced (wakePlaced (roomMade (crewSet s l v core base) l core) core) l v core s.nextOp := by
  obtain ⟨-, hwarps, -, hop, -⟩ := crewReady_frame s l core
  have hslots : freeSlots (crewReady s l core).1 core = freeSlots s core := by simp only [freeSlots, State.warp, hwarps]
  simp only [crewSet, placedCrew, placedWarp, ← hop, ← hslots]
  simp only [crewReady, placeCrew]
  rfl

theorem crewSet_crew (s : State) (l : Launch) (v core base : Nat) : (crewSet s l v core base).crew s.nextOp = some (placedCrew s l v core base) := by
  have hcrews := congrArg State.crews (foldl_setWarp_frame core (placedWarp s l core) (((freeSlots s core).take l.warps).zipIdx)
    ({ (crewReady s l core).1 with nextOp := s.nextOp + 1 }.setCrew s.nextOp (placedCrew s l v core base)))
  exact (congrArg (fun m => fmFind m s.nextOp) hcrews).trans (State.setCrew_same _ _ _)

theorem crewSet_pkg (s : State) (l : Launch) (v core base : Nat) : (crewSet s l v core base).pkg = s.pkg :=
  (congrArg State.pkg (foldl_setWarp_frame core (placedWarp s l core) (((freeSlots s core).take l.warps).zipIdx) _) : _ = _).trans
    (crewReady_frame s l core).2.2.1

theorem crewSet_pool (s : State) (l : Launch) (v core base : Nat) : ((crewSet s l v core base).core core).poolFree = (s.core core).poolFree := by
  have hcores := congrArg State.cores (foldl_setWarp_frame core (placedWarp s l core) (((freeSlots s core).take l.warps).zipIdx)
    ({ (crewReady s l core).1 with nextOp := s.nextOp + 1 }.setCrew s.nextOp (placedCrew s l v core base)))
  exact (congrArg (fun m => (fmGet Core.start m core).poolFree) hcores).trans (crewReady_frame s l core).2.2.2.2

theorem crewSet_warp (s : State) (l : Launch) (v core base : Nat) :
    (∀ e ∈ ((freeSlots s core).take l.warps).zipIdx, (crewSet s l v core base).warp (32 * core + e.1) = some (placedWarp s l core e)) ∧
    ∀ k, (∀ e ∈ (freeSlots s core).take l.warps, k ≠ 32 * core + e) → (crewSet s l v core base).warp k = s.warp k := by
  obtain ⟨hset, hrest⟩ := foldl_setWarp_warp core (placedWarp s l core) (((freeSlots s core).take l.warps).zipIdx)
    ({ (crewReady s l core).1 with nextOp := s.nextOp + 1 }.setCrew s.nextOp (placedCrew s l v core base)) (freeSlots_nodup s core l.warps)
  refine ⟨hset, fun k hk => (hrest k fun e he => hk e.1 ?_).trans ?_⟩
  · exact List.fst_mem_of_mem_zipIdx he
  · exact congrArg (fun m => fmFind m k) (crewReady_frame s l core).2.1

/-- But for its cores and its requests, an awake core with room leaves the state that it was given. -/
theorem awake_offL1 (s : State) (l : Launch) (core : Nat) : (wakePlaced (roomMade s l core) core).offL1 = s.offL1 :=
  (wakePlaced_offL1 _ _).trans (roomMade_offL1 s l core)

theorem awake_core (s : State) (l : Launch) (core : Nat) : ((wakePlaced (roomMade s l core) core).core core).gated = false ∧
    ((wakePlaced (roomMade s l core) core).core core).poolFree = (s.core core).poolFree - l.warps * l.kernel.regs := by
  obtain ⟨hgated, hrows⟩ := wakePlaced_core (roomMade s l core) core
  exact ⟨hgated, hrows.trans (roomMade_pool s l core)⟩

/-- A placed crew, its warps, its core and its launch. -/
theorem notePlaced_spec {s t : State} {l : Launch} {v core base : Nat} (hout : t.offL1 = (crewSet s l v core base).offL1) :
    (notePlaced t l v core s.nextOp).crew s.nextOp = some (placedCrew s l v core base) ∧
    (∀ k, (notePlaced t l v core s.nextOp).warp k = (crewSet s l v core base).warp k) ∧
    (notePlaced t l v core s.nextOp).core core = t.core core ∧
    (notePlaced t l v core s.nextOp).pkg.launches = s.pkg.launches.map (crewLeft l v core s.nextOp) :=
  have hcrew := (offL1_crew hout s.nextOp).trans (crewSet_crew s l v core base)
  have hwarp := offL1_warp hout
  have hpkg := (offL1_pkg hout).trans (crewSet_pkg s l v core base)
  ⟨hcrew, hwarp, rfl, congrArg (fun p : Pkg => p.launches.map (crewLeft l v core s.nextOp)) hpkg⟩

/-- A crew of a launch that is not a gang goes where PLACE lets it go, and where no other ring's launch comes first. -/
theorem execCrewPlacement_places {id core v b : Nat} {s : State} {l : Launch} (hfind : s.pkg.launches.find? (fun x => x.id = id) = some l)
    (hwaiting : l.waiting ≠ []) (hturn : ringTurn s l = true) (hz : s.pkg.frozen = false) (hcore : core < Config.cores) (hacorn : l.acorn = false)
    (hcrew : crewFor s l core = some (v, b)) (hfirst : outranked s l core = false) (hgang : l.gang = false) :
    exec (.crewPlacement id core) s = .next (placeCrew s l v core b) := by
  show execCrewPlacement id core s = _
  simp only [execCrewPlacement, hfind, hacorn, Nat.not_le.mpr hcore, List.isEmpty_eq_false_iff.mpr hwaiting, hturn, hz, hcrew, hfirst, hgang, decide_false,
    Bool.or_self, Bool.not_true, Bool.false_eq_true, if_false]

/-! ## The placement of an Acorn program (R275, R426) -/

/-- The cluster at the start of its program, and its context's descriptor. -/
def acornReady (s : State) (l : Launch) (cl : Nat) : State × CtxRegs :=
  readDesc ((enterContext s cl l.ctx).modCluster cl startAcorn) (dispUnit l.ring) l.ctx

theorem acornReady_nextOp (s : State) (l : Launch) (cl : Nat) : (acornReady s l cl).1.nextOp = s.nextOp := by
  rw [acornReady, offTables_nextOp (readDesc_offTables _ _ _), State.modCluster_nextOp]
  exact offEntry_nextOp (enterContext_offEntry s cl l.ctx)

theorem acornReady_cluster (s : State) (l : Launch) (cl : Nat) : (acornReady s l cl).1.cluster cl = startAcorn ((enterContext s cl l.ctx).cluster cl) :=
  (offTables_cluster (readDesc_offTables _ _ _) cl).trans (State.modCluster_same _ _ _)

/-- The record of the program's crew. -/
def acornCrew (s : State) (l : Launch) (cl : Nat) : Crew :=
  { startCrew l (acornReady s l cl).2 (1216 + cl) 0 0 [0] [] with
    groups := [{ members := [1], arrived := [] }], qhandles := l.queues.map (fun e => e % 4096), top := 0, pins := 0 }

/-- The warp of the program. -/
def acornWarp (s : State) (l : Launch) (cl : Nat) : Warp :=
  seedWarp (acornKey cl) (startWarp s.nextOp 0 l.kernel l.cls l.tvec 0 1 l.args)

/-- The crew and the warp of the program. -/
def acornSet (s : State) (l : Launch) (cl : Nat) : State :=
  ({ (acornReady s l cl).1 with nextOp := s.nextOp + 1 }.setCrew s.nextOp (acornCrew s l cl)).setWarp (acornKey cl) (acornWarp s l cl)

theorem acornSet_spec (s : State) (l : Launch) (cl : Nat) : (acornSet s l cl).crew s.nextOp = some (acornCrew s l cl) ∧
    (acornSet s l cl).warp (acornKey cl) = some (acornWarp s l cl) ∧
    (acornSet s l cl).cluster cl = startAcorn ((enterContext s cl l.ctx).cluster cl) := by
  have hcluster := acornReady_cluster s l cl
  unfold acornSet
  generalize (acornReady s l cl).1 = r at hcluster ⊢
  exact ⟨State.setCrew_same _ _ _, warp_setWarp_same _ _ _, hcluster⟩

theorem execAcornPlacement_places {id cl : Nat} {s : State} {l : Launch} (hfind : s.pkg.launches.find? (fun x => x.id = id) = some l)
    (hz : s.pkg.frozen = false) (hcl : cl < Config.clusters) (hfor : acornFor s l cl = true) (hfirst : acornOutranked s l cl = false) :
    exec (.acornPlacement id cl) s = .next ((acornSet s l cl).modPkg (fun p => { p with
      crewNames := fmPut p.crewNames s.nextOp (l.ring, l.lid, 0), launches := p.launches.map (fun x => if x.id = l.id then
        { x with waiting := [], placed := x.placed ++ [(s.nextOp, 1216 + cl)] } else x) })) := by
  show execAcornPlacement id cl s = _
  simp only [execAcornPlacement, hfind, Nat.not_le.mpr hcl, hz, hfor, hfirst, decide_false, Bool.or_self, Bool.not_true, Bool.false_eq_true, if_false]
  simp only [acornSet, acornCrew, acornWarp, ← acornReady_nextOp s l cl]
  simp only [acornReady]

end Sys2Proof.Machine

namespace Sys2Proof.Proofs
open Sys2Proof Sys2Proof.Machine

/-- Settles O47, from the state of a crew that has been placed and that of a program that has started. -/
theorem placementResults : Obligations.PlacementResults := by
  unfold Obligations.PlacementResults
  intro id s l hfind hwaiting hturn hz
  dsimp only
  refine ⟨fun core v b hacorn hcore hcrew hfirst hgang => ?crew, fun cl hcl hfor hfirst => ?acorn⟩
  case crew =>
    refine ⟨_, placedCrew s l v core b, execCrewPlacement_places hfind hwaiting hturn hz hcore hacorn hcrew hfirst hgang, ?_⟩
    have hspec := notePlaced_spec (awake_offL1 (crewSet s l v core b) l core)
    rw [← placeCrew_eq] at hspec
    obtain ⟨hstands, hwarp, hawake, hlaunches⟩ := hspec
    obtain ⟨hgated, hrows⟩ := awake_core (crewSet s l v core b) l core
    rw [crewSet_pool] at hrows
    rw [← hawake] at hgated hrows
    have hkept := startQueues_offQueues (startCrew l (crewReady s l core).2.1 core v b ((freeSlots s core).take l.warps) (crewReady s l core).2.2) l.queues
    obtain ⟨hset, hrest⟩ := crewSet_warp s l v core b
    refine ⟨hstands, (congrArg Crew.unit hkept :), (congrArg Crew.vcrew hkept :), (congrArg Crew.launch hkept :), (congrArg Crew.slots hkept :),
      (congrArg Crew.top hkept :), (congrArg Crew.place hkept :), (congrArg Crew.ctx hkept :), (congrArg Crew.ending hkept :), (congrArg Crew.roles hkept :),
      hrows, hgated, fun e he => ?_, fun k hk => (hwarp k).trans (hrest k hk), hlaunches⟩
    refine ⟨_, (hwarp _).trans (hset e he), ⟨rfl, rfl, rfl, rfl, rfl, rfl, fun i hi => pcLane_replicate rfl hi, rfl, rfl, rfl, rfl, rfl⟩, rfl,
      fun i a ha n hn => startRegs_arg ha hn ?_⟩
    rw [BitVec.getLsbD_allOnes, decide_eq_true hn]
  case acorn =>
    refine ⟨_, acornCrew s l cl, acornWarp s l cl, execAcornPlacement_places hfind hz hcl hfor hfirst, ?_⟩
    obtain ⟨hcrew, hwarp, hcluster⟩ := acornSet_spec s l cl
    obtain ⟨hctx, herr⟩ := enterContext_cluster s cl l.ctx
    generalize acornSet s l cl = t at hcrew hwarp hcluster ⊢
    generalize enterContext s cl l.ctx = u at hctx herr hcluster
    refine ⟨hcrew, rfl, rfl, rfl, hwarp, ⟨rfl, rfl, rfl, rfl, rfl, rfl, fun i hi => pcLane_replicate rfl hi, rfl, rfl, rfl, rfl, rfl⟩, ?_⟩
    show (t.cluster cl).ctx = some l.ctx ∧ (t.cluster cl).acc = [[], [], [], []] ∧ (t.cluster cl).mxerr = (s.cluster cl).mxerr &&& 0x0000FFFFFFFFFFFF ∧
      (t.cluster cl).halted = false ∧ (t.cluster cl).fmt = 0x0B ∧ (t.cluster cl).steps = 0 ∧ (t.cluster cl).wdir = []
    rw [hcluster, ← herr]
    exact ⟨hctx, rfl, rfl, rfl, rfl, rfl, rfl⟩

end Sys2Proof.Proofs
end

section
/-! PROOF. Abandoned fabric commands, plans and their chunks (17_fabric.md R442, R452, R459, R460). -/

namespace Sys2Proof.Machine

/-! ## An abandoned command (R452) -/

theorem completePend_offIssuer (s : State) (key : Nat) (p : Pend) : (completePend s key p).offIssuer = s.offIssuer :=
  (congrArg State.offIssuer (completePend_outside s key p) :)

theorem fabTrap_offIssuer (s : State) (key crew : Nat) (t : TrapRec) (tm : Bool) : (fabTrap s key crew t tm).offIssuer = s.offIssuer := by
  unfold fabTrap
  split
  · rfl
  · split_ifs
    · rfl
    · exact raiseLate_offIssuer _ _ _ _

/-- The issuer's trap of a fabric command. -/
def fabLate (c : FabCmd) (info : Word) (cycle : Nat) : TrapRec :=
  { cause := cENGFAULT, stage := .late, late := true, info := info, pc := c.pc, act := c.act, exec := c.exec, word := c.word, slots := none, cycle := cycle }

/-- A warp that is still of its crew learns of the failure, and traps. -/
theorem fabTrap_issuer {s : State} {key crew : Nat} {w : Warp} {t : TrapRec} (hw : s.warp key = some w) (hghost : isGhost key = false)
    (hcrew : w.crew = crew) (hleads : leads t = false) :
    (fabTrap s key crew t false).warp key = some { w with fabFail := true, traps := w.traps ++ [t] } := by
  subst hcrew
  have hset : (s.setWarp key { w with fabFail := true }).warp key = some { w with fabFail := true } := warp_setWarp_same _ _ _
  have hrun : fabTrap s key w.crew t false = raiseLate (s.setWarp key { w with fabFail := true }) key t false := by
    simp only [fabTrap, hw, bne_self_eq_false, Bool.false_eq_true, if_false]
  rw [hrun, raiseLate_held hset hghost hleads]
  exact warp_setWarp_same _ _ _

/-- The instruction of an abandoned command completes, while its warp is of its crew. -/
def fabComplete (s : State) (c : FabCmd) : State :=
  match s.warp c.key with
  | some w => match findPend w c.op with
    | some p => if w.crew = c.crew then completePend s c.key p else s
    | none => s
  | none => s

theorem fabComplete_offIssuer (s : State) (c : FabCmd) : (fabComplete s c).offIssuer = s.offIssuer := by
  unfold fabComplete
  split
  · split
    · split_ifs
      · exact completePend_offIssuer _ _ _
      · rfl
    · rfl
  · rfl

/-- The issuer keeps its crew and its traps. -/
theorem fabComplete_warp {s : State} {c : FabCmd} {w : Warp} (hw : s.warp c.key = some w) :
    ∃ v, (fabComplete s c).warp c.key = some v ∧ v.crew = w.crew := by
  simp only [fabComplete, hw]
  split
  · split_ifs
    · obtain ⟨v, hlands, -⟩ := completePend_lands hw ‹Pend›
      exact ⟨v, hlands.warp, (congrArg Warp.crew hlands.kept :)⟩
    · exact ⟨w, hw, rfl⟩
  · exact ⟨w, hw, rfl⟩

/-- The command has left with its packets. -/
def fabFreed (s : State) (id : Nat) : State :=
  s.modPkg (fun p => { p with
    fabric := p.fabric.filter (fun x => x.id != id)
    conns := p.conns.map (fun e => (e.1, { e.2 with unacked := e.2.unacked.filter (fun k => k.cmd != some id) })) })

/-- The record of an abandoned command. -/
def fabRecord (s : State) (c : FabCmd) (id reason : Nat) : FaultRec :=
  ofCrew (fabFreed s id) c.crew (engineFault 4 reason (if reason = 1 then 9 else if reason = 2 then 10 else 8) c.cregs c.ctx 0
    (portUnit (keyUnit c.key)) (keySlot c.key) (BitVec.ofNat 64 (c.hr + reason * 4096)) .nobody)

/-- The command has left, and its record is on its way. -/
def fabDropped (s : State) (c : FabCmd) (id reason : Nat) : State :=
  sendFault (orphanFaults (fabFreed s id) (.fabric id)) (fabRecord s c id reason)

theorem fabGiveUp_eq {s : State} {id : Nat} {c : FabCmd} (hfind : s.pkg.fabric.find? (fun x => x.id = id) = some c) (reason : Nat) :
    fabGiveUp s id reason = fabTrap (fabComplete (fabDropped s c id reason) c) c.key c.crew
      (fabLate c (BitVec.ofNat 64 (c.hr + reason * 4096)) (fabComplete (fabDropped s c id reason) c).cycle) c.tm := by
  simp only [fabGiveUp, hfind]
  rfl

/-- Beyond the command and its record an abandonment reaches the issuer alone. -/
theorem fabGiveUp_offIssuer {s : State} {id : Nat} {c : FabCmd} (hfind : s.pkg.fabric.find? (fun x => x.id = id) = some c) (reason : Nat) :
    (fabGiveUp s id reason).offIssuer = (fabDropped s c id reason).offIssuer := by
  rw [fabGiveUp_eq hfind, fabTrap_offIssuer, fabComplete_offIssuer]

theorem fabRecord_spec (s : State) (c : FabCmd) (id reason : Nat) : (fabRecord s c id reason).ftype = 4 ∧
    (fabRecord s c id reason).reason = reason ∧ (fabRecord s c id reason).info = BitVec.ofNat 64 (c.hr + reason * 4096) ∧
    (fabRecord s c id reason).unit = portUnit (keyUnit c.key) := by
  have h := ofCrew_kept (fabFreed s id) c.crew (engineFault 4 reason (if reason = 1 then 9 else if reason = 2 then 10 else 8) c.cregs c.ctx 0
    (portUnit (keyUnit c.key)) (keySlot c.key) (BitVec.ofNat 64 (c.hr + reason * 4096)) .nobody)
  exact ⟨(congrArg FaultRec.ftype h :), (congrArg FaultRec.reason h :), (congrArg FaultRec.info h :), (congrArg FaultRec.unit h :)⟩

/-- An abandoned command is gone, its record is on its way, and memory stays. -/
theorem fabGiveUp_leaves {s : State} {id : Nat} {c : FabCmd} (hfind : s.pkg.fabric.find? (fun x => x.id = id) = some c) (reason : Nat) :
    (fabGiveUp s id reason).pkg = (fabFreed s id).pkg ∧ { fabRecord s c id reason with tag := 0 } ∈ (fabGiveUp s id reason).faults ∧
    (fabGiveUp s id reason).mem = s.mem := by
  have hout := fabGiveUp_offIssuer hfind reason
  refine ⟨(offIssuer_pkg hout).trans rfl, ?_, (offIssuer_mem hout).trans rfl⟩
  rw [offIssuer_faults hout]
  exact sendFault_sent _ (by rw [(fabRecord_spec s c id reason).1]; decide)

/-- An issuer that is still of its crew learns of the failure, and traps. -/
theorem fabGiveUp_issuer {s : State} {id : Nat} {c : FabCmd} (hfind : s.pkg.fabric.find? (fun x => x.id = id) = some c) (reason : Nat) {w : Warp}
    (hw : s.warp c.key = some w) (hghost : isGhost c.key = false) (hcrew : w.crew = c.crew) (htm : c.tm = false) :
    ∃ v cycle, (fabGiveUp s id reason).warp c.key = some v ∧ v.fabFail = true ∧ fabLate c (BitVec.ofNat 64 (c.hr + reason * 4096)) cycle ∈ v.traps := by
  have hdropped : (fabDropped s c id reason).warp c.key = some w := hw
  obtain ⟨v, hv, hvcrew⟩ := fabComplete_warp hdropped
  rw [fabGiveUp_eq hfind, htm]
  exact ⟨_, _, fabTrap_issuer hv hghost (hvcrew.trans hcrew) rfl, rfl, List.mem_append_right _ (List.mem_singleton.mpr rfl)⟩

/-! ## An aborted plan (R460) -/

theorem raiseLate_warp_ne (s : State) {key j : Nat} (t : TrapRec) (handlers : Bool) (hj : j ≠ key) : (raiseLate s key t handlers).warp j = s.warp j := by
  unfold raiseLate
  split
  · rfl
  · split_ifs
    · rfl
    · rw [handlerEnds_eq, markEnding_warp]
    · exact warp_setWarp_ne _ _ _ _ hj
    · exact warp_setWarp_ne _ _ _ _ hj

/-- Two contributions are of one warp. -/
def sameGiver (x y : ChunkSource) : Bool := x.key = y.key && x.crew = y.crew

/-- A FRED of the context into the slot is still read. -/
def readsInto (q : Plan) (n : Nat) (c : FabCmd) : Bool :=
  match c.kind with
  | .reduce slot _ _ => slot = n && c.ctx = q.ctx
  | _ => false

/-- The contributions of a plan that are not yet combined. -/
def planHeld (s : State) (q : Plan) (n : Nat) : List ChunkSource :=
  (q.mine.filter (fun c => !(c.epoch = q.epoch && q.combined.contains c.index))).filterMap (fun c => c.src) ++
    (s.pkg.fabric.filter (readsInto q n)).map FabCmd.source

/-- The trap of a warp whose contribution is lost. -/
def giverTrap (n : Nat) (x : ChunkSource) (cycle : Nat) : TrapRec :=
  { cause := cENGFAULT, stage := .late, late := true, info := BitVec.ofNat 64 n, pc := x.pc, act := x.act, exec := x.exec, word := x.word, slots := none
    cycle := cycle }

/-- The trap of the warp of a contribution. -/
def giverStep (n : Nat) (held : List ChunkSource) (s : State) (x : ChunkSource × Nat) : State :=
  match s.warp x.1.key with
  | none => s
  | some w => if w.crew != x.1.crew then s
    else raiseLate s x.1.key (giverTrap n x.1 s.cycle) (held.any (fun y => sameGiver x.1 y && y.tm))

/-- The record of an aborted plan. -/
def planRecord (s : State) (q : Plan) (n reason : Nat) : FaultRec :=
  ofIssuer s q.key (engineFault 4 reason 8 q.cregs q.ctx 0 (portUnit (keyUnit q.key)) 0 (BitVec.ofNat 64 n) .nobody)

/-- The slot is marked, and its record on its way. -/
def planMarked (s : State) (q : Plan) (n reason : Nat) : State :=
  (sendFault (orphanFaults s (.plan n)) (planRecord s q n reason)).setPlan n { q with aborted := true }

theorem abortPlanFor_eq {s : State} {n : Nat} {q : Plan} (hq : s.plan? n = some q) (hgo : q.aborted = false) (reason : Nat) :
    abortPlanFor s n reason = (((planHeld s q n).zipIdx).filter (fun x => !((planHeld s q n).take x.2).any (sameGiver x.1))).foldl
      (giverStep n (planHeld s q n)) (planMarked s q n reason) := by
  simp only [abortPlanFor, hq, hgo, Bool.false_eq_true, if_false]
  rfl

theorem giverStep_offIssuer (n : Nat) (held : List ChunkSource) (s : State) (x : ChunkSource × Nat) : (giverStep n held s x).offIssuer = s.offIssuer := by
  unfold giverStep
  split
  · rfl
  · split_ifs
    · rfl
    · exact raiseLate_offIssuer _ _ _ _

/-- A contribution of another warp, or of an earlier crew in its slot, leaves the warp alone. -/
theorem giverStep_other {n : Nat} {held : List ChunkSource} {s : State} {x : ChunkSource × Nat} {key : Nat} {w : Warp} (hw : s.warp key = some w)
    (hx : ¬ (x.1.key = key ∧ x.1.crew = w.crew)) : (giverStep n held s x).warp key = some w := by
  unfold giverStep
  split
  · exact hw
  · next u hu =>
    split_ifs with hcrew
    · exact hw
    · have hcrew : u.crew = x.1.crew := by simpa using hcrew
      refine (raiseLate_warp_ne _ _ _ fun hkey => hx ⟨hkey.symm, ?_⟩).trans hw
      subst hkey
      rw [← hcrew, Option.some.inj (hu.symm.trans hw)]

/-- A contribution of the warp leaves its trap there. -/
theorem giverStep_giver {n : Nat} {held : List ChunkSource} {s : State} {x : ChunkSource × Nat} {w : Warp} (hw : s.warp x.1.key = some w)
    (hghost : isGhost x.1.key = false) (hcrew : x.1.crew = w.crew) (htm : held.any (fun y => sameGiver x.1 y && y.tm) = false) :
    (giverStep n held s x).warp x.1.key = some { w with traps := w.traps ++ [giverTrap n x.1 s.cycle] } := by
  have hrun : giverStep n held s x = raiseLate s x.1.key (giverTrap n x.1 s.cycle) false := by
    simp only [giverStep, hw, hcrew, bne_self_eq_false, Bool.false_eq_true, if_false, htm]
  rw [hrun, raiseLate_held hw hghost rfl]
  exact warp_setWarp_same _ _ _

/-- A warp after the traps of some contributions: it holds those of its own, and its traps before. -/
theorem giverFold_warp {n key : Nat} {held : List ChunkSource} (hghost : isGhost key = false) (l : List (ChunkSource × Nat)) {s : State} {w : Warp}
    (hw : s.warp key = some w) (htm : ∀ y ∈ held, y.key = key → y.crew = w.crew → y.tm = false) :
    ∃ v, (l.foldl (giverStep n held) s).warp key = some v ∧ v.pend = w.pend ∧ (∀ t ∈ w.traps, t ∈ v.traps) ∧
      ∀ x ∈ l, x.1.key = key → x.1.crew = w.crew → ∃ cycle, giverTrap n x.1 cycle ∈ v.traps := by
  induction l generalizing s w with
  | nil => exact ⟨w, hw, rfl, fun _ ht => ht, fun _ hx => (List.not_mem_nil hx).elim⟩
  | cons x l ih =>
    by_cases hx : x.1.key = key ∧ x.1.crew = w.crew
    · obtain ⟨rfl, hcrew⟩ := hx
      have hcalm : held.any (fun y => sameGiver x.1 y && y.tm) = false := by
        refine Bool.eq_false_iff.mpr fun hany => ?_
        obtain ⟨y, hy, hsame⟩ := List.any_eq_true.mp hany
        simp only [sameGiver, Bool.and_eq_true, decide_eq_true_eq] at hsame
        exact absurd hsame.2 (by rw [htm y hy hsame.1.1.symm (hsame.1.2.symm.trans hcrew)]; decide)
      obtain ⟨v, hv, hpend, hkept, hgiven⟩ := ih (giverStep_giver hw hghost hcrew hcalm) htm
      refine ⟨v, hv, hpend, fun t ht => hkept t (List.mem_append_left _ ht), fun y hy hkey hcrew' => ?_⟩
      obtain rfl | hy := List.mem_cons.mp hy
      · exact ⟨s.cycle, hkept _ (List.mem_append_right _ (List.mem_singleton.mpr rfl))⟩
      · exact hgiven y hy hkey hcrew'
    · obtain ⟨v, hv, hpend, hkept, hgiven⟩ := ih (giverStep_other (n := n) (held := held) hw hx) htm
      refine ⟨v, hv, hpend, hkept, fun y hy hkey hcrew' => ?_⟩
      obtain rfl | hy := List.mem_cons.mp hy
      · exact absurd ⟨hkey, hcrew'⟩ hx
      · exact hgiven y hy hkey hcrew'

/-- A contribution is of a warp. -/
def ofGiver (key crew : Nat) (z : ChunkSource) : Bool := z.key = key && z.crew = crew

theorem ofGiver_iff {key crew : Nat} {z : ChunkSource} : ofGiver key crew z = true ↔ z.key = key ∧ z.crew = crew := by simp [ofGiver]

/-- Among contributions of a warp one is the first. -/
theorem exists_first_giver {held : List ChunkSource} {key crew : Nat} (h : ∃ x ∈ held, x.key = key ∧ x.crew = crew) :
    ∃ x ∈ (held.zipIdx).filter (fun x => !(held.take x.2).any (sameGiver x.1)), x.1 ∈ held ∧ x.1.key = key ∧ x.1.crew = crew := by
  obtain ⟨y, hy, hof⟩ := h
  have hlt : held.findIdx (ofGiver key crew) < held.length := List.findIdx_lt_length_of_exists ⟨y, hy, ofGiver_iff.mpr hof⟩
  obtain ⟨hkey, hcrew⟩ := ofGiver_iff.mp (List.findIdx_getElem (w := hlt))
  refine ⟨(held[held.findIdx (ofGiver key crew)], held.findIdx (ofGiver key crew)), List.mem_filter.mpr ⟨?_, ?_⟩, List.getElem_mem hlt, hkey, hcrew⟩
  · exact List.mk_mem_zipIdx_iff_getElem?.mpr (List.getElem?_eq_getElem hlt)
  · rw [Bool.not_eq_true', List.any_eq_false]
    intro z hz hsame
    obtain ⟨i, hi, rfl⟩ := List.mem_iff_getElem.mp hz
    rw [List.length_take, lt_min_iff] at hi
    rw [List.getElem_take] at hsame
    simp only [sameGiver, Bool.and_eq_true, decide_eq_true_eq, hkey, hcrew] at hsame
    exact absurd (ofGiver_iff.mpr ⟨hsame.1.symm, hsame.2.symm⟩) (by simpa using List.not_of_lt_findIdx hi.1)

/-- The contributions of a plan: those that have been read and not combined, and those that are being read. -/
theorem mem_planHeld {s : State} {q : Plan} {n : Nat} {x : ChunkSource} : x ∈ planHeld s q n ↔
    (∃ m ∈ q.mine, m.src = some x ∧ ¬ (m.epoch = q.epoch ∧ m.index ∈ q.combined)) ∨
      ∃ c ∈ s.pkg.fabric, c.source = x ∧ c.ctx = q.ctx ∧ ∃ ch e, c.kind = .reduce n ch e := by
  have hreads (c : FabCmd) : readsInto q n c = true ↔ c.ctx = q.ctx ∧ ∃ ch e, c.kind = .reduce n ch e := by
    unfold readsInto
    split
    · next slot ch e hk => simp [hk, and_comm]
    · next hk => exact ⟨fun h => absurd h Bool.false_ne_true, fun ⟨_, ch, e, h⟩ => absurd h (hk n ch e)⟩
  simp only [planHeld, List.mem_append, List.mem_filterMap, List.mem_filter, List.mem_map, hreads]
  refine or_congr ?_ ?_
  · simp only [Bool.not_eq_true', Bool.and_eq_false_iff, decide_eq_false_iff_not, List.contains_eq_mem, not_and_or]
    exact exists_congr fun m => by tauto
  · exact exists_congr fun c => by tauto

/-- An aborted slot is marked and reported; the other slots and memory stay. -/
theorem abortPlanFor_leaves {s : State} {n : Nat} {q : Plan} (hq : s.plan? n = some q) (hgo : q.aborted = false) (reason : Nat) :
    (abortPlanFor s n reason).pkg = (s.setPlan n { q with aborted := true }).pkg ∧
    { planRecord s q n reason with tag := 0 } ∈ (abortPlanFor s n reason).faults ∧ (abortPlanFor s n reason).mem = s.mem ∧
    (planRecord s q n reason).ftype = 4 ∧ (planRecord s q n reason).reason = reason ∧ (planRecord s q n reason).info = BitVec.ofNat 64 n := by
  have hrec : { planRecord s q n reason with ring := 0, launchid := 0, vcrew := 0 } =
      engineFault 4 reason 8 q.cregs q.ctx 0 (portUnit (keyUnit q.key)) 0 (BitVec.ofNat 64 n) .nobody := by
    unfold planRecord ofIssuer
    split
    · rfl
    · exact ofCrew_kept _ _ _
  have htype : (planRecord s q n reason).ftype = 4 := (congrArg FaultRec.ftype hrec :)
  have hout : (abortPlanFor s n reason).offIssuer = (planMarked s q n reason).offIssuer := by
    rw [abortPlanFor_eq hq hgo]
    exact foldl_keeps State.offIssuer (fun t x _ => giverStep_offIssuer n _ t x) _
  refine ⟨(offIssuer_pkg hout).trans rfl, ?_, (offIssuer_mem hout).trans rfl, htype, (congrArg FaultRec.reason hrec :), (congrArg FaultRec.info hrec :)⟩
  rw [offIssuer_faults hout]
  exact sendFault_sent _ (by rw [htype]; decide)

/-- A warp with a contribution that is not combined traps at one of its FREDs. -/
theorem abortPlanFor_giver {s : State} {n key : Nat} {q : Plan} {w : Warp} (hq : s.plan? n = some q) (hgo : q.aborted = false) (reason : Nat)
    (hw : s.warp key = some w) (hghost : isGhost key = false) (hgives : ∃ x ∈ planHeld s q n, x.key = key ∧ x.crew = w.crew)
    (htm : ∀ x ∈ planHeld s q n, x.key = key → x.crew = w.crew → x.tm = false) :
    ∃ v x cycle, x ∈ planHeld s q n ∧ x.key = key ∧ x.crew = w.crew ∧ (abortPlanFor s n reason).warp key = some v ∧
      giverTrap n x cycle ∈ v.traps ∧ v.pend = w.pend := by
  have hmarked : (planMarked s q n reason).warp key = some w := hw
  obtain ⟨v, hv, hpend, -, hgiven⟩ := giverFold_warp (n := n) hghost
    (((planHeld s q n).zipIdx).filter (fun x => !((planHeld s q n).take x.2).any (sameGiver x.1))) hmarked htm
  obtain ⟨x, hx, hheld, hkey, hcrew⟩ := exists_first_giver hgives
  obtain ⟨cycle, htrap⟩ := hgiven x hx hkey hcrew
  rw [abortPlanFor_eq hq hgo]
  exact ⟨v, x.1, cycle, hheld, hkey, hcrew, hv, htrap, hpend⟩

/-! ## Packets that go out (R442) -/

/-- The state without its connections and what the reading of the peer tables may change. -/
def State.offConns (s : State) : State := (s.modPkg (fun p => { p with conns := [] })).offTables

/-- Packets have gone out: the connections hold more of them, and the rest stays but for what readings of tables change. -/
structure Sends (s t : State) : Prop where
  rest : t.offConns = s.offConns
  kept : ∀ c, ∀ p ∈ (s.conn c).unacked, p ∈ (t.conn c).unacked

theorem Sends.refl (s : State) : Sends s s := ⟨rfl, fun _ _ hp => hp⟩
theorem Sends.trans {s t u : State} (h1 : Sends s t) (h2 : Sends t u) : Sends s u :=
  ⟨h2.rest.trans h1.rest, fun c p hp => h2.kept c p (h1.kept c p hp)⟩
theorem Sends.plan {s t : State} (h : Sends s t) (n : Nat) : t.plan? n = s.plan? n := (congrArg (fun s : State => s.plan? n) h.rest :)
theorem Sends.crews {s t : State} (h : Sends s t) : t.crews = s.crews := (congrArg State.crews h.rest :)

theorem sendPacket_sends (s : State) (cr : CtxRegs) (conn : Nat) (cmd : Option Nat) (snap : Option (Nat × Nat)) (body : PacketBody) :
    Sends s (sendPacket s cr conn cmd snap body) ∧ ∃ p ∈ ((sendPacket s cr conn cmd snap body).conn conn).unacked, p.body = body := by
  obtain ⟨s1, k, p, hs1, hrun, hunacked, -, -, hbody⟩ := sendPacket_eq s cr conn cmd snap body
  rw [hrun]
  refine ⟨⟨(congrArg State.offConns hs1 :), fun c q hq => ?_⟩, p, ?_, hbody⟩
  · obtain rfl | hc := eq_or_ne c conn
    · rw [State.modConn_same, hunacked]
      exact List.mem_append_left _ hq
    · rw [State.modConn_ne _ _ _ _ hc]
      exact (congrArg (fun s : State => (s.conn c).unacked) hs1 : _ = _) ▸ hq
  · rw [State.modConn_same, hunacked]
    exact List.mem_append_right _ (List.mem_singleton.mpr rfl)

/-- A packet goes out for each of some pieces. -/
theorem foldl_sendPacket {α : Type} (cr : CtxRegs) (conn : Nat) (body : α → PacketBody) (l : List α) (s : State) :
    Sends s (l.foldl (fun s x => sendPacket s cr conn none none (body x)) s) ∧
    ∀ x ∈ l, ∃ p ∈ ((l.foldl (fun s x => sendPacket s cr conn none none (body x)) s).conn conn).unacked, p.body = body x := by
  induction l generalizing s with
  | nil => exact ⟨.refl s, fun _ hx => (List.not_mem_nil hx).elim⟩
  | cons a l ih =>
    obtain ⟨hsend, p, hp, hbody⟩ := sendPacket_sends s cr conn none none (body a)
    obtain ⟨hrest, hall⟩ := ih (sendPacket s cr conn none none (body a))
    refine ⟨hsend.trans hrest, fun x hx => ?_⟩
    obtain rfl | hx := List.mem_cons.mp hx
    · exact ⟨p, hrest.kept _ p hp, hbody⟩
    · exact hall x hx

/-- The packets of some pieces go out to each of some peers. -/
theorem foldl_foldl_sendPacket {α : Type} (cr : CtxRegs) (ctx : Nat) (body : α → PacketBody) (l : List α) (ks : List Nat) (s : State) :
    Sends s (ks.foldl (fun s k => l.foldl (fun s x => sendPacket s cr (connOf ctx k) none none (body x)) s) s) ∧
    ∀ k ∈ ks, ∀ x ∈ l, ∃ p ∈ ((ks.foldl (fun s k => l.foldl (fun s x => sendPacket s cr (connOf ctx k) none none (body x)) s) s).conn
      (connOf ctx k)).unacked, p.body = body x := by
  induction ks generalizing s with
  | nil => exact ⟨.refl s, fun _ hk => (List.not_mem_nil hk).elim⟩
  | cons k ks ih =>
    obtain ⟨hsend, hout⟩ := foldl_sendPacket cr (connOf ctx k) body l s
    obtain ⟨hrest, hall⟩ := ih (l.foldl (fun s x => sendPacket s cr (connOf ctx k) none none (body x)) s)
    refine ⟨hsend.trans hrest, fun j hj x hx => ?_⟩
    obtain rfl | hj := List.mem_cons.mp hj
    · obtain ⟨p, hp, hbody⟩ := hout x hx
      exact ⟨p, hrest.kept _ p hp, hbody⟩
    · exact hall j hj x hx

/-! ## The words of a result at their place (R459) -/

theorem translateEls_offReads (unit : Nat) (cr : CtxRegs) (need : Nat) (els : List MemEl) (s : State) :
    (translateEls s unit cr need els).1.offReads = s.offReads := by
  induction els generalizing s with
  | nil => rfl
  | cons e els ih =>
    have h := (ih (translate s unit cr e.va need).1).trans (translate_offReads s unit cr e.va need)
    rw [translateEls]
    dsimp only
    split <;> exact h

theorem pagesOf_offReads {e : Env} {s : State} {need : Nat} {vas : List Nat} {r : State × FMap Nat} (h : pagesOf e s need vas = .ok r) :
    r.1.offReads = s.offReads := by
  unfold pagesOf at h
  dsimp only at h
  generalize (vas.map (fun v => v / 65536)).eraseDups.map _ = els at h
  split at h
  · cases h
  · have hels := translateEls_offReads e.unit e.cr need els (walksGo s e.who e.unit e.cr vas)
    split at h
    · next hr =>
      cases h
      rw [hr] at hels
      exact hels.trans (walksGo_offReads _ _ _ _ _)
    · cases h

theorem homePut_pkg {who : Waiter} {unit : Nat} {bs : List (Nat × Byte × Bool)} {lns : List Nat} {s t : State}
    (h : homePut who unit bs lns s = .ok t) : t.pkg = s.pkg := by
  induction lns generalizing s with
  | nil => cases h; rfl
  | cons ln lns ih =>
    unfold homePut at h
    dsimp only at h
    split at h
    · cases h
    · split at h
      · cases h
      · next s1 hwrite => exact (ih h).trans ((offHomes_pkg (homeWrite_offHomes hwrite)).trans (offReads_pkg (engineGoes_offReads _ _ _ _)))

theorem fabPut_pkg {s t : State} {who : Waiter} {unit : Nat} {cr : CtxRegs} {crew : Option Nat} {a : Nat} {ws : List (BitVec 64 × Bool)}
    {pas : List (Nat × Byte × Bool)} (h : fabPut s who unit cr crew a ws = .done t pas) : t.pkg = s.pkg := by
  unfold fabPut at h
  dsimp only at h
  split at h
  · cases h
    exact (congrArg State.pkg (afterScratch_offCore _ _) : _ = _).trans (congrArg State.pkg (modCrew_offCore s _ _) :)
  · split at h
    · cases h
    · cases h
    · next hpages =>
      split at h
      · cases h
      · next hput =>
        cases h
        exact (homePut_pkg hput).trans (offReads_pkg (pagesOf_offReads hpages))

theorem fabClears_offCore (s : State) (crew : Nat) (pas : List (Nat × Byte × Bool)) : (fabClears s crew pas).offCore = s.offCore := by
  unfold fabClears
  split
  · rfl
  · exact foldl_keeps State.offCore (fun t ln _ => l1Invalidate_offCore t _ ln _) s

/-! ## The counts of a plan (R459) -/

/-- Some bytes of a chunk are counted into the arrival word of a plan. -/
def planCounted (s : State) (q : Plan) (bytes : Nat) : State :=
  match q.arrcrew with
  | some k => (List.range ((bytes + 4095) / 4096)).foldl (fun s i => (countInto s k q.arr (min 4096 (bytes - 4096 * i))).1) s
  | none => s

theorem planCounted_offCore (s : State) (q : Plan) (bytes : Nat) : (planCounted s q bytes).offCore = s.offCore := by
  unfold planCounted
  split
  · refine foldl_keeps State.offCore ?_ s
    exact fun t i _ => countInto_offCore t _ _ _
  · rfl

/-- A plan with the bytes of a chunk counted. -/
def chunkCounted (q : Plan) (ch bytes : Nat) : Plan :=
  { q with due := fmErase q.due ch, tally := fmSet 0 q.tally ch (fmGet 0 q.tally ch + bytes)
           counted := if q.chb ≤ fmGet 0 q.tally ch + bytes then (q.counted ++ [ch]).eraseDups else q.counted }

/-- What is due of a chunk is counted, or held. -/
def countStep (n : Nat) (q : Plan) (s : State) (e : Nat × Nat) : State :=
  if dueHeld s q e.1 then s
  else match s.plan? n with
    | none => s
    | some p => (planCounted s p e.2).setPlan n (chunkCounted p e.1 e.2)

theorem planCount_eq {s : State} {n : Nat} {q : Plan} (hq : s.plan? n = some q) :
    planCount s n = if q.aborted then s else q.due.foldl (countStep n q) s := by
  simp only [planCount, hq]
  rfl

/-- The connections, and which chunks of a plan are combined. -/
def planKept (n : Nat) (s : State) : FMap Conn × Option (List Nat) := (s.pkg.conns, (s.plan? n).map Plan.combined)

theorem planKept_of_pkg {n : Nat} {s t : State} (h : t.pkg = s.pkg) : planKept n t = planKept n s :=
  (congrArg (fun p : Pkg => (p.conns, (fmFind p.plans n).map Plan.combined)) h :)

theorem setPlan_kept {n : Nat} {s : State} {q v : Plan} (hq : s.plan? n = some q) (hv : v.combined = q.combined) :
    planKept n (s.setPlan n v) = planKept n s := by
  rw [planKept, planKept, State.setPlan_same, hq, Option.map_some, Option.map_some, hv]
  rfl

theorem countStep_kept (n : Nat) (q : Plan) (s : State) (e : Nat × Nat) : planKept n (countStep n q s e) = planKept n s := by
  unfold countStep
  split_ifs
  · rfl
  · split
    · rfl
    · next p hp =>
      have hcounted : planKept n (planCounted s p e.2) = planKept n s := planKept_of_pkg (congrArg State.pkg (planCounted_offCore s p e.2) :)
      have hplan : (planCounted s p e.2).plan? n = some p :=
        (congrArg (fun s : State => s.plan? n) (planCounted_offCore s p e.2) : _ = _).trans hp
      refine (setPlan_kept hplan ?_).trans hcounted
      rfl

theorem planCount_kept (s : State) (n : Nat) : planKept n (planCount s n) = planKept n s := by
  cases hq : s.plan? n with
  | none => simp only [planCount, hq]
  | some q =>
    rw [planCount_eq hq]
    split_ifs
    · rfl
    · exact foldl_keeps (planKept n) (fun t e _ => countStep_kept n q t e) s

theorem planDue_eq {s : State} {n : Nat} {q : Plan} (hq : s.plan? n = some q) (ch bytes : Nat) :
    planDue s n ch bytes = s.setPlan n { q with due := fmSet 0 q.due ch (fmGet 0 q.due ch + bytes) } := by
  simp only [planDue, hq]

/-- Copy words of the bytes of a result become Invalid where its arrival word is. -/
def resultClears (s : State) (q : Plan) (pas : List (Nat × Byte × Bool)) : State :=
  match q.arrcrew with
  | some k => fabClears s k pas
  | none => s

theorem resultClears_offCore (s : State) (q : Plan) (pas : List (Nat × Byte × Bool)) : (resultClears s q pas).offCore = s.offCore := by
  unfold resultClears
  split
  · exact fabClears_offCore _ _ _
  · rfl

/-- A piece of a result that has been written is due. -/
def pieceDue (s : State) (n : Nat) (q : Plan) (r : Chunk) (rest : List Chunk) (pas : List (Nat × Byte × Bool)) : State :=
  planDue ((resultClears s q pas).setPlan n { q with results := rest }) n r.index (8 * r.words.length)

theorem planWrite_done {s s1 : State} {n : Nat} {q : Plan} {r : Chunk} {rest : List Chunk} {pas : List (Nat × Byte × Bool)} (hq : s.plan? n = some q)
    (hres : q.results = r :: rest) (hgo : q.aborted = false) (hfault : s.faults.any (fun f => f.waiter = .plan n) = false)
    (hseal : (q.rescrew.isNone && sealHit s (q.cregs.asid.toNat % 65536) (fabBase q.resh + r.index * q.chb + r.off) (8 * r.words.length)) = false)
    (hput : fabPut s (.plan n) (portUnit (keyUnit q.key)) q.cregs q.rescrew (fabBase q.resh + r.index * q.chb + r.off) r.words = .done s1 pas) :
    planWrite s n = (pieceDue s1 n q r rest pas, true) := by
  simp only [planWrite, hq, hres]
  rw [if_neg (by simp [hgo, hfault]), if_neg (by rw [hseal]; decide), hput]
  rfl

theorem abortPlanFor_kept (s : State) (n reason : Nat) : planKept n (abortPlanFor s n reason) = planKept n s := by
  cases hq : s.plan? n with
  | none => simp only [abortPlanFor, hq]
  | some q =>
    cases hgo : q.aborted with
    | true => simp only [abortPlanFor, hq, hgo, if_true]
    | false => exact (planKept_of_pkg (abortPlanFor_leaves hq hgo reason).1).trans (setPlan_kept hq rfl)

theorem pieceDue_kept {s : State} {n : Nat} {q : Plan} (hq : s.plan? n = some q) (r : Chunk) (rest : List Chunk) (pas : List (Nat × Byte × Bool)) :
    planKept n (pieceDue s n q r rest pas) = planKept n s := by
  have hclears : (resultClears s q pas).plan? n = some q := (congrArg (fun s : State => s.plan? n) (resultClears_offCore s q pas) : _ = _).trans hq
  rw [pieceDue, planDue_eq (State.setPlan_same _ _ _)]
  refine (setPlan_kept (State.setPlan_same _ _ _) ?_).trans ((setPlan_kept hclears ?_).trans (planKept_of_pkg ?_))
  · rfl
  · rfl
  · exact (congrArg State.pkg (resultClears_offCore s q pas) :)

theorem planWrite_kept (s : State) (n : Nat) : planKept n (planWrite s n).1 = planKept n s := by
  unfold planWrite
  split
  · rfl
  · next q hq =>
    split
    · rfl
    · next r rest hres =>
      dsimp only
      split_ifs
      · rfl
      · exact abortPlanFor_kept s n 3
      · split
        · exact planKept_of_pkg (offReads_pkg (waits_offReads _ _ _))
        · exact planKept_of_pkg rfl
        · next s1 pas hput =>
          have hpkg := fabPut_pkg hput
          have hplan : s1.plan? n = some q := (congrArg (fun p : Pkg => fmFind p.plans n) hpkg).trans hq
          exact (pieceDue_kept hplan r rest pas).trans (planKept_of_pkg hpkg)

theorem planStep_kept (n fuel : Nat) (s : State) : planKept n (planStep n fuel s) = planKept n s := by
  induction fuel generalizing s with
  | zero => exact planCount_kept s n
  | succ fuel ih =>
    have hwrite := planWrite_kept s n
    rw [planStep]
    dsimp only
    split_ifs
    · exact (ih _).trans hwrite
    · exact (planCount_kept _ n).trans hwrite

theorem planRun_kept (s : State) (n : Nat) : planKept n (planRun s n) = planKept n s := planStep_kept n _ s

theorem offCore_slices {s t : State} (h : t.offCore = s.offCore) : t.slices = s.slices := (congrArg State.slices h :)
theorem offCore_mem {s t : State} (h : t.offCore = s.offCore) : t.mem = s.mem := (congrArg State.mem h :)

theorem fabClears_warps (s : State) (crew : Nat) (pas : List (Nat × Byte × Bool)) : (fabClears s crew pas).warps = s.warps := by
  unfold fabClears
  split
  · rfl
  · refine foldl_keeps State.warps (fun t ln _ => ?_) s
    unfold l1Invalidate
    split
    · rfl
    · unfold l1Put
      split <;> rfl

theorem resultClears_warps (s : State) (q : Plan) (pas : List (Nat × Byte × Bool)) : (resultClears s q pas).warps = s.warps := by
  unfold resultClears
  split
  · exact fabClears_warps _ _ _
  · rfl

/-- The count of a chunk is not held while no earlier access of its warp is. -/
theorem dueHeld_of_free {s : State} {q : Plan} {ch : Nat} {m : Chunk} (hm : q.mine.find? (fun c => c.epoch = q.epoch && c.index = ch) = some m)
    (hfree : ∀ k x, q.arrcrew = some k → m.src = some x → fabHeld s k x.key x.op = false) : dueHeld s q ch = false := by
  unfold dueHeld
  rw [hm]
  split
  · next k m' harr hm' =>
    obtain rfl := Option.some.inj hm'
    cases hsrc : m.src with
    | none => rfl
    | some x => exact hfree k x harr hsrc
  · rfl

/-- A plan whose only piece of results has been written, and is due. -/
def onlyDue (q : Plan) (r : Chunk) : Plan := { q with results := [], due := [(r.index, 8 * r.words.length)] }

theorem pieceDue_only {s : State} {n : Nat} {q : Plan} {r : Chunk} (hdue : q.due = []) (hwords : 8 * r.words.length ≠ 0)
    (pas : List (Nat × Byte × Bool)) :
    pieceDue s n q r [] pas = ((resultClears s q pas).setPlan n { q with results := [] }).setPlan n (onlyDue q r) := by
  have hset : fmSet 0 ([] : FMap Nat) r.index (0 + 8 * r.words.length) = [(r.index, 8 * r.words.length)] := by simp [fmSet, hwords, fmPut]
  rw [pieceDue, planDue_eq (State.setPlan_same _ _ _)]
  simp only [hdue, onlyDue]
  rw [show fmGet 0 ([] : FMap Nat) r.index = 0 from rfl, hset]

/-- The only piece of a plan's results is written, and its chunk counted. -/
theorem planRun_piece {s s1 : State} {n : Nat} {q : Plan} {r m : Chunk} {pas : List (Nat × Byte × Bool)} (hq : s.plan? n = some q)
    (hres : q.results = [r]) (hdue : q.due = []) (hwords : 8 * r.words.length ≠ 0) (hgo : q.aborted = false)
    (hfault : s.faults.any (fun f => f.waiter = .plan n) = false)
    (hseal : (q.rescrew.isNone && sealHit s (q.cregs.asid.toNat % 65536) (fabBase q.resh + r.index * q.chb + r.off) (8 * r.words.length)) = false)
    (hput : fabPut s (.plan n) (portUnit (keyUnit q.key)) q.cregs q.rescrew (fabBase q.resh + r.index * q.chb + r.off) r.words = .done s1 pas)
    (hm : q.mine.find? (fun c => c.epoch = q.epoch && c.index = r.index) = some m)
    (hfree : ∀ k x, q.arrcrew = some k → m.src = some x → fabHeld s1 k x.key x.op = false) :
    ∃ u : State, u.slices = s1.slices ∧ u.mem = s1.mem ∧
      planRun s n = u.setPlan n (chunkCounted (onlyDue q r) r.index (8 * r.words.length)) := by
  have hrun : planRun s n = planCount (pieceDue s1 n q r [] pas) n := by
    simp only [planRun, hq, Option.elim_some, hres, List.length_singleton, planStep, planWrite_done hq hres hgo hfault hseal hput, if_true]
  have hwarps : (pieceDue s1 n q r [] pas).warps = s1.warps := by
    rw [pieceDue_only hdue hwords, State.setPlan_warps, State.setPlan_warps, resultClears_warps]
  have hslices : (pieceDue s1 n q r [] pas).slices = s1.slices := by
    rw [pieceDue_only hdue hwords, State.setPlan_slices, State.setPlan_slices, offCore_slices (resultClears_offCore s1 q pas)]
  have hmem : (pieceDue s1 n q r [] pas).mem = s1.mem := by
    rw [pieceDue_only hdue hwords, State.setPlan_mem, State.setPlan_mem, offCore_mem (resultClears_offCore s1 q pas)]
  have hplan : (pieceDue s1 n q r [] pas).plan? n = some (onlyDue q r) := by
    rw [pieceDue_only hdue hwords]
    exact State.setPlan_same _ _ _
  have hheld : dueHeld (pieceDue s1 n q r [] pas) (onlyDue q r) r.index = false := by
    refine dueHeld_of_free hm fun k x harr hsrc => ?_
    rw [fabHeld, issuedWaits, hwarps]
    exact hfree k x harr hsrc
  generalize pieceDue s1 n q r [] pas = t at hrun hslices hmem hplan hheld
  have hcount : planCount t n = countStep n (onlyDue q r) t (r.index, 8 * r.words.length) := by
    rw [planCount_eq hplan]
    exact if_neg (by simp [onlyDue, hgo])
  have hstep : countStep n (onlyDue q r) t (r.index, 8 * r.words.length) = (planCounted t (onlyDue q r) (8 * r.words.length)).setPlan n
      (chunkCounted (onlyDue q r) r.index (8 * r.words.length)) := by
    simp only [countStep, hheld, hplan, Bool.false_eq_true, if_false]
  have hcounted := planCounted_offCore t (onlyDue q r) (8 * r.words.length)
  exact ⟨_, (offCore_slices hcounted).trans hslices, (offCore_mem hcounted).trans hmem, (hrun.trans hcount).trans hstep⟩

theorem packetPieces_short {ws : List (BitVec 64 × Bool)} (hpos : 0 < ws.length) (hlen : ws.length ≤ 512) : packetPieces ws = [(0, ws)] := by
  have hone : (ws.length + 511) / 512 = 1 := by omega
  simp [packetPieces, hone, hlen]

/-- The sum of a node's contribution and those of its children, in their order. -/
def chunkSum (q : Plan) (ch : Nat) (m : Chunk) : List (BitVec 64 × Bool) :=
  ((List.range q.kids.length).map (childChunk q ch)).foldl (fun a k => match k with
    | some ws => chunkAdd q.fmt a ws
    | none => a) m.words

section Combine
variable {s : State} {n ch : Nat} {q : Plan} {m : Chunk} (hq : s.plan? n = some q) (hgo : q.aborted = false) (hch : ch ∉ q.combined)
  (hm : q.mine.find? (fun c => c.epoch = q.epoch && c.index = ch) = some m) (hkids : ∀ i, i < q.kids.length → (childChunk q ch i).isSome = true)

include hgo hch hkids in
/-- Nothing stands in the way of the sum. -/
theorem combineChunk_open : ¬ (q.aborted || q.combined.contains ch || ((List.range q.kids.length).map (fun i => childChunk q ch i)).any
    (fun k => k.isNone)) = true := by
  have hall : ((List.range q.kids.length).map (fun i => childChunk q ch i)).any (fun k => k.isNone) = false := by
    rw [List.any_eq_false]
    intro k hk
    obtain ⟨i, hi, rfl⟩ := List.mem_map.mp hk
    rw [Bool.not_eq_true, Option.isNone_eq_false_iff]
    exact hkids i (List.mem_range.mp hi)
  simp [hgo, hch, hall]

include hq hgo hch hm hkids

/-- Below the root a summed chunk goes to the parent. -/
theorem combineChunk_up {up : Nat} (hup : q.parent = some up) : combineChunk s n ch = (packetPieces (chunkSum q ch m)).foldl (fun s p =>
    sendPacket s q.cregs (connOf q.ctx up) none none (.chunk q.planId q.op q.fmt q.nch q.chb q.epoch ch p.1 p.2))
      (s.setPlan n { q with combined := q.combined ++ [ch], awaiting := q.awaiting ++ [ch] }) := by
  simp only [combineChunk, hq, hm, if_neg (combineChunk_open hgo hch hkids), hup]
  rfl

/-- At the root it becomes a result, which under OP 2 goes to the children. -/
theorem combineChunk_root (hroot : q.parent = none) : combineChunk s n ch = planRun (if q.op = 2 then q.kids.foldl (fun s k =>
    (packetPieces (chunkSum q ch m)).foldl (fun s p =>
      sendPacket s q.cregs (connOf q.ctx k) none none (.result q.planId q.op q.fmt q.nch q.chb q.epoch ch p.1 p.2)) s)
      (s.setPlan n { q with combined := q.combined ++ [ch], results := q.results ++ (packetPieces (chunkSum q ch m)).map (fun p =>
        { epoch := q.epoch, index := ch, off := p.1, child := 0, src := m.src, words := p.2 }) })
    else s.setPlan n { q with combined := q.combined ++ [ch], results := q.results ++ (packetPieces (chunkSum q ch m)).map (fun p =>
        { epoch := q.epoch, index := ch, off := p.1, child := 0, src := m.src, words := p.2 }) }) n := by
  simp only [combineChunk, hq, hm, if_neg (combineChunk_open hgo hch hkids), hroot]
  rfl

end Combine

end Sys2Proof.Machine

namespace Sys2Proof.Proofs
open Sys2Proof Sys2Proof.Machine

/-- Settles O50: the record and the trap of each end, and where the sum of a chunk goes. -/
theorem collectiveResults : Obligations.CollectiveResults := by
  unfold Obligations.CollectiveResults
  refine ⟨fun reason s c hfind hwhy => ?abandon, fun slot s q hq hgo => ?abort, fun slot ch s q m hq hgo hch hm hkids => ?combine⟩
  case abandon =>
    have hrun : exec (.fabricAbandon c.id reason) s = .next (fabGiveUp s c.id reason) := by
      show execFabricAbandon c.id reason s = _
      simp only [execFabricAbandon, hfind]
      refine congrArg Host.Outcome.next (if_pos ?_)
      obtain ⟨hrefused, hreason⟩ | ⟨rfl, n, hconn, hfailed⟩ | ⟨rfl, hload, hbank, hseal⟩ | ⟨rfl, k, hcrew, hgone⟩ := hwhy
      · obtain rfl | rfl := hreason <;> simp [hrefused]
      · simp [hconn, hfailed]
      · simp [hload, hbank, hseal]
      · simp [hcrew, hgone]
    obtain ⟨hpkg, hrecord, hmem⟩ := fabGiveUp_leaves hfind reason
    obtain ⟨htype, hreason, hinfo, hunit⟩ := fabRecord_spec s c c.id reason
    refine ⟨_, _, hrun, fun x hx => ?_, hrecord, htype, hreason, hinfo, hunit, hmem, fun w hw hghost hcrew htm => ?_⟩
    · rw [hpkg] at hx
      simpa using (List.mem_filter.mp hx).2
    · obtain ⟨v, cycle, hv, hfail, htrap⟩ := fabGiveUp_issuer hfind reason hw hghost hcrew htm
      exact ⟨v, _, hv, hfail, htrap, rfl, rfl, rfl, rfl⟩
  case abort =>
    obtain ⟨hpkg, hrecord, hmem, htype, hreason, hinfo⟩ := abortPlanFor_leaves hq hgo 15
    have hplan (j : Nat) : (abortPlanFor s slot 15).plan? j = (s.setPlan slot { q with aborted := true }).plan? j :=
      congrArg (fun p : Pkg => fmFind p.plans j) hpkg
    refine ⟨_, _, rfl, (hplan slot).trans (State.setPlan_same _ _ _), hrecord, htype, hreason, hinfo,
      fun j hj => (hplan j).trans (State.setPlan_ne _ _ _ _ hj), hmem, fun key w hw hghost => ?_⟩
    intro gives ⟨x, hkey, hcrew, hx⟩ htm
    obtain ⟨v, y, cycle, hy, hykey, hycrew, hv, htrap, hpend⟩ := abortPlanFor_giver hq hgo 15 hw hghost ⟨x, mem_planHeld.mpr hx, hkey, hcrew⟩
      (fun z hz hzkey hzcrew => htm z ⟨hzkey, hzcrew, mem_planHeld.mp hz⟩)
    exact ⟨v, _, y, ⟨hykey, hycrew, mem_planHeld.mp hy⟩, hv, htrap, rfl, rfl, rfl, rfl, rfl, rfl, hpend⟩
  case combine =>
    refine ⟨fun up hup => ?up, fun hroot => ?root, fun hroot hop hres hdue hpos hlen hchb hfault hseal => ?result⟩
    case up =>
      have hrun : exec (.reductionChunkCombine slot ch) s = .next _ := congrArg Host.Outcome.next (combineChunk_up hq hgo hch hm hkids hup)
      obtain ⟨hsends, hall⟩ := foldl_sendPacket q.cregs (connOf q.ctx up)
        (fun p => .chunk q.planId q.op q.fmt q.nch q.chb q.epoch ch p.1 p.2) (packetPieces (chunkSum q ch m))
        (s.setPlan slot { q with combined := q.combined ++ [ch], awaiting := q.awaiting ++ [ch] })
      exact ⟨_, _, hrun, (hsends.plan slot).trans (State.setPlan_same _ _ _), rfl, rfl, hsends.crews, hall⟩
    case root =>
      have hrun : exec (.reductionChunkCombine slot ch) s = .next _ := congrArg Host.Outcome.next (combineChunk_root hq hgo hch hm hkids hroot)
      generalize hset : s.setPlan slot { q with combined := q.combined ++ [ch], results := q.results ++ (packetPieces (chunkSum q ch m)).map (fun p =>
        ({ epoch := q.epoch, index := ch, off := p.1, child := 0, src := m.src, words := p.2 } : Chunk)) } = u at hrun
      have hplan : (u.plan? slot).map Plan.combined = some (q.combined ++ [ch]) := by
        rw [← hset, State.setPlan_same]
        rfl
      obtain ⟨hsends, hall⟩ := foldl_foldl_sendPacket q.cregs q.ctx (fun p => .result q.planId q.op q.fmt q.nch q.chb q.epoch ch p.1 p.2)
        (packetPieces (chunkSum q ch m)) q.kids u
      by_cases hop : q.op = 2
      · rw [if_pos hop] at hrun
        have hkept := planRun_kept (q.kids.foldl (fun s k => (packetPieces (chunkSum q ch m)).foldl (fun s p =>
          sendPacket s q.cregs (connOf q.ctx k) none none (.result q.planId q.op q.fmt q.nch q.chb q.epoch ch p.1 p.2)) s) u) slot
        obtain ⟨hconns, hcombined⟩ := Prod.ext_iff.mp hkept
        obtain ⟨v, hv, hch'⟩ := Option.map_eq_some_iff.mp (hcombined.trans ((congrArg (Option.map Plan.combined) (hsends.plan slot)).trans hplan))
        refine ⟨_, v, hrun, hv, hch', fun _ k hk x hx => ?_⟩
        obtain ⟨p, hp, hbody⟩ := hall k hk x hx
        exact ⟨p, (congrArg (fun m => (fmGet Conn.start m (connOf q.ctx k)).unacked) hconns : _ = _) ▸ hp, hbody⟩
      · rw [if_neg hop] at hrun
        obtain ⟨-, hcombined⟩ := Prod.ext_iff.mp (planRun_kept u slot)
        obtain ⟨v, hv, hch'⟩ := Option.map_eq_some_iff.mp (hcombined.trans hplan)
        exact ⟨_, v, hrun, hv, hch', fun h => absurd h hop⟩
    case result =>
      intro piece s1 pas hput hfree
      have hrun : exec (.reductionChunkCombine slot ch) s = .next _ := congrArg Host.Outcome.next (combineChunk_root hq hgo hch hm hkids hroot)
      have hpieces : q.results ++ (packetPieces (chunkSum q ch m)).map (fun p =>
          ({ epoch := q.epoch, index := ch, off := p.1, child := 0, src := m.src, words := p.2 } : Chunk)) = [piece] := by
        rw [hres, packetPieces_short (ws := chunkSum q ch m) hpos hlen]
        rfl
      rw [if_neg hop, hpieces] at hrun
      have hwords : 8 * piece.words.length = q.chb := hchb
      have hsealed : (q.rescrew.isNone && sealHit s (q.cregs.asid.toNat % 65536) (fabBase q.resh + ch * q.chb) (8 * piece.words.length)) = false := by
        cases hcrew : q.rescrew with
        | none => exact hseal hcrew
        | some k => rfl
      obtain ⟨u, hslices, hmem, hpiece⟩ := planRun_piece (n := slot) (m := m) (r := piece)
        (q := { q with combined := q.combined ++ [ch], results := [piece] })
        (s := s.setPlan slot { q with combined := q.combined ++ [ch], results := [piece] }) (State.setPlan_same _ _ _) rfl hdue (by omega) hgo hfault
        hsealed hput hm hfree
      rw [hpiece] at hrun
      refine ⟨_, _, hrun, State.setPlan_same _ _ _, ?_, rfl, hslices, hmem⟩
      rw [chunkCounted, if_pos (by rw [hwords]; exact Nat.le_add_left _ _)]
      exact List.mem_eraseDups.mpr (List.mem_append_right _ (List.mem_singleton.mpr rfl))

end Sys2Proof.Proofs
end

section
/-! PROOF. Packets, markers, acknowledgements and failures of a connection (17_fabric.md R444-R454). -/

namespace Sys2Proof.Machine

/-! ## Gathered markers (R454) -/

/-- Every marker of a limit, and every packet below it, has arrived. -/
def MarkerWhole (k : Conn) (m : Marker) : Prop :=
  (∀ p, p < 64 → m.paths.testBit p = true → ∃ x ∈ k.markers, x.path = p ∧ x.limit = m.limit) ∧ ∀ i, i < m.limit → i ∈ k.seen

/-- The test of the port engines for it. -/
def markerDone (k : Conn) (m : Marker) : Bool :=
  (List.range 64).all (fun p => !m.paths.testBit p || k.markers.any (fun x => x.path = p && x.limit = m.limit))
    && (List.range m.limit).all (fun i => k.seen.contains i)

theorem markerDone_iff {k : Conn} {m : Marker} : markerDone k m = true ↔ MarkerWhole k m := by
  simp only [markerDone, MarkerWhole, Bool.and_eq_true, List.all_eq_true, List.mem_range, Bool.or_eq_true, Bool.not_eq_true', List.any_eq_true,
    decide_eq_true_eq, List.contains_eq_mem]
  refine and_congr_left fun _ => forall₂_congr fun p _ => ?_
  cases m.paths.testBit p <;> simp

theorem gatherMarkers_eq (k : Conn) : gatherMarkers k = { k with
    markers := k.markers.filter (fun m => !markerDone k m)
    gathered := (k.gathered ++ (k.markers.filter (markerDone k)).map (fun m => m.limit)).eraseDups } := rfl

/-- Limits that are complete are gathered, and their markers leave; nothing else of the connection changes. -/
theorem gatherMarkers_spec (k : Conn) : { gatherMarkers k with markers := [], gathered := [] } = { k with markers := [], gathered := [] } ∧
    (∀ m ∈ k.markers, (MarkerWhole k m → m.limit ∈ (gatherMarkers k).gathered ∧ m ∉ (gatherMarkers k).markers) ∧
      (¬ MarkerWhole k m → m ∈ (gatherMarkers k).markers)) ∧
    ∀ l, l ∈ (gatherMarkers k).gathered ↔ l ∈ k.gathered ∨ ∃ m ∈ k.markers, MarkerWhole k m ∧ m.limit = l := by
  have hgathered (l : Nat) : l ∈ (gatherMarkers k).gathered ↔ l ∈ k.gathered ∨ ∃ m ∈ k.markers, MarkerWhole k m ∧ m.limit = l := by
    rw [gatherMarkers_eq]
    simp only [List.mem_eraseDups, List.mem_append, List.mem_map, List.mem_filter, markerDone_iff, and_assoc]
  refine ⟨rfl, fun m hm => ⟨fun hwhole => ⟨(hgathered _).mpr (.inr ⟨m, hm, hwhole, rfl⟩), fun hleft => ?_⟩, fun hopen => ?_⟩, hgathered⟩
  · rw [gatherMarkers_eq] at hleft
    simpa [markerDone_iff.mpr hwhole] using (List.mem_filter.mp hleft).2
  · rw [gatherMarkers_eq]
    exact List.mem_filter.mpr ⟨hm, by simpa [← markerDone_iff] using hopen⟩

/-! ## Packets that arrive (R444, R448) -/

theorem answerPacket_conn (s : State) (conn psn : Nat) (ok : Bool) : (answerPacket s conn psn ok).conn conn = gatherMarkers { s.conn conn with
    seen := (s.conn conn).seen ++ [psn], nacked := if ok then (s.conn conn).nacked else (s.conn conn).nacked ++ [psn] } :=
  State.modConn_same _ _ _

/-- What is left of a packet whose body is applied, rejected, refused or waits. -/
def recvEnd (s s1 : State) (cr : CtxRegs) (pk : Packet) : Recv → Option State
  | .applied s2 => some (answerPacket s2 pk.conn pk.psn true)
  | .rejected => some (answerPacket s1 pk.conn pk.psn false)
  | .refused => some s
  | .wait v => some (v.waits ⟨portUnit 0, cr, .receive pk.conn pk.psn⟩ (s.modPkg (fun p => { p with inbox := p.inbox ++ [pk] })))
  | .fault _ _ _ _ => none

section Packet
variable {pk : Packet} {s : State} (hfailed : (s.conn pk.conn).failed = false) (hnew : pk.psn ∉ (s.conn pk.conn).seen)
  (honce : s.pkg.inbox.any (fun x => x.conn = pk.conn && x.psn = pk.psn) = false)
  (hfault : s.faults.any (fun f => f.waiter = .receive pk.conn pk.psn) = false)
include hfailed hnew honce hfault

/-- A packet of a context that is not open. -/
theorem receivePacket_closed (hclosed : ¬ (6 ≤ s.pkg.boot.stage ∧ pk.ctx < s.pkg.ctxn ∧ pk.conn / 4096 = pk.ctx)) :
    receivePacket s pk = answerPacket s pk.conn pk.psn false := by
  unfold receivePacket
  rw [if_neg (by simp [hfailed, hnew, honce]), if_neg (by rw [hfault]; decide)]
  exact if_pos (by simp only [Bool.or_eq_true, decide_eq_true_eq, bne_iff_ne]; omega)

variable (hopen : 6 ≤ s.pkg.boot.stage ∧ pk.ctx < s.pkg.ctxn ∧ pk.conn / 4096 = pk.ctx) {s1 : State} {cr : CtxRegs}
  (hdesc : readDesc s (portsOf 0) pk.ctx = (s1, cr))
include hopen hdesc

/-- A packet of another job, or of a context whose descriptor is uncorrectable. -/
theorem receivePacket_foreign (hforeign : jobOf cr ≠ pk.job ∨ (descWords s pk.ctx).2.2 = true) :
    receivePacket s pk = answerPacket s1 pk.conn pk.psn false := by
  unfold receivePacket
  rw [if_neg (by simp [hfailed, hnew, honce]), if_neg (by rw [hfault]; decide), if_neg (by simp; omega), hdesc]
  exact if_pos (by simpa using hforeign)

variable (hours : jobOf cr = pk.job) (hmarked : (descWords s pk.ctx).2.2 = false)
include hours hmarked

/-- A packet of the context ends as its body does. -/
theorem receivePacket_ours {t : State} (hend : recvEnd s s1 cr pk (recvBody s1 cr pk) = some t) : receivePacket s pk = t := by
  unfold receivePacket
  rw [if_neg (by simp [hfailed, hnew, honce]), if_neg (by rw [hfault]; decide), if_neg (by simp; omega), hdesc]
  simp only [hours, bne_self_eq_false, hmarked, Bool.or_self, Bool.false_eq_true, if_false]
  generalize recvBody s1 cr pk = r at hend ⊢
  cases r with
  | fault => exact absurd hend (Option.some_ne_none t).symm
  | applied | rejected | refused | wait => exact Option.some.inj hend

end Packet

/-! ## Acknowledgements (R450, R452, R453) -/

theorem chunkAcked_conns (s : State) (ctx planId epoch ch : Nat) : (chunkAcked s ctx planId epoch ch).pkg.conns = s.pkg.conns := by
  unfold chunkAcked
  split
  · rfl
  · next n q _ =>
    dsimp only
    split_ifs
    · rfl
    · refine (congrArg Prod.fst (planCount_kept _ n) :).trans ?_
      rw [planDue_eq (State.setPlan_same _ _ _)]
      rfl

theorem packetAcked_conns (s : State) (conn : Nat) (p : FPacket) : (packetAcked s conn p).pkg.conns = s.pkg.conns := by
  have hsnap : ∀ u : State, u.pkg.conns = s.pkg.conns → (match p.body with
      | .chunk planId _ _ _ _ epoch ch _ _ => chunkAcked u (conn / 4096) planId epoch ch
      | _ => u).pkg.conns = s.pkg.conns := by
    intro u hu
    split
    · exact (chunkAcked_conns u _ _ _ _).trans hu
    · exact hu
  unfold packetAcked
  dsimp only
  refine hsnap _ ?_
  split
  · split_ifs
    · exact (congrArg (fun s : State => s.pkg.conns) (snapCount_offCore _ _ _) : _ = _)
    · rfl
  · rfl

theorem fabClean_conns (s : State) (id : Nat) : (fabClean s id).pkg.conns = s.pkg.conns := by
  unfold fabClean
  split_ifs <;> rfl

theorem fabClean_fabric {s : State} {id : Nat} {c : FabCmd} (hc : c ∈ (fabClean s id).pkg.fabric) : c ∈ s.pkg.fabric := by
  unfold fabClean at hc
  split_ifs at hc
  · exact hc
  · exact (List.mem_filter.mp hc).1

theorem foldl_fabClean_fabric {l : List Nat} {s : State} {c : FabCmd} (hc : c ∈ (l.foldl fabClean s).pkg.fabric) : c ∈ s.pkg.fabric := by
  induction l generalizing s with
  | nil => exact hc
  | cons id l ih => exact fabClean_fabric (ih hc)

theorem snapGiveUp_pkg (s : State) (id unit reason : Nat) : (snapGiveUp s id unit reason).pkg = s.pkg := by
  cases hactive : (s.snap id).active with
  | true => exact (offIssuer_pkg (snapGiveUp_offIssuer hactive unit reason)).trans rfl
  | false => simp [snapGiveUp, hactive]

/-- A connection after an acknowledgement, with the paths that are live. -/
def ackConn (a : Ack) (now : Nat) (live : List Nat) (k : Conn) : Conn :=
  { k with
    unacked := (k.unacked.filter (fun p => !(a.psns.contains p.psn || a.rejected.contains p.psn))).map (fun p =>
      if a.gaps.contains p.psn && !live.isEmpty then { p with path := live.getD ((p.path + 1) % live.length) 0 } else p)
    timeouts := k.timeouts.filter (fun t => t.1 != a.path)
    heard := now
    flying := k.flying.filter (fun m => !a.gathered.any (fun l => m.limit ≤ l))
    released := match a.gathered with
      | some l => (k.released ++ [l]).eraseDups
      | none => k.released }

/-- The commands of rejected packets. -/
def rejectedCmds (a : Ack) (k : Conn) : List Nat := (k.unacked.filter (fun p => a.rejected.contains p.psn)).filterMap (fun p => p.cmd)

/-- The connection that is acknowledged, with its peer's paths read. -/
def ackHeard (s : State) (a : Ack) : State :=
  let desc := readDesc s (portsOf 0) (a.conn / 4096)
  let paths := peerPaths desc.1 desc.2 a.conn
  paths.1.modConn a.conn (ackConn a s.cycle (livePaths (s.conn a.conn) paths.2))

/-- The commands of rejected packets marked, once those of acknowledged ones have done their part. -/
def ackMarked (s : State) (a : Ack) : State :=
  (((s.conn a.conn).unacked.filter (fun p => a.psns.contains p.psn)).foldl (fun s p => packetAcked s a.conn p) (ackHeard s a)).modPkg (fun p => { p with
    fabric := p.fabric.map (fun c => if (rejectedCmds a (s.conn a.conn)).contains c.id then { c with refused := true } else c) })

theorem execAcknowledgementArrival_eq {s : State} {a : Ack} (hfailed : (s.conn a.conn).failed = false) : exec (.acknowledgementArrival a) s = .next
    (((((s.conn a.conn).unacked.filter (fun p => a.rejected.contains p.psn)).filterMap (fun p => p.snap)).map (fun x => x.1)).eraseDups.foldl
      (fun s id => snapGiveUp s id (drainUnit (s.snap id)) 10)
      (((((s.conn a.conn).unacked.filter (fun p => a.psns.contains p.psn)).filterMap (fun p => p.cmd)).eraseDups).foldl fabClean (ackMarked s a))) := by
  show execAcknowledgementArrival a s = _
  simp only [execAcknowledgementArrival, hfailed, Bool.false_eq_true, if_false]
  rfl

theorem readPaths_offTables (s : State) (unit ctx conn : Nat) :
    (peerPaths (readDesc s unit ctx).1 (readDesc s unit ctx).2 conn).1.offTables = s.offTables :=
  (peerPaths_offTables _ _ _).trans (readDesc_offTables s unit ctx)

theorem offTables_conn {s t : State} (h : t.offTables = s.offTables) (c : Nat) : t.conn c = s.conn c :=
  (congrArg (fun p : Pkg => fmGet Conn.start p.conns c) (offTables_pkg h) :)

theorem ackHeard_conn (s : State) (a : Ack) : ∃ live, (ackHeard s a).conn a.conn = ackConn a s.cycle live (s.conn a.conn) := by
  have hread := readPaths_offTables s (portsOf 0) (a.conn / 4096) a.conn
  unfold ackHeard
  dsimp only
  generalize peerPaths (readDesc s (portsOf 0) (a.conn / 4096)).1 _ a.conn = r at hread ⊢
  exact ⟨_, (State.modConn_same _ _ _).trans (congrArg (ackConn a s.cycle _) (offTables_conn hread a.conn))⟩

/-- What an acknowledgement leaves of its connection and of the commands of rejected packets. -/
theorem acknowledgement_spec {s : State} {a : Ack} (hfailed : (s.conn a.conn).failed = false) :
    ∃ t live, exec (.acknowledgementArrival a) s = .next t ∧ t.conn a.conn = ackConn a s.cycle live (s.conn a.conn) ∧
      ∀ x ∈ t.pkg.fabric, x.id ∈ rejectedCmds a (s.conn a.conn) → x.refused = true := by
  obtain ⟨live, hheard⟩ := ackHeard_conn s a
  refine ⟨_, live, execAcknowledgementArrival_eq hfailed, ?_⟩
  generalize (((s.conn a.conn).unacked.filter (fun p => a.rejected.contains p.psn)).filterMap (fun p => p.snap)).map (fun x => x.1) = snaps
  generalize ((s.conn a.conn).unacked.filter (fun p => a.psns.contains p.psn)).filterMap (fun p => p.cmd) = cmds
  have hgiven := foldl_keeps State.pkg (l := snaps.eraseDups) (f := fun s id => snapGiveUp s id (drainUnit (s.snap id)) 10)
    (fun t id _ => snapGiveUp_pkg t id _ 10) (cmds.eraseDups.foldl fabClean (ackMarked s a))
  have hcleaned := foldl_keeps (fun s : State => s.pkg.conns) (l := cmds.eraseDups) (f := fabClean) (fun t id _ => fabClean_conns t id) (ackMarked s a)
  have hacked := foldl_keeps (fun s : State => s.pkg.conns) (l := (s.conn a.conn).unacked.filter (fun p => a.psns.contains p.psn))
    (f := fun s p => packetAcked s a.conn p) (fun t p _ => packetAcked_conns t a.conn p) (ackHeard s a)
  constructor
  · have hconns := (congrArg Pkg.conns hgiven).trans (hcleaned.trans hacked)
    exact (congrArg (fun m => fmGet Conn.start m a.conn) hconns).trans hheard
  · intro x hx hid
    rw [hgiven] at hx
    obtain ⟨c, -, rfl⟩ := List.mem_map.mp (foldl_fabClean_fabric hx)
    split_ifs at hid ⊢ with h
    · rfl
    · exact absurd (List.contains_iff_mem.mpr hid) h

/-! ## Timeouts (R444) -/

/-- How many timeouts in a row a path has had, with this one. -/
def timeoutCount (path : Nat) (k : Conn) : Nat := (k.timeouts.find? (fun t => t.1 = path)).elim 0 (fun t => t.2) + 1

/-- The paths that are dead after a timeout of one. -/
def deadAfter (path : Nat) (k : Conn) : List Nat := if 8 ≤ timeoutCount path k then (k.dead ++ [path]).eraseDups else k.dead

/-- The paths, of so many, that are not dead. -/
def livesOf (dead : List Nat) (paths : Nat) : List Nat := (List.range paths).filter (fun p => !dead.contains p)

/-- The path that what was in flight on another one goes to. -/
def nextPath (path : Nat) (live : List Nat) : Nat := live.getD ((path + 1) % live.length) 0

def movedPacket (path : Nat) (live : List Nat) (p : FPacket) : FPacket :=
  if p.path = path && !live.isEmpty then { p with path := nextPath path live } else p
def movedMarker (path : Nat) (live : List Nat) (m : Marker) : Marker :=
  if m.via = path && !live.isEmpty then { m with via := nextPath path live } else m

/-- A connection after a timeout of a path, with the number of its paths. -/
def timedConn (path paths : Nat) (k : Conn) : Conn :=
  { k with timeouts := k.timeouts.filter (fun t => t.1 != path) ++ [(path, timeoutCount path k)], dead := deadAfter path k
           flying := k.flying.map (movedMarker path (livesOf (deadAfter path k) paths))
           unacked := k.unacked.map (movedPacket path (livesOf (deadAfter path k) paths)) }

theorem execRetransmissionTimeout_conn (conn path : Nat) (s : State) : ∃ t, exec (.retransmissionTimeout conn path) s = .next t ∧
    t.conn conn = timedConn path (peerPaths (readDesc s (portsOf 0) (conn / 4096)).1 (readDesc s (portsOf 0) (conn / 4096)).2 conn).2 (s.conn conn) := by
  have hread := readPaths_offTables s (portsOf 0) (conn / 4096) conn
  refine ⟨_, rfl, ?_⟩
  dsimp only
  generalize peerPaths (readDesc s (portsOf 0) (conn / 4096)).1 _ conn = r at hread ⊢
  exact (State.modConn_same _ _ _).trans (congrArg (timedConn path _) (offTables_conn hread conn))

/-- What goes on to another path goes to one that is not dead. -/
theorem nextPath_live {dead : List Nat} {paths path : Nat} (hlive : (livesOf dead paths).isEmpty = false) : nextPath path (livesOf dead paths) ∉ dead := by
  have hpos : 0 < (livesOf dead paths).length := List.length_pos_iff.mpr (List.isEmpty_eq_false_iff.mp hlive)
  rw [nextPath, List.getD_eq_getElem _ _ (Nat.mod_lt _ hpos)]
  simpa using (List.mem_filter.mp (List.getElem_mem (Nat.mod_lt (path + 1) hpos))).2

theorem movedPacket_kept (path : Nat) (live : List Nat) (p : FPacket) : (movedPacket path live p).psn = p.psn ∧ (movedPacket path live p).body = p.body := by
  unfold movedPacket
  split_ifs <;> exact ⟨rfl, rfl⟩

theorem movedMarker_kept (path : Nat) (live : List Nat) (m : Marker) : (movedMarker path live m).path = m.path ∧
    (movedMarker path live m).limit = m.limit ∧ (movedMarker path live m).paths = m.paths := by
  unfold movedMarker
  split_ifs <;> exact ⟨rfl, rfl, rfl⟩

/-- Which paths are dead after a timeout of one. -/
theorem mem_deadAfter {path p : Nat} {k : Conn} : p ∈ deadAfter path k ↔ p ∈ k.dead ∨ (p = path ∧ 8 ≤ timeoutCount path k) := by
  unfold deadAfter
  split_ifs with h
  · simp [h]
  · simp [h]

section Moves
variable {dead : List Nat} {path paths : Nat} (hdead : path ∈ dead) (hlive : (livesOf dead paths).isEmpty = false)
include hdead hlive

theorem movedPacket_path (p : FPacket) : (movedPacket path (livesOf dead paths) p).path ≠ path := by
  unfold movedPacket
  split_ifs with h
  · exact fun heq => nextPath_live hlive (heq.symm ▸ hdead)
  · exact fun heq => h (by rw [heq, hlive]; simp)

theorem movedMarker_via (m : Marker) : (movedMarker path (livesOf dead paths) m).via ≠ path := by
  unfold movedMarker
  split_ifs with h
  · exact fun heq => nextPath_live hlive (heq.symm ▸ hdead)
  · exact fun heq => h (by rw [heq, hlive]; simp)

end Moves

theorem livesOf_nonempty {dead : List Nat} {paths : Nat} (h : ∃ p, p < paths ∧ p ∉ dead) : (livesOf dead paths).isEmpty = false := by
  obtain ⟨p, hp, hout⟩ := h
  exact List.isEmpty_eq_false_iff.mpr (List.ne_nil_of_mem (List.mem_filter.mpr ⟨List.mem_range.mpr hp, by simpa using hout⟩))

/-! ## The failure of a connection (R444, R452, R460) -/

theorem fabGiveUp_none {s : State} {id : Nat} (hfind : s.pkg.fabric.find? (fun x => x.id = id) = none) (reason : Nat) : fabGiveUp s id reason = s := by
  simp only [fabGiveUp, hfind]

/-- An abandoned command is in the list no more, and nothing else comes into it. -/
theorem fabGiveUp_fabric {s : State} {id reason : Nat} {c : FabCmd} (hc : c ∈ (fabGiveUp s id reason).pkg.fabric) : c ∈ s.pkg.fabric ∧ c.id ≠ id := by
  cases hfind : s.pkg.fabric.find? (fun x => x.id = id) with
  | none =>
    rw [fabGiveUp_none hfind] at hc
    exact ⟨hc, by simpa using List.find?_eq_none.mp hfind c hc⟩
  | some d =>
    rw [(fabGiveUp_leaves hfind reason).1] at hc
    obtain ⟨hc, hid⟩ := List.mem_filter.mp hc
    exact ⟨hc, by simpa using hid⟩

theorem foldl_fabGiveUp_fabric {l : List Nat} {reason : Nat} {s : State} {c : FabCmd} (hc : c ∈ (l.foldl (fun s id => fabGiveUp s id reason) s).pkg.fabric) :
    c ∈ s.pkg.fabric ∧ c.id ∉ l := by
  induction l generalizing s with
  | nil => exact ⟨hc, List.not_mem_nil⟩
  | cons id l ih =>
    obtain ⟨hc, hl⟩ := ih hc
    obtain ⟨hc, hid⟩ := fabGiveUp_fabric hc
    exact ⟨hc, fun h => (List.mem_cons.mp h).elim hid hl⟩

/-- A connection without the packets of a command. -/
def connFreed (id : Nat) (k : Conn) : Conn := { k with unacked := k.unacked.filter (fun p => p.cmd != some id) }

theorem fabGiveUp_failed (s : State) (id reason conn : Nat) : ((fabGiveUp s id reason).conn conn).failed = (s.conn conn).failed := by
  cases hfind : s.pkg.fabric.find? (fun x => x.id = id) with
  | none => rw [fabGiveUp_none hfind]
  | some d =>
    have hconns : (fabGiveUp s id reason).pkg.conns = s.pkg.conns.map (fun e => (e.1, connFreed id e.2)) :=
      congrArg Pkg.conns (fabGiveUp_leaves hfind reason).1
    rw [State.conn, State.conn, hconns, fmGet, fmGet, fmFind_map]
    cases fmFind s.pkg.conns conn <;> rfl

theorem abortPlan_fabric (s : State) (n : Nat) : (abortPlan s n).pkg.fabric = s.pkg.fabric ∧ (abortPlan s n).pkg.conns = s.pkg.conns := by
  cases hq : s.plan? n with
  | none => simp only [abortPlan, abortPlanFor, hq, and_self]
  | some q =>
    cases hgo : q.aborted with
    | true => simp only [abortPlan, abortPlanFor, hq, hgo, if_true, and_self]
    | false =>
      have hpkg := (abortPlanFor_leaves hq hgo 15).1
      exact ⟨(congrArg Pkg.fabric hpkg :), (congrArg Pkg.conns hpkg :)⟩

/-- A connection that fails is marked, and takes its commands with it. -/
theorem failConn_spec {s : State} {conn : Nat} (hfailed : (s.conn conn).failed = false) : ((failConn s conn).conn conn).failed = true ∧
    ∀ c ∈ (failConn s conn).pkg.fabric, c.conn ≠ some conn := by
  unfold failConn
  rw [if_neg (by simp [hfailed])]
  dsimp only
  generalize hs1 : s.modConn conn (fun k => { k with failed := true }) = s1
  generalize (_ ++ _ : List Nat) = snaps
  have h1 : (s1.conn conn).failed = true := by rw [← hs1, State.modConn_same]
  generalize hs2 : ((s1.pkg.fabric.filter (fun c => c.conn = some conn)).map (fun c => c.id)).foldl (fun s id => fabGiveUp s id 12) s1 = s2
  have h2 : (s2.conn conn).failed = true ∧ ∀ c ∈ s2.pkg.fabric, c.conn ≠ some conn := by
    subst hs2
    refine ⟨(foldl_keeps (fun s : State => (s.conn conn).failed) (fun t id _ => fabGiveUp_failed t id 12 conn) s1).trans h1, fun c hc hconn => ?_⟩
    obtain ⟨hc, hid⟩ := foldl_fabGiveUp_fabric hc
    exact hid (List.mem_map.mpr ⟨c, List.mem_filter.mpr ⟨hc, by simpa using hconn⟩, rfl⟩)
  have h3 := foldl_keeps State.pkg (l := snaps.eraseDups) (f := fun s id => snapGiveUp s id (drainUnit (s.snap id)) 11) (fun t id _ => snapGiveUp_pkg t id _ 11) s2
  generalize snaps.eraseDups.foldl (fun s id => snapGiveUp s id (drainUnit (s.snap id)) 11) s2 = s3 at h3 ⊢
  have habort (l : List Nat) : (l.foldl abortPlan s3).pkg.fabric = s3.pkg.fabric ∧ (l.foldl abortPlan s3).pkg.conns = s3.pkg.conns :=
    ⟨foldl_keeps (fun s : State => s.pkg.fabric) (fun t n _ => (abortPlan_fabric t n).1) s3,
      foldl_keeps (fun s : State => s.pkg.conns) (fun t n _ => (abortPlan_fabric t n).2) s3⟩
  rw [State.conn, (habort _).1, (habort _).2, h3]
  exact h2

/-- The connection of an acknowledgement: what it answers is gone, what it does not is left. -/
theorem ackConn_unacked (a : Ack) (now : Nat) (live : List Nat) (k : Conn) :
    (∀ p ∈ (ackConn a now live k).unacked, p.psn ∉ a.psns ∧ p.psn ∉ a.rejected) ∧
    ∀ p ∈ k.unacked, p.psn ∉ a.psns → p.psn ∉ a.rejected → ∃ q ∈ (ackConn a now live k).unacked, q.psn = p.psn ∧ q.body = p.body ∧ q.cmd = p.cmd := by
  constructor
  · intro p hp
    obtain ⟨q, hq, rfl⟩ := List.mem_map.mp hp
    have hq' : q.psn ∉ a.psns ∧ q.psn ∉ a.rejected := by simpa using (List.mem_filter.mp hq).2
    split_ifs
    · exact hq'
    · exact hq'
  · intro p hp hpsns hrejected
    refine ⟨_, List.mem_map_of_mem (List.mem_filter.mpr ⟨hp, by simp [hpsns, hrejected]⟩), ?_⟩
    split_ifs
    · exact ⟨rfl, rfl, rfl⟩
    · exact ⟨rfl, rfl, rfl⟩

theorem ackConn_gathered {a : Ack} {l : Nat} (hl : a.gathered = some l) (now : Nat) (live : List Nat) (k : Conn) :
    l ∈ (ackConn a now live k).released ∧ ∀ m ∈ (ackConn a now live k).flying, l < m.limit := by
  simp [ackConn, hl]

theorem ackConn_released {l : Nat} {k : Conn} (hl : l ∈ k.released) (a : Ack) (now : Nat) (live : List Nat) : l ∈ (ackConn a now live k).released := by
  unfold ackConn
  dsimp only
  split
  · exact List.mem_eraseDups.mpr (List.mem_append_left _ hl)
  · exact hl

end Sys2Proof.Machine

namespace Sys2Proof.Proofs
open Sys2Proof Sys2Proof.Machine

/-- Settles O49: a packet by the end of its body, and what each of the other events leaves of its connection. -/
theorem connectionResults : Obligations.ConnectionResults := by
  unfold Obligations.ConnectionResults
  intro gathers
  refine ⟨fun pk s => ?receive, fun conn path limit s => ?marker, fun a s hfailed => ?acknowledged, fun conn path s => ?timeout, fun conn s => ?failure⟩
  case receive =>
    dsimp only
    have hread := readDesc_offTables s (portsOf 0) pk.ctx
    generalize hdesc : readDesc s (portsOf 0) pk.ctx = desc at hread ⊢
    obtain ⟨s1, cr⟩ := desc
    have hconn := offTables_conn hread pk.conn
    refine ⟨fun h => ?discarded, fun ⟨hfailed, hnew, honce, hfault⟩ hclosed => ?closed, fun ⟨hfailed, hnew, honce, hfault⟩ hopen hforeign => ?foreign,
      fun ⟨⟨hfailed, hnew, honce, hfault⟩, hopen, hjob, hmarked⟩ s2 hbody => ?applied, fun ⟨⟨hfailed, hnew, honce, hfault⟩, hopen, hjob, hmarked⟩ hbody =>
        ?rejected,
      fun ⟨⟨hfailed, hnew, honce, hfault⟩, hopen, hjob, hmarked⟩ hbody => ?refused,
      fun ⟨⟨hfailed, hnew, honce, hfault⟩, hopen, hjob, hmarked⟩ v hbody => ?waits⟩
    case discarded =>
      refine congrArg Host.Outcome.next (if_pos ?_)
      obtain h | h | h := h
      · simp [show (s.conn pk.conn).failed = true from h]
      · simp [show pk.psn ∈ (s.conn pk.conn).seen from h]
      · rw [show (s.pkg.inbox.any fun x => decide (x.conn = pk.conn) && decide (x.psn = pk.psn)) = true from h, Bool.or_true]
    case closed =>
      refine ⟨_, congrArg Host.Outcome.next (receivePacket_closed hfailed hnew honce hfault hclosed), ?_, rfl⟩
      rw [answerPacket_conn]
      exact gatherMarkers_spec _
    case foreign =>
      refine ⟨_, congrArg Host.Outcome.next (receivePacket_foreign hfailed hnew honce hfault hopen hdesc hforeign), ?_, rfl⟩
      rw [answerPacket_conn, hconn]
      exact gatherMarkers_spec _
    case applied =>
      refine ⟨_, congrArg Host.Outcome.next (receivePacket_ours hfailed hnew honce hfault hopen hdesc hjob hmarked (congrArg _ hbody)), ?_, rfl⟩
      rw [answerPacket_conn]
      exact gatherMarkers_spec _
    case rejected =>
      refine ⟨_, congrArg Host.Outcome.next (receivePacket_ours hfailed hnew honce hfault hopen hdesc hjob hmarked (congrArg _ hbody)), ?_⟩
      rw [answerPacket_conn, hconn]
      exact gatherMarkers_spec _
    case refused => exact congrArg Host.Outcome.next (receivePacket_ours hfailed hnew honce hfault hopen hdesc hjob hmarked (congrArg _ hbody))
    case waits => exact congrArg Host.Outcome.next (receivePacket_ours hfailed hnew honce hfault hopen hdesc hjob hmarked (congrArg _ hbody))
  case marker =>
    have hconn : (s.modConn conn (fun k => if k.gathered.contains limit.psn then k else gatherMarkers { k with
        markers := (k.markers ++ [({ path := path, limit := limit.psn, paths := limit.paths, via := path } : Marker)]).eraseDups })).conn conn = _ :=
      State.modConn_same _ _ _
    refine ⟨_, rfl, fun hin => hconn.trans (if_pos (List.contains_iff_mem.mpr hin)), fun j hj => State.modConn_ne _ _ _ _ hj, fun hout =>
      ⟨((s.conn conn).markers ++ [({ path := path, limit := limit.psn, paths := limit.paths, via := path } : Marker)]).eraseDups, fun m => ?_, ?_⟩⟩
    · simp
    · rw [hconn.trans (if_neg fun h => hout (List.contains_iff_mem.mp h))]
      exact gatherMarkers_spec _
  case acknowledged =>
    obtain ⟨t, live, hrun, hconn, hrefused⟩ := acknowledgement_spec hfailed
    obtain ⟨hgone, hleft⟩ := ackConn_unacked a s.cycle live (s.conn a.conn)
    refine ⟨t, hrun, ?_⟩
    rw [hconn]
    refine ⟨rfl, hgone, hleft, fun p hp hpsn x hx hcmd => hrefused x hx ?_, fun l hl => ackConn_gathered hl _ _ _, fun l hl => ackConn_released hl _ _ _,
      fun e he => by simpa using (List.mem_filter.mp he).2⟩
    exact List.mem_filterMap.mpr ⟨p, List.mem_filter.mpr ⟨hp, List.contains_iff_mem.mpr hpsn⟩, hcmd⟩
  case timeout =>
    obtain ⟨t, hrun, hconn⟩ := execRetransmissionTimeout_conn conn path s
    refine ⟨t, hrun, ?_⟩
    rw [hconn]
    generalize (peerPaths (readDesc s (portsOf 0) (conn / 4096)).1 (readDesc s (portsOf 0) (conn / 4096)).2 conn).2 = paths
    refine ⟨List.mem_append_right _ (List.mem_singleton.mpr rfl), ?_, fun p hp => ?_, ?_, rfl, ?_, fun hdead hlive => ⟨fun p hp => ?_, fun m hm => ?_⟩⟩
    · exact mem_deadAfter.trans (or_congr_right (and_iff_right rfl))
    · exact mem_deadAfter.trans (or_iff_left fun h => hp h.1)
    · refine List.map_map.trans (List.map_congr_left fun p _ => ?_)
      exact Prod.ext (movedPacket_kept _ _ p).1 (movedPacket_kept _ _ p).2
    · refine List.map_map.trans (List.map_congr_left fun m _ => ?_)
      obtain ⟨hpath, hlimit, hpaths⟩ := movedMarker_kept path (livesOf (deadAfter path (s.conn conn)) paths) m
      exact Prod.ext hpath (Prod.ext hlimit hpaths)
    · obtain ⟨q, -, rfl⟩ := List.mem_map.mp hp
      exact movedPacket_path hdead (livesOf_nonempty hlive) q
    · obtain ⟨q, -, rfl⟩ := List.mem_map.mp hm
      exact movedMarker_via hdead (livesOf_nonempty hlive) q
  case failure =>
    refine ⟨fun hfailed hwaits hsilent => ⟨_, ?_, failConn_spec hfailed⟩, fun hcalm => congrArg Host.Outcome.next (if_pos ?_)⟩
    · exact congrArg Host.Outcome.next (if_neg (by simp [hwaits, hsilent]))
    · obtain h | h := hcalm <;> simp [h]

end Sys2Proof.Proofs
end
